-- ==== Sys2Proof/Word.lean ====
section
/-! DEFINITION. The word types of the KX-960 and the bit slice of a word read as a number (R6, R7). -/

namespace Sys2Proof

/-- One byte of memory. -/
abbrev Byte := BitVec 8
/-- A sequencer register, an address, a control register (R23). -/
abbrev Word := BitVec 64
/-- A general register, a token payload, a region constant, a memory sector: eight lanes (R7). -/
abbrev Lanes := BitVec 256

/-- Bits lo+n-1 .. lo of the number w (R6). -/
def bits (w lo n : Nat) : Nat := w / 2 ^ lo % 2 ^ n

/-- A sequencer register number. -/
abbrev XReg := Fin 32

end Sys2Proof
end

