-- ==== Sys2Proof/Syntax.lean ====
section
/-! DEFINITION. The instructions and events of the KX-960: one constructor of Instr per row of spec/opcode_table.json.
Element instructions carry their slot's fields (R68), sequencer instructions their operands (R80), events the agents or
the places in the machine's lists on which they act. -/

namespace Sys2Proof

/-- An operand selector (R69). -/
inductive Sel where
  | g (r : Fin 32) | head (c : Fin 8) | immS | immH | lane | coord | zero | k (i : Fin 16)
deriving DecidableEq, Repr

/-- The integer types (R71). -/
inductive IntTy where | i8 | i16 | i32 | i64 | n8 | n16 | n32 | n64
deriving DecidableEq, Repr
/-- The vector floating-point types FLT (R71). -/
inductive FltTy where | f64 | f32 | bf16 | f16
deriving DecidableEq, Repr
/-- .N32 or .N64: the types of CLMUL, SEL, SHUF and BCAST (R74). -/
inductive NatTy where | n32 | n64
deriving DecidableEq, Repr
/-- Every operand type but .CB4 (R71). -/
inductive Ty where
  | i8 | i16 | i32 | i64 | n8 | n16 | n32 | n64 | f64 | f32 | bf16 | f16 | e4m3 | e5m2
deriving DecidableEq, Repr
/-- The types of ACCA (R79). -/
inductive AccTy where | i32 | f64 | f32
deriving DecidableEq, Repr
/-- Rounding modes (R72). -/
inductive Rnd where | rne | rtz | rup | rdn | rsr
deriving DecidableEq, Repr
/-- Integer conditions (R74). -/
inductive Cond where | eq | ne | lt | le | gt | ge
deriving DecidableEq, Repr
/-- Floating-point conditions (R75). -/
inductive FCond where | eq | ne | lt | le | gt | ge | un | ord
deriving DecidableEq, Repr
/-- Reduction operators (R74). -/
inductive RedOp where | add | min | max | and | or | xor
deriving DecidableEq, Repr
/-- The suffix of TAGS (R137). -/
inductive TagMode where | keep | clr | set
deriving DecidableEq, Repr
/-- Shapes of LD and ST (R157). -/
inductive Shape where | blk | lane32 | pair64
deriving DecidableEq, Repr
/-- Scopes (R73). -/
inductive Scope where | ln | el | tl | cl | die | pkg | pod
deriving DecidableEq, Repr
/-- Access sizes of M format (R80). -/
inductive Sz where | b1 | b2 | b4 | b8
deriving DecidableEq, Repr
/-- Orders of M format (R80). -/
inductive Ord where | relaxed | acq | rel | ar
deriving DecidableEq, Repr

/-- The fields of an element instruction word other than OP and VAR (R68). dst none is 63, pres none is PRES[3] = 0. -/
structure EFields where
  pmask : BitVec 8
  pval : BitVec 8
  inrdy : BitVec 8
  tch : Fin 8
  tval : BitVec 4
  tmask : BitVec 4
  opa : Sel
  opb : Sel
  opc : Sel
  deq : BitVec 8
  dst : Option (Fin 32)
  omask : BitVec 8
  otag : BitVec 4
  psetm : BitVec 8
  psetv : BitVec 8
  pres : Option (Fin 8)
  imm : BitVec 16
deriving DecidableEq, Repr

/-- What an assay found (R479, R480): the fault, when lasting, by unit kind, index and address. -/
structure AssayResult where
  lasting : Bool
  funit : BitVec 8
  index : BitVec 8
  faddr : BitVec 16
deriving DecidableEq, Repr

/-- What a peer shows in a link's SPDM session (R510). -/
structure LinkPeer where
  chainOk : Bool
  fwm : BitVec 256
  pos : BitVec 8
deriving DecidableEq, Repr

/-- The firmware image that a boot ROM reads (R482): its bytes, the modulus of the key it was signed under, the signature, and the
security version number it states, whose place in the image the spec does not give; and of the units that RETCLEAR named those whose
pattern tests pass, tiles by number and banks as 2048 + their number (R516). -/
structure BootImage where
  bytes : List (BitVec 8)
  modulus : Nat
  sig : Nat
  svn : BitVec 16
  passed : List Nat
deriving DecidableEq, Repr

/-- The steps of the machine, one constructor per row of spec/opcode_table.json. -/
inductive Instr where
  /-- ELEM_NOP: Element firing that only dequeues the channels in DEQ and applies PSETM and PSETV. (R140) -/
  | elemNop (f : EFields)
  /-- ELEM_PASS: Element firing that forwards the head token of the named channel to the outputs unchanged, with UTAG set to OTAG. (R135) -/
  | elemPass (f : EFields)
  /-- ELEM_NULLT: Element firing that sends a null token on every output in OMASK. (R136) -/
  | elemNullt (f : EFields)
  /-- ELEM_TAGS: Element firing that copies its operand and keeps, clears or sets SCL on the produced tokens. (R137) -/
  | elemTags (f : EFields) (m : TagMode)
  /-- ELEM_PTST: Element firing that turns a head token, poisoned or not, into data and writes its PSN bit to a predicate. (R138) -/
  | elemPtst (f : EFields)
  /-- ELEM_PSN: Element firing that sends a poisoned token with a new INJECT origin or with an origin copied from a register or constant. (R139) -/
  | elemPsn (f : EFields)
  /-- ELEM_TRAPI: Element firing that raises a precise TRAPI trap carrying a 16-bit code. (R142) -/
  | elemTrapi (f : EFields)
  /-- ELEM_HALT: Element firing that takes its full effect and then sets the element's halted flag. (R143) -/
  | elemHalt (f : EFields)
  /-- ELEM_ADD: Element integer addition on each value position, modulo 2^w. (R123) -/
  | elemAdd (f : EFields) (t : IntTy)
  /-- ELEM_SUB: Element integer subtraction on each value position, modulo 2^w. (R123) -/
  | elemSub (f : EFields) (t : IntTy)
  /-- ELEM_MUL: Element integer multiplication giving the low w bits of each product. (R123) -/
  | elemMul (f : EFields) (t : IntTy)
  /-- ELEM_MULH: Element integer multiplication giving the high w bits of each signed or natural product. (R123) -/
  | elemMulh (f : EFields) (t : IntTy)
  /-- ELEM_MAD: Element integer multiply-add, computed exactly and then wrapped. (R123) -/
  | elemMad (f : EFields) (t : IntTy)
  /-- ELEM_MIN: Element integer minimum on each value position, signed or natural as the type states. (R123) -/
  | elemMin (f : EFields) (t : IntTy)
  /-- ELEM_MAX: Element integer maximum on each value position, signed or natural as the type states. (R123) -/
  | elemMax (f : EFields) (t : IntTy)
  /-- ELEM_ABS: Element integer absolute value on each value position. (R123) -/
  | elemAbs (f : EFields) (t : IntTy)
  /-- ELEM_AND: Element bitwise AND over all 256 bits. (R124) -/
  | elemAnd (f : EFields)
  /-- ELEM_OR: Element bitwise OR over all 256 bits. (R124) -/
  | elemOr (f : EFields)
  /-- ELEM_XOR: Element bitwise XOR over all 256 bits. (R124) -/
  | elemXor (f : EFields)
  /-- ELEM_ANDN: Element bitwise a AND NOT b over all 256 bits. (R124) -/
  | elemAndn (f : EFields)
  /-- ELEM_SHL: Element logical left shift of each value. (R125) -/
  | elemShl (f : EFields) (t : IntTy)
  /-- ELEM_SHR: Element logical right shift of each value. (R125) -/
  | elemShr (f : EFields) (t : IntTy)
  /-- ELEM_SAR: Element arithmetic right shift of each value. (R125) -/
  | elemSar (f : EFields) (t : IntTy)
  /-- ELEM_ROT: Element left rotation of each value by the count modulo w. (R125) -/
  | elemRot (f : EFields) (t : IntTy)
  /-- ELEM_CLZ: Element count of leading zero bits of each value. (R126) -/
  | elemClz (f : EFields) (t : IntTy)
  /-- ELEM_POPC: Element count of one bits of each value. (R126) -/
  | elemPopc (f : EFields) (t : IntTy)
  /-- ELEM_CLMUL: Element carry-less multiplication giving the low w bits of each product. (R127) -/
  | elemClmul (f : EFields) (t : NatTy)
  /-- ELEM_SEL: Element per-position choice of b where a is nonzero and of c otherwise. (R129) -/
  | elemSel (f : EFields) (t : NatTy)
  /-- ELEM_MOV: Element copy of one operand to the register and outputs. (R130) -/
  | elemMov (f : EFields)
  /-- ELEM_SHUF: Element shuffle of the values of a and c under indices taken from b. (R131) -/
  | elemShuf (f : EFields) (t : NatTy)
  /-- ELEM_BCAST: Element broadcast of one lane or lane pair to every position. (R132) -/
  | elemBcast (f : EFields) (t : NatTy)
  /-- ELEM_CMP: Element integer comparison that writes per-position masks and takes the position-0 result to a predicate. (R128) -/
  | elemCmp (f : EFields) (c : Cond) (t : IntTy)
  /-- ELEM_LRED: Element lane reduction in pairwise order, with the result written to every position. (R133) -/
  | elemLred (f : EFields) (o : RedOp) (t : Ty)
  /-- ELEM_SCAN: Element inclusive prefix scan across value positions. (R134) -/
  | elemScan (f : EFields) (o : RedOp) (t : Ty)
  /-- ELEM_FADD: Element floating-point addition rounded once under the mode, including the .RSR form. (R148) -/
  | elemFadd (f : EFields) (t : FltTy) (r : Rnd) (np : Bool)
  /-- ELEM_FSUB: Element floating-point subtraction rounded once under the mode. (R148) -/
  | elemFsub (f : EFields) (t : FltTy) (r : Rnd) (np : Bool)
  /-- ELEM_FMUL: Element floating-point multiplication rounded once under the mode. (R148) -/
  | elemFmul (f : EFields) (t : FltTy) (r : Rnd) (np : Bool)
  /-- ELEM_FFMA: Element fused multiply-add of a times b plus c, rounded once. (R148) -/
  | elemFfma (f : EFields) (t : FltTy) (r : Rnd) (np : Bool)
  /-- ELEM_FMIN: Element floating-point minimum under the rules of R99. (R148) -/
  | elemFmin (f : EFields) (t : FltTy) (np : Bool)
  /-- ELEM_FMAX: Element floating-point maximum under the rules of R99. (R148) -/
  | elemFmax (f : EFields) (t : FltTy) (np : Bool)
  /-- ELEM_FCMP: Element floating-point comparison that writes per-position masks and takes the position-0 result to a predicate. (R150) -/
  | elemFcmp (f : EFields) (c : FCond) (t : FltTy) (np : Bool)
  /-- ELEM_FDIV: Element correctly rounded floating-point division. (R151) -/
  | elemFdiv (f : EFields) (t : FltTy) (r : Rnd) (np : Bool)
  /-- ELEM_FSQRT: Element correctly rounded floating-point square root. (R151) -/
  | elemFsqrt (f : EFields) (t : FltTy) (r : Rnd) (np : Bool)
  /-- ELEM_FRCP: Element approximate reciprocal, truncated towards zero. (R152) -/
  | elemFrcp (f : EFields) (t : FltTy) (np : Bool)
  /-- ELEM_FRSQ: Element approximate reciprocal square root, truncated towards zero. (R152) -/
  | elemFrsq (f : EFields) (t : FltTy) (np : Bool)
  /-- ELEM_FEXP2: Element approximate base-2 exponential, truncated towards zero. (R152) -/
  | elemFexp2 (f : EFields) (t : FltTy) (np : Bool)
  /-- ELEM_FLOG2: Element approximate base-2 logarithm, truncated towards zero. (R152) -/
  | elemFlog2 (f : EFields) (t : FltTy) (np : Bool)
  /-- ELEM_CVT: Element conversion between types of equal width. (R154) -/
  | elemCvt (f : EFields) (td : Ty) (ts : Ty) (r : Rnd) (sat : Bool)
  /-- ELEM_PACK: Element conversion to a narrower type, packing a and b. (R154) -/
  | elemPack (f : EFields) (td : Ty) (ts : Ty) (r : Rnd) (sat : Bool)
  /-- ELEM_UNPK: Element conversion of one part of a to a wider type. (R154) -/
  | elemUnpk (f : EFields) (td : Ty) (ts : Ty)
  /-- ELEM_LD: Element load request of shape BLK, LANE32 or PAIR64, handed to the plane's MIF queue. (R158) -/
  | elemLd (f : EFields) (sh : Shape)
  /-- ELEM_ST: Element store request, held in the commit buffer until its knot commits. (R158) -/
  | elemSt (f : EFields) (sh : Shape)
  /-- ELEM_LDA: Element load-acquire request of shape BLK at a scope. (R159) -/
  | elemLda (f : EFields) (sc : Scope)
  /-- ELEM_STL: Element store-release request of shape BLK at a scope. (R159) -/
  | elemStl (f : EFields) (sc : Scope)
  /-- ELEM_AMO: Element atomic request invoking an architected or installed handler at the target's home. (R156) -/
  | elemAmo (f : EFields) (h : Fin 16)
  /-- ELEM_VAMO: Element vector atomic that adds BF16 or F32 values to a 32-byte sector. (R166) -/
  | elemVamo (f : EFields) (wide : Bool)
  /-- ELEM_CST: Element close store of 8 bytes on a local strand, ordered after the strand's earlier stores. (R159) -/
  | elemCst (f : EFields) (sc : Scope)
  /-- ELEM_LDST: Element firing that writes a sealed WPORT token into the next part of the shadow weight plane. (R179) -/
  | elemLdst (f : EFields)
  /-- ELEM_LDCB: Element firing that loads the codebook, or the shadow scale row, from a sealed token. (R179) -/
  | elemLdcb (f : EFields)
  /-- ELEM_SWAPW: Element firing that exchanges the shadow and stationary weight planes. (R180) -/
  | elemSwapw (f : EFields)
  /-- ELEM_MMA: Element matrix multiply-accumulate that forwards activations east and sends column sums south or to a row. (R182) -/
  | elemMma (f : EFields) (zs : Bool) (tor : Bool)
  /-- ELEM_ACCA: Element accumulate pass that adds values into a quarter of an accumulator row. (R188) -/
  | elemAcca (f : EFields) (t : AccTy)
  /-- ELEM_ACCD: Element read-out of an accumulator quarter, converted to the output type. (R189) -/
  | elemAccd (f : EFields) (t : Ty)
  /-- ELEM_ACCZ: Element clearing of an accumulator row, which also sets its origin index. (R190) -/
  | elemAccz (f : EFields)
  /-- ELEM_ACCS: Element copy of a row into a second row. (R190) -/
  | elemAccs (f : EFields)
  /-- ELEM_ACCL: Element copy of a second row into the addressed row. (R190) -/
  | elemAccl (f : EFields)
  /-- PIPELINED_RESULT: A firing of latency L writes its register and makes its tokens present at the end of ac n+L-1. (R36) -/
  | pipelinedResult (pl : Nat) (k : Nat)
  /-- ACC_OPERATION: An accumulator operation falls due at the end of ac n+3 and applies to its row, in ascending element index. (R186) -/
  | accOperation (pl : Nat) (k : Nat)
  /-- TOKEN_ARRIVE: A token reaches a destination tile's router and enters an input channel. (R42) -/
  | tokenArrive (k : Nat)
  /-- TILE_WAKE: A clock-gated tile wakes within 4 lc and delivers its held tokens in arrival order. (R64) -/
  | tileWake (tile : Nat)
  /-- KNOT_TAKE: An element or operator with knots at all forward heads records its knot state and passes the knot on. (R44) -/
  | knotTake (pl : Nat) (unit : Nat)
  /-- BACK_EDGE_KNOT_DISCARD: A knot that reaches the head of a back-edge input is dequeued and discarded. (R44) -/
  | backEdgeKnotDiscard (pl : Nat) (unit : Nat) (ch : Nat)
  /-- KNOT_COMMIT: A knot taken by every unit and present at every exit releases its group's effects as one. (R46) -/
  | knotCommit (pl : Nat)
  /-- IMPLICIT_KNOT: The device injects a knot at every entry when a commit-buffer, replay or atomic threshold is reached. (R48) -/
  | implicitKnot (pl : Nat)
  /-- DRAIN_TAKE: A unit takes a drain token as a knot and fires nothing more in this configuration period. (R49) -/
  | drainTake (pl : Nat) (unit : Nat)
  /-- LATE_TOKEN_DISCARD: A data-class token reaching a head after its unit took the drain is discarded with a LATE record. (R49) -/
  | lateTokenDiscard (pl : Nat) (unit : Nat) (ch : Nat)
  /-- OPEN_SOURCE_DRAIN: An open source emits its drain once the closed sources have drained and the downstream heads hold drains. (R50) -/
  | openSourceDrain (pl : Nat) (unit : Nat)
  /-- REGION_ROLLBACK: An uncorrectable error in region storage discards the open groups, restores the committed knot state and replays. (R52) -/
  | regionRollback (pl : Nat)
  /-- WEIGHT_REFILL: After a roll-back or restore, the matrix state is re-read through WPORT from the recorded stream indices. (R193) -/
  | weightRefill (pl : Nat) (elem : Nat)
  /-- ASSAY_COMPLETE: An assay ends as TRANSIENT with replay, or LASTING with abort and retirement, and writes assay records. (R480) -/
  | assayComplete (tile : Nat) (r : AssayResult)
  /-- MARKER_ARRIVAL: A caravan marker arriving on an input stops the unit, saves its state and sends markers on every output. (R56) -/
  | markerArrival (pl : Nat) (unit : Nat) (ch : Nat)
  /-- IDLE_REPORT: A plane's idle count reaches 4,096 active ac and the tile sends an idle report. (R60) -/
  | idleReport (pl : Nat)
  /-- AGEN_STEP: AGEN emits one element group or address token of its AFF, LINK or GATH pattern, with knots and drains as due. (R256) -/
  | agenStep (pl : Nat)
  /-- MIF_REQUEST_TAKE: The MIF takes the next element request or stream group, translates it, and issues a load or holds a store. (R161) -/
  | mifRequestTake (pl : Nat)
  /-- MIF_STREAM_ACCESS: The MIF makes one 32-byte sector access of its stream. (R263) -/
  | mifStreamAccess (pl : Nat)
  /-- MEMORY_REPLY: A load reply returns to the MIF and is delivered in request order on the reply output. (R161) -/
  | memoryReply (k : Nat)
  /-- WPORT_TOKEN: WPORT reads and verifies one operand-only token and sends it sealed. (R270) -/
  | wportToken (pl : Nat)
  /-- STEER_STEP: STEER sends a data token to one arm and a null to the other, as its control token decides. (R272) -/
  | steerStep (pl : Nat)
  /-- MERGE_STEP: MERGE takes one position from both arms and forwards the non-null token. (R273) -/
  | mergeStep (pl : Nat)
  /-- SCALE_STEP: SCALE multiplies or divides a value token by an E8M0 scale. (R276) -/
  | scaleStep (pl : Nat)
  /-- BFLY_STEP: BFLY takes one token of a block and, after the block's last token, emits the transformed block. (R278) -/
  | bflyStep (pl : Nat)
  /-- CONV_STEP: CONV converts one source token and packs the results, with optional block quantisation. (R280) -/
  | convStep (pl : Nat)
  /-- RED_STEP: RED takes one operand in index order and combines the reduction in pairwise order. (R283) -/
  | redStep (pl : Nat)
  /-- MASK_RELOAD: MASK takes 32 table tokens to replace its parent-pointer table. (R285) -/
  | maskReload (pl : Nat)
  /-- MASK_QUERY: MASK walks the ancestry of a query node and emits a 256-bit visibility mask. (R285) -/
  | maskQuery (pl : Nat)
  /-- RNG_TOKEN: RNG emits one Philox token and advances its counter. (R288) -/
  | rngToken (pl : Nat)
  /-- CHECK_PAIR: CHECK compares one pair of tokens from the two copies and forwards copy A's token on a match. (R290) -/
  | checkPair (pl : Nat) (pair : Nat)
  /-- HOME_LOAD: A home slice or SCRATCH bank performs a load and returns the sector. (R293) -/
  | homeLoad (k : Nat)
  /-- HOME_WRITE: A home performs a write in the sector's coherence order, firing monitors and invalidating companion copies. (R293) -/
  | homeWrite (k : Nat)
  /-- HANDLER_APPLY: A home applies an invocation handler indivisibly to its target and returns the result. (R164) -/
  | handlerApply (k : Nat)
  /-- VAMO_APPLY: A home applies a vector atomic addition to a 32-byte sector. (R166) -/
  | vamoApply (k : Nat)
  /-- CLASP_OPEN: A clasp takes a strand context for an OPEN, or answers RETRY. (R306) -/
  | claspOpen (k : Nat)
  /-- CLASP_PACKET: A clasp commits, holds or drops an arriving strand packet and sends ACK or RETRY. (R306) -/
  | claspPacket (k : Nat)
  /-- CLASP_RELEASE: A RELEASE frees a strand context once every earlier number has committed. (R308) -/
  | claspRelease (k : Nat)
  /-- STRAND_ACK: A source receives a cumulative ACK and frees the acknowledged packets. (R305) -/
  | strandAck (k : Nat)
  /-- STRAND_RETRY: A source receives RETRY and re-sends the packets in ascending number. (R307) -/
  | strandRetry (k : Nat)
  /-- BAD_PACKET_DISCARD: A router discards a board-link packet of unassigned class or MOP and counts an error. (R86) -/
  | badPacketDiscard (link : Fin 16) (flit : BitVec 256)
  /-- FRAME_ENTRY_ADVANCE: A frame-table entry's duration expires and the next entry's plane becomes active. (R461) -/
  | frameEntryAdvance (cluster : Nat)
  /-- WAYBILL_START: The dispatcher starts a waybill whose dependencies have retired, arming a TASK or beginning a COPY. (R224) -/
  | waybillStart (cluster : Nat) (k : Nat)
  /-- COPY_SECTOR: The copy engine translates and copies one sector of a COPY payload, STAGE copy or copy-back. (R522) -/
  | copySector (cluster : Nat) (k : Nat)
  /-- WAYBILL_RETIRE: A waybill retires and its completion stamp is written. (R224) -/
  | waybillRetire (cluster : Nat) (k : Nat)
  /-- SEQ_ADD: Sequencer 64-bit addition. (R209) -/
  | seqAdd (xd : XReg) (xa : XReg) (xb : XReg)
  /-- SEQ_SUB: Sequencer 64-bit subtraction. (R209) -/
  | seqSub (xd : XReg) (xa : XReg) (xb : XReg)
  /-- SEQ_MUL: Sequencer low 64 bits of a product. (R209) -/
  | seqMul (xd : XReg) (xa : XReg) (xb : XReg)
  /-- SEQ_MULH: Sequencer high 64 bits of a signed or natural product. (R209) -/
  | seqMulh (xd : XReg) (xa : XReg) (xb : XReg) (n : Bool)
  /-- SEQ_DIV: Sequencer division rounded towards zero, with fixed results for zero and overflow. (R209) -/
  | seqDiv (xd : XReg) (xa : XReg) (xb : XReg) (n : Bool)
  /-- SEQ_REM: Sequencer remainder matching DIV. (R209) -/
  | seqRem (xd : XReg) (xa : XReg) (xb : XReg) (n : Bool)
  /-- SEQ_AND: Sequencer bitwise AND. (R209) -/
  | seqAnd (xd : XReg) (xa : XReg) (xb : XReg)
  /-- SEQ_OR: Sequencer bitwise OR. (R209) -/
  | seqOr (xd : XReg) (xa : XReg) (xb : XReg)
  /-- SEQ_XOR: Sequencer bitwise XOR. (R209) -/
  | seqXor (xd : XReg) (xa : XReg) (xb : XReg)
  /-- SEQ_SHL: Sequencer left shift by a register count. (R209) -/
  | seqShl (xd : XReg) (xa : XReg) (xb : XReg)
  /-- SEQ_SHR: Sequencer logical right shift by a register count. (R209) -/
  | seqShr (xd : XReg) (xa : XReg) (xb : XReg)
  /-- SEQ_SAR: Sequencer arithmetic right shift by a register count. (R209) -/
  | seqSar (xd : XReg) (xa : XReg) (xb : XReg)
  /-- SEQ_MIN: Sequencer signed or natural minimum. (R209) -/
  | seqMin (xd : XReg) (xa : XReg) (xb : XReg) (n : Bool)
  /-- SEQ_MAX: Sequencer signed or natural maximum. (R209) -/
  | seqMax (xd : XReg) (xa : XReg) (xb : XReg) (n : Bool)
  /-- SEQ_CLZ: Sequencer count of leading zero bits. (R209) -/
  | seqClz (xd : XReg) (xa : XReg)
  /-- SEQ_POPC: Sequencer count of one bits. (R209) -/
  | seqPopc (xd : XReg) (xa : XReg)
  /-- SEQ_ADDI: Sequencer addition of a sign-extended immediate. (R209) -/
  | seqAddi (xd : XReg) (xa : XReg) (imm : BitVec 32)
  /-- SEQ_ANDI: Sequencer AND with a sign-extended immediate. (R209) -/
  | seqAndi (xd : XReg) (xa : XReg) (imm : BitVec 32)
  /-- SEQ_ORI: Sequencer OR with a sign-extended immediate. (R209) -/
  | seqOri (xd : XReg) (xa : XReg) (imm : BitVec 32)
  /-- SEQ_XORI: Sequencer XOR with a sign-extended immediate. (R209) -/
  | seqXori (xd : XReg) (xa : XReg) (imm : BitVec 32)
  /-- SEQ_SHLI: Sequencer left shift by an immediate count. (R209) -/
  | seqShli (xd : XReg) (xa : XReg) (sh : Fin 64)
  /-- SEQ_SHRI: Sequencer logical right shift by an immediate count. (R209) -/
  | seqShri (xd : XReg) (xa : XReg) (sh : Fin 64)
  /-- SEQ_SARI: Sequencer arithmetic right shift by an immediate count. (R209) -/
  | seqSari (xd : XReg) (xa : XReg) (sh : Fin 64)
  /-- SEQ_LI: Sequencer load of a sign-extended immediate. (R209) -/
  | seqLi (xd : XReg) (imm : BitVec 32)
  /-- SEQ_LIH: Sequencer load of an immediate into the high half, keeping the low half of Xa. (R209) -/
  | seqLih (xd : XReg) (xa : XReg) (imm : BitVec 32)
  /-- SEQ_BEQ: Sequencer branch if equal. (R211) -/
  | seqBeq (xa : XReg) (xb : XReg) (off : BitVec 24)
  /-- SEQ_BNE: Sequencer branch if not equal. (R211) -/
  | seqBne (xa : XReg) (xb : XReg) (off : BitVec 24)
  /-- SEQ_BLT: Sequencer branch if less, signed. (R211) -/
  | seqBlt (xa : XReg) (xb : XReg) (off : BitVec 24)
  /-- SEQ_BGE: Sequencer branch if greater or equal, signed. (R211) -/
  | seqBge (xa : XReg) (xb : XReg) (off : BitVec 24)
  /-- SEQ_BLTN: Sequencer branch if less, natural. (R211) -/
  | seqBltn (xa : XReg) (xb : XReg) (off : BitVec 24)
  /-- SEQ_BGEN: Sequencer branch if greater or equal, natural. (R211) -/
  | seqBgen (xa : XReg) (xb : XReg) (off : BitVec 24)
  /-- SEQ_J: Sequencer unconditional jump to a block. (R211) -/
  | seqJ (off : BitVec 24)
  /-- SEQ_JAL: Sequencer jump that writes the next block's address as a link. (R211) -/
  | seqJal (xd : XReg) (off : BitVec 24)
  /-- SEQ_JI: Sequencer indirect jump to a 64-byte aligned target. (R211) -/
  | seqJi (xa : XReg) (off : BitVec 24)
  /-- SEQ_JALI: Sequencer indirect jump with link. (R211) -/
  | seqJali (xd : XReg) (xa : XReg) (off : BitVec 24)
  /-- SEQ_LD: Sequencer load of 1 to 8 bytes, sign- or zero-extended. (R213) -/
  | seqLd (xd : XReg) (xa : XReg) (sz : Sz) (n : Bool) (disp : BitVec 24)
  /-- SEQ_ST: Sequencer store of 1 to 8 bytes. (R213) -/
  | seqSt (xa : XReg) (xb : XReg) (sz : Sz) (disp : BitVec 24)
  /-- SEQ_LDA: Sequencer load-acquire at a scope. (R214) -/
  | seqLda (xd : XReg) (xa : XReg) (sz : Sz) (n : Bool) (sc : Scope) (disp : BitVec 24)
  /-- SEQ_STL: Sequencer store-release at a scope. (R214) -/
  | seqStl (xa : XReg) (xb : XReg) (sz : Sz) (sc : Scope) (disp : BitVec 24)
  /-- SEQ_AMO: Sequencer atomic invocation of a handler, waiting for its result when one is due. (R215) -/
  | seqAmo (xd : XReg) (xa : XReg) (xb : XReg) (sz : Sz) (sc : Scope) (o : Ord) (h : Fin 32) (disp : BitVec 24)
  /-- SEQ_ATOMIC_RESULT: The result of an AMO or AMSEND returns to the waiting context and is written to Xd and SQ_AMST. (R215) -/
  | seqAtomicResult (k : Nat)
  /-- SEQ_FENCE: Sequencer fence that orders the context's accesses at a scope. (R216) -/
  | seqFence (sc : Scope) (o : Ord)
  /-- SEQ_MON: Sequencer arming of the context's monitor on a 32-byte sector. (R217) -/
  | seqMon (xa : XReg) (disp : BitVec 24)
  /-- SEQ_MWAIT: Sequencer wait for the monitor, a limit or an event. (R218) -/
  | seqMwait (xd : XReg) (xb : XReg)
  /-- MWAIT_WAKE: A write to the monitored sector ends an MWAIT with status WRITE. (R218) -/
  | mwaitWake (cid : Nat)
  /-- MWAIT_LIMIT: An MWAIT's ac limit expires and it ends with status LIMIT. (R218) -/
  | mwaitLimit (cid : Nat)
  /-- SEQ_PLACE: Sequencer placement of a 4 KiB page image under a placement descriptor, returning a status. (R221) -/
  | seqPlace (xd : XReg) (xa : XReg) (xb : XReg)
  /-- SEQ_ARM: Sequencer arming of a section, binding it to the context. (R222) -/
  | seqArm (xa : XReg) (xb : XReg)
  /-- SEQ_WBILL: Sequencer submission of a waybill to the dispatcher. (R225) -/
  | seqWbill (xd : XReg) (xa : XReg)
  /-- WBILL_ROOM: A WBILL waiting for dispatcher room is accepted when a slot frees. (R225) -/
  | wbillRoom (cid : Nat)
  /-- SEQ_WAITW: Sequencer wait for a waybill to retire. (R226) -/
  | seqWaitw (xd : XReg) (xa : XReg)
  /-- WAITW_COMPLETE: The awaited waybill retires and WAITW writes its status as an acquire. (R226) -/
  | waitwComplete (cid : Nat)
  /-- SEQ_DRAIN: Sequencer instruction that makes a section draining. (R227) -/
  | seqDrain (xa : XReg)
  /-- SEQ_RECFG: Sequencer change of an input channel's depth through a reconfiguration token. (R228) -/
  | seqRecfg (xd : XReg) (xa : XReg) (xb : XReg)
  /-- RECFG_DEPTH_CHANGE: The reconfiguration token reaches the head, the depth changes and the held tokens proceed. (R228) -/
  | recfgDepthChange (cid : Nat)
  /-- SEQ_BANKCFG: Sequencer change of a cluster SRAM bank's mode after draining the bank. (R229) -/
  | seqBankcfg (xd : XReg) (bank : Fin 16) (mode : BitVec 2)
  /-- SEQ_PLANE: Sequencer write of one frame-table entry. (R230) -/
  | seqPlane (xa : XReg) (e : Fin 16)
  /-- SEQ_CUT: Sequencer caravan cut of selected sections into a save area. (R232) -/
  | seqCut (xd : XReg) (xa : XReg)
  /-- RESUME_RESTORE: RESUME with RESTORE places the saved regions and restores their state. (R233) -/
  | resumeRestore (xd : XReg) (xa : XReg)
  /-- RESUME_RELEASE: RESUME with RELEASE restarts regions left stopped in place by a SHORT cut. (R233) -/
  | resumeRelease (xd : XReg) (xa : XReg)
  /-- RESUME_CONTINUE: RESUME with CONTINUE clears the halted flag of every element of the sections. (R233) -/
  | resumeContinue (xd : XReg) (xa : XReg)
  /-- RESUME_ABORT: RESUME with ABORT discards the uncommitted groups, frees the planes and aborts the waybills. (R233) -/
  | resumeAbort (xd : XReg) (xa : XReg)
  /-- SEQ_SOPEN: Sequencer reservation of a clasp context for one of the context's strands. (R236) -/
  | seqSopen (xd : XReg) (xa : XReg) (k : Fin 4)
  /-- SEQ_SCLOSE: Sequencer close store on a strand, which frees its clasp context when it commits. (R237) -/
  | seqSclose (xa : XReg) (xb : XReg) (k : Fin 4)
  /-- SEQ_SBAR: Sequencer wait until every store on a strand is acknowledged. (R238) -/
  | seqSbar (k : Fin 4)
  /-- SBAR_COMPLETE: The last outstanding acknowledgement of the strand arrives and the SBAR ends. (R238) -/
  | sbarComplete (cid : Nat)
  /-- SEQ_PQPUSH: Sequencer insertion of a key and value into the die's priority queue. (R239) -/
  | seqPqpush (xa : XReg) (xb : XReg)
  /-- SEQ_PQPOP: Sequencer removal of an entry among the 16 smallest keys. (R240) -/
  | seqPqpop (xd : XReg) (xc : XReg)
  /-- SEQ_PQPOP_W1: Sequencer removal of the entry with the smallest key, earliest pushed first. (R240) -/
  | seqPqpopW1 (xd : XReg) (xc : XReg)
  /-- SEQ_EXPECT: Sequencer sending of a relaxed CNTEXP to a byte counter. (R241) -/
  | seqExpect (xa : XReg) (xb : XReg)
  /-- SEQ_AMSEND: Sequencer sending of an active message with handler and flags. (R242) -/
  | seqAmsend (xd : XReg) (xa : XReg) (xb : XReg) (h : BitVec 8) (fl : BitVec 8)
  /-- SEQ_BAR: Sequencer arrival at a barrier object, followed by a wait for the next generation. (R243) -/
  | seqBar (xa : XReg) (sc : Scope)
  /-- BAR_COMPLETE: The barrier's generation changes and the waiting context completes with an acquire. (R243) -/
  | barComplete (cid : Nat)
  /-- SEQ_TRAP: Sequencer TRAPI trap carrying a code, which continues after the TRAP on ERET. (R244) -/
  | seqTrap (code : BitVec 16)
  /-- EVENT_ENTRY: At an instruction boundary with a pending enabled event, the context enters SUPER. (R206) -/
  | eventEntry (cid : Nat)
  /-- SEQ_ERET: Sequencer return that restores level and PC from the current level's bank. (R207) -/
  | seqEret
  /-- SEQ_CSRRD: Sequencer read of a control and status register. (R204) -/
  | seqCsrrd (xd : XReg) (csr : BitVec 12)
  /-- SEQ_CSRWR: Sequencer write of a control and status register without behaviour of its own. (R204) -/
  | seqCsrwr (xa : XReg) (csr : BitVec 12)
  /-- THREAD_SWITCH: A CSRWR to SQ_SWITCH saves the running thread's area and loads the next one indivisibly. (R248) -/
  | threadSwitch (xa : XReg)
  /-- SEQ_FWCALL: Sequencer request of a hub firmware service; an undefined service returns all ones. (R245) -/
  | seqFwcall (xd : XReg) (xa : XReg) (svc : BitVec 16)
  /-- SEQ_HALT: Sequencer stop of the context after every earlier instruction has completed. (R246) -/
  | seqHalt
  /-- PCREATE: Hypervisor command that forms a partition from a granule mask. (R442) -/
  | pcreate (pa : Nat)
  /-- PRESET: Hypervisor command that resets a partition. (R477) -/
  | preset (pa : Nat)
  /-- PDESTROY: Hypervisor command that zeroes a partition's memory, power-gates its tiles and frees its granules. (R442) -/
  | pdestroy (pa : Nat)
  /-- VDCREATE: Hypervisor command that creates a virtual device from a descriptor. (R443) -/
  | vdcreate (pa : Nat)
  /-- VDDESTROY: Hypervisor command that kills a virtual device's contexts and frees its resources. (R442) -/
  | vddestroy (pa : Nat)
  /-- CTXASSIGN: Hypervisor command that assigns stopped contexts to a virtual device, or unassigns them. (R442) -/
  | ctxassign (pa : Nat)
  /-- BANKASSIGN: Hypervisor command that assigns cluster SRAM banks to a virtual device, or unassigns them. (R442) -/
  | bankassign (pa : Nat)
  /-- TPOWER: Hypervisor command that powers a tile on or power-gates it. (R458) -/
  | tpower (pa : Nat)
  /-- TPOWER_DONE: A tile reaches the requested power state and TPOWER writes DONE. (R458) -/
  | tpowerDone (tile : Nat)
  /-- VDSTOP: Hypervisor command that stops a virtual device's contexts and cuts its sections into a save area. (R469) -/
  | vdstop (pa : Nat)
  /-- VDSTART: Hypervisor command that restores a stopped virtual device and resumes its contexts. (R470) -/
  | vdstart (pa : Nat)
  /-- MIGBEGIN: Hypervisor command that attests the destination, transfers key slots, starts dirty logging and copies every page. (R472) -/
  | migbegin (pa : Nat)
  /-- MIGPASS: Hypervisor command that copies the pages logged since the last pass. (R472) -/
  | migpass (pa : Nat)
  /-- MIGFINAL: Hypervisor command that stops the virtual device and transfers its remaining state to the destination. (R473) -/
  | migfinal (pa : Nat)
  /-- CHKPT: Hypervisor command that copies the whole package memory to companion memory or a peer package. (R474) -/
  | chkpt (pa : Nat)
  /-- CHKLOAD: Hypervisor command that reads a checkpoint image back onto the package that wrapped it. (R474) -/
  | chkload (pa : Nat)
  /-- FRAMESET: Hypervisor command that writes a whole cluster frame table. (R468) -/
  | frameset (pa : Nat)
  /-- CONTEXT_START: A context record with OP START starts a stopped context at SUPER at its entry. (R446) -/
  | contextStart (vd : Nat) (pa : Nat)
  /-- CONTEXT_KILL: A context record with OP KILL stops the context, aborts its sections and releases its clasp contexts. (R446) -/
  | contextKill (vd : Nat) (pa : Nat)
  /-- FAULT_RESOLVE: A RESOLVE answer retranslates the stalled request or re-executes the context's instruction. (R267) -/
  | faultResolve (vd : Nat) (fid : Nat)
  /-- FAULT_FAIL: A FAIL answer makes the stalled fault final, so the request is poisoned or the context raises PAGE. (R267) -/
  | faultFail (vd : Nat) (fid : Nat)
  /-- SHOOTDOWN_REQUEST: A VDC_SHOOT write removes the cached translations of a range from every TLB and walk cache of the virtual device. (R453) -/
  | shootdownRequest (vd : Nat) (w : BitVec 64)
  /-- SHOOTDOWN_COMPLETE: No translation under a removed entry remains in use, so VDC_SDDONE rises. (R453) -/
  | shootdownComplete (vd : Nat)
  /-- FAULT_RECORD_HELD_WRITE: A record held for lack of fault-queue room is written once room appears. (R454) -/
  | faultRecordHeldWrite (vd : Nat)
  /-- COLD_RESET: A cold reset runs bring-up: firmware, memory, Axano link, board links and hub page. (R434) -/
  | coldReset (img : BootImage)
  /-- PARTITION_RESET: An uncorrectable error in partition-level state resets the hard partition within 50 us. (R477) -/
  | partitionReset (part : Nat)
  /-- THERMAL_ALARM: A die junction passes 105 C and firmware logs a thermal event. (R517) -/
  | thermalAlarm (die : Fin 5) (temp : BitVec 8)
  /-- THERMAL_TRIP: A die junction passes 115 C, every partition is reset and every tile is power-gated. (R517) -/
  | thermalTrip (die : Fin 5) (temp : BitVec 8)
  /-- LINK_TRAINED: A board link completes physical training and enters AUTH. (R510) -/
  | linkTrained (link : Fin 16)
  /-- LINK_AUTH_DONE: The link's SPDM session completes, so the link goes UP or FAILED. (R510) -/
  | linkAuthDone (link : Fin 16) (peer : LinkPeer)
  /-- LINK_TAG_FAIL: A flit group's tag fails, so the group is re-sent, and after three failures the link fails. (R511) -/
  | linkTagFail (link : Fin 16)
  /-- COMPANION_READ: A companion read of device memory over the Axano link, returning all ones for locked units. (R435) -/
  | companionRead (off : Nat) (len : Nat)
  /-- COMPANION_WRITE: A companion write to device memory over the Axano link, discarded for locked units. (R435) -/
  | companionWrite (off : Nat) (data : List (BitVec 8))
  /-- POSSET: Management message that sets the package's pod position. (R509) -/
  | posset (pos : BitVec 8)
  /-- PODPOL: Management message that sets the pod policy's allowed firmware measurements. (R511) -/
  | podpol (fwms : List (BitVec 256))
  /-- LNKTRAIN: Management message that retrains the links in a mask. (R510) -/
  | lnktrain (mask : BitVec 16)
  /-- EVREAD: Management message that returns up to 16 event log entries. (R515) -/
  | evread (ctr : BitVec 32)
  /-- RETCLEAR: Management message that asks for a retired tile or bank to be re-tested at the next cold reset. (R516) -/
  | retclear (bank : Bool) (tx : BitVec 16) (ty : BitVec 16) (b : BitVec 16)
  /-- TEMPRD: Management message that returns the junction temperatures. (R518) -/
  | temprd
  /-- KVEVICT: Firmware service that encrypts a KV page into a blob in companion memory. (R376) -/
  | kvevict
  /-- KVPROMOTE: Firmware service that verifies a blob and writes the KV page back. (R377) -/
  | kvpromote
  /-- HALLMARK: Firmware service that signs an attestation hallmark. (R493) -/
  | hallmark
  /-- SESSOPEN: Firmware service that binds a user's sealed key to a session slot. (R498) -/
  | sessopen
  /-- REQOPEN: Firmware service that decrypts a request in order into confidential memory. (R499) -/
  | reqopen
  /-- REPLYSEAL: Firmware service that computes a reply's GCM tag and advances RP. (R501) -/
  | replyseal
  /-- SESSCLOSE: Firmware service that frees a session slot and may free a retiring model. (R502) -/
  | sessclose
  /-- ADPTABLE: Firmware service that returns a model's adapter slot table. (R505) -/
  | adptable
  /-- USAGE: Firmware service that signs a usage hallmark with the counters. (R508) -/
  | usage
  /-- LIBLOAD: Firmware service that verifies a library image and adds its page measurements. (R491) -/
  | libload
  /-- MODELLOAD: Firmware service that installs a sealed model's weights into operand-only memory. (R495) -/
  | modelload
  /-- MODELFREE: Firmware service that frees a model, or marks it RETIRING. (R496) -/
  | modelfree
  /-- ADAPTCLAIM: Firmware service that claims an adapter slot and installs its weights. (R504) -/
  | adaptclaim
  /-- ADAPTFREE: Firmware service that sets an adapter slot to releasing. (R504) -/
  | adaptfree
  /-- VDKEY: Firmware service that makes a free slot a VDKEY slot with a random key. (R485) -/
  | vdkey
  /-- CONFLOCK: Firmware service that zeroes units and locks them confidential. (R485) -/
  | conflock
  /-- CONFFREE: Firmware service that zeroes and unlocks confidential units and may free a slot. (R485) -/
  | conffree
  /-- EVKEY: Firmware service that makes a slot an EVICT slot. (R485) -/
  | evkey
  /-- HINSTALL: Firmware service that installs a signed handler image in every home slice of the partition. (R506) -/
  | hinstall
  /-- CREDIT_RETURN: An entry freed by a dequeue reaches a producer in another tile as a returned credit, at least 1 ac later for each router, and only then counts as free space there. (R42) -/
  | creditReturn (k : Nat)
  /-- CLUSTER_CACHE_EVICTION: A cluster cache copy of a sector is evicted of itself, so later loads of that cluster read the home again. (R297) -/
  | clusterCacheEviction (cluster : Nat) (sector : Nat)
  /-- SPDM_ATTESTATION: The board controller sends an SPDM attestation request over MCTP message type 0x05 and the hub answers it. (R518) -/
  | spdmAttestation (req : List (BitVec 8))
  /-- SLOT_TRANSFER_RECORD: A destination hub receives a slot transfer record inside the migration's SPDM session and places the key slot at the same number, or refuses with INUSE. (R486) -/
  | slotTransferRecord (vd : Nat) (rec : List (BitVec 8))
  /-- MIGRATION_STATE_TRANSFER: A destination hub receives a migrating virtual device's context states, accepted waybills, queue entries, eviction counters, adaptation claims and save-area record. (R473) -/
  | migrationStateTransfer (vd : Nat) (k : Nat)
  /-- LINK_DOWN: A board link that was UP loses its peer, for example when the peer package resets or its cable is lost, and returns to DOWN. (R459) -/
  | linkDown (link : Fin 16)
deriving DecidableEq, Repr

end Sys2Proof
end

