-- ==== Sys2Proof/WellFormed.lean ====
section
/-! DEFINITION. What an instruction word must satisfy on its own (R35, R70, R81, R119, R120, R146, R154, R156, R178, R181,
R187): an element word that breaks it fails its page with ENC, a sequencer word raises ILLEGAL. -/

namespace Sys2Proof

/-- What an operand position admits. -/
inductive OpRule where
  | unread      -- only selector 44 (R70 rule 2)
  | any         -- any selector of R69
  | head        -- a channel head, 32-39
  | psn         -- 0-31, 44, 48-63 (R120)
  | noImm       -- any but 40 and 41
  | acc         -- any but 40-43 (R187, R181)
deriving DecidableEq, Repr

/-- What OMASK admits. -/
inductive OutRule where
  | none | any | one | atMostOne | east   -- east: OMASK[7:4] = 0 (R181)
deriving DecidableEq, Repr

/-- What IMM is (R74). -/
inductive ImmRule where
  | zero | operand
  | ctl (ok : Bool)    -- a control field, and whether its value is accepted
deriving DecidableEq, Repr

/-- How one element instruction uses the fields (R119, R145, R153, R156, R178, R181, R187). -/
structure Use where
  a : OpRule := .unread
  b : OpRule := .unread
  c : OpRule := .unread
  dst : Bool := false
  out : OutRule := .none
  imm : ImmRule := .zero
  pres : Bool := false
deriving DecidableEq, Repr

def Sel.isHead : Sel → Bool
  | .head _ => true
  | _ => false

def Sel.isImm : Sel → Bool
  | .immS => true
  | .immH => true
  | _ => false

/-- The channel a selector reads, as a mask (R69). -/
def Sel.chanMask : Sel → BitVec 8
  | .head c => BitVec.ofNat 8 (2 ^ c.val)
  | _ => 0

/-- Whether the operand rule admits the selector, with or without IMM as an operand. -/
def OpRule.ok (r : OpRule) (immOperand : Bool) (s : Sel) : Bool :=
  match r with
  | .unread => s == .zero
  | .any => immOperand || !s.isImm
  | .head => s.isHead
  | .psn => match s with
    | .g _ => true
    | .zero => true
    | .k _ => true
    | _ => false
  | .noImm => !s.isImm
  | .acc => match s with
    | .immS => false
    | .immH => false
    | .lane => false
    | .coord => false
    | _ => true

def OutRule.ok (r : OutRule) (m : BitVec 8) : Bool :=
  match r with
  | .none => m == 0
  | .any => true
  | .one => m != 0 && (m &&& (m - 1)) == 0
  | .atMostOne => (m &&& (m - 1)) == 0
  | .east => m.toNat < 16

/-- IMM of a memory request: STR, LSIX, INST (R77); inst: INST may be 1; str 0: STR must be 0, 1: either, 2: must be 1. -/
def memImmOk (imm : BitVec 16) (inst : Bool) (str : Nat) : Bool :=
  bits imm.toNat 8 8 == 0 && bits imm.toNat 3 3 == 0 && (inst || bits imm.toNat 7 1 == 0)
    && (match str with
        | 0 => bits imm.toNat 6 1 == 0
        | 1 => true
        | _ => bits imm.toNat 6 1 == 1)
    && (bits imm.toNat 6 1 == 1 || bits imm.toNat 0 3 == 0)

/-- IMM of an accumulator instruction: bits 15:11 zero; without QTR also bits 10:9 (R79). -/
def accImmOk (imm : BitVec 16) (qtr : Bool) : Bool :=
  if qtr then bits imm.toNat 11 5 == 0 else bits imm.toNat 9 7 == 0

def Ty.code : Ty → Nat
  | .i8 => 0 | .i16 => 1 | .i32 => 2 | .i64 => 3 | .n8 => 4 | .n16 => 5 | .n32 => 6 | .n64 => 7
  | .f64 => 8 | .f32 => 9 | .bf16 => 10 | .f16 => 11 | .e4m3 => 12 | .e5m2 => 13

/-- The width of a type (R71). -/
def Ty.width : Ty → Nat
  | .i8 => 8 | .i16 => 16 | .i32 => 32 | .i64 => 64 | .n8 => 8 | .n16 => 16 | .n32 => 32 | .n64 => 64
  | .f64 => 64 | .f32 => 32 | .bf16 => 16 | .f16 => 16 | .e4m3 => 8 | .e5m2 => 8

def Rnd.code : Rnd → Nat
  | .rne => 0 | .rtz => 1 | .rup => 2 | .rdn => 3 | .rsr => 4

def three (dst : Bool) (out : OutRule) : Use := { a := .any, b := .any, c := .any, dst := dst, out := out, imm := .operand }
def two : Use := { a := .any, b := .any, dst := true, out := .any, imm := .operand }
def one : Use := { a := .any, dst := true, out := .any, imm := .operand }
def oneZ : Use := { a := .any, dst := true, out := .any, imm := .zero }

/-- IMM of CVT, PACK and UNPK: destination code in 7:4, source code in 3:0 (R76). -/
def cvtImm (td ts : Ty) : Nat := 16 * td.code + ts.code

/-- LRED and SCAN: AND, OR and XOR take .N32 or .N64 only; the 8-bit floats are not FLT (R74). -/
def redTyOk (o : RedOp) (t : Ty) : Bool :=
  match o with
  | .and | .or | .xor => t == .n32 || t == .n64
  | _ => t != .e4m3 && t != .e5m2

/-- How each element instruction uses its fields; none for an instruction that is no element instruction. -/
def Instr.use : Instr → Option Use
  | .elemNop _ => some {}
  | .elemPass _ => some { a := .head, out := .any }
  | .elemNullt _ => some { out := .any }
  | .elemTags _ _ => some oneZ
  | .elemPtst _ => some { a := .head, dst := true, out := .any, pres := true }
  | .elemPsn f => some { a := .psn, out := .any, imm := .ctl (f.opa == .zero || f.imm == 0) }
  | .elemTrapi _ => some { imm := .ctl true }
  | .elemHalt _ => some {}
  | .elemAdd _ _ | .elemSub _ _ | .elemMul _ _ | .elemMulh _ _ | .elemMin _ _ | .elemMax _ _ => some two
  | .elemMad _ _ => some (three true .any)
  | .elemAbs _ _ => some one
  | .elemAnd _ | .elemOr _ | .elemXor _ | .elemAndn _ => some two
  | .elemShl _ _ | .elemShr _ _ | .elemSar _ _ | .elemRot _ _ => some two
  | .elemClz _ _ | .elemPopc _ _ => some oneZ
  | .elemClmul _ _ => some two
  | .elemSel _ _ => some (three true .any)
  | .elemMov _ => some one
  | .elemShuf _ _ => some { a := .any, b := .any, c := .any, dst := true, out := .any, imm := .zero }
  | .elemBcast f t => some { a := .any, dst := true, out := .any, imm := .ctl (match t with | .n32 => f.imm.toNat < 8 | .n64 => f.imm.toNat < 4) }
  | .elemCmp _ _ _ => some { two with pres := true }
  | .elemLred _ o t | .elemScan _ o t =>
      some { oneZ with imm := if redTyOk o t then .zero else .ctl false }
  | .elemFadd _ _ r _ | .elemFsub _ _ r _ | .elemFmul _ _ r _ =>
      some (if r = .rsr then three true .any else two)
  | .elemFfma _ _ r _ => some { a := .any, b := .any, c := .any, dst := true, out := .any, imm := if r = .rsr then .ctl false else .operand }
  | .elemFmin _ _ _ | .elemFmax _ _ _ => some two
  | .elemFcmp _ _ _ _ => some { two with pres := true }
  | .elemFdiv _ _ r _ => some ({ two with imm := if r = .rsr then ImmRule.ctl false else .operand } : Use)
  | .elemFsqrt _ _ r _ => some ({ one with imm := if r = .rsr then ImmRule.ctl false else .operand } : Use)
  | .elemFrcp _ _ _ | .elemFrsq _ _ _ | .elemFexp2 _ _ _ | .elemFlog2 _ _ _ => some one
  | .elemCvt f td ts r _ => some { a := .any, c := if r = .rsr then .any else .unread, dst := true, out := .any, imm := .ctl (f.imm.toNat == cvtImm td ts && td != ts && td.width == ts.width) }
  | .elemPack f td ts r _ => some { a := .any, b := if r = .rsr then .unread else .any, c := if r = .rsr then .any else .unread, dst := true, out := .any, imm := .ctl (f.imm.toNat == cvtImm td ts && td.width < ts.width) }
  | .elemUnpk f td ts => some { a := .any, b := .any, dst := true, out := .any, imm := .ctl (f.imm.toNat == cvtImm td ts && ts.width < td.width) }
  | .elemLd f sh => some { a := .noImm, b := if sh = .blk then .unread else .noImm, out := .one, imm := .ctl (memImmOk f.imm false 0) }
  | .elemSt f sh => some { a := .noImm, b := if sh = .blk then .unread else .noImm, c := .noImm, imm := .ctl (memImmOk f.imm false 1) }
  | .elemLda f _ => some { a := .noImm, out := .one, imm := .ctl (memImmOk f.imm false 0) }
  | .elemStl f _ => some { a := .noImm, c := .noImm, imm := .ctl (memImmOk f.imm false 1) }
  | .elemAmo f _ => some { a := .noImm, b := .noImm, out := .atMostOne, imm := .ctl (memImmOk f.imm true 1) }
  | .elemVamo f _ => some { a := .noImm, c := .noImm, imm := .ctl (memImmOk f.imm false 1) }
  | .elemCst f _ => some { a := .noImm, c := .noImm, imm := .ctl (memImmOk f.imm false 2) }
  | .elemLdst _ | .elemLdcb _ => some { a := .head }
  | .elemSwapw _ => some {}
  | .elemMma f zs tor => some { a := .head, b := if zs then .unread else .head, c := if tor then .acc else .unread, out := if tor then .east else .any, imm := if tor then .ctl (accImmOk f.imm true) else .zero }
  | .elemAcca f _ => some { a := .acc, b := .acc, imm := .ctl (accImmOk f.imm true) }
  | .elemAccd f t => some { a := .acc, dst := true, out := .any, imm := .ctl (accImmOk f.imm true && 8 ≤ t.code) }
  | .elemAccz f | .elemAccs f | .elemAccl f => some { a := .acc, b := .acc, imm := .ctl (accImmOk f.imm false) }
  | _ => none

/-- The fields of an element instruction. -/
def Instr.fields? : Instr → Option EFields
  | .elemNop f | .elemPass f | .elemNullt f | .elemPtst f | .elemPsn f | .elemTrapi f | .elemHalt f => some f
  | .elemTags f _ => some f
  | .elemAdd f _ | .elemSub f _ | .elemMul f _ | .elemMulh f _ | .elemMad f _ | .elemMin f _ | .elemMax f _ | .elemAbs f _ => some f
  | .elemAnd f | .elemOr f | .elemXor f | .elemAndn f | .elemMov f => some f
  | .elemShl f _ | .elemShr f _ | .elemSar f _ | .elemRot f _ | .elemClz f _ | .elemPopc f _ => some f
  | .elemClmul f _ | .elemSel f _ | .elemShuf f _ | .elemBcast f _ => some f
  | .elemCmp f _ _ | .elemLred f _ _ | .elemScan f _ _ => some f
  | .elemFadd f _ _ _ | .elemFsub f _ _ _ | .elemFmul f _ _ _ | .elemFfma f _ _ _ | .elemFcmp f _ _ _
  | .elemFdiv f _ _ _ | .elemFsqrt f _ _ _ => some f
  | .elemFmin f _ _ | .elemFmax f _ _ | .elemFrcp f _ _ | .elemFrsq f _ _ | .elemFexp2 f _ _ | .elemFlog2 f _ _ => some f
  | .elemCvt f _ _ _ _ | .elemPack f _ _ _ _ => some f
  | .elemUnpk f _ _ => some f
  | .elemLd f _ | .elemSt f _ | .elemLda f _ | .elemStl f _ | .elemAmo f _ | .elemVamo f _ | .elemCst f _ => some f
  | .elemLdst f | .elemLdcb f | .elemSwapw f | .elemAccz f | .elemAccs f | .elemAccl f => some f
  | .elemMma f _ _ => some f
  | .elemAcca f _ | .elemAccd f _ => some f
  | _ => none

/-- The channels that the read selectors name (R35). -/
def EFields.readMask (f : EFields) : BitVec 8 := f.opa.chanMask ||| f.opb.chanMask ||| f.opc.chanMask

/-- R35 and rule 7 of R70: what holds of the fields of every slot. -/
def EFields.guardOk (f : EFields) : Bool :=
  (f.pval &&& ~~~f.pmask) == 0 && (f.psetv &&& ~~~f.psetm) == 0 && (f.tval &&& ~~~f.tmask) == 0
    && (f.deq &&& ~~~f.inrdy) == 0 && (f.readMask &&& ~~~f.inrdy) == 0
    && (if f.tmask == 0 then f.tch == 0 else f.inrdy.getLsbD f.tch.val)

def ImmRule.ok (r : ImmRule) (imm : BitVec 16) : Bool :=
  match r with
  | .zero => imm == 0
  | .operand => true
  | .ctl b => b

/-- IMM must be zero where neither a selector reads it nor it is a control field (R70 rule 4). -/
def immReadOk (u : Use) (f : EFields) : Bool :=
  match u.imm with
  | .operand => f.imm == 0 || f.opa.isImm || f.opb.isImm || f.opc.isImm
  | r => r.ok f.imm

/-- Whether the fields obey the row's use (R70, R119). -/
def EFields.useOk (f : EFields) (u : Use) : Bool :=
  u.a.ok (u.imm == .operand) f.opa && u.b.ok (u.imm == .operand) f.opb && u.c.ok (u.imm == .operand) f.opc
    && (u.dst || f.dst == none) && u.out.ok f.omask && immReadOk u f && (u.pres || f.pres == none)

/-- LDST and LDCB dequeue the channel they read (R178). -/
def Instr.deqOk : Instr → Bool
  | .elemLdst f | .elemLdcb f => (f.opa.chanMask &&& ~~~f.deq) == 0
  | _ => true

/-- The bytes of an architected handler's operand (R84): 4 for ADD.I32 and FADD.F32, else 8. -/
def handlerOpBytes (h : Nat) : Nat := if h = 1 ∨ h = 11 then 4 else 8

def Sz.bytes : Sz → Nat
  | .b1 => 1 | .b2 => 2 | .b4 => 4 | .b8 => 8

/-- R81, R215: SZ of an AMO. -/
def amoSzOk (h : Nat) (sz : Sz) : Bool :=
  if h < 16 then sz.bytes == handlerOpBytes h else sz == .b4 || sz == .b8

/-- R83, R242: the handler and the flags of AMSEND: NR bit 0, W32 bit 1. -/
def amsendOk (h fl : Nat) (xd : XReg) : Bool :=
  h < 32 && fl < 4
    && (if h < 16 then (fl / 2 == 1) == (handlerOpBytes h == 4) else fl / 2 == 0)
    && (fl % 2 == 0 || xd == 0)

/-- What a sequencer word must satisfy beyond its fields' ranges (R81). -/
def Instr.seqOk : Instr → Bool
  | .seqAmo _ _ _ sz _ _ h _ => amoSzOk h.val sz
  | .seqAmsend xd _ _ h fl => amsendOk h.toNat fl.toNat xd
  | .seqFence _ o => o != .relaxed
  | .seqBar _ sc => match sc with
    | .cl => true | .die => true | .pkg => true | .pod => true
    | _ => false
  | .seqBankcfg _ _ m => m != 3
  | .seqCsrwr _ csr => csr != 0x008      -- that word is threadSwitch
  | _ => true

/-- Whether the instruction is one that a page or sequencer code may hold; events are always well-formed. -/
def Instr.wf (i : Instr) : Bool :=
  match i.use, i.fields? with
  | some u, some f => f.guardOk && f.useOk u && i.deqOk
  | _, _ => i.seqOk

end Sys2Proof
end

