-- ==== Sys2Proof/Decode.lean ====
section
/-! DEFINITION. The decoder of element slots (R68-R79) and of sequencer words (R80-R81), total on every number, and the
encoder written from the same tables. An element word that decodes to none fails its page with ENC (R10, R70); a
sequencer word that decodes to none raises ILLEGAL (R81). -/

namespace Sys2Proof

/-- The operand selector of a 6-bit value (R69). -/
def selOf (n : Nat) : Option Sel :=
  if h : n < 32 then some (.g ⟨n, h⟩)
  else if h : n - 32 < 8 then some (.head ⟨n - 32, h⟩)
  else if n = 40 then some .immS
  else if n = 41 then some .immH
  else if n = 42 then some .lane
  else if n = 43 then some .coord
  else if n = 44 then some .zero
  else if n < 48 then none
  else if h : n - 48 < 16 then some (.k ⟨n - 48, h⟩)
  else none

def Sel.code : Sel → Nat
  | .g r => r.val | .head c => 32 + c.val | .immS => 40 | .immH => 41 | .lane => 42 | .coord => 43 | .zero => 44
  | .k i => 48 + i.val

def fin8 (n : Nat) : Fin 8 := Fin.ofNat 8 n
def xreg (n : Nat) : XReg := Fin.ofNat 32 n

/-- DST: 0-31 or 63 (R68). -/
def dstOf (n : Nat) : Option (Option (Fin 32)) :=
  if n < 32 then some (some (Fin.ofNat 32 n)) else if n = 63 then some none else none

def dstCode : Option (Fin 32) → Nat
  | some r => r.val
  | none => 63

def presOf (n : Nat) : Option (Fin 8) := if n < 8 then none else some (fin8 n)
def presCode : Option (Fin 8) → Nat
  | some p => 8 + p.val
  | none => 0

/-- The fields of a slot word (R68); none where bit 16, DST or a selector is reserved. -/
def fieldsOf (w : Nat) : Option EFields :=
  match selOf (bits w 75 6), selOf (bits w 69 6), selOf (bits w 63 6), dstOf (bits w 49 6) with
  | some a, some b, some c, some d =>
    if bits w 16 1 = 0 then
      some { pmask := BitVec.ofNat 8 (bits w 108 8), pval := BitVec.ofNat 8 (bits w 100 8),
             inrdy := BitVec.ofNat 8 (bits w 92 8), tch := fin8 (bits w 89 3),
             tval := BitVec.ofNat 4 (bits w 85 4), tmask := BitVec.ofNat 4 (bits w 81 4),
             opa := a, opb := b, opc := c, deq := BitVec.ofNat 8 (bits w 55 8), dst := d,
             omask := BitVec.ofNat 8 (bits w 41 8), otag := BitVec.ofNat 4 (bits w 37 4),
             psetm := BitVec.ofNat 8 (bits w 29 8), psetv := BitVec.ofNat 8 (bits w 21 8),
             pres := presOf (bits w 17 4), imm := BitVec.ofNat 16 (bits w 0 16) }
    else none
  | _, _, _, _ => none

/-- The slot word of an opcode, a variant and the fields (R68). -/
def EFields.word (f : EFields) (op var : Nat) : Nat :=
  f.imm.toNat + presCode f.pres * 2 ^ 17 + f.psetv.toNat * 2 ^ 21 + f.psetm.toNat * 2 ^ 29 + f.otag.toNat * 2 ^ 37
    + f.omask.toNat * 2 ^ 41 + dstCode f.dst * 2 ^ 49 + f.deq.toNat * 2 ^ 55 + f.opc.code * 2 ^ 63 + f.opb.code * 2 ^ 69
    + f.opa.code * 2 ^ 75 + f.tmask.toNat * 2 ^ 81 + f.tval.toNat * 2 ^ 85 + f.tch.val * 2 ^ 89 + f.inrdy.toNat * 2 ^ 92
    + f.pval.toNat * 2 ^ 100 + f.pmask.toNat * 2 ^ 108 + var * 2 ^ 116 + op * 2 ^ 120

def intTyOf (v : Nat) : Option IntTy :=
  match v with
  | 0 => some .i8 | 1 => some .i16 | 2 => some .i32 | 3 => some .i64 | 4 => some .n8 | 5 => some .n16 | 6 => some .n32
  | 7 => some .n64 | _ => none
def IntTy.code : IntTy → Nat
  | .i8 => 0 | .i16 => 1 | .i32 => 2 | .i64 => 3 | .n8 => 4 | .n16 => 5 | .n32 => 6 | .n64 => 7

def natTyOf (v : Nat) : Option NatTy :=
  match v with
  | 6 => some .n32 | 7 => some .n64 | _ => none
def NatTy.code : NatTy → Nat
  | .n32 => 6 | .n64 => 7

def tyOf (v : Nat) : Option Ty :=
  match v with
  | 0 => some .i8 | 1 => some .i16 | 2 => some .i32 | 3 => some .i64 | 4 => some .n8 | 5 => some .n16 | 6 => some .n32
  | 7 => some .n64 | 8 => some .f64 | 9 => some .f32 | 10 => some .bf16 | 11 => some .f16 | 12 => some .e4m3
  | 13 => some .e5m2 | _ => none

def fltOf (n : Nat) : FltTy :=
  match n with
  | 0 => .f64 | 1 => .f32 | 2 => .bf16 | _ => .f16
def FltTy.code : FltTy → Nat
  | .f64 => 0 | .f32 => 1 | .bf16 => 2 | .f16 => 3

def rndOf (n : Nat) : Option Rnd :=
  match n with
  | 0 => some .rne | 1 => some .rtz | 2 => some .rup | 3 => some .rdn | 4 => some .rsr | _ => none

def condOf (n : Nat) : Option Cond :=
  match n with
  | 0 => some .eq | 1 => some .ne | 2 => some .lt | 3 => some .le | 4 => some .gt | 5 => some .ge | _ => none
def Cond.code : Cond → Nat
  | .eq => 0 | .ne => 1 | .lt => 2 | .le => 3 | .gt => 4 | .ge => 5

def fcondOf (n : Nat) : FCond :=
  match n with
  | 0 => .eq | 1 => .ne | 2 => .lt | 3 => .le | 4 => .gt | 5 => .ge | 6 => .un | _ => .ord
def FCond.code : FCond → Nat
  | .eq => 0 | .ne => 1 | .lt => 2 | .le => 3 | .gt => 4 | .ge => 5 | .un => 6 | .ord => 7

def redOpOf (n : Nat) : Option RedOp :=
  match n with
  | 0 => some .add | 1 => some .min | 2 => some .max | 3 => some .and | 4 => some .or | 5 => some .xor | _ => none
def RedOp.code : RedOp → Nat
  | .add => 0 | .min => 1 | .max => 2 | .and => 3 | .or => 4 | .xor => 5

def tagModeOf (n : Nat) : Option TagMode :=
  match n with
  | 0 => some .keep | 1 => some .clr | 2 => some .set | _ => none
def TagMode.code : TagMode → Nat
  | .keep => 0 | .clr => 1 | .set => 2

def shapeOf (n : Nat) : Option Shape :=
  match n with
  | 0 => some .blk | 1 => some .lane32 | 2 => some .pair64 | _ => none
def Shape.code : Shape → Nat
  | .blk => 0 | .lane32 => 1 | .pair64 => 2

def scopeOf (n : Nat) : Option Scope :=
  match n with
  | 0 => some .ln | 1 => some .el | 2 => some .tl | 3 => some .cl | 4 => some .die | 5 => some .pkg | 6 => some .pod
  | _ => none
def Scope.code : Scope → Nat
  | .ln => 0 | .el => 1 | .tl => 2 | .cl => 3 | .die => 4 | .pkg => 5 | .pod => 6

def accTyOf (n : Nat) : Option AccTy :=
  match n with
  | 2 => some .i32 | 8 => some .f64 | 9 => some .f32 | _ => none
def AccTy.code : AccTy → Nat
  | .i32 => 2 | .f64 => 8 | .f32 => 9

/-- The floating-point opcodes 0x40-0x73 (R75): OP[7:2] the operation, OP[1:0] the type, VAR[3] NP. -/
def floatOf (f : EFields) (op v : Nat) : Option Instr :=
  let t := fltOf (op % 4)
  let np := decide (8 ≤ v)
  match op / 4 with
  | 0x10 => (rndOf (v % 8)).map fun r => .elemFadd f t r np
  | 0x11 => (rndOf (v % 8)).map fun r => .elemFsub f t r np
  | 0x12 => (rndOf (v % 8)).map fun r => .elemFmul f t r np
  | 0x13 => (rndOf (v % 8)).map fun r => .elemFfma f t r np
  | 0x14 => if v % 8 = 0 then some (.elemFmin f t np) else none
  | 0x15 => if v % 8 = 0 then some (.elemFmax f t np) else none
  | 0x16 => some (.elemFcmp f (fcondOf (v % 8)) t np)
  | 0x17 => (rndOf (v % 8)).map fun r => .elemFdiv f t r np
  | 0x18 => (rndOf (v % 8)).map fun r => .elemFsqrt f t r np
  | 0x19 => if v % 8 = 0 then some (.elemFrcp f t np) else none
  | 0x1A => if v % 8 = 0 then some (.elemFrsq f t np) else none
  | 0x1B => if v % 8 = 0 then some (.elemFexp2 f t np) else none
  | 0x1C => if v % 8 = 0 then some (.elemFlog2 f t np) else none
  | _ => none

/-- The integer, logic and lane opcodes 0x10-0x3D (R74). -/
def integerOf (f : EFields) (op v : Nat) : Option Instr :=
  match op with
  | 0x10 => (intTyOf v).map fun t => .elemAdd f t
  | 0x11 => (intTyOf v).map fun t => .elemSub f t
  | 0x12 => (intTyOf v).map fun t => .elemMul f t
  | 0x13 => (intTyOf v).map fun t => .elemMulh f t
  | 0x14 => (intTyOf v).map fun t => .elemMad f t
  | 0x15 => (intTyOf v).map fun t => .elemMin f t
  | 0x16 => (intTyOf v).map fun t => .elemMax f t
  | 0x17 => (intTyOf v).map fun t => .elemAbs f t
  | 0x18 => if v = 0 then some (.elemAnd f) else none
  | 0x19 => if v = 0 then some (.elemOr f) else none
  | 0x1A => if v = 0 then some (.elemXor f) else none
  | 0x1B => if v = 0 then some (.elemAndn f) else none
  | 0x1C => (intTyOf v).map fun t => .elemShl f t
  | 0x1D => (intTyOf v).map fun t => .elemShr f t
  | 0x1E => (intTyOf v).map fun t => .elemSar f t
  | 0x1F => (intTyOf v).map fun t => .elemRot f t
  | 0x20 => (intTyOf v).map fun t => .elemClz f t
  | 0x21 => (intTyOf v).map fun t => .elemPopc f t
  | 0x22 => (natTyOf v).map fun t => .elemClmul f t
  | 0x23 => (natTyOf v).map fun t => .elemSel f t
  | 0x24 => if v = 0 then some (.elemMov f) else none
  | 0x25 => (natTyOf v).map fun t => .elemShuf f t
  | 0x26 => (natTyOf v).map fun t => .elemBcast f t
  | _ =>
    match op / 8, intTyOf v, tyOf v with
    | 5, some t, _ => (condOf (op % 8)).map fun c => .elemCmp f c t
    | 6, _, some t => (redOpOf (op % 8)).map fun o => .elemLred f o t
    | 7, _, some t => (redOpOf (op % 8)).map fun o => .elemScan f o t
    | _, _, _ => none

/-- The token, conversion, memory and matrix opcodes (R74, R76, R77, R79). -/
def controlOf (f : EFields) (op v : Nat) : Option Instr :=
  match op with
  | 0x00 => if v = 0 then some (.elemNop f) else none
  | 0x01 => if v = 0 then some (.elemPass f) else none
  | 0x02 => if v = 0 then some (.elemNullt f) else none
  | 0x03 => (tagModeOf v).map fun m => .elemTags f m
  | 0x04 => if v = 0 then some (.elemPtst f) else none
  | 0x05 => if v = 0 then some (.elemPsn f) else none
  | 0x06 => if v = 0 then some (.elemTrapi f) else none
  | 0x07 => if v = 0 then some (.elemHalt f) else none
  | 0x78 => match tyOf (bits f.imm.toNat 4 4), tyOf (bits f.imm.toNat 0 4), rndOf (v % 8) with
    | some td, some ts, some r => some (.elemCvt f td ts r (decide (8 ≤ v)))
    | _, _, _ => none
  | 0x79 => match tyOf (bits f.imm.toNat 4 4), tyOf (bits f.imm.toNat 0 4), rndOf (v % 8) with
    | some td, some ts, some r => some (.elemPack f td ts r (decide (8 ≤ v)))
    | _, _, _ => none
  | 0x7A => match tyOf (bits f.imm.toNat 4 4), tyOf (bits f.imm.toNat 0 4) with
    | some td, some ts => if v = 0 then some (.elemUnpk f td ts) else none
    | _, _ => none
  | 0x80 => (shapeOf v).map fun s => .elemLd f s
  | 0x81 => (shapeOf v).map fun s => .elemSt f s
  | 0x82 => (scopeOf v).map fun s => .elemLda f s
  | 0x83 => (scopeOf v).map fun s => .elemStl f s
  | 0x84 => some (.elemAmo f (Fin.ofNat 16 v))
  | 0x85 => if v < 2 then some (.elemVamo f (decide (v = 1))) else none
  | 0x86 => (scopeOf v).map fun s => .elemCst f s
  | 0x90 => if v = 0 then some (.elemLdst f) else none
  | 0x91 => if v = 0 then some (.elemLdcb f) else none
  | 0x92 => if v = 0 then some (.elemSwapw f) else none
  | 0x93 => match v with
    | 0 => some (.elemMma f false false)
    | 1 => some (.elemMma f true false)
    | 4 => some (.elemMma f false true)
    | 5 => some (.elemMma f true true)
    | _ => none
  | 0x94 => (accTyOf v).map fun t => .elemAcca f t
  | 0x95 => (tyOf v).map fun t => .elemAccd f t
  | 0x96 => if v = 0 then some (.elemAccz f) else none
  | 0x97 => if v = 0 then some (.elemAccs f) else none
  | 0x98 => if v = 0 then some (.elemAccl f) else none
  | _ => none

/-- The instruction of an opcode, a variant and fields, before the checks of WellFormed. -/
def elemOf (f : EFields) (op v : Nat) : Option Instr :=
  if 0x40 ≤ op ∧ op < 0x74 then floatOf f op v
  else if 0x10 ≤ op ∧ op < 0x40 then integerOf f op v
  else controlOf f op v

/-- The well-formed instruction of a 128-bit slot word (R68, R70); none fails the page with ENC. -/
def decodeElem (w : Nat) : Option Instr :=
  match fieldsOf w with
  | some f => (elemOf f (bits w 120 8) (bits w 116 4)).filter Instr.wf
  | none => none

/-- OP and VAR of an element instruction (R74-R79). -/
def Instr.opVar : Instr → Option (Nat × Nat)
  | .elemNop _ => some (0x00, 0) | .elemPass _ => some (0x01, 0) | .elemNullt _ => some (0x02, 0)
  | .elemTags _ m => some (0x03, m.code) | .elemPtst _ => some (0x04, 0) | .elemPsn _ => some (0x05, 0)
  | .elemTrapi _ => some (0x06, 0) | .elemHalt _ => some (0x07, 0)
  | .elemAdd _ t => some (0x10, t.code) | .elemSub _ t => some (0x11, t.code) | .elemMul _ t => some (0x12, t.code)
  | .elemMulh _ t => some (0x13, t.code) | .elemMad _ t => some (0x14, t.code) | .elemMin _ t => some (0x15, t.code)
  | .elemMax _ t => some (0x16, t.code) | .elemAbs _ t => some (0x17, t.code)
  | .elemAnd _ => some (0x18, 0) | .elemOr _ => some (0x19, 0) | .elemXor _ => some (0x1A, 0) | .elemAndn _ => some (0x1B, 0)
  | .elemShl _ t => some (0x1C, t.code) | .elemShr _ t => some (0x1D, t.code) | .elemSar _ t => some (0x1E, t.code)
  | .elemRot _ t => some (0x1F, t.code) | .elemClz _ t => some (0x20, t.code) | .elemPopc _ t => some (0x21, t.code)
  | .elemClmul _ t => some (0x22, t.code) | .elemSel _ t => some (0x23, t.code) | .elemMov _ => some (0x24, 0)
  | .elemShuf _ t => some (0x25, t.code) | .elemBcast _ t => some (0x26, t.code)
  | .elemCmp _ c t => some (0x28 + c.code, t.code) | .elemLred _ o t => some (0x30 + o.code, t.code)
  | .elemScan _ o t => some (0x38 + o.code, t.code)
  | .elemFadd _ t r np => some (0x40 + t.code, r.code + 8 * np.toNat)
  | .elemFsub _ t r np => some (0x44 + t.code, r.code + 8 * np.toNat)
  | .elemFmul _ t r np => some (0x48 + t.code, r.code + 8 * np.toNat)
  | .elemFfma _ t r np => some (0x4C + t.code, r.code + 8 * np.toNat)
  | .elemFmin _ t np => some (0x50 + t.code, 8 * np.toNat) | .elemFmax _ t np => some (0x54 + t.code, 8 * np.toNat)
  | .elemFcmp _ c t np => some (0x58 + t.code, c.code + 8 * np.toNat)
  | .elemFdiv _ t r np => some (0x5C + t.code, r.code + 8 * np.toNat)
  | .elemFsqrt _ t r np => some (0x60 + t.code, r.code + 8 * np.toNat)
  | .elemFrcp _ t np => some (0x64 + t.code, 8 * np.toNat) | .elemFrsq _ t np => some (0x68 + t.code, 8 * np.toNat)
  | .elemFexp2 _ t np => some (0x6C + t.code, 8 * np.toNat) | .elemFlog2 _ t np => some (0x70 + t.code, 8 * np.toNat)
  | .elemCvt _ _ _ r sat => some (0x78, r.code + 8 * sat.toNat) | .elemPack _ _ _ r sat => some (0x79, r.code + 8 * sat.toNat)
  | .elemUnpk _ _ _ => some (0x7A, 0)
  | .elemLd _ s => some (0x80, s.code) | .elemSt _ s => some (0x81, s.code) | .elemLda _ s => some (0x82, s.code)
  | .elemStl _ s => some (0x83, s.code) | .elemAmo _ h => some (0x84, h.val) | .elemVamo _ w => some (0x85, w.toNat)
  | .elemCst _ s => some (0x86, s.code)
  | .elemLdst _ => some (0x90, 0) | .elemLdcb _ => some (0x91, 0) | .elemSwapw _ => some (0x92, 0)
  | .elemMma _ zs tor => some (0x93, zs.toNat + 4 * tor.toNat)
  | .elemAcca _ t => some (0x94, t.code) | .elemAccd _ t => some (0x95, t.code) | .elemAccz _ => some (0x96, 0)
  | .elemAccs _ => some (0x97, 0) | .elemAccl _ => some (0x98, 0)
  | _ => none

/-- The slot word of an element instruction (R68). -/
def encodeElem (i : Instr) : Option Nat :=
  match i.opVar, i.fields? with
  | some (op, v), some f => some (f.word op v)
  | _, _ => none

/-! ## Sequencer words (R80, R81) -/

def szOf (n : Nat) : Option Sz :=
  match n with
  | 0 => some .b1 | 1 => some .b2 | 2 => some .b4 | 3 => some .b8 | _ => none
def Sz.code : Sz → Nat
  | .b1 => 0 | .b2 => 1 | .b4 => 2 | .b8 => 3

def ordOf (n : Nat) : Ord :=
  match n with
  | 0 => .relaxed | 1 => .acq | 2 => .rel | _ => .ar
def Ord.code : Ord → Nat
  | .relaxed => 0 | .acq => 1 | .rel => 2 | .ar => 3

/-- Formats A and I: integer instructions. -/
def seqIntOf (w : Nat) : Option Instr :=
  let xd := xreg (bits w 51 5); let xa := xreg (bits w 46 5); let xb := xreg (bits w 41 5)
  let n := bits w 40 1 == 1; let lo := bits w 0 40; let imm := BitVec.ofNat 32 (bits w 0 32)
  let mid := bits w 32 14
  let r3 := fun i => if lo = 0 ∧ n = false then some i else none
  let r3n := fun i => if lo = 0 then some i else none
  let r2 := fun i => if bits w 0 46 = 0 then some i else none
  let im := fun i => if mid = 0 then some i else none
  match bits w 56 8 with
  | 0x00 => r3 (.seqAdd xd xa xb) | 0x01 => r3 (.seqSub xd xa xb) | 0x02 => r3 (.seqMul xd xa xb)
  | 0x03 => r3n (.seqMulh xd xa xb n) | 0x04 => r3n (.seqDiv xd xa xb n) | 0x05 => r3n (.seqRem xd xa xb n)
  | 0x06 => r3 (.seqAnd xd xa xb) | 0x07 => r3 (.seqOr xd xa xb) | 0x08 => r3 (.seqXor xd xa xb)
  | 0x09 => r3 (.seqShl xd xa xb) | 0x0A => r3 (.seqShr xd xa xb) | 0x0B => r3 (.seqSar xd xa xb)
  | 0x0C => r3n (.seqMin xd xa xb n) | 0x0D => r3n (.seqMax xd xa xb n)
  | 0x0E => r2 (.seqClz xd xa) | 0x0F => r2 (.seqPopc xd xa)
  | 0x40 => im (.seqAddi xd xa imm) | 0x41 => im (.seqAndi xd xa imm) | 0x42 => im (.seqOri xd xa imm)
  | 0x43 => im (.seqXori xd xa imm)
  | 0x44 => if bits w 6 40 = 0 then some (.seqShli xd xa (Fin.ofNat 64 (bits w 0 6))) else none
  | 0x45 => if bits w 6 40 = 0 then some (.seqShri xd xa (Fin.ofNat 64 (bits w 0 6))) else none
  | 0x46 => if bits w 6 40 = 0 then some (.seqSari xd xa (Fin.ofNat 64 (bits w 0 6))) else none
  | 0x47 => if bits w 32 19 = 0 then some (.seqLi xd imm) else none
  | 0x48 => im (.seqLih xd xa imm)
  | _ => none

/-- Formats B and M: branches and memory. -/
def seqMemOf (w : Nat) : Option Instr :=
  let xd := xreg (bits w 51 5); let xa := xreg (bits w 46 5); let xb := xreg (bits w 41 5)
  let off := BitVec.ofNat 24 (bits w 0 24)
  let xd0 := bits w 51 5 == 0; let xa0 := bits w 46 5 == 0; let xb0 := bits w 41 5 == 0
  let b0 := bits w 24 17 == 0
  let n := bits w 32 1 == 1; let n0 := bits w 32 1 == 0
  let sc0 := bits w 35 3 == 0; let o := bits w 33 2; let fn0 := bits w 27 5 == 0; let z0 := bits w 24 3 == 0
  let sz0 := bits w 38 3 == 0
  match bits w 56 8 with
  | 0x60 => if b0 && xd0 then some (.seqBeq xa xb off) else none
  | 0x61 => if b0 && xd0 then some (.seqBne xa xb off) else none
  | 0x62 => if b0 && xd0 then some (.seqBlt xa xb off) else none
  | 0x63 => if b0 && xd0 then some (.seqBge xa xb off) else none
  | 0x64 => if b0 && xd0 then some (.seqBltn xa xb off) else none
  | 0x65 => if b0 && xd0 then some (.seqBgen xa xb off) else none
  | 0x66 => if b0 && xd0 && xa0 && xb0 then some (.seqJ off) else none
  | 0x67 => if b0 && xa0 && xb0 then some (.seqJal xd off) else none
  | 0x68 => if b0 && xd0 && xb0 then some (.seqJi xa off) else none
  | 0x69 => if b0 && xb0 then some (.seqJali xd xa off) else none
  | 0x70 => match szOf (bits w 38 3) with
    | some sz => if xb0 && sc0 && o == 0 && fn0 && z0 then some (.seqLd xd xa sz n off) else none
    | none => none
  | 0x71 => match szOf (bits w 38 3) with
    | some sz => if xd0 && n0 && sc0 && o == 0 && fn0 && z0 then some (.seqSt xa xb sz off) else none
    | none => none
  | 0x72 => match szOf (bits w 38 3), scopeOf (bits w 35 3) with
    | some sz, some sc => if xb0 && o == 1 && fn0 && z0 then some (.seqLda xd xa sz n sc off) else none
    | _, _ => none
  | 0x73 => match szOf (bits w 38 3), scopeOf (bits w 35 3) with
    | some sz, some sc => if xd0 && n0 && o == 2 && fn0 && z0 then some (.seqStl xa xb sz sc off) else none
    | _, _ => none
  | 0x74 => match szOf (bits w 38 3), scopeOf (bits w 35 3) with
    | some sz, some sc => if n0 && z0 then some (.seqAmo xd xa xb sz sc (ordOf o) (Fin.ofNat 32 (bits w 27 5)) off) else none
    | _, _ => none
  | 0x75 => match scopeOf (bits w 35 3) with
    | some sc => if xd0 && xa0 && xb0 && sz0 && n0 && fn0 && z0 && bits w 0 24 == 0 then some (.seqFence sc (ordOf o)) else none
    | none => none
  | 0x76 => if xd0 && xb0 && bits w 24 17 == 0 then some (.seqMon xa off) else none
  | 0x77 => if xa0 && bits w 0 41 == 0 then some (.seqMwait xd xb) else none
  | _ => none

/-- Format F: fabric and system instructions. RESUME (0x89) is answered as resumeRestore: which of its four rows runs is
decided by the record's KIND when it executes. A CSRWR naming SQ_SWITCH is threadSwitch (R248). -/
def seqFabOf (w : Nat) : Option Instr :=
  let xd := xreg (bits w 51 5); let xa := xreg (bits w 46 5); let xb := xreg (bits w 41 5); let xc := xreg (bits w 36 5)
  let xd0 := bits w 51 5 == 0; let xa0 := bits w 46 5 == 0; let xb0 := bits w 41 5 == 0; let xc0 := bits w 36 5 == 0
  let sc0 := bits w 33 3 == 0; let w0 := bits w 32 1 == 0; let imm := bits w 0 32
  let z := xc0 && sc0 && w0
  match bits w 56 8 with
  | 0x80 => if z && imm == 0 then some (.seqPlace xd xa xb) else none
  | 0x81 => if z && imm == 0 && xd0 then some (.seqArm xa xb) else none
  | 0x82 => if z && imm == 0 && xb0 then some (.seqWbill xd xa) else none
  | 0x83 => if z && imm == 0 && xb0 then some (.seqWaitw xd xa) else none
  | 0x84 => if z && imm == 0 && xd0 && xb0 then some (.seqDrain xa) else none
  | 0x85 => if z && imm == 0 then some (.seqRecfg xd xa xb) else none
  | 0x86 => if z && xa0 && xb0 && decide (imm < 64) then
      some (.seqBankcfg xd (Fin.ofNat 16 imm) (BitVec.ofNat 2 (imm / 16))) else none
  | 0x87 => if z && xd0 && xb0 && decide (imm < 16) then some (.seqPlane xa (Fin.ofNat 16 imm)) else none
  | 0x88 => if z && imm == 0 && xb0 then some (.seqCut xd xa) else none
  | 0x89 => if z && imm == 0 && xb0 then some (.resumeRestore xd xa) else none
  | 0x90 => if z && xb0 && decide (imm < 4) then some (.seqSopen xd xa (Fin.ofNat 4 imm)) else none
  | 0x91 => if z && xd0 && decide (imm < 4) then some (.seqSclose xa xb (Fin.ofNat 4 imm)) else none
  | 0x92 => if z && xd0 && xa0 && xb0 && decide (imm < 4) then some (.seqSbar (Fin.ofNat 4 imm)) else none
  | 0x93 => if z && imm == 0 && xd0 then some (.seqPqpush xa xb) else none
  | 0x94 => if sc0 && xa0 && xb0 && imm == 0 then
      some (if w0 then .seqPqpop xd xc else .seqPqpopW1 xd xc) else none
  | 0x95 => if z && imm == 0 && xd0 then some (.seqExpect xa xb) else none
  | 0x96 => if z && decide (imm < 65536) then
      some (.seqAmsend xd xa xb (BitVec.ofNat 8 imm) (BitVec.ofNat 8 (imm / 256))) else none
  | 0x97 => match scopeOf (bits w 33 3) with
    | some sc => if xc0 && w0 && xd0 && xb0 && imm == 0 then some (.seqBar xa sc) else none
    | none => none
  | 0xA0 => if z && xd0 && xa0 && xb0 && decide (imm < 65536) then some (.seqTrap (BitVec.ofNat 16 imm)) else none
  | 0xA1 => if z && xd0 && xa0 && xb0 && imm == 0 then some .seqEret else none
  | 0xA2 => if z && xa0 && xb0 && decide (imm < 4096) then some (.seqCsrrd xd (BitVec.ofNat 12 imm)) else none
  | 0xA3 => if z && xd0 && xb0 && decide (imm < 4096) then
      some (if imm = 0x008 then .threadSwitch xa else .seqCsrwr xa (BitVec.ofNat 12 imm)) else none
  | 0xA4 => if z && xb0 && decide (imm < 65536) then some (.seqFwcall xd xa (BitVec.ofNat 16 imm)) else none
  | 0xA5 => if z && xd0 && xa0 && xb0 && imm == 0 then some .seqHalt else none
  | _ => none

/-- The instruction of a 64-bit sequencer word; none raises ILLEGAL (R81). -/
def decodeSeq (w : Nat) : Option Instr :=
  let op := bits w 56 8
  (if op < 0x60 then seqIntOf w else if op < 0x80 then seqMemOf w else seqFabOf w).filter Instr.wf

def wA (op : Nat) (xd xa xb : XReg) (n : Bool) : Nat :=
  op * 2 ^ 56 + xd.val * 2 ^ 51 + xa.val * 2 ^ 46 + xb.val * 2 ^ 41 + n.toNat * 2 ^ 40
def wI (op : Nat) (xd xa : XReg) (imm : Nat) : Nat := op * 2 ^ 56 + xd.val * 2 ^ 51 + xa.val * 2 ^ 46 + imm
def wB (op : Nat) (xd xa xb : XReg) (off : BitVec 24) : Nat :=
  op * 2 ^ 56 + xd.val * 2 ^ 51 + xa.val * 2 ^ 46 + xb.val * 2 ^ 41 + off.toNat
def wM (op : Nat) (xd xa xb : XReg) (sz sc o : Nat) (n : Bool) (fn : Nat) (disp : BitVec 24) : Nat :=
  op * 2 ^ 56 + xd.val * 2 ^ 51 + xa.val * 2 ^ 46 + xb.val * 2 ^ 41 + sz * 2 ^ 38 + sc * 2 ^ 35 + o * 2 ^ 33
    + n.toNat * 2 ^ 32 + fn * 2 ^ 27 + disp.toNat
def wF (op : Nat) (xd xa xb xc : XReg) (sc : Nat) (w : Bool) (imm : Nat) : Nat :=
  op * 2 ^ 56 + xd.val * 2 ^ 51 + xa.val * 2 ^ 46 + xb.val * 2 ^ 41 + xc.val * 2 ^ 36 + sc * 2 ^ 33 + w.toNat * 2 ^ 32 + imm

/-- The 64-bit word of a sequencer instruction (R80, R81); the four rows of RESUME share one word. -/
def encodeSeq : Instr → Option Nat
  | .seqAdd d a b => some (wA 0x00 d a b false) | .seqSub d a b => some (wA 0x01 d a b false)
  | .seqMul d a b => some (wA 0x02 d a b false) | .seqMulh d a b n => some (wA 0x03 d a b n)
  | .seqDiv d a b n => some (wA 0x04 d a b n) | .seqRem d a b n => some (wA 0x05 d a b n)
  | .seqAnd d a b => some (wA 0x06 d a b false) | .seqOr d a b => some (wA 0x07 d a b false)
  | .seqXor d a b => some (wA 0x08 d a b false) | .seqShl d a b => some (wA 0x09 d a b false)
  | .seqShr d a b => some (wA 0x0A d a b false) | .seqSar d a b => some (wA 0x0B d a b false)
  | .seqMin d a b n => some (wA 0x0C d a b n) | .seqMax d a b n => some (wA 0x0D d a b n)
  | .seqClz d a => some (wA 0x0E d a 0 false) | .seqPopc d a => some (wA 0x0F d a 0 false)
  | .seqAddi d a i => some (wI 0x40 d a i.toNat) | .seqAndi d a i => some (wI 0x41 d a i.toNat)
  | .seqOri d a i => some (wI 0x42 d a i.toNat) | .seqXori d a i => some (wI 0x43 d a i.toNat)
  | .seqShli d a s => some (wI 0x44 d a s.val) | .seqShri d a s => some (wI 0x45 d a s.val)
  | .seqSari d a s => some (wI 0x46 d a s.val) | .seqLi d i => some (wI 0x47 d 0 i.toNat)
  | .seqLih d a i => some (wI 0x48 d a i.toNat)
  | .seqBeq a b o => some (wB 0x60 0 a b o) | .seqBne a b o => some (wB 0x61 0 a b o)
  | .seqBlt a b o => some (wB 0x62 0 a b o) | .seqBge a b o => some (wB 0x63 0 a b o)
  | .seqBltn a b o => some (wB 0x64 0 a b o) | .seqBgen a b o => some (wB 0x65 0 a b o)
  | .seqJ o => some (wB 0x66 0 0 0 o) | .seqJal d o => some (wB 0x67 d 0 0 o)
  | .seqJi a o => some (wB 0x68 0 a 0 o) | .seqJali d a o => some (wB 0x69 d a 0 o)
  | .seqLd d a z n p => some (wM 0x70 d a 0 z.code 0 0 n 0 p) | .seqSt a b z p => some (wM 0x71 0 a b z.code 0 0 false 0 p)
  | .seqLda d a z n s p => some (wM 0x72 d a 0 z.code s.code 1 n 0 p)
  | .seqStl a b z s p => some (wM 0x73 0 a b z.code s.code 2 false 0 p)
  | .seqAmo d a b z s o h p => some (wM 0x74 d a b z.code s.code o.code false h.val p)
  | .seqFence s o => some (wM 0x75 0 0 0 0 s.code o.code false 0 0)
  | .seqMon a p => some (wM 0x76 0 a 0 0 0 0 false 0 p) | .seqMwait d b => some (wM 0x77 d 0 b 0 0 0 false 0 0)
  | .seqPlace d a b => some (wF 0x80 d a b 0 0 false 0) | .seqArm a b => some (wF 0x81 0 a b 0 0 false 0)
  | .seqWbill d a => some (wF 0x82 d a 0 0 0 false 0) | .seqWaitw d a => some (wF 0x83 d a 0 0 0 false 0)
  | .seqDrain a => some (wF 0x84 0 a 0 0 0 false 0) | .seqRecfg d a b => some (wF 0x85 d a b 0 0 false 0)
  | .seqBankcfg d b m => some (wF 0x86 d 0 0 0 0 false (b.val + 16 * m.toNat))
  | .seqPlane a e => some (wF 0x87 0 a 0 0 0 false e.val) | .seqCut d a => some (wF 0x88 d a 0 0 0 false 0)
  | .resumeRestore d a | .resumeRelease d a | .resumeContinue d a | .resumeAbort d a => some (wF 0x89 d a 0 0 0 false 0)
  | .seqSopen d a k => some (wF 0x90 d a 0 0 0 false k.val) | .seqSclose a b k => some (wF 0x91 0 a b 0 0 false k.val)
  | .seqSbar k => some (wF 0x92 0 0 0 0 0 false k.val) | .seqPqpush a b => some (wF 0x93 0 a b 0 0 false 0)
  | .seqPqpop d c => some (wF 0x94 d 0 0 c 0 false 0) | .seqPqpopW1 d c => some (wF 0x94 d 0 0 c 0 true 0)
  | .seqExpect a b => some (wF 0x95 0 a b 0 0 false 0)
  | .seqAmsend d a b h f => some (wF 0x96 d a b 0 0 false (h.toNat + 256 * f.toNat))
  | .seqBar a s => some (wF 0x97 0 a 0 0 s.code false 0) | .seqTrap c => some (wF 0xA0 0 0 0 0 0 false c.toNat)
  | .seqEret => some (wF 0xA1 0 0 0 0 0 false 0) | .seqCsrrd d c => some (wF 0xA2 d 0 0 0 0 false c.toNat)
  | .seqCsrwr a c => some (wF 0xA3 0 a 0 0 0 false c.toNat) | .threadSwitch a => some (wF 0xA3 0 a 0 0 0 false 0x008)
  | .seqFwcall d a v => some (wF 0xA4 d a 0 0 0 false v.toNat) | .seqHalt => some (wF 0xA5 0 0 0 0 0 false 0)
  | _ => none

/-- The words of an instruction: the bits of a slot (128) or of a sequencer word (64); an event has no word. -/
inductive Code where
  | slot (w : Nat) | seq (w : Nat) | event
deriving DecidableEq, Repr

/-- The encoder (R68, R80). -/
def encode (i : Instr) : Code :=
  match encodeElem i, encodeSeq i with
  | some w, _ => .slot w
  | none, some w => .seq w
  | none, none => .event

/-- The decoder of whole words. -/
def decode : Code → Option Instr
  | .slot w => decodeElem w
  | .seq w => decodeSeq w
  | .event => none

/-- What the words of an instruction decode to: itself, but RESUME's one word, whose row is decided when it executes (R233);
none for an event. -/
def Instr.asWord (i : Instr) : Option Instr :=
  match encode i with
  | .event => none
  | _ => match i with
    | .resumeRelease d a => some (.resumeRestore d a)
    | .resumeContinue d a => some (.resumeRestore d a)
    | .resumeAbort d a => some (.resumeRestore d a)
    | j => some j

/-- Whether the bits fit the words of their format. -/
def Code.fits : Code → Bool
  | .slot w => decide (w < 2 ^ 128)
  | .seq w => decide (w < 2 ^ 64)
  | .event => true

/-- The instruction the decoder reads from bits w: 64 bits are a sequencer word, 128 bits a slot (R68, R80). Events have
no encoding. The table gives its rows no bits, so a shorter count is read as a sequencer word whose upper bits are 0. -/
def decodeTableWord (nbits w : Nat) : Option Instr :=
  if nbits = 128 then decodeElem (w % 2 ^ 128) else decodeSeq (w % 2 ^ 64)

end Sys2Proof
end

