-- ==== Sys2Proof/Config.lean ====
section
/-! DEFINITION. What one implementation fixes and what the spec leaves open: constants WITHOUT a body, so that no
proof can see their value. A free value is one of these applied to the model's own counter (State.free, log entry 2). -/

namespace Sys2Proof.Config

/-- The n-th free bit string the machine draws (log entry 2): random keys, salts, and every value the spec leaves open. -/
opaque freeBits (w n : Nat) : BitVec w
/-- The n-th free choice of an index (plain PQPOP's window R240; the free plane PLACE takes with FIX = 0, R220). -/
opaque freePick (n : Nat) : Nat
/-- The n-th free byte of a memory content that the spec leaves open, by address. -/
opaque freeByte (n addr : Nat) : BitVec 8
/-- The sectors, by package offset, that the n-th partition reset finds in lines that cannot be trusted (R477). -/
opaque untrusted (n : Nat) : List Nat
/-- The effect of an installed handler's microcode (R506), whose format the spec does not give: the new target sector
and the result, from the image digest, the sector, the target's offset in it and the operand. -/
opaque handlerMicrocode (image : BitVec 256) (sector : BitVec 256) (off : Nat) (operand : BitVec 64) : BitVec 256 × BitVec 64
/-- The signing modulus of the signet (R481), fused. -/
opaque signModulus : Nat
/-- The private exponent of the signing key (R481). -/
opaque signPrivate : Nat
/-- The wrapping modulus of the signet (R481). -/
opaque wrapModulus : Nat
/-- The private exponent of the wrapping key (R481). -/
opaque wrapPrivate : Nat
/-- The digest of the Bexsol firmware key's modulus (R482), fused. -/
opaque firmwareKey : BitVec 256
/-- The least security version number a firmware image may have (R482), fused. -/
opaque minSvn : BitVec 16
/-- The digest of the Bexsol library key (R490). -/
opaque bexsolLibraryKey : BitVec 256
/-- The modulus of the Bexsol handler key (R506). -/
opaque bexsolHandlerModulus : Nat
/-- Where the signature stands in a handler image (R506): the image's length in bytes, its signature following; the
spec does not give the format. -/
opaque handlerImageBytes : Nat
/-- The firmware trap entry of each cluster (R208), before its alignment to 64. -/
opaque firmwareEntry (cluster : Nat) : BitVec 64
/-- The answer of the hub to an SPDM attestation request (R518, DSP0275), the n-th one. -/
opaque spdmAnswer (n : Nat) (req : List (BitVec 8)) : List (BitVec 8)
/-- The first byte of hub-reserved memory in HBM4 and its length (R438, R442): fixed by the firmware. -/
opaque hubReservedBase : Nat
/-- See hubReservedBase. -/
opaque hubReservedBytes : Nat
/-- The n-th reading of a junction temperature of die d (0-3) or of the hub die (4) (R518). -/
opaque junction (n : Nat) (d : Fin 5) : BitVec 8

end Sys2Proof.Config
end

