-- ==== Sys2Proof/Machine/Store.lean ====
section
/-! DEFINITION. Sparse tables (sorted lists of numbered entries) and byte memory in its canonical form: addresses strictly
rising, no entry equal to what an unlisted address reads as. -/

namespace Sys2Proof.Machine

/-- A sparse table: entries in rising order of their number. -/
abbrev Tab (α : Type) := List (Nat × α)

/-- The entry numbered k, if there is one. -/
def tfind {α : Type} (t : Tab α) (k : Nat) : Option α :=
  match t with
  | [] => none
  | (j, v) :: r => if j = k then some v else tfind r k

/-- The entry numbered k, or d. -/
def tget {α : Type} (t : Tab α) (k : Nat) (d : α) : α := (tfind t k).getD d

/-- The table with entry k set to v. -/
def tset {α : Type} (t : Tab α) (k : Nat) (v : α) : Tab α :=
  match t with
  | [] => [(k, v)]
  | (j, u) :: r => if j < k then (j, u) :: tset r k v else if j = k then (k, v) :: r else (k, v) :: (j, u) :: r

/-- The table without entry k. -/
def tdel {α : Type} (t : Tab α) (k : Nat) : Tab α := t.filter (fun e => e.1 != k)

/-- Every entry changed by f. -/
def tmap {α : Type} (f : Nat → α → α) (t : Tab α) : Tab α := t.map (fun e => (e.1, f e.1 e.2))

/-- Memory: listed bytes by address. -/
abbrev Memory := List Host.Cell

/-- What an unlisted address reads as: bring-up writes zero to all of device memory (R434 step 2). -/
def unlisted : Byte := 0

/-- The byte at an address. -/
def mread (m : Memory) (a : Nat) : Byte :=
  match m with
  | [] => unlisted
  | (b, v) :: r => if b = a then v else if a < b then unlisted else mread r a

/-- The memory with a byte written; writing what an unlisted address reads as removes the entry. -/
def mwrite (m : Memory) (a : Nat) (v : Byte) : Memory :=
  match m with
  | [] => if v = unlisted then [] else [(a, v)]
  | (b, u) :: r =>
    if b < a then (b, u) :: mwrite r a v
    else if b = a then (if v = unlisted then r else (a, v) :: r)
    else if v = unlisted then (b, u) :: r else (a, v) :: (b, u) :: r

/-- Addresses rise strictly from above lo and no listed byte equals the unlisted one. -/
def Memory.wfFrom (lo : Nat) (m : Memory) : Bool :=
  match m with
  | [] => true
  | (a, v) :: r => decide (lo ≤ a) && v != unlisted && Memory.wfFrom (a + 1) r

/-- The canonical form of memory. -/
def Memory.wf (m : Memory) : Bool := Memory.wfFrom 0 m

/-- n bytes from address a, little-endian, as a number (R7). -/
def mreadN (m : Memory) (a : Nat) : Nat → Nat
  | 0 => 0
  | n + 1 => (mread m a).toNat + 256 * mreadN m (a + 1) n

/-- The low n bytes of v stored from address a, little-endian (R7). -/
def mwriteN (m : Memory) (a : Nat) : Nat → Nat → Memory
  | 0, _ => m
  | n + 1, v => mwriteN (mwrite m a (BitVec.ofNat 8 v)) (a + 1) n (v / 256)

/-- The bytes from address a on. -/
def mreadBytes (m : Memory) (a : Nat) : Nat → List Byte
  | 0 => []
  | n + 1 => mread m a :: mreadBytes m (a + 1) n

/-- A list of bytes stored from address a. -/
def mwriteBytes (m : Memory) (a : Nat) : List Byte → Memory
  | [] => m
  | b :: r => mwriteBytes (mwrite m a b) (a + 1) r

/-- The bytes of v selected by the mask (bit i for byte i), stored from address a: n bytes are looked at. -/
def mwriteMask (m : Memory) (a : Nat) : Nat → Nat → Nat → Memory
  | 0, _, _ => m
  | n + 1, mask, v =>
    mwriteMask (if mask % 2 = 1 then mwrite m a (BitVec.ofNat 8 v) else m) (a + 1) n (mask / 2) (v / 256)

/-- The memory with a range of bytes written zero: the listed bytes of the range go. -/
def mzero (m : Memory) (lo hi : Nat) : Memory := m.filter (fun c => decide (c.1 < lo ∨ hi ≤ c.1))

/-- The low n bytes of a number, little-endian. -/
def bytesLE : Nat → Nat → List Byte
  | 0, _ => []
  | n + 1, v => BitVec.ofNat 8 v :: bytesLE n (v / 256)

/-- The number of a list of bytes, little-endian. -/
def ofBytesLE : List Byte → Nat
  | [] => 0
  | b :: r => b.toNat + 256 * ofBytesLE r

end Sys2Proof.Machine
end

