-- ==== Sys2Proof/Machine/Crypto.lean ====
section
/-! DEFINITION. The published algorithms that the spec names: SHA-256, HMAC and HKDF (RFC 5869), AES-256 with XTS and GCM,
RSA-3072 with PSS and OAEP (R481, R484, R494). Byte strings are lists of bytes in the order of their standard; the numbers
that the spec stores are little-endian (R7, log entry 30). -/

namespace Sys2Proof.Machine

abbrev Bytes := List Byte

/-! ## Big-endian numbers, as the standards write them -/

def beNat (l : Bytes) : Nat := l.foldl (fun a b => a * 256 + b.toNat) 0
def beBytes (n v : Nat) : Bytes := (bytesLE n v).reverse
def xorB (a b : Bytes) : Bytes := List.zipWith (· ^^^ ·) a b
def ascii (s : String) : Bytes := s.toList.map (fun c => BitVec.ofNat 8 c.toNat)
def zerosB (n : Nat) : Bytes := List.replicate n 0

/-! ## SHA-256 -/

def m32 (x : Nat) : Nat := x % 4294967296
def rotr (x n : Nat) : Nat := m32 (x / 2 ^ n + x * 2 ^ (32 - n))

def primes64 : List Nat :=
  [2, 3, 5, 7, 11, 13, 17, 19, 23, 29, 31, 37, 41, 43, 47, 53, 59, 61, 67, 71, 73, 79, 83, 89, 97, 101, 103, 107, 109, 113,
   127, 131] ++
  [137, 139, 149, 151, 157, 163, 167, 173, 179, 181, 191, 193, 197, 199, 211, 223, 227, 229, 233, 239, 241, 251, 257, 263,
   269, 271, 277, 281, 283, 293, 307, 311]

/-- The largest r with r^k at most n, found bit by bit from bit b. -/
def irootAux (n k : Nat) : Nat → Nat → Nat
  | 0, r => r
  | b + 1, r => if (r + 2 ^ b) ^ k ≤ n then irootAux n k b (r + 2 ^ b) else irootAux n k b r

/-- The first 32 bits of the fractional part of the k-th root of p. -/
def fracRoot (k p : Nat) : Nat := m32 (irootAux (p * 2 ^ (32 * k)) k 40 0)

def shaK : List Nat := primes64.map (fracRoot 3)
def shaH0 : List Nat := (primes64.take 8).map (fracRoot 2)

/-- The message schedule, newest word first: w holds the last 16 words at least. -/
def shaSchedule : Nat → List Nat → List Nat
  | 0, w => w
  | k + 1, w =>
    let g := fun i => w.getD i 0
    let s0 := let x := g 14; (rotr x 7) ^^^ (rotr x 18) ^^^ (x / 8)
    let s1 := let x := g 1; (rotr x 17) ^^^ (rotr x 19) ^^^ (x / 1024)
    shaSchedule k (m32 (s1 + g 6 + s0 + g 15) :: w)

def shaRound (st : List Nat) (kw : Nat × Nat) : List Nat :=
  match st with
  | [a, b, c, d, e, f, g, h] =>
    let s1 := (rotr e 6) ^^^ (rotr e 11) ^^^ (rotr e 25)
    let ch := (e &&& f) ^^^ ((4294967295 - e) &&& g)
    let t1 := h + s1 + ch + kw.1 + kw.2
    let s0 := (rotr a 2) ^^^ (rotr a 13) ^^^ (rotr a 22)
    let mj := (a &&& b) ^^^ (a &&& c) ^^^ (b &&& c)
    [m32 (t1 + s0 + mj), a, b, c, m32 (d + t1), e, f, g]
  | l => l

/-- The big-endian 32-bit words of a byte string, at most n of them. -/
def words32 : Nat → Bytes → List Nat
  | 0, _ => []
  | n + 1, l => beNat (l.take 4) :: words32 n (l.drop 4)

def shaBlock (h : List Nat) (blk : Bytes) : List Nat :=
  let w := (shaSchedule 48 (words32 16 blk).reverse).reverse
  let r := (shaK.zip w).foldl shaRound h
  List.zipWith (fun a b => m32 (a + b)) h r

def shaBlocks : Nat → List Nat → Bytes → List Nat
  | 0, h, _ => h
  | n + 1, h, l => shaBlocks n (shaBlock h (l.take 64)) (l.drop 64)

def sha256 (m : Bytes) : Bytes :=
  let n := m.length
  let z := (119 - n % 64) % 64
  let p := m ++ [0x80] ++ zerosB z ++ beBytes 8 (8 * n)
  (shaBlocks (p.length / 64) shaH0 p).flatMap (beBytes 4)

/-- A digest as the number whose little-endian bytes it is. -/
def digest (m : Bytes) : BitVec 256 := BitVec.ofNat 256 (ofBytesLE (sha256 m))

def hmac (k m : Bytes) : Bytes :=
  let k := if k.length ≤ 64 then k else sha256 k
  let k := k ++ zerosB (64 - k.length)
  sha256 (k.map (· ^^^ 0x5C) ++ sha256 (k.map (· ^^^ 0x36) ++ m))

/-- HKDF with no salt, 32 bytes out (R484). -/
def hkdf32 (ikm : Bytes) (info : String) : Bytes := hmac (hmac (zerosB 32) ikm) (ascii info ++ [1])

/-! ## AES-256 -/

def xtime (a : Nat) : Nat := if a < 128 then 2 * a else (2 * a) % 256 ^^^ 27
def gmulAux : Nat → Nat → Nat → Nat
  | 0, _, _ => 0
  | k + 1, a, b => (if b % 2 = 1 then a else 0) ^^^ gmulAux k (xtime a) (b / 2)
/-- The product in GF(2^8). -/
def gmul (a b : Nat) : Nat := gmulAux 8 a b
def gsq (a : Nat) : Nat := gmul a a
/-- a^254, the inverse in GF(2^8). -/
def ginv (a : Nat) : Nat :=
  let a2 := gsq a; let a3 := gmul a2 a; let a12 := gsq (gsq a3); let a15 := gmul a12 a3
  let a240 := gsq (gsq (gsq (gsq a15))); gmul (gmul a240 a12) a2
def rot8 (x n : Nat) : Nat := (x * 2 ^ n) % 256 + x / 2 ^ (8 - n)
def sboxOf (x : Nat) : Nat :=
  let b := ginv x
  b ^^^ rot8 b 1 ^^^ rot8 b 2 ^^^ rot8 b 3 ^^^ rot8 b 4 ^^^ 0x63
def invSboxOf (x : Nat) : Nat := ginv (rot8 x 1 ^^^ rot8 x 3 ^^^ rot8 x 6 ^^^ 0x05)
def sboxTab : Array Nat := ((List.range 256).map sboxOf).toArray
def invSboxTab : Array Nat := ((List.range 256).map invSboxOf).toArray
def sbox (x : Nat) : Nat := sboxTab.getD x 0
def invSbox (x : Nat) : Nat := invSboxTab.getD x 0

/-- The next words of the AES-256 key schedule, newest first, each four bytes. -/
def keyWords : Nat → Nat → Nat → List (List Nat) → List (List Nat)
  | 0, _, _, w => w
  | k + 1, i, rcon, w =>
    let t := w.headD []
    let t := if i % 8 = 0 then
        match t with
        | [a, b, c, d] => [sbox b ^^^ rcon, sbox c, sbox d, sbox a]
        | l => l
      else if i % 8 = 4 then t.map sbox else t
    keyWords k (i + 1) (if i % 8 = 0 then xtime rcon else rcon) (List.zipWith (· ^^^ ·) (w.getD 7 []) t :: w)

def chunk : Nat → Nat → List Nat → List (List Nat)
  | 0, _, _ => []
  | n + 1, k, l => l.take k :: chunk n k (l.drop k)

/-- The 15 round keys of 16 bytes. -/
def roundKeys (key : Bytes) : List (List Nat) :=
  chunk 15 16 ((keyWords 52 8 1 (chunk 8 4 (key.map (·.toNat))).reverse).reverse.flatten)

def permute (p : List Nat) (l : List Nat) : List Nat := p.map (fun i => l.getD i 0)
def shiftRows : List Nat := [0, 5, 10, 15, 4, 9, 14, 3, 8, 13, 2, 7, 12, 1, 6, 11]
def invShiftRows : List Nat := [0, 13, 10, 7, 4, 1, 14, 11, 8, 5, 2, 15, 12, 9, 6, 3]
def mixCol (m : List Nat) (c : List Nat) : List Nat :=
  (List.range 4).map (fun r => (List.range 4).foldl (fun acc k => acc ^^^ gmul (m.getD ((k + 4 - r) % 4) 0) (c.getD k 0)) 0)
def mixCols (m : List Nat) (l : List Nat) : List Nat := (chunk 4 4 l).flatMap (mixCol m)
def xorN (a b : List Nat) : List Nat := List.zipWith (· ^^^ ·) a b

def aesEncKeys (rk : List (List Nat)) (blk : Bytes) : Bytes :=
  let st := xorN (blk.map (·.toNat)) (rk.headD [])
  let st := ((rk.drop 1).take 13).foldl (fun s k => xorN (mixCols [2, 3, 1, 1] (permute shiftRows (s.map sbox))) k) st
  (xorN (permute shiftRows (st.map sbox)) (rk.getD 14 [])).map (BitVec.ofNat 8)

def aesDecKeys (rk : List (List Nat)) (blk : Bytes) : Bytes :=
  let rk := rk.reverse
  let st := xorN (blk.map (·.toNat)) (rk.headD [])
  let st := ((rk.drop 1).take 13).foldl
    (fun s k => mixCols [14, 11, 13, 9] (xorN ((permute invShiftRows s).map invSbox) k)) st
  (xorN ((permute invShiftRows st).map invSbox) (rk.getD 14 [])).map (BitVec.ofNat 8)

/-! ## XTS (R484): a data unit of 32 bytes -/

/-- The tweak times the primitive element, little-endian. -/
def xtsDouble (t : Nat) : Nat := (2 * t) % 2 ^ 128 ^^^ (if t < 2 ^ 127 then 0 else 0x87)

/-- One data unit of two blocks under K with the tweak number n. -/
def xtsUnit (enc : Bool) (k : BitVec 256) (n : Nat) (d : Bytes) : Bytes :=
  let kb := bytesLE 32 k.toNat
  let r1 := roundKeys (hkdf32 kb "xts-data")
  let t0 := ofBytesLE (aesEncKeys (roundKeys (hkdf32 kb "xts-tweak")) (bytesLE 16 n))
  let one := fun t b =>
    let tb := bytesLE 16 t
    xorB (if enc then aesEncKeys r1 (xorB b tb) else aesDecKeys r1 (xorB b tb)) tb
  one t0 (d.take 16) ++ one (xtsDouble t0) (d.drop 16)

/-! ## GCM -/

/-- The product in GF(2^128) in the bit order of GCM: x and y as big-endian numbers. -/
def ghMulAux : Nat → Nat → Nat → Nat → Nat
  | 0, _, _, z => z
  | k + 1, x, v, z =>
    let z := if x / 2 ^ k % 2 = 1 then z ^^^ v else z
    ghMulAux k x (if v % 2 = 1 then v / 2 ^^^ (0xE1 * 2 ^ 120) else v / 2) z
def ghMul (x y : Nat) : Nat := ghMulAux 128 x y 0

def ghash (h : Nat) : Nat → Nat → Bytes → Nat
  | 0, y, _ => y
  | n + 1, y, l =>
    let b := l.take 16
    ghash h n (ghMul (y ^^^ beNat (b ++ zerosB (16 - b.length))) h) (l.drop 16)

def pad16 (l : Bytes) : Bytes := l ++ zerosB ((16 - l.length % 16) % 16)

/-- One block of keystream: a 96-bit nonce in 12 bytes and a 32-bit counter. -/
def gcmBlock (rk : List (List Nat)) (nonce : Bytes) (c : Nat) : Bytes := aesEncKeys rk (nonce ++ beBytes 4 c)

def gcmStream (rk : List (List Nat)) (nonce : Bytes) : Nat → Nat → Bytes
  | 0, _ => []
  | n + 1, c => gcmBlock rk nonce c ++ gcmStream rk nonce n (c + 1)

/-- Encryption and decryption are the same stream, from counter 2. -/
def gcmCrypt (k : BitVec 256) (nonce d : Bytes) : Bytes :=
  xorB d (gcmStream (roundKeys (bytesLE 32 k.toNat)) nonce ((d.length + 15) / 16) 2)

def gcmTag (k : BitVec 256) (nonce aad c : Bytes) : Bytes :=
  let rk := roundKeys (bytesLE 32 k.toNat)
  let h := beNat (aesEncKeys rk (zerosB 16))
  let m := pad16 aad ++ pad16 c ++ beBytes 8 (8 * aad.length) ++ beBytes 8 (8 * c.length)
  xorB (beBytes 16 (ghash h (m.length / 16) 0 m)) (gcmBlock rk nonce 1)

/-! ## RSA-3072 -/

def powModAux (m : Nat) : Nat → Nat → Nat → Nat → Nat
  | 0, _, _, r => r
  | k + 1, b, e, r => powModAux m k (b * b % m) (e / 2) (if e % 2 = 1 then r * b % m else r)
def powMod (b e m : Nat) : Nat := powModAux m (Nat.log2 e + 1) (b % m) e (1 % m)

def mgf1Aux (seed : Bytes) : Nat → Nat → Bytes
  | 0, _ => []
  | n + 1, c => sha256 (seed ++ beBytes 4 c) ++ mgf1Aux seed n (c + 1)
def mgf1 (seed : Bytes) (n : Nat) : Bytes := (mgf1Aux seed ((n + 31) / 32) 0).take n

/-- EMSA-PSS with a 32-byte salt, 3,071 bits. -/
def pssEncode (m salt : Bytes) : Bytes :=
  let h := sha256 (zerosB 8 ++ sha256 m ++ salt)
  let db := zerosB 318 ++ [1] ++ salt
  let x := xorB db (mgf1 h 351)
  ((x.headD 0) &&& 0x7F) :: x.drop 1 ++ h ++ [0xBC]

def pssSign (n d : Nat) (salt m : Bytes) : Nat := powMod (beNat (pssEncode m salt)) d n

def pssVerify (n : Nat) (m : Bytes) (sig : Nat) : Bool :=
  let em := beBytes 384 (powMod sig 65537 n)
  let x := em.take 351
  let h := (em.drop 351).take 32
  let db := xorB x (mgf1 h 351)
  let db := ((db.headD 0) &&& 0x7F) :: db.drop 1
  let salt := db.drop 319
  decide (sig < n) && em.getLast? == some 0xBC && decide ((x.headD 0).toNat < 128)
    && db.take 319 == zerosB 318 ++ [1] && h == sha256 (zerosB 8 ++ sha256 m ++ salt)

/-- RSAES-OAEP, SHA-256: the 32-byte message of a ciphertext, if it is sound. -/
def oaepDecrypt (n d : Nat) (label : Bytes) (c : Nat) : Option Bytes :=
  let em := beBytes 384 (powMod c d n)
  let ms := (em.drop 1).take 32
  let mdb := em.drop 33
  let seed := xorB ms (mgf1 mdb 32)
  let db := xorB mdb (mgf1 seed 351)
  if decide (c < n) && em.headD 1 == 0 && db.take 32 == sha256 label && db.length == 351
      && (db.drop 32).take 286 == zerosB 286 && db.getD 318 0 == 1 then some (db.drop 319) else none

def oaepEncrypt (n e : Nat) (label seed m : Bytes) : Nat :=
  let db := sha256 label ++ zerosB 286 ++ [1] ++ m
  let mdb := xorB db (mgf1 seed 351)
  powMod (beNat ([0] ++ xorB seed (mgf1 mdb 32) ++ mdb)) e n

end Sys2Proof.Machine
end

