-- ==== Sys2Proof/Machine/Num.lean ====
section
/-! DEFINITION. Number formats and exact arithmetic (R88-R103, R109-R111, R151-R154): values as signed dyadics, one
rounding function, sums in a fixed order. -/

namespace Sys2Proof

/-! ## Values of a 256-bit operand (R88, R121) -/

/-- Value j of width w of the bits x. -/
def valAt (w x j : Nat) : Nat := bits x (w * j) w
/-- The values of width w of an operand, in ascending position. -/
def vals (w : Nat) (x : Lanes) : List Nat := (List.range (256 / w)).map (valAt w x.toNat)
/-- The number whose values of width w, from position 0, are those listed. -/
def joinVals (w : Nat) : List Nat → Nat
  | [] => 0
  | v :: r => v % 2 ^ w + 2 ^ w * joinVals w r
/-- The 256-bit result of a list of values. -/
def ofVals (w : Nat) (l : List Nat) : Lanes := BitVec.ofNat 256 (joinVals w l)
/-- A result with v at every position. -/
def bcastVal (w v : Nat) : Lanes := ofVals w (List.replicate (256 / w) v)
/-- The signed reading of a w-bit number. -/
def sgn (w v : Nat) : Int := if v % 2 ^ w < 2 ^ (w - 1) then ((v % 2 ^ w : Nat) : Int) else ((v % 2 ^ w : Nat) : Int) - 2 ^ w
/-- The w low bits of an integer. -/
def wrap (w : Nat) (v : Int) : Nat := (v % (2 ^ w : Nat)).toNat

/-! ## Formats (R90) -/

/-- A format: width, fraction bits, bias; e4m3 marks the format whose all-ones exponent is normal. -/
structure Fmt where
  w : Nat
  mb : Nat
  bias : Nat
  e4m3 : Bool := false
deriving DecidableEq, Repr

def fmtF64 : Fmt := { w := 64, mb := 52, bias := 1023 }
def fmtF32 : Fmt := { w := 32, mb := 23, bias := 127 }
def fmtBF16 : Fmt := { w := 16, mb := 7, bias := 127 }
def fmtF16 : Fmt := { w := 16, mb := 10, bias := 15 }
def fmtE4M3 : Fmt := { w := 8, mb := 3, bias := 7, e4m3 := true }
def fmtE5M2 : Fmt := { w := 8, mb := 2, bias := 15 }

/-- The format of a type; none for an integer type. -/
def Ty.fmt : Ty → Option Fmt
  | .f64 => some fmtF64 | .f32 => some fmtF32 | .bf16 => some fmtBF16 | .f16 => some fmtF16
  | .e4m3 => some fmtE4M3 | .e5m2 => some fmtE5M2
  | _ => none

def FltTy.fmt : FltTy → Fmt
  | .f64 => fmtF64 | .f32 => fmtF32 | .bf16 => fmtBF16 | .f16 => fmtF16

def IntTy.width : IntTy → Nat
  | .i8 | .n8 => 8 | .i16 | .n16 => 16 | .i32 | .n32 => 32 | .i64 | .n64 => 64

def IntTy.signed : IntTy → Bool
  | .i8 | .i16 | .i32 | .i64 => true
  | _ => false

def NatTy.width : NatTy → Nat
  | .n32 => 32 | .n64 => 64

/-- Whether a type is a signed integer type. -/
def Ty.signed : Ty → Bool
  | .i8 | .i16 | .i32 | .i64 => true
  | _ => false

/-- A value: NaN, an infinity, or (-1)^neg * m * 2^e. -/
inductive FVal where
  | nan
  | inf (neg : Bool)
  | fin (neg : Bool) (m : Nat) (e : Int)
deriving DecidableEq, Repr

/-- The exponent width of a format. -/
def Fmt.eb (f : Fmt) : Nat := f.w - 1 - f.mb
/-- The exponent of the least subnormal. -/
def Fmt.qmin (f : Fmt) : Int := 1 - (f.bias : Int) - (f.mb : Int)
/-- The canonical NaN (R90). -/
def Fmt.nan (f : Fmt) : Nat :=
  if f.e4m3 then 0x7F else (2 ^ f.eb - 1) * 2 ^ f.mb + 2 ^ (f.mb - 1)
def Fmt.signBit (f : Fmt) (neg : Bool) : Nat := if neg then 2 ^ (f.w - 1) else 0
/-- The encoding of the largest finite value. -/
def Fmt.maxCode (f : Fmt) : Nat := if f.e4m3 then 0x7E else (2 ^ f.eb - 1) * 2 ^ f.mb - 1
/-- An infinity; .E4M3 has none and gives the canonical NaN (R95, R97). -/
def Fmt.infCode (f : Fmt) (neg : Bool) : Nat :=
  if f.e4m3 then f.nan else f.signBit neg + (2 ^ f.eb - 1) * 2 ^ f.mb

/-- The value of an encoding (R90, R91). -/
def Fmt.decode (f : Fmt) (x : Nat) : FVal :=
  let neg := bits x (f.w - 1) 1 == 1
  let e := bits x f.mb f.eb
  let m := bits x 0 f.mb
  if e = 2 ^ f.eb - 1 ∧ f.e4m3 = false then (if m = 0 then .inf neg else .nan)
  else if f.e4m3 = true ∧ e = 15 ∧ m = 7 then .nan
  else if e = 0 then .fin neg m f.qmin
  else .fin neg (2 ^ f.mb + m) (f.qmin + e - 1)

def FVal.isNan : FVal → Bool
  | .nan => true
  | _ => false
def FVal.neg : FVal → FVal
  | .nan => .nan
  | .inf s => .inf (!s)
  | .fin s m e => .fin (!s) m e

/-- The largest finite value as a mantissa and an exponent. -/
def Fmt.maxM (f : Fmt) : Nat := if f.e4m3 then 14 else 2 ^ (f.mb + 1) - 1
def Fmt.maxQ (f : Fmt) : Int := if f.e4m3 then 5 else f.qmin + (2 ^ f.eb - 3 : Nat)

/-- Whether a mantissa with quotient t and remainder r of 2^s moves away from zero (R95, R96): rnd are the n random bits
of .RSR. -/
def roundUp (mode : Rnd) (neg : Bool) (t r s rnd n : Nat) : Bool :=
  match mode with
  | .rne => decide (2 ^ s < 2 * r ∨ (2 * r = 2 ^ s ∧ t % 2 = 1))
  | .rtz => false
  | .rup => !neg && r != 0
  | .rdn => neg && r != 0
  | .rsr => decide (2 ^ n ≤ r * 2 ^ n / 2 ^ s + rnd % 2 ^ n)

/-- m * 2^e rounded to a multiple of 2^q (q at or above e shifts): the mantissa at q. -/
def roundAt (mode : Rnd) (neg : Bool) (m : Nat) (e q : Int) (rnd n : Nat) : Nat :=
  if q ≤ e then m * 2 ^ (e - q).toNat
  else
    let s := (q - e).toNat
    let t := m / 2 ^ s
    let r := m % 2 ^ s
    if roundUp mode neg t r s rnd n then t + 1 else t

/-- The result of an overflow (R97). -/
def overflow (f : Fmt) (mode : Rnd) (sat neg : Bool) : Nat :=
  if sat then f.signBit neg + f.maxCode
  else match mode, neg with
    | .rtz, _ => f.signBit neg + f.maxCode
    | .rup, true => f.signBit neg + f.maxCode
    | .rdn, false => f.signBit neg + f.maxCode
    | _, _ => f.infCode neg

/-- The bits random operand and width give .RSR (R96): n bits. -/
def rsrBits (w : Nat) : Nat := if w ≤ 32 then w else 32

/-- round(v, fmt, mode) of R95 with SAT (R97) and the random field of R96. -/
def round (f : Fmt) (mode : Rnd) (sat : Bool) (rnd n : Nat) (v : FVal) : Nat :=
  match v with
  | .nan => f.nan
  | .inf neg => if sat then f.signBit neg + f.maxCode else f.infCode neg
  | .fin neg m e =>
    if m = 0 then f.signBit neg
    else
      let q := max (e + (Nat.log2 m : Int) - (f.mb : Int)) f.qmin
      let t := roundAt mode neg m e q rnd n
      if f.maxQ ≤ q ∧ f.maxM < t * 2 ^ (q - f.maxQ).toNat then overflow f mode sat neg
      else f.signBit neg + (q - f.qmin).toNat * 2 ^ f.mb + t

/-- round with .RNE and nothing else. -/
def roundN (f : Fmt) (v : FVal) : Nat := round f .rne false 0 0 v

/-- Whether an encoding is a NaN. -/
def Fmt.isNan (f : Fmt) (x : Nat) : Bool := (f.decode x).isNan

/-! ## Exact operations (R98, R99) -/

/-- A product: 0 times an infinity is NaN, a zero takes the exclusive or of the signs. -/
def mulV (x y : FVal) : FVal :=
  match x, y with
  | .nan, _ => .nan
  | _, .nan => .nan
  | .inf s, .inf t => .inf (s != t)
  | .inf s, .fin t m _ => if m = 0 then .nan else .inf (s != t)
  | .fin s m _, .inf t => if m = 0 then .nan else .inf (s != t)
  | .fin s m e, .fin t k g => .fin (s != t) (m * k) (e + g)

def FVal.isInf (s : Bool) : FVal → Bool
  | .inf t => s == t
  | _ => false
def FVal.isNegZero : FVal → Bool
  | .fin true 0 _ => true
  | _ => false
def FVal.expo : FVal → Option Int
  | .fin _ m e => if m = 0 then none else some e
  | _ => none

/-- The signed mantissa at exponent e0. -/
def FVal.at (e0 : Int) : FVal → Int
  | .fin s m e => if m = 0 then 0 else (if s then -1 else 1) * ((m * 2 ^ (e - e0).toNat : Nat) : Int)
  | _ => 0

/-- The least exponent of the nonzero terms. -/
def minExp : List FVal → Option Int
  | [] => none
  | v :: r => match v.expo, minExp r with
    | none, o => o
    | some e, none => some e
    | some e, some g => some (min e g)

/-- An exact sum of terms; down says whether the mode is .RDN (R98, R99). -/
def sumV (down : Bool) (l : List FVal) : FVal :=
  if l.any FVal.isNan || (l.any (FVal.isInf true) && l.any (FVal.isInf false)) then .nan
  else if l.any (FVal.isInf true) then .inf true
  else if l.any (FVal.isInf false) then .inf false
  else
    let e0 := (minExp l).getD 0
    let t := l.foldl (fun acc v => acc + v.at e0) (0 : Int)
    if t = 0 then .fin (if l.all FVal.isNegZero then true else down) 0 0
    else .fin (decide (t < 0)) t.natAbs e0

def isDown (m : Rnd) : Bool := m == .rdn

def fadd (f : Fmt) (mode : Rnd) (rnd x y : Nat) : Nat :=
  round f mode false rnd (rsrBits f.w) (sumV (isDown mode) [f.decode x, f.decode y])
def fsub (f : Fmt) (mode : Rnd) (rnd x y : Nat) : Nat :=
  round f mode false rnd (rsrBits f.w) (sumV (isDown mode) [f.decode x, (f.decode y).neg])
def fmul (f : Fmt) (mode : Rnd) (rnd x y : Nat) : Nat :=
  round f mode false rnd (rsrBits f.w) (mulV (f.decode x) (f.decode y))
def ffma (f : Fmt) (mode : Rnd) (x y z : Nat) : Nat :=
  round f mode false 0 0 (sumV (isDown mode) [mulV (f.decode x) (f.decode y), f.decode z])

/-- Order of two values; zeros of either sign equal (R99). -/
def cmpV (x y : FVal) : Option Ordering :=
  match x, y with
  | .nan, _ => none
  | _, .nan => none
  | .inf s, .inf t => some (if s = t then .eq else if s then .lt else .gt)
  | .inf s, _ => some (if s then .lt else .gt)
  | _, .inf t => some (if t then .gt else .lt)
  | a, b => let e0 := (minExp [a, b]).getD 0
    some (compare (a.at e0) (b.at e0))

/-- The sign bit of an encoding. -/
def Fmt.sign (f : Fmt) (x : Nat) : Bool := bits x (f.w - 1) 1 == 1

/-- FMIN and FMAX (R99): -0 below +0, one NaN gives the other operand, two give the canonical NaN. -/
def fminmax (f : Fmt) (isMax : Bool) (x y : Nat) : Nat :=
  if f.isNan x then (if f.isNan y then f.nan else y)
  else if f.isNan y then x
  else match cmpV (f.decode x) (f.decode y) with
    | some .lt => if isMax then y else x
    | some .gt => if isMax then x else y
    | _ => if f.sign x = isMax then y else x

/-- Conditions of FCMP (R75, R99). -/
def fcond (f : Fmt) (c : FCond) (x y : Nat) : Bool :=
  match cmpV (f.decode x) (f.decode y) with
  | none => match c with
    | .ne | .un => true
    | _ => false
  | some o => match c with
    | .eq => o == .eq | .ne => o != .eq | .lt => o == .lt | .le => o != .gt | .gt => o == .gt | .ge => o != .lt
    | .un => false | .ord => true

/-! ## Division, square root and the approximate functions (R151, R152) -/

/-- m / k * 2^e to at least p bits below the leading one, with a sticky bit below them. -/
def divV (neg : Bool) (m k : Nat) (e : Int) (p : Nat) : FVal :=
  let s := p + Nat.log2 k + 2
  let t := m * 2 ^ s / k
  .fin neg (2 * t + (if m * 2 ^ s % k = 0 then 0 else 1)) (e - (s : Int) - 1)

/-- Exact division of two values, kept to p bits and a sticky bit. -/
def fdivV (p : Nat) (x y : FVal) : FVal :=
  match x, y with
  | .nan, _ => .nan
  | _, .nan => .nan
  | .inf _, .inf _ => .nan
  | .inf s, .fin t _ _ => .inf (s != t)
  | .fin s _ _, .inf t => .fin (s != t) 0 0
  | .fin s m e, .fin t k g =>
    if k = 0 then (if m = 0 then .nan else .inf (s != t))
    else if m = 0 then .fin (s != t) 0 0
    else divV (s != t) m k (e - g) p

def fdiv (f : Fmt) (mode : Rnd) (x y : Nat) : Nat :=
  round f mode false 0 0 (fdivV (f.mb + 4) (f.decode x) (f.decode y))

/-- The integer square root by Newton steps on fuel. -/
def isqrtAux (n : Nat) : Nat → Nat → Nat
  | 0, x => x
  | k + 1, x => let y := (x + n / x) / 2
    if y < x then isqrtAux n k y else x
/-- The integer square root: the largest r with r * r at most n. -/
def isqrt (n : Nat) : Nat := if n = 0 then 0 else isqrtAux n (2 * Nat.log2 n + 8) (2 ^ (Nat.log2 n / 2 + 1))

/-- The square root of m / k * 2^e (m, k > 0) to p bits and a sticky bit. -/
def sqrtV (m k : Nat) (e : Int) (p : Nat) : FVal :=
  let s0 := 2 * (p + Nat.log2 k + 2)
  let s := if (e - (s0 : Int)) % 2 = 0 then s0 else s0 + 1
  let n := m * 2 ^ s
  let t := isqrt (n / k)
  .fin false (2 * t + (if t * t * k = n then 0 else 1)) ((e - (s : Int)) / 2 - 1)

def fsqrtV (p : Nat) (x : FVal) : FVal :=
  match x with
  | .nan => .nan
  | .inf s => if s then .nan else .inf false
  | .fin s m e => if m = 0 then .fin s 0 0 else if s then .nan else sqrtV m 1 e p

def fsqrt (f : Fmt) (mode : Rnd) (x : Nat) : Nat := round f mode false 0 0 (fsqrtV (f.mb + 4) (f.decode x))

/-- Whether the magnitude of m * 2^e exceeds the largest finite value. -/
def beyond (f : Fmt) (m : Nat) (e : Int) : Bool :=
  if e ≤ f.maxQ then decide (f.maxM * 2 ^ (f.maxQ - e).toNat < m) else decide (f.maxM < m * 2 ^ (e - f.maxQ).toNat)

/-- approx of R152. -/
def approx (f : Fmt) (v : FVal) : Nat :=
  match v with
  | .nan => f.nan
  | .inf s => f.infCode s
  | .fin s m e => if beyond f m e then f.infCode s else round f .rtz false 0 0 v

def frcpV (p : Nat) (x : FVal) : FVal := match x with
  | .nan => .nan
  | .inf s => .fin s 0 0
  | .fin s m e => if m = 0 then .inf s else divV s 1 m (-e) p

def frsqV (p : Nat) (x : FVal) : FVal := match x with
  | .nan => .nan
  | .inf s => if s then .nan else .fin false 0 0
  | .fin s m e => if m = 0 then .inf s else if s then .nan else sqrtV 1 m (-e) p

/-- Bounds of 2^(a / 2^b), a < 2^b, at precision P: a product of the roots 2^(1/2), 2^(1/4), ... by the bits of a from the
top. r holds the current root's bounds, acc the product's bounds; all are numbers over 2^P. -/
def exp2Bounds (P : Nat) : Nat → Nat → Nat × Nat → Nat × Nat → Nat × Nat
  | 0, _, _, acc => acc
  | b + 1, a, r, acc =>
    let lo := isqrt (r.1 * 2 ^ P)
    let hi := isqrt (r.2 * 2 ^ P) + 1
    let acc := if bits a b 1 = 1 then (acc.1 * lo / 2 ^ P, acc.2 * hi / 2 ^ P + 1) else acc
    exp2Bounds P b a (lo, hi) acc

/-- floor(2^(a / 2^b) * 2^p) for 0 < a < 2^b: from the bounds where they agree, else by exact powers. -/
def exp2Floor (a b p : Nat) : Nat :=
  let P := 256
  let (lo, hi) := exp2Bounds P b a (2 ^ (P + 1), 2 ^ (P + 1)) (2 ^ P, 2 ^ P)
  let l := lo * 2 ^ p / 2 ^ P
  let h := min (hi * 2 ^ p / 2 ^ P) (2 ^ (p + 1) - 1)
  if l = h then l
  else if (l + 1) ^ (2 ^ b) ≤ 2 ^ (a + p * 2 ^ b) then l + 1 else l

/-- 2^x: an integer x exactly, any other as its floor at p bits and a sticky bit; the exponents are cut where every
format overflows or underflows. -/
def fexp2V (p : Nat) (x : FVal) : FVal :=
  match x with
  | .nan => .nan
  | .inf s => if s then .fin false 0 0 else .inf false
  | .fin s m e =>
    if m = 0 then .fin false 1 0
    else if 12 ≤ e + (Nat.log2 m : Int) then (if s then .fin false 1 (-4000) else .fin false 1 4000)
    else if 0 ≤ e then .fin false 1 ((if s then -1 else 1) * ((m * 2 ^ e.toNat : Nat) : Int))
    else
      let b := (-e).toNat
      let v : Int := (if s then -1 else 1) * (m : Int)
      let n := v / (2 ^ b : Nat)
      let a := (v % (2 ^ b : Nat)).toNat
      if a = 0 then .fin false 1 n
      else .fin false (2 * exp2Floor a b p + 1) (n - (p : Int) - 1)

/-- The first k binary digits of log2 of a number in [1, 2), given by bounds over 2^P: each squaring gives one digit. An
undecided digit is settled by the exact power: m over 2^mb is the number itself, i the digits found so far. -/
def log2Digits (P m mb : Nat) : Nat → Nat → Nat → Nat → Nat → Nat
  | 0, _, _, _, acc => acc
  | k + 1, i, lo, hi, acc =>
    let lo2 := lo * lo / 2 ^ P
    let hi2 := hi * hi / 2 ^ P + 1
    let two := 2 ^ (P + 1)
    let one := decide (two ≤ lo2) ||
      (decide (two ≤ hi2) && decide (2 ^ (2 * acc + 1 + mb * 2 ^ (i + 1)) ≤ m ^ (2 ^ (i + 1))))
    if one then log2Digits P m mb k (i + 1) (max lo2 two / 2) (hi2 / 2 + 1) (2 * acc + 1)
    else log2Digits P m mb k (i + 1) lo2 (min hi2 two) (2 * acc)

/-- log2 x, exact for a power of two, else its first digits with a sticky bit towards the exact value. -/
def flog2V (p : Nat) (x : FVal) : FVal :=
  match x with
  | .nan => .nan
  | .inf s => if s then .nan else .inf false
  | .fin s m e =>
    if m = 0 then .inf true
    else if s then .nan
    else
      let g := Nat.log2 m
      let n : Int := e + (g : Int)
      if m = 2 ^ g then (if n = 0 then .fin false 0 0 else .fin (decide (n < 0)) n.natAbs 0)
      else
        let P := 3 * p + 64
        let x0 := m * 2 ^ P / 2 ^ g
        let d := log2Digits P m g (2 * p + 16) 0 x0 (x0 + 1) 0
        let k := 2 * p + 16
        let t : Int := n * (2 ^ k : Nat) + (d : Int)
        -- the exact value lies strictly between t and t + 1 over 2^k
        if 0 ≤ t then .fin false (2 * t.toNat + 1) (-(k : Int) - 1)
        else .fin true (2 * (-t - 1).toNat + 1) (-(k : Int) - 1)

def frcp (f : Fmt) (x : Nat) : Nat := approx f (frcpV (f.mb + 4) (f.decode x))
def frsq (f : Fmt) (x : Nat) : Nat := approx f (frsqV (f.mb + 4) (f.decode x))
def fexp2 (f : Fmt) (x : Nat) : Nat := approx f (fexp2V (f.mb + 4) (f.decode x))
def flog2 (f : Fmt) (x : Nat) : Nat := approx f (flog2V (f.mb + 4) (f.decode x))

/-! ## Conversions (R100-R103) -/

/-- The exact value of an encoding of any type. -/
def Ty.decode (t : Ty) (x : Nat) : FVal :=
  match t.fmt with
  | some f => f.decode x
  | none =>
    let v : Int := if t.signed then sgn t.width x else ((x % 2 ^ t.width : Nat) : Int)
    .fin (decide (v < 0)) v.natAbs 0

def Ty.lo (t : Ty) : Int := if t.signed then -(2 ^ (t.width - 1) : Nat) else 0
def Ty.hi (t : Ty) : Int := if t.signed then (2 ^ (t.width - 1) : Nat) - 1 else (2 ^ t.width : Nat) - 1

def clamp (lo hi v : Int) : Int := if v < lo then lo else if hi < v then hi else v

/-- A floating value to an integer type (R101). -/
def toIntTy (td : Ty) (mode : Rnd) (sat : Bool) (rnd n : Nat) (v : FVal) : Nat :=
  match v with
  | .nan => if sat then 0 else if td.signed then 2 ^ (td.width - 1) else 2 ^ td.width - 1
  | .inf neg => if sat then wrap td.width (if neg then td.lo else td.hi)
      else if td.signed then 2 ^ (td.width - 1) else 2 ^ td.width - 1
  | .fin neg m e =>
    let k : Int := (if neg then -1 else 1) * (roundAt mode neg m (min e 4096) 0 rnd n : Int)
    if td.lo ≤ k ∧ k ≤ td.hi then wrap td.width k
    else if sat then wrap td.width (clamp td.lo td.hi k)
    else if td.signed then 2 ^ (td.width - 1) else 2 ^ td.width - 1

/-- The conversion of one value (R100-R102); rnd is the random field at the source value's positions.
DESIGN CHOICE (log entry 78): with SAT a negative integer becomes 0 in a wider natural type, where R102 names no
clamp for CONV. -/
def conv (td ts : Ty) (mode : Rnd) (sat : Bool) (rnd : Nat) (x : Nat) : Nat :=
  match td.fmt, ts.fmt with
  | some f, _ => round f mode sat rnd (rsrBits ts.width) (ts.decode x)
  | none, some g => toIntTy td mode sat rnd (rsrBits ts.width) (g.decode x)
  | none, none =>
    let v : Int := if ts.signed then sgn ts.width x else ((x % 2 ^ ts.width : Nat) : Int)
    wrap td.width (if sat then clamp td.lo td.hi v else v)

/-- The random field of position j of a type of width w (R96): the low lane of the pair for a 64-bit type. -/
def rndField (w : Nat) (r : Lanes) (j : Nat) : Nat := bits r.toNat (w * j) (rsrBits w)

def IntTy.wide (t : IntTy) : Bool := t.width == 64
def NatTy.wide (t : NatTy) : Bool := t.width == 64
def Ty.wide (t : Ty) : Bool := t.width == 64
def FltTy.width (t : FltTy) : Nat := t.fmt.w
def FltTy.wide (t : FltTy) : Bool := t.fmt.w == 64
/-- Latency of the iterative class (R36): 12 ac, or 20 for .F64. -/
def FltTy.latIter (t : FltTy) : Nat := if t.fmt.w = 64 then 20 else 12

/-! ## Orders of sums (R109, R110) -/

/-- The largest power of two below n, at least 1. -/
def halfBelow (n : Nat) : Nat := 2 ^ Nat.log2 (n - 1)

/-- The pairwise order over a list (R109), on fuel. DEDUCED (log entry 77): a single operand is the result bit for
bit, a payload of a NaN with it. -/
def pairwiseAux {α : Type} (c : α → α → α) (d : α) : Nat → List α → α
  | 0, l => l.headD d
  | k + 1, l =>
    match l with
    | [] => d
    | [x] => x
    | _ => let h := halfBelow l.length
      c (pairwiseAux c d k (l.take h)) (pairwiseAux c d k (l.drop h))

def pairwise {α : Type} (c : α → α → α) (d : α) (l : List α) : α := pairwiseAux c d l.length l

/-- The sequential prefixes of a list (R110). DEDUCED (log entry 77): s(0) is x0 bit for bit, a payload of a NaN with
it (R91 speaks of operations, and position 0 has none). -/
def prefixes {α : Type} (c : α → α → α) : α → List α → List α
  | s, [] => [s]
  | s, x :: r => s :: prefixes c (c s x) r

def icond (c : Cond) (x y : Int) : Bool :=
  match c with
  | .eq => x == y | .ne => x != y | .lt => decide (x < y) | .le => decide (x ≤ y) | .gt => decide (y < x)
  | .ge => decide (y ≤ x)

/-- An integer value of a type. -/
def IntTy.read (t : IntTy) (x : Nat) : Int :=
  if t.signed then sgn t.width x else ((x % 2 ^ t.width : Nat) : Int)
def Ty.readInt (t : Ty) (x : Nat) : Int :=
  if t.signed then sgn t.width x else ((x % 2 ^ t.width : Nat) : Int)

/-- The combine step of LRED and SCAN (R133). -/
def combine (o : RedOp) (t : Ty) (x y : Nat) : Nat :=
  match o, t.fmt with
  | .add, some f => fadd f .rne 0 x y
  | .add, none => (x + y) % 2 ^ t.width
  | .min, some f => fminmax f false x y
  | .max, some f => fminmax f true x y
  | .min, none => if t.readInt x ≤ t.readInt y then x else y
  | .max, none => if t.readInt x ≤ t.readInt y then y else x
  | .and, _ => x &&& y
  | .or, _ => x ||| y
  | .xor, _ => x ^^^ y

end Sys2Proof
end

