-- ==== Sys2Proof/Machine/State.lean ====
section
/-! DEFINITION. The state of one KX-960 package as plain data (R23), the reasons a step can stop, and the state after
reset. The identity of a unit is a number: tile tx + 64*ty, plane 4*tile + p, cluster 16d + c, context 8*cluster + c,
virtual device 16*partition + vd, channel or port 8*unit + number, with the unit codes of R33. -/

namespace Sys2Proof.Machine

/-! ## Tokens, channels and regions -/

/-- A token: payload, tag word (R32), and for a sealed token its WPORT stream index (s, p) (R177, R270) with the port it left by. -/
structure Token where
  data : Lanes
  tag : BitVec 16
  stream : Option (Nat × Nat × Nat) := none
  ue : Bool := false
deriving DecidableEq, Repr

/-- A place in a channel, taken in order (R36): tok none is reserved and not yet filled; vis is the first ac of the
receiver's die in which a guard may see the token (R42); float: a reply's place that stands behind every token taken
later until it is filled (log entry 12); reread: a restored sealed token whose payload WPORT has still to read (R177). -/
structure Place where
  id : Nat
  tok : Option Token
  vis : Nat
  float : Bool := false
  late : Bool := false
  keep : Bool := false
  inj : Bool := false
  reread : Bool := false
deriving DecidableEq, Repr

/-- An input channel of an element or operator (R31): depth; back edge (R44); fed from another region, with the plane
and port that feed it once resolved (R331); its places, oldest first; the replay buffer of an entry (R51); a pending
change of depth and the tokens still ahead of the reconfiguration token (R228); the ac of the last dequeue and the
places freed in it (R42). -/
structure Chan where
  depth : Nat
  back : Bool := false
  entry : Bool := false
  checked : Bool := false
  fed : Option (Nat × Nat) := none
  q : List Place := []
  replay : List Token := []
  recfg : Option (Nat × Nat) := none
  freedAt : Nat := 0
  freed : Nat := 0
deriving DecidableEq, Repr

/-- Where an output leads (R329): a channel of the same page, or a channel of the page with index pix. -/
inductive Dest where
  | loc (chan : Nat)
  | exit (pix chan : Nat) (checked : Bool)
deriving DecidableEq, Repr

/-- An output channel or port: its destination, and for an exit the plane it resolved to (R331), the entries it may
still fill there (R42), the released tokens that wait for one, and on a checked route CHECK's grant (R290) with the tokens sent since
the region's last commit and those of them sent behind the open knot, which a roll-back takes back (R52, R291). -/
structure Out where
  dest : Dest
  plane : Option Nat := none
  credit : Int := 0
  q : List Token := []
  grant : Bool := false
  sent : Nat := 0
  after : Nat := 0
deriving DecidableEq, Repr

/-- The indices WPORT records for one element (R193), each with the port its token left by. -/
structure WIdx where
  stx : List (Nat × Nat × Nat) := []
  shx : List (Nat × Nat × Nat) := []
  sf : Nat := 0
  cbx : Option (Nat × Nat × Nat) := none
  sax : Option (Nat × Nat × Nat) := none
  ssx : Option (Nat × Nat × Nat) := none
  af : Bool := false
deriving DecidableEq, Repr

/-- The registers of an element for one plane (R23): G0-G31, P7-P0, the halted flag; and the stream indices of the tokens
its LDST, LDCB and SWAPW firings consumed (R193), recorded with the element's knot state (log entry 13); trapped: it was halted by
a trap (R226). -/
structure Elem where
  g : Vector Lanes 32
  p : BitVec 8
  halted : Bool
  widx : WIdx := {}
  trapped : Bool := false
deriving DecidableEq, Repr

/-- The matrix state of an element (R174): planes, SF, AF and the codebook store; cb holds a CB4 codebook, sca and scs
the active and shadow scale rows. -/
structure Mx where
  stat : BitVec 1024
  shadow : BitVec 1024
  sf : Nat
  af : Bool
  cb : BitVec 256
  sca : BitVec 64
  scs : BitVec 64
deriving DecidableEq, Repr

/-- An accumulator row (R184); ue: an uncorrectable error stands in it (R476). -/
structure AccRow where
  data : BitVec 1024
  psn : Bool
  oix : BitVec 16
  ue : Bool := false
deriving DecidableEq, Repr

/-- The kind of a firing or step (R38) with the origin of a poison. -/
inductive Kind where
  | data | null | poison (org : Word)
deriving DecidableEq, Repr

/-- What an MMA firing takes along to the end of ac n + 3 (R182): activation, north sums, and the weights, codebook and
scale row standing at the firing. -/
structure MmaJob where
  x : Lanes
  north : Option Lanes
  w : BitVec 1024
  cb : BitVec 256
  sca : BitVec 64
deriving DecidableEq, Repr

/-- What falls due (R36, R186). places are (port, place id) pairs reserved at the firing. -/
inductive Work where
  | result (dst : Option (Fin 32)) (kind : Kind) (val : Lanes) (tag : BitVec 16) (places : List (Nat × Nat))
  | mmaSouth (kind : Kind) (job : MmaJob) (otag : BitVec 4) (places : List (Nat × Nat))
  | mmaRow (kind : Kind) (job : MmaJob) (row qtr : Nat)
  | acca (kind : Kind) (t : AccTy) (row qtr : Nat) (v : Lanes)
  | accd (kind : Kind) (t : Ty) (row qtr : Nat) (dst : Option (Fin 32)) (otag : BitVec 4) (places : List (Nat × Nat))
  | accz (row : Nat) (oix : BitVec 16)
  | accs (row dest : Nat)
  | accNone
deriving DecidableEq, Repr

/-- A firing whose effect falls due at the end of ac due; late: it belongs to the group after the open knot (R192); done:
applied, kept until the ac ends; it: of the iterative class (R34 condition 7); np: NaN-to-poison decided at the result. -/
structure Pend where
  due : Nat
  elem : Nat
  slot : Nat
  late : Bool
  iter : Bool
  work : Work
  done : Bool := false
deriving DecidableEq, Repr

/-- One write on its way to its home: a 32-byte sector by physical address, its data, byte mask, whether it is a release
(and at which scope) or a close store (R159). -/
structure Access where
  sector : Nat
  data : Lanes
  mask : BitVec 32
  rel : Option Scope
  close : Bool
  kslot : Nat := 0
deriving DecidableEq, Repr

/-- Where the result of an invocation goes (R83). -/
inductive Cont where
  | none
  | chan (plane port place : Nat) (otag : BitVec 4)
  | ctx (cid : Nat)
deriving DecidableEq, Repr

/-- The sender of an access: a plane's MIF, a context, the copy engine of a cluster, firmware or the companion. -/
inductive Agent where
  | plane (pl : Nat) | ctx (cid : Nat) | copy (cluster : Nat) | hub | companion
deriving DecidableEq, Repr

/-- An active message (R83) with its target's physical address, the virtual device and the sender's identity. -/
structure Msg where
  handler : Nat
  psn : Option Word
  w32 : Bool
  nr : Bool
  operand : Word
  pa : Nat
  vd : Nat
  cont : Cont
  elem : Nat
  rel : Bool := false
  bar : Bool := false
  kslot : Nat := 0
deriving DecidableEq, Repr

/-- A memory effect: a store, a vector atomic or an invocation. -/
inductive Fx where
  | store (a : Access)
  | vamo (sector : Nat) (wide : Bool) (v : Lanes) (kslot : Nat)
  | invoke (m : Msg)
deriving DecidableEq, Repr

/-- A strand number (R78, R160): strand index, destination die key, sequence number. -/
structure Strand where
  six : Nat
  die : Nat
  seq : Nat
deriving DecidableEq, Repr

/-- An entry of the commit buffer (R46, R192). -/
inductive Effect where
  | fx (f : Fx) (strand : Option Strand)
  | exit (port id : Nat) (tok : Option Token) (vis : Nat)
  | pre (row : Nat) (old : AccRow)
deriving DecidableEq, Repr

/-- A held effect; late: it belongs to the group after the one that the open knot closes; keep: the place of a load that a cut has
committed (R463). -/
structure Held where
  fx : Effect
  late : Bool
  keep : Bool := false
deriving DecidableEq, Repr

/-- One piece of a load: n bytes at offset off of a sector, to byte dst of the token. -/
structure Piece where
  sector : Nat
  off : Nat
  n : Nat
  dst : Nat
deriving DecidableEq, Repr

/-- A load of the MIF that is outstanding (R161): the port and place its token has reserved, its tag, its pieces, the
sectors not yet returned, and what has come so far; ue: a sector failed its check; acq: an acquire; nul: an empty FIFO
answered (R457). -/
structure Load where
  id : Nat
  port : Nat
  place : Nat
  tag : BitVec 16
  pieces : List Piece
  waiting : List Nat
  data : Lanes
  ue : Bool
  kslot : Nat
  acq : Bool := false
  nul : Bool := false
deriving DecidableEq, Repr

/-- For whom a sector is accessed (R266): its virtual address, 0 for an element request or 1 for a stream group, the ordinal of the
element that it serves first, and the slot and element of a request. -/
structure Asker where
  va : Word
  src : Nat := 1
  ord : Nat := 0
  slot : Nat := 0
  elem : Nat := 0
deriving DecidableEq, Repr

/-- One sector access of the request or stream group in progress (R263): a load's sector, or a store to be held. -/
inductive StreamAcc where
  | load (id sector kslot : Nat) (cp : Nat) (w : Asker)
  | store (a : Access) (lsix : Option Nat) (w : Asker)
deriving DecidableEq, Repr

/-- What an element asks of its MIF (R156). -/
inductive ReqOp where
  | load (sh : Shape) (acq : Option Scope)
  | store (sh : Shape) (rel : Option Scope)
  | close (sc : Scope)
  | amo (h : Nat)
  | vamo (wide : Bool)
deriving DecidableEq, Repr

/-- A request in the plane's request queue (R155): its addresses, operand, local strand, kind and reserved reply. -/
structure Req where
  op : ReqOp
  addrs : List Word
  data : Lanes
  lsix : Option Nat
  kind : Kind
  elem : Nat
  slot : Nat
  port : Option Nat
  place : Nat
  otag : BitVec 4
  late : Bool
  force : Bool := false
  ac : Nat := 0
deriving DecidableEq, Repr

/-- An item of AGEN's internal queue (R256, R261): an element group with its ordinal, or a knot or drain. -/
inductive QItem where
  | group (addrs : List Word) (kind : Kind) (ord : Nat)
  | knot (drain : Bool)
deriving DecidableEq, Repr

/-- AGEN's running state (R261); ahead: headers read ahead of the current page, as page, successor and row count (R257). -/
structure AgenSt where
  i0 : Nat := 0
  i1 : Nat := 0
  i2 : Nat := 0
  i3 : Nat := 0
  busy : Bool := false
  trig : Option Token := none
  page : Word := 0
  next : Word := 0
  ntok : Nat := 0
  ahead : List (Word × Word × Nat) := []
  pages : Nat := 0
  row : Nat := 0
  grp : Nat := 0
  ord : Nat := 0
  kcnt : Nat := 0
  erred : Bool := false
  fin : Bool := false
deriving DecidableEq, Repr

/-- WPORT's running state (R270); the indices of R193 stand with each element (Elem.widx). -/
structure WportSt where
  s : Nat := 0
  p : Nat := 0
  o : Nat := 0
  busy : Bool := false
  kind : Kind := .data
  kcnt : Nat := 0
  erred : Bool := false
  fin : Bool := false
deriving DecidableEq, Repr

/-- CONV's running state (R281): values of the row taken, the row number, the converted values not yet sent, with the
kind, SCL and UTAG of their token, and the scale bytes not yet sent. -/
structure ConvSt where
  pos : Nat := 0
  row : Nat := 0
  vals : List Nat := []
  kind : Kind := .data
  scl : Bool := false
  utag : BitVec 4 := 0
  scales : List Nat := []
deriving DecidableEq, Repr

/-- The running state of a plane's operators (R261 to R291), and the flags every source needs (R50). -/
structure OpSt where
  agen : AgenSt := {}
  wport : WportSt := {}
  steer : Nat := 0
  scale : Nat := 0
  bflyIn : List Token := []
  bflyOut : List Token := []
  conv : ConvSt := {}
  red : List Token := []
  redNo : Nat := 0
  maskT : Tab (BitVec 32) := []
  maskPsn : Option Word := none
  maskLeft : Option Nat := none
  rngC : BitVec 128 := 0
  rngN : Nat := 0
  rngK : Nat := 0
  check : Nat := 0
  checkPos : Tab Nat := []
  strOrd : Nat := 0
  drainSent : List Nat := []
deriving DecidableEq, Repr

/-- The open knot of a region (R45): a drain, the units that have taken it, and the units to which an implicit knot is
still to be offered. -/
structure Knot where
  drain : Bool
  taken : List Nat
  implicit : Bool
deriving DecidableEq, Repr

/-- An outstanding stalling fault of a plane (R265): FID, faulting address, who met it (0 an element request, 1 a stream group, 2
WPORT's stream, 3 AGEN, 4 a refill of weights); answered with FAIL or RESOLVE, the request still first; the elements translated ahead of the faulting one, as address, physical address, key slot
and cache policy (R267). -/
structure Fault5 where
  fid : Nat
  va : Word
  src : Nat
  got : List (Word × Nat × Nat × Nat) := []
  failed : Bool := false
  retry : Bool := false
deriving DecidableEq, Repr

/-- A route entry of a page (R329). -/
structure Route where
  kind : Nat
  back : Bool
  chk : Bool
  src : Nat
  dst : Nat
  arg : Nat
deriving DecidableEq, Repr

/-- A configuration page as placed (R333): its bytes, its slot words, routes, operator blocks, constants and header. -/
structure Page where
  bytes : List Byte
  slots : List Nat
  routes : List Route
  blocks : List (BitVec 512)
  consts : List Lanes
  mxcfg : Word
  ipred : Word
deriving DecidableEq, Repr

/-! ## Packets -/

/-- What a packet carries (R85, R86, R305). A credit names the port it returns to and the channel whose entry was freed. -/
inductive Body where
  | token (pl chan fromPl fromPort : Nat) (t : Token)
  | credit (pl port dpl chan : Nat)
  | load (sector pl loadId kslot : Nat) (acq : Option Scope) (uncached : Bool)
  | fx (f : Fx) (strand : Option Strand)
  | reply (pl loadId sector : Nat) (data : Lanes) (ue nul : Bool)
  | result (cont : Cont) (val : Word) (null : Bool) (psn : Option Word) (ue : Bool) (pa : Nat)
  | strandOpen (six seq : Nat)
  | release (six seq : Nat)
  | ack (six die seq : Nat)
  | retry (six die seq : Nat) (opn : Bool)
deriving DecidableEq, Repr

/-- A packet on the mesh: sender, the virtual device of the sender, the die key it goes to, the ac of that die before which
it cannot arrive (R42), its body, and the strand packets of its sender not yet acknowledged when it was sent, which a release
waits for (R312). -/
structure Packet where
  src : Agent
  vd : Nat
  die : Nat
  earliest : Nat
  body : Body
  after : List Strand
deriving DecidableEq, Repr

/-- A placed plane: one region (R43). vd, arming context, section and page index (R220); whether the page is signed;
armed, draining (R50) and drain named by DRAIN (R227); elements, matrix state, accumulator rows; channels and outputs;
operator state; firings that fall due; request queue, AGEN's queue, outstanding loads, accesses of the stream
group in progress; commit buffer; the open knot;
knot states taken and committed (R44, R46), and what else the state committed by a cut holds: requests, AGEN's queue, the open
knot, drained units (R463, R464); strand counts by 1024*lsix + die key (R304) with the counts committed, the
strands whose context the plane holds, strand packets not yet acknowledged; units that took the drain; units stopped by a
marker, inputs on which one arrived, and whether the cut released the region (R56, R463); the outstanding faults of MIF and
WPORT; progress (R59, R60); roll-backs since the last commit (R475); elements to refill, and the addresses whose re-read was answered FAIL
(R193); the stores of a group in progress that a cut committed, and whether a restored group's sectors are still to be translated
(R56, R463); whether its tile is in an
assay and the trigger that implicates the region (R479); whether its drain has committed (R49); the ac + 1 of the last
firing of each element and step of each operator; the next place number. -/
structure Plane where
  vd : Nat
  cid : Nat
  sec : Nat
  pix : Nat
  tq : Nat
  aq : Nat
  signed : Bool
  page : Page
  armed : Bool := false
  draining : Bool := false
  drainNamed : Bool := false
  elems : List Elem
  mx : List Mx
  rows : Tab AccRow := []
  chans : Tab Chan
  outs : Tab Out
  ops : OpSt
  pend : List Pend := []
  reqs : List Req := []
  agq : List QItem := []
  loads : List Load := []
  stream : List StreamAcc := []
  held : List Held := []
  knot : Option Knot := none
  kElems : Tab Elem := []
  kOps : Tab OpSt := []
  cElems : List Elem
  cOps : OpSt
  cReqs : List Req := []
  cAgq : List QItem := []
  cKnot : Option Knot := none
  cDrained : List Nat := []
  seqs : Tab Nat := []
  cSeqs : Tab Nat := []
  seen : Tab Unit := []
  unack : List Packet := []
  drained : List Nat := []
  stopped : List Nat := []
  marked : List Nat := []
  cutDone : Bool := false
  fault : Option Fault5 := none
  wfault : Option Fault5 := none
  idle : Nat := 0
  idleSent : Bool := false
  lastAct : Nat := 0
  bal : Int := 0
  rollbacks : Nat := 0
  refill : List Nat := []
  refailed : List Word := []
  cStream : List StreamAcc := []
  restream : Bool := false
  assay : Bool := false
  suspect : Option Nat := none
  retiring : Bool := false
  firedAt : Tab Nat := []
  nextId : Nat := 1
deriving DecidableEq, Repr

/-- What the operator area of a region record stands for (R465, log entry 14): the running state of the operators, the
requests and groups the MIF had not taken, the rest of the group it was at with its load and the place that load has at an exit, the elements' weight indices and trap flags, the reply places not yet filled by channel and
position, the open knot, the place counter, and whether its section was
armed and draining. -/
structure OpSave where
  ops : OpSt
  reqs : List Req
  agq : List QItem
  stream : List StreamAcc := []
  loads : List Load := []
  held : List Held := []
  widx : List WIdx
  traps : List Bool
  holes : Tab (List (Nat × Place))
  knot : Option Knot
  drained : List Nat
  nextId : Nat
  armed : Bool
  draining : Bool
  drainNamed : Bool
deriving DecidableEq, Repr

/-! ## Sequencer contexts -/

/-- What a context waits for (R247); each holds what its completion needs. stall: the fault's FID and address, and where a FAIL
answer gives a status in a register instead of PAGE, that register and status (R225, R232, R236). bar: the object of an arrival whose
result has not come; none once it stands in SQ_BARA. cut: a CUT in progress, with
its record's address, sections, save area and the translations found for both (virtual page, physical page, key slot); abort: a RESUME with ABORT whose planes are not yet free. -/
inductive Wait where
  | none
  | stall (fid : Nat) (va : Word) (soft : Option (XReg × Nat))
  | atomic (xd : XReg) (acq : Bool) (pa : Word)
  | mwait (xd : XReg) (limit : Nat) (since : Nat)
  | waitw (xd : XReg) (num : Nat)
  | wbill (xd : XReg) (va : Word)
  | recfg (xd : XReg) (pl chan : Nat)
  | sbar (k : Nat)
  | bar (sc : Scope) (at_ : Option Word)
  | cut (xd : XReg) (va : Word) (secs : List Nat) (base len : Nat) (maps : List (Nat × Nat × Nat))
  | abort (xd : XReg) (secs : List Nat)
  | fwcall (xd : XReg)
  | firmware
deriving DecidableEq, Repr

/-- Whether a context runs (R445, R249). -/
inductive Run where
  | stopped | running | fwStopped
deriving DecidableEq, Repr

/-- A section of a context (R219): its planes, whether it is armed, draining (R50) or drained by name (R227), whether one of
its elements trapped, whether it stands stopped in place (R233), whether a cut of it runs, whether it was armed with a closed
source, whether a cut has carried it away to a save area. -/
structure Section where
  planes : List Nat := []
  armed : Bool := false
  draining : Bool := false
  drainNamed : Bool := false
  trapped : Bool := false
  inPlace : Bool := false
  cutting : Bool := false
  closed : Bool := false
  away : Bool := false
deriving DecidableEq, Repr

/-- One hardware context (R23, R201): X registers, PC, level, control and status registers, monitor, strand counts by
1024*k + die key, strands' unacknowledged packets, waybill numbering and statuses (R226), balance (R59) and sections, a STUCK record
still to be written (R61), the sectors that its present instruction has read so far, by virtual address, and the sectors that it has
still to write: it reads and writes one in a turn (R294). -/
structure Ctx where
  vd : Option Nat := none
  run : Run := .stopped
  wait : Wait := .none
  x : Vector Word 32
  pc : Word := 0
  pl : BitVec 2 := 1
  ppl : Bool := false
  eie : Bool := false
  peie : Bool := false
  cause : Word := 0
  epc : Word := 0
  tval : Word := 0
  tvec : Word := 0
  scratch : Word := 0
  next : Word := 0
  save : Word := 0
  event : Word := 0
  evmask : Word := 0
  sctl : Word := 0
  amst : Word := 0
  bara : Word := 0
  barg : Word := 0
  fppl : BitVec 2 := 0
  fpeie : Bool := false
  fcause : Word := 0
  fepc : Word := 0
  ftval : Word := 0
  ftvec : Word := 0
  mon : Option Nat := none
  monFired : Bool := false
  seqs : Tab Nat := []
  seen : Tab Unit := []
  unack : List Packet := []
  wbNext : Nat := 1
  wbDone : Tab Nat := []
  bal : Int := 0
  secs : Tab Section := []
  failed : Bool := false
  stuckDue : Bool := false
  part : List (Word × Lanes) := []
  puts : List Access := []
deriving DecidableEq, Repr

/-! ## Clusters and dies -/

/-- A bank's mode (R457). -/
inductive BankMode where | cache | scratch | fifo
deriving DecidableEq, Repr

/-- A cluster SRAM bank: mode, the virtual device it is assigned to, FIFO entries, oldest first. -/
structure Bank where
  mode : BankMode := .cache
  owner : Option Nat := none
  fifo : List Lanes := []
deriving DecidableEq, Repr

/-- A waybill extent (R223). -/
structure Extent where
  base : Nat
  len : Nat
  rd : Bool
  wr : Bool
  stage : Bool
  bank : Nat
  off : Nat
deriving DecidableEq, Repr

/-- Where a waybill stands (R224). -/
inductive WbPhase where
  | waiting | stageIn | running | copying | stageOut | finished
deriving DecidableEq, Repr

/-- A waybill of the dispatcher: number, context, virtual device, its fields, phase, the sectors of the current copy still to be
copied, as runs (extent, first sector, count), the sector being copied (extent, sector), the status it retires with, whether its stamp is still due, an outstanding fault.
A start of its context begins the numbering anew (R225, R446): the number of a waybill that is older than that stands 2^64 higher. -/
structure Waybill where
  num : Nat
  cid : Nat
  vd : Nat
  task : Bool
  sec : Nat
  arg : Nat
  stampA : Nat
  stampV : Word
  exts : List Extent
  phase : WbPhase := .waiting
  todo : List (Nat × Nat × Nat) := []
  cur : Option (Nat × Nat) := none
  status : Nat := 0
  stamp : Bool := true
  fid : Option Nat := none
  failed : Bool := false
deriving DecidableEq, Repr

/-- A cluster (R461, R296, R224): the frame table in force for this pass and as written, the entry in force and the ac
it has left; cache copies by sector; banks; the dispatcher's waybills, oldest first; the context whose instruction its sequencer
issued last, and the ac + 1 in which that was with the count of those issued in it (R26, R199). -/
structure Cluster where
  frame : List Word
  written : List Word
  idx : Nat
  left : Nat
  cache : Tab Lanes := []
  banks : List Bank
  wbs : List Waybill := []
  last : Nat := 7
  issue : Nat × Nat := (0, 0)
deriving DecidableEq, Repr

/-- A clasp context (R306): next expected number, packets held ahead of it, commits since the last ACK. -/
structure ClaspCtx where
  e : Nat
  held : Tab (Packet)
  since : Nat
deriving DecidableEq, Repr

/-- A priority-queue entry (R239), with its place in push order. -/
structure PqEntry where
  key : Word
  val : Word
  vd : Nat
  order : Nat
deriving DecidableEq, Repr

/-- A die: its ac count since it left reset (R27), the contexts of its clasp by strand (1024*tile fabric address + six,
see strandKey), its priority queue. -/
structure Die where
  ac : Nat := 0
  clasp : Tab ClaspCtx := []
  pq : List PqEntry := []
  pushes : Nat := 0
deriving DecidableEq, Repr

/-- The power state of a tile (R458); up and down are the transitions of TPOWER, with the command record to answer. -/
inductive Power where
  | gated | on | clockGated | up (rec : Nat) | down (rec : Nat)
deriving DecidableEq, Repr

/-! ## The hub -/

/-- A translation held by a TLB (R453): unit (tile of a MIF, or 2048 + cluster; 4096 + die for the walk cache, which holds the
entries above the leaves), virtual device, level, page number, entry. -/
structure TlbEntry where
  unit : Nat
  vd : Nat
  level : Nat
  vpn : Nat
  entry : Word
deriving DecidableEq, Repr

/-- Who waits on a FID (R456). -/
inductive FidOwner where
  | plane (pl : Nat) | wport (pl : Nat) | ctx (cid : Nat) | copy (cluster num : Nat)
deriving DecidableEq, Repr

/-- A claimed or releasing adapter slot (R503, R504): its entry, owner digest, contract digest, units, and for a releasing one the
waybills, by context and number, that were not retired at its release (R379). -/
structure Adapter where
  entry : Word
  owner : BitVec 256
  contract : BitVec 256
  units : List Nat
  waits : List (Nat × Nat) := []
deriving DecidableEq, Repr

/-- A model loaded into a virtual device (R495): base measurement, owner, libraries, slot, units, whether RETIRING, its
adapter table by ASLOT (R503). -/
structure Model where
  base : BitVec 256
  owner : BitVec 256
  libs : List (BitVec 256)
  slot : Nat
  units : List Nat
  retiring : Bool
  adapters : Tab Adapter
deriving DecidableEq, Repr

/-- A request for a firmware service (R245, R483): context, destination register, service, argument. -/
structure FwReq where
  cid : Nat
  xd : XReg
  svc : Nat
  arg : Word
deriving DecidableEq, Repr

/-- A pending shoot-down (R453): its range, the frames of the entries it removed (base, bytes), the planes that hold effects in
them, each as often as it must commit, and the packets sent before it that are not yet performed; own: one of a migration's own (R472), which no count shows. -/
structure Shoot where
  lo : Nat
  hi : Nat
  frames : List (Nat × Nat)
  planes : List Nat
  pkts : List Packet
  own : Bool := false
deriving DecidableEq, Repr

/-- A virtual device (R443): its descriptor, the fault queue's count, records held and the head at the last interrupt
(R454), FIDs, shoot-down counts (R444), resets passed (R478), usage counters (R507), the stop of R469 with its save area and the translations found for it,
outstanding evictions (R376), models, the destination of a migration (R472), the leaves (level, virtual address) of its pass under way, and
the context records written to VDC_CSTART that the device has not acted on yet, oldest first (R445). -/
structure Vd where
  ranges : List (Nat × Nat)
  ptroot : Nat
  fqbase : Nat
  dlbase : Nat
  ksbase : Nat
  kscnt : Nat
  pqshare : Nat
  fqlog2 : Nat
  conf : Bool
  notify : Bool
  nvec : Nat
  fqTail : Nat := 0
  fqHeld : List (List Byte) := []
  notified : Option Nat := none
  fids : Tab FidOwner := []
  fidLast : Nat := 0
  sdReq : Nat := 0
  sdDone : Nat := 0
  shoots : List Shoot := []
  rst : Nat := 0
  usage : List Word := List.replicate 11 0
  stop : Option (Nat × Nat) := none
  stopMaps : List (Nat × Nat × Nat) := []
  stopped : Bool := false
  evicted : List (Nat × Nat) := []
  models : List Model := []
  migDest : Option (Nat × Nat) := none
  migTodo : Option (List (Nat × Nat)) := none
  cstarts : List Nat := []
deriving DecidableEq, Repr

/-- The kind of a key slot (R484). -/
inductive SlotKind where | free | open | vdkey | operand | session | evict
deriving DecidableEq, Repr

/-- A key slot (R484, R486, R497): kind, key, owner, CONF, policy record, eviction counter or request counter, reply
counter, session number and reply window, and the base measurement a session is bound to. -/
structure KeySlot where
  kind : SlotKind := .free
  key : BitVec 256 := 0
  vd : Nat := 0
  conf : Bool := false
  policy : List Byte := []
  ctr : Nat := 0
  rp : Nat := 0
  sid : Nat := 0
  rbase : Nat := 0
  rlen : Nat := 0
deriving DecidableEq, Repr

/-- A board link (R459): status register fields, failures of one group in a row, and the pod policy in force at its training
(R511). -/
structure Link where
  st : Nat := 0
  errs : Nat := 0
  peer : BitVec 8 := 0
  fails : Nat := 0
  policy : List (BitVec 256) := []
deriving DecidableEq, Repr

/-- What a source hub transfers in a migration (R472, R473): its state, the operator states its save area's tickets stand for, and
pages that come from another package, by level and virtual address, with the offsets of the sectors that come in the poisoned-data
encoding. -/
structure MigState where
  ctxs : List (Nat × Ctx)
  waybills : List (Nat × Waybill)
  pq : List (Nat × PqEntry)
  evicted : List (Nat × Nat)
  models : List Model
  stop : Option (Nat × Nat)
  opSaves : Tab OpSave
  pages : List (Nat × Nat × List Byte × List Nat) := []
deriving DecidableEq, Repr

/-- What goes out to the world: interrupt messages (R436), answers to the companion, the invalidation of a line that it caches
(R323), answers to the board controller (R518),
packets to other packages with their flits (R85), a sector of another package written in the poisoned-data encoding (R522), credits of a board link, records and pages a destination receives, with the
sectors of a page that go in the poisoned-data encoding (R472, R486). -/
inductive OutMsg where
  | interrupt (vec vd : Nat)
  | companionData (bytes : List Byte)
  | companionInvalidate (line : Nat)
  | mgmt (status : BitVec 8) (data : List Byte)
  | packet (p : Packet) (flits : List (BitVec 256))
  | poison (pa : Nat)
  | linkCredit (link : Nat)
  | slotRecord (bytes : List Byte)
  | hubReport (cid : Nat) (cause : Nat) (val : Word)
  | spdm (bytes : List Byte)
  | migPage (vd va level : Nat) (bytes : List Byte) (bad : List Nat)
  | migState (m : MigState)
  | checkpoint (position : Nat) (mem : Memory)
deriving DecidableEq, Repr

/-- What is fused into the package or fixed by its firmware and never written: the digest of the firmware key and the least SVN
(R482), the signet's key pairs (R481), the digest of the Bexsol library key (R490), the modulus of the handler key and the length of a handler image (R506), hub-reserved memory
(R438, R442). -/
structure Fused where
  fwKey : BitVec 256
  minSvn : BitVec 16
  signN : Nat
  signD : Nat
  wrapN : Nat
  wrapD : Nat
  libKey : BitVec 256
  handlerN : Nat
  handlerBytes : Nat
  rsvBase : Nat
  rsvBytes : Nat
deriving DecidableEq, Repr

/-- A checkpoint image (R474) by its target (0 a companion address, 1 a peer) and address: what firmware has saved in it besides HBM4, for
CHKLOAD to put back. -/
structure Checkpoint where
  kind : Nat
  addr : Nat
  mem : Memory
  bad : List Nat
  tags : Tab (BitVec 64)
  parts : Tab (BitVec 16)
  vds : Tab Vd
  locks : Tab (BitVec 16)
  slots : Tab KeySlot
  libs : List (BitVec 256 × BitVec 256)
  handlers : Tab (BitVec 256)
  opSaves : Tab OpSave
  ctxs : Tab Ctx
  clusters : Tab Cluster
  pqs : List (Nat × PqEntry)
deriving DecidableEq, Repr

/-- The hub (R434 to R518). booted: its boot ROM has accepted a firmware image (R482); cmd: the record of the hypervisor command under way, cmds those of the commands written behind it (R442);
cmdPart, svcPart: what the command and the service under way have read so far, cmdPuts, svcPuts what they have still to write (R294),
svcEnd the status that the service then answers;
tlbGone: entries that gave way to others, whose translations may still be in use (R453). -/
structure Hub where
  fused : Fused
  up : Bool
  booted : Bool
  fwm : BitVec 256
  svn : BitVec 16
  pos : BitVec 8
  posSet : Bool
  posNext : Option (BitVec 8)
  policy : Option (List (BitVec 256))
  parts : Tab (BitVec 16)
  vds : Tab Vd
  locks : Tab (BitVec 16)
  slots : Tab KeySlot
  tlb : List TlbEntry
  tlbGone : List TlbEntry
  links : List Link
  log : List (BitVec 128)
  logCtr : BitVec 32
  hctr : Word
  sidNext : Nat
  libs : List (BitVec 256 × BitVec 256)
  fwq : List FwReq
  opSaves : Tab OpSave
  handlers : Tab (BitVec 256)
  retiredTiles : List Nat
  retiredBanks : List Nat
  retclear : List Nat
  hot : List Nat
  ckpt : List Checkpoint
  cmd : Option Nat
  cmds : List Nat
  cmdPart : List (Word × Lanes)
  cmdPuts : List Access
  svcPart : List (Word × Lanes)
  svcPuts : List Access
  svcEnd : Option Nat
  inbox : List MigState
deriving DecidableEq, Repr

/-! ## The whole machine -/

/-- Whose move comes next: a die's arithmetic clock, an element, a sequencer context, one event of the device or of
the outside world, or a message of the board controller by its MCTP type and bytes (R518). -/
inductive Turn where
  | tick (die : Nat)
  | element (tile elem : Nat)
  | context (cid : Nat)
  | event (i : Instr)
  | message (ty : Nat) (bytes : List Byte)
deriving DecidableEq, Repr

/-- Who executes: the element, slot and plane that fire, or the context that executes. Set by the step. -/
structure Cursor where
  plane : Nat := 0
  elem : Nat := 0
  slot : Nat := 0
  cid : Nat := 0
deriving DecidableEq, Repr

/-- The state of one package. agenda: the turns to come (the model's own field, log entry 1); cur: who executes; free:
the model's counter of free values (log entry 2); mem: device memory as read through key slot 0, by package offset
(R439); bad: sectors that fail their check (R519); soft: sectors with an error that a read corrects (R475, R519); l2: the lines of
128 bytes that each L2 slice holds, by slice 16*die + n, whose bytes stand in mem; dir: the lines that the companion caches, as the
slices' directories track them (R23, R323, R435); tags: integrity tags of operand-only blocks of 512 bytes, by block number (R484); fmem: the firmware address space, fbad its sectors that fail their check (R208, R475); cmem: companion memory. -/
structure State where
  agenda : List Turn
  cur : Cursor
  free : Nat
  mem : Memory
  bad : List Nat
  soft : List Nat
  l2 : Tab (List Nat)
  dir : List Nat
  tags : Tab (BitVec 64)
  fmem : Memory
  fbad : List Nat
  cmem : Memory
  net : List Packet
  power : Tab Power
  planes : Tab Plane
  ctxs : Tab Ctx
  clusters : Tab Cluster
  dies : Tab Die
  hub : Hub
  out : List OutMsg
deriving DecidableEq, Repr

/-- Why a step stops for good. noMemory: raised by companionRead and companionWrite at an offset beyond the package's
HBM4, which the companion does not see (R435); safe. -/
inductive Fault where
  | noMemory (off : Nat)
deriving DecidableEq, Repr

/-- Why an instruction has no meaning. notModelled: raised by no meaning, only by an arm not yet written; safe. -/
inductive Refusal where
  | notModelled (mnemonic : String)
deriving DecidableEq, Repr

/-- A context as a cold reset leaves it (R201); the X registers, for which the spec gives no value at a cold reset, are
zero (log entry 3: START sets them). -/
def Ctx.reset : Ctx := { x := Vector.replicate 32 0 }

/-- Frame-table entry 0 after reset: plane 0 for 0x400 ac (R461). -/
def frameReset : List Word := 0x400 :: List.replicate 15 0

/-- A cluster as a cold reset leaves it: every bank in CACHE mode, assigned to no virtual device (R457). -/
def Cluster.reset : Cluster :=
  { frame := frameReset, written := frameReset, idx := 0, left := 0x400, banks := List.replicate 16 {} }

/-- The fused values of a package: free constants of Config. -/
def Fused.reset : Fused :=
  ⟨Config.firmwareKey, Config.minSvn, Config.signModulus, Config.signPrivate, Config.wrapModulus, Config.wrapPrivate, Config.bexsolLibraryKey,
    Config.bexsolHandlerModulus, Config.handlerImageBytes, Config.hubReservedBase, Config.hubReservedBytes⟩

/-- The hub after bring-up with no partition: slot 0 OPEN (R484), links DOWN (R459), position (0, 0) (R17). -/
def Hub.reset : Hub :=
  { fused := Fused.reset, up := true, booted := true, fwm := 0, svn := 0, pos := 0, posSet := false, posNext := none, policy := none, parts := [], vds := [], locks := [],
    slots := [(0, { kind := .open, key := Config.freeBits 256 0 })], tlb := [], tlbGone := [], links := List.replicate 16 {}, log := [], logCtr := 0, hctr := 0,
    sidNext := 0, libs := [], fwq := [], opSaves := [], handlers := [], retiredTiles := [],
    retiredBanks := [], retclear := [], hot := [], ckpt := [], cmd := none, cmds := [], cmdPart := [], cmdPuts := [], svcPart := [], svcPuts := [], svcEnd := none,
    inbox := [] }

/-- The machine right after reset: the hub page just opened, every tile power-gated, no context running, all device
memory zero (R434). -/
def State.reset : State :=
  { agenda := [], cur := {}, free := 1, mem := [], bad := [], soft := [], l2 := [], dir := [], tags := [], fmem := [], fbad := [], cmem := [], net := [], power := [],
    planes := [], ctxs := [], clusters := [], dies := [], hub := Hub.reset, out := [] }

end Sys2Proof.Machine
end

