-- ==== Sys2Proof/Machine/Ops.lean ====
section
/-! DEFINITION. The named operations over the state: coordinates (R17, R18, R25), memory at its home (R293, R440, R519),
fault records and events (R206, R454), the event log (R515), channels and outputs (R31, R36, R42, R46), the balance and the
idle count (R59, R60). -/

namespace Sys2Proof.Machine

abbrev Ans := Host.Outcome State Fault Refusal

/-- A number composed of fields: (lowest bit, width, value). -/
def pack : List (Nat × Nat × Nat) → Nat
  | [] => 0
  | (lo, w, v) :: r => v % 2 ^ w * 2 ^ lo + pack r

def bitsSet (n : Nat) (m : Nat) : List Nat := (List.range n).filter (fun i => m.testBit i)

/-! ## Coordinates (R17, R18, R25) -/

def State.posN (s : State) : Nat := s.hub.pos.toNat
def State.px (s : State) : Nat := s.hub.pos.toNat % 16
def State.py (s : State) : Nat := s.hub.pos.toNat / 16
def tileTx (t : Nat) : Nat := t % 64
def tileTy (t : Nat) : Nat := t / 64
def mkTile (tx ty : Nat) : Nat := tx + 64 * ty
/-- Fabric address x of a tile. -/
def faX (s : State) (t : Nat) : Nat := 64 * s.px + tileTx t
/-- Fabric address y of a tile. -/
def faY (s : State) (t : Nat) : Nat := 32 * s.py + tileTy t
/-- The tile of this package at a fabric address. -/
def tileAt (s : State) (x y : Nat) : Option Nat :=
  if x / 64 = s.px ∧ y / 32 = s.py ∧ y < 512 ∧ x < 1024 then some (mkTile (x % 64) (y % 32)) else none
def tileDie (t : Nat) : Nat := tileTx t / 32 + 2 * (tileTy t / 16)
def tileClus (t : Nat) : Nat := tileTx t % 32 / 8 + 4 * (tileTy t % 16 / 4)
def tileIdx (t : Nat) : Nat := tileTx t % 8 + 8 * (tileTy t % 4)
def tileCluster (t : Nat) : Nat := 16 * tileDie t + tileClus t
def tileGranule (t : Nat) : Nat := 4 * tileDie t + (tileTx t % 32 / 16 + 2 * (tileTy t % 16 / 8))
def clusterDie (c : Nat) : Nat := c / 16
def clusterGranule (c : Nat) : Nat := 4 * (c / 16) + (c % 4 / 2 + 2 * (c % 16 / 4 / 2))
/-- Tile 0 of a cluster. -/
def clusterTile (c : Nat) : Nat :=
  let d := c / 16
  mkTile (32 * (d % 2) + 8 * (c % 4)) (16 * (d / 2) + 4 * (c % 16 / 4))
/-- Tile t (0-31) of a cluster. -/
def clusterTileNo (c t : Nat) : Nat := clusterTile c + t % 8 + 64 * (t / 8)
def ctxCluster (cid : Nat) : Nat := cid / 8
def planeTile (pl : Nat) : Nat := pl / 4
def planeDie (pl : Nat) : Nat := tileDie (planeTile pl)
def planeCluster (pl : Nat) : Nat := tileCluster (planeTile pl)

/-! ## Parts of the state -/

/-- A context as a cold reset leaves it, SQ_FTVEC at its cluster's firmware trap entry (R201, R208). -/
def ctxInit (c : Nat) : Ctx := { Ctx.reset with ftvec := Config.firmwareEntry (c / 8) &&& ~~~63#64 }
def State.ctx (s : State) (c : Nat) : Ctx := tget s.ctxs c (ctxInit c)
def State.setCtx (s : State) (c : Nat) (x : Ctx) : State := { s with ctxs := tset s.ctxs c x }
def State.modCtx (s : State) (c : Nat) (f : Ctx → Ctx) : State := s.setCtx c (f (s.ctx c))
def State.die (s : State) (d : Nat) : Die := tget s.dies d {}
def State.setDie (s : State) (d : Nat) (x : Die) : State := { s with dies := tset s.dies d x }
def State.cluster (s : State) (c : Nat) : Cluster := tget s.clusters c Cluster.reset
def State.setCluster (s : State) (c : Nat) (x : Cluster) : State := { s with clusters := tset s.clusters c x }
def State.modCluster (s : State) (c : Nat) (f : Cluster → Cluster) : State := s.setCluster c (f (s.cluster c))
def State.powerOf (s : State) (t : Nat) : Power := tget s.power t .gated
def State.setPower (s : State) (t : Nat) (p : Power) : State := { s with power := tset s.power t p }
def State.plane? (s : State) (pl : Nat) : Option Plane := tfind s.planes pl
def State.setPlane (s : State) (pl : Nat) (p : Plane) : State := { s with planes := tset s.planes pl p }
def State.modPlane (s : State) (pl : Nat) (f : Plane → Plane) : State :=
  match s.plane? pl with
  | some p => s.setPlane pl (f p)
  | none => s
def State.vd? (s : State) (v : Nat) : Option Vd := tfind s.hub.vds v
def State.setHub (s : State) (h : Hub) : State := { s with hub := h }
def State.setVd (s : State) (v : Nat) (x : Vd) : State := { s with hub := { s.hub with vds := tset s.hub.vds v x } }
def State.modVd (s : State) (v : Nat) (f : Vd → Vd) : State :=
  match s.vd? v with
  | some x => s.setVd v (f x)
  | none => s
def State.slot (s : State) (k : Nat) : KeySlot := tget s.hub.slots k {}
def State.setSlot (s : State) (k : Nat) (x : KeySlot) : State :=
  { s with hub := { s.hub with slots := tset s.hub.slots k x } }
def State.emit (s : State) (m : OutMsg) : State := { s with out := s.out ++ [m] }
def State.send (s : State) (p : Packet) : State := { s with net := s.net ++ [p] }
def State.dropPacket (s : State) (k : Nat) : State := { s with net := s.net.eraseIdx k }
/-- The arithmetic-clock count of a die (R27). -/
def State.ac (s : State) (d : Nat) : Nat := (s.die d).ac
def State.planeAc (s : State) (pl : Nat) : Nat := s.ac (planeDie pl)
/-- The next free value of the model (log entry 2). -/
def State.draw (s : State) : Nat × State := (s.free, { s with free := s.free + 1 })

/-- Whether every entry of a frame table has DUR = 0. -/
def frameIdle (f : List Word) : Bool := f.all (fun e => bits e.toNat 0 32 == 0)
/-- Whether the entry in force has run out, so that the next one is due (R461). -/
def frameDue (c : Cluster) : Bool := c.left == 0 && !(frameIdle c.frame && frameIdle c.written)
/-- A frame table written (R230, R461, R468): it is read at the start of the next pass, which is the next ac where no entry
takes any time. -/
def Cluster.writeFrame (c : Cluster) (f : List Word) : Cluster :=
  { c with written := f, left := if frameIdle c.frame && frameIdle c.written then max c.left 1 else c.left }
/-- The plane a cluster's frame table makes active (R461): plane 0 when every entry has DUR = 0. -/
def activePlane (c : Cluster) : Nat :=
  if c.frame.all (fun e => bits e.toNat 0 32 == 0) then 0 else bits (c.frame.getD c.idx 0).toNat 32 2

/-! ## Physical memory (R439, R440) -/

def hbmBytes : Nat := 0x9000000000
def granBytes : Nat := 0x900000000
def sramBase : Nat := 0xA0000000000
def sramBytes : Nat := 0x10000000
def isHbm (o : Nat) : Bool := decide (o < hbmBytes)
def isSram (o : Nat) : Bool := decide (sramBase ≤ o ∧ o < sramBase + sramBytes)
/-- The package offset of a physical address of this package. -/
def localOff (s : State) (pa : Nat) : Option Nat :=
  if pa / 2 ^ 44 = s.posN ∧ (isHbm (pa % 2 ^ 44) || isSram (pa % 2 ^ 44)) = true then some (pa % 2 ^ 44) else none
def paOf (s : State) (o : Nat) : Nat := s.posN * 2 ^ 44 + o
/-- Bank number 16 * cluster + bank of a SCRATCH address. -/
def sramBank (o : Nat) : Nat := (o - sramBase) / 2 ^ 18
/-- The die of an offset's home. -/
def homeDie (o : Nat) : Nat := if isSram o then sramBank o / 16 / 16 else o / granBytes / 4
/-- The tile to which an offset's home is attached (R25). -/
def homeTile (o : Nat) : Nat :=
  if isSram o then clusterTile (sramBank o / 16)
  else
    let g := o / granBytes
    let k := (o - g * granBytes) / 4096 % 4
    clusterTile (16 * (g / 4) + (2 * (g % 2) + k % 2) + 4 * (2 * (g % 4 / 2) + k / 2))
/-- The channel that holds an offset of HBM4, with its stack and the address in it (R440). -/
def hbmChannel (o : Nat) : Nat × Nat × Nat :=
  let g := o / granBytes
  let r := o - g * granBytes
  let n := r / 4096
  let c := 24 * (g % 4) + n % 24
  (c, c / 32, n / 24 * 4096 + r % 4096)
/-- A die of the pod, as strands count them: 4 * package position + die (R304). -/
def dieKey (pa : Nat) : Nat := 4 * (pa / 2 ^ 44) + homeDie (pa % 2 ^ 44)
def ownDieKey (s : State) (d : Nat) : Nat := 4 * s.posN + d

/-- A sector's 32 bytes as read through key slot b when they stand for v read through slot a (R484): HBM4 alone is
encrypted. -/
def recode (s : State) (off a b v : Nat) : Nat :=
  if a = b ∨ isHbm off = false then v
  else
    let tw := paOf s off / 32
    ofBytesLE (xtsUnit false (s.slot b).key tw (xtsUnit true (s.slot a).key tw (bytesLE 32 v)))

/-- The sector at a local offset (a multiple of 32) through a key slot. -/
def sectorAt (s : State) (off kslot : Nat) : Nat := recode s off 0 kslot (mreadN s.mem off 32)

/-- The bytes of a number selected by a mask, from a second number elsewhere. -/
def mergeMask : Nat → Nat → Nat → Nat → Nat
  | 0, _, _, _ => 0
  | n + 1, mask, new, old =>
    (if mask % 2 = 1 then new % 256 else old % 256) + 256 * mergeMask n (mask / 2) (new / 256) (old / 256)

/-- Every armed monitor on a sector fires (R217). -/
def fireMonitors (s : State) (sector : Nat) : State :=
  { s with ctxs := tmap (fun _ c => if c.mon = some sector then { c with monFired := true } else c) s.ctxs }

def fullMask : Nat := 2 ^ 32 - 1

/-! ## L2 slices and their directories (R23, R25, R30, R323) -/

/-- The slice that is the home of an offset of HBM4: 16 * die + 4 * quadrant + k (R25). -/
def sliceOf (o : Nat) : Nat :=
  let g := o / granBytes
  16 * (g / 4) + 4 * (g % 4) + (o - g * granBytes) / 4096 % 4
/-- Lines of 128 bytes that a slice of 6 MiB holds. -/
def sliceLines : Nat := 49152
/-- The line of an access stands in its slice; a full slice writes back a line of its own choice. -/
def touchLine (s : State) (o : Nat) : State :=
  let l := tget s.l2 (sliceOf o) []
  if isHbm o = false ∨ l.contains (o / 128) = true then s
  else if l.length < sliceLines then { s with l2 := tset s.l2 (sliceOf o) (l ++ [o / 128]) }
  else
    let (n, s) := s.draw
    { s with l2 := tset s.l2 (sliceOf o) (l.eraseIdx (Config.freePick n % l.length) ++ [o / 128]) }
/-- Before a device write to a line that the companion caches becomes visible, the directory invalidates the companion's copy (R323). -/
def takeBack (s : State) (o : Nat) : State :=
  if s.dir.contains (o / 128) then ({ s with dir := s.dir.filter (· != o / 128) }).emit (.companionInvalidate (o / 128)) else s

/-- The same for every line that the companion caches of the offsets in question. -/
def takeBackAll (s : State) (hit : Nat → Bool) : State := (s.dir.filter (fun l => hit (128 * l))).foldl (fun s l => takeBack s (128 * l)) s

/-- A home performs a write of a sector (R293, R519): a whole-sector write clears an error; a partial write over a sector
that fails its check is lost. off is local, data are seen through kslot. -/
def homeWrite (s : State) (off mask data kslot : Nat) : State :=
  let s := fireMonitors (touchLine s off) (paOf s off)
  if mask = fullMask then
    { s with mem := mwriteN s.mem off 32 (recode s off kslot 0 data), bad := s.bad.filter (· != off), soft := s.soft.filter (· != off) }
  else if s.bad.contains off then s
  else
    let v := mergeMask 32 mask data (sectorAt s off kslot)
    { s with mem := mwriteN s.mem off 32 (recode s off kslot 0 v) }
/-- The same for a write of the device. -/
def homePut (s : State) (off mask data kslot : Nat) : State := homeWrite (takeBack s off) off mask data kslot

/-- A sector marked with the poisoned-data encoding (R477, R519). -/
def poisonSector (s : State) (off : Nat) : State :=
  let s := fireMonitors (takeBack s off) (paOf s off)
  if s.bad.contains off then s else { s with bad := s.bad ++ [off] }

/-! ## Origins (R33) -/

/-- The origin record of a poison made by a unit of a tile. -/
def newOrigin (s : State) (tile unit slot cause row : Nat) : Word :=
  BitVec.ofNat 64 (pack [(62, 2, tileDie tile), (58, 4, tileClus tile), (53, 5, tileIdx tile), (48, 5, unit), (44, 4, slot),
    (40, 4, cause), (24, 16, row), (20, 4, s.px), (16, 4, s.py)])

def causeNan : Nat := 1
def causeMemue : Nat := 2
def causeXfault : Nat := 3
def causeMisroute : Nat := 4
def causeScale : Nat := 5
def causeInject : Nat := 6

/-! ## The form of packets (R83, R85, R86, R305) -/

/-- The tile whose unit sends for an agent. -/
def agentTile : Agent → Nat
  | .plane pl => planeTile pl
  | .ctx c => clusterTile (c / 8)
  | .copy c => clusterTile c
  | .hub => 0
  | .companion => 0
/-- Fabric address, as {y, x} in 20 bits, of the tile to which a physical address's home is attached, and of a tile here. -/
def homeFa (pa : Nat) : Nat :=
  let t := homeTile (pa % 2 ^ 44)
  (64 * (pa / 2 ^ 44 % 16) + tileTx t) + 1024 * (32 * (pa / 2 ^ 48 % 16) + tileTy t)
def tileFa (s : State) (t : Nat) : Nat := faX s t + 1024 * faY s t
/-- The continuation of a message (R83): fabric address, plane, unit code, channel and context. -/
def contFields (s : State) : Cont → List (Nat × Nat × Nat)
  | .none => []
  | .chan pl c _ _ =>
    [(102, 10, faX s (planeTile pl)), (92, 10, faY s (planeTile pl)), (90, 2, pl % 4), (85, 5, c / 8), (82, 3, c % 8)]
  | .ctx c => [(102, 10, faX s (agentTile (.ctx c))), (92, 10, faY s (agentTile (.ctx c))), (85, 5, 31), (79, 3, c % 8)]
/-- The 128 bits of an active message (R83); a poisoned operand is its origin. -/
def Msg.word (s : State) (m : Msg) : Nat :=
  pack ([(120, 8, m.handler), (114, 1, m.psn.isSome.toNat), (113, 1, m.w32.toNat), (112, 1, m.nr.toNat),
    (0, 64, (m.psn.getD m.operand).toNat)] ++ contFields s m.cont)
/-- Class, BODY, payload flits, CLOSE, TAG and destination (PLANE, DUNIT, DCH, fabric address) of a packet (R86, R305). -/
structure Form where
  cls : Nat
  body : Nat := 0
  payload : List Nat := []
  close : Bool := false
  tag : Nat := 0
  plane : Nat := 0
  dunit : Nat := 31
  dch : Nat := 0
  fa : Nat
deriving DecidableEq, Repr
/-- The BODY of a memory request (R86). -/
def reqBody (pa mop scope mask : Nat) : Nat := pack [(92, 52, pa), (88, 4, mop), (85, 3, scope), (32, 32, mask)]
/-- The BODY of a strand control packet (R305). -/
def strandBody (ctl six seq : Nat) (opn : Bool) : Nat := pack [(136, 8, ctl), (130, 6, six), (114, 16, seq), (113, 1, opn.toNat)]
/-- The unit that a strand's source packets return to (R305): the MIF, or a sequencer context. -/
def sourceUnit : Agent → Nat
  | .plane _ => 9
  | _ => 31
/-- The form of a packet; a result is a data token from unit 31, poisoned where its target failed its check (R520). DESIGN CHOICE (log
entry 96): a vector atomic travels as a memory request with MOP 0b0101, as R86 lists it, also where R160 says invocation, with scope
code 0 and no bit that tells .BF16 from .F32. -/
def Packet.form (s : State) (p : Packet) : Form :=
  let dieFa := 1024 * (32 * (p.die / 64 % 16) + 16 * (p.die % 4 / 2)) + (64 * (p.die / 4 % 16) + 32 * (p.die % 2))
  match p.body with
  | .token pl c fp port t =>
    { cls := 0, body := pack [(142, 2, fp % 4), (137, 5, port / 8), (134, 3, port % 8)], payload := [t.data.toNat], tag := t.tag.toNat,
      plane := pl % 4, dunit := c / 8, dch := c % 8, fa := tileFa s (planeTile pl) }
  | .credit pl _ _ _ => { cls := 4, fa := tileFa s (planeTile pl) }
  | .load sec _ _ _ acq _ =>
    { cls := 1, body := reqBody sec (if acq.isSome then 2 else 0) (match acq with | some sc => sc.code | none => 0) 0, fa := homeFa sec }
  | .fx (.store a) _ =>
    { cls := 1, body := reqBody a.sector (if a.close then 4 else if a.rel.isSome then 3 else 1)
        (match a.rel with | some sc => sc.code | none => 0) a.mask.toNat,
      payload := [a.data.toNat], close := a.close, fa := homeFa a.sector }
  | .fx (.vamo sec _ v _) _ => { cls := 1, body := reqBody sec 5 0 (2 ^ 32 - 1), payload := [v.toNat], fa := homeFa sec }
  | .fx (.invoke m) _ => { cls := 3, body := pack [(92, 52, m.pa)], payload := [m.word s], fa := homeFa m.pa }
  | .reply pl _ sec v _ _ =>
    { cls := 2, body := pack [(92, 52, sec)], payload := [v.toNat], plane := pl % 4, dunit := 9, fa := tileFa s (planeTile pl) }
  | .result cont v null psn ue _ =>
    let at_ := match cont with | .chan pl _ _ _ => planeTile pl | _ => agentTile p.src
    let psn := if ue then some (newOrigin s at_ 9 0 causeMemue 0xFFFF) else psn
    let tag := fun (otag : BitVec 4) => 32 * psn.isSome.toNat + 16 * null.toNat + otag.toNat
    let f : Form := { cls := 0, body := pack [(137, 5, 31)], payload := [(psn.getD v).toNat], fa := tileFa s (agentTile p.src) }
    match cont with
    | .chan pl c _ otag => { f with tag := tag otag, plane := pl % 4, dunit := c / 8, dch := c % 8 }
    | _ => { f with tag := tag 0 }
  | .strandOpen six seq => { cls := 4, body := strandBody 0x10 six seq false, fa := dieFa }
  | .release six seq => { cls := 4, body := strandBody 0x11 six seq false, fa := dieFa }
  | .ack six _ seq => { cls := 4, body := strandBody 0x12 six seq false, dunit := sourceUnit p.src, fa := tileFa s (agentTile p.src) }
  | .retry six _ seq opn => { cls := 4, body := strandBody 0x13 six seq opn, dunit := sourceUnit p.src, fa := tileFa s (agentTile p.src) }
/-- The strand of a packet and its number. -/
def Packet.strand? (x : Packet) : Option Strand :=
  match x.body with
  | .fx _ st => st
  | _ => none
/-- The fabric address of a packet's source tile: the home of what it answers, or its sender's. -/
def Packet.srcFa (s : State) (p : Packet) : Nat :=
  match p.body with
  | .reply _ _ sec _ _ _ => homeFa sec
  | .result _ _ _ _ _ pa => homeFa pa
  | _ => tileFa s (agentTile p.src)
/-- The head flit (R85) and the payload flits of a packet. -/
def Packet.flits (s : State) (p : Packet) : List (BitVec 256) :=
  let f := p.form s
  let src := p.srcFa s
  let strand := match p.strand? with
    | some x => [(202, 1, 1), (196, 6, x.six), (180, 16, x.seq)]
    | none => []
  let head := pack ([(246, 10, f.fa), (236, 10, f.fa / 1024), (234, 2, f.plane), (231, 3, f.cls), (226, 5, f.dunit), (223, 3, f.dch),
    (213, 10, src), (203, 10, src / 1024), (176, 4, p.vd), (168, 8, f.payload.length), (167, 1, f.close.toNat), (144, 16, f.tag),
    (0, 144, f.body)] ++ strand)
  (head :: f.payload).map (BitVec.ofNat 256)
/-- A packet that leaves the package. -/
def State.emitPacket (s : State) (p : Packet) : State := s.emit (.packet p (p.flits s))
/-- The board link that a packet for another package takes, a free choice (log entry 4), and whether it carries tenant traffic: only in
state UP (R460). -/
def State.linkUp (s : State) : State × Bool :=
  let (n, s) := s.draw
  (s, ((s.hub.links.getD (Config.freePick n % 16) {}).st == 3))

/-- Bytes written by the device at a physical address through a key slot, sector by sector; those of another package leave
as packets (fuel bounds the sectors). -/
def devWriteAux : Nat → State → Nat → Nat → Bytes → State
  | 0, s, _, _, _ => s
  | n + 1, s, pa, kslot, l =>
    if l = [] then s
    else
      let lo := pa % 32
      let k := min (32 - lo) l.length
      let mask := (2 ^ k - 1) * 2 ^ lo
      let data := ofBytesLE (l.take k) * 2 ^ (8 * lo)
      let s := match localOff s (pa - lo) with
        | some o => homePut s o mask data kslot
        | none =>
          let a : Access := ⟨pa - lo, BitVec.ofNat 256 data, BitVec.ofNat 32 mask, some .pod, false, kslot⟩
          let (s, up) := s.linkUp
          if up then s.emitPacket ⟨.hub, 0, 4 * (pa / 2 ^ 44), 0, .fx (.store a) none, []⟩ else s
      devWriteAux n s (pa + k) kslot (l.drop k)
def devWrite (s : State) (pa kslot : Nat) (l : Bytes) : State := devWriteAux (l.length / 32 + 2) s pa kslot l

/-- n bytes at a physical address of this package through a key slot; none where there is no memory or a sector fails its
check. -/
def devReadAux (s : State) : Nat → Nat → Nat → Nat → Option Bytes
  | 0, _, _, _ => some []
  | f + 1, pa, kslot, n =>
    if n = 0 then some []
    else
      let lo := pa % 32
      let k := min (32 - lo) n
      match localOff s (pa - lo) with
      | none => none
      | some o =>
        if s.bad.contains o then none
        else match devReadAux s f (pa + k) kslot (n - k) with
          | none => none
          | some r => some ((((bytesLE 32 (sectorAt s o kslot)).drop lo).take k) ++ r)
def devRead (s : State) (pa kslot n : Nat) : Option Bytes := devReadAux s (n / 32 + 2) pa kslot n
def devReadN (s : State) (pa kslot n : Nat) : Option Nat := (devRead s pa kslot n).map ofBytesLE
/-- An 8-byte word that firmware looks at, free bytes where another package holds it or a sector fails its check (log entry 4): the same
ones until the next free value is drawn. -/
def peek (s : State) (pa : Nat) : Nat :=
  (devReadN s pa 0 8).getD (ofBytesLE ((List.range 8).map (fun i => Config.freeByte s.free (pa + i))))
/-- The same, a free value where another package holds the bytes or a sector fails its check (log entry 4). -/
def devReadF (s : State) (pa kslot n : Nat) : State × Nat :=
  match devReadN s pa kslot n with
  | some v => (s, v)
  | none => let (k, s) := s.draw; (s, (Config.freeBits (8 * n) k).toNat)

/-! ## Integrity tags (R484) -/

/-- The tag of a block of 512 bytes as read through a key slot: the leading 64 bits of AES-GMAC under the slot's tag key, with the
block's number as nonce (log entry 64). -/
def blockTag (s : State) (b kslot : Nat) : BitVec 64 :=
  let l := (List.range 16).flatMap (fun i => bytesLE 32 (sectorAt s (512 * b + 32 * i) kslot))
  let key := BitVec.ofNat 256 (ofBytesLE (hkdf32 (bytesLE 32 (s.slot kslot).key.toNat) "tag"))
  BitVec.ofNat 64 (ofBytesLE ((gcmTag key (bytesLE 12 (paOf s (512 * b) / 512)) l []).take 8))
/-- The tags of n blocks from an offset on written. -/
def writeTags (s : State) (off kslot : Nat) : Nat → State
  | 0 => s
  | n + 1 =>
    let s := writeTags s off kslot n
    { s with tags := tset s.tags (off / 512 + n) (blockTag s (off / 512 + n) kslot) }

/-! ## The event log (R515) and interrupts -/

def addLog (s : State) (ev unit ty tx detail : Nat) : State :=
  let e := BitVec.ofNat 128 (pack [(64, 32, s.hub.logCtr.toNat), (56, 8, ev), (48, 8, unit), (38, 10, ty), (28, 10, tx),
    (0, 28, detail)])
  let l := s.hub.log ++ [e]
  { s with hub := { s.hub with log := if 4096 < l.length then l.drop 1 else l, logCtr := s.hub.logCtr + 1 } }

/-! ## Fault queues (R454, R455) -/

def fqSlots (v : Vd) : Nat := 2 ^ (v.fqlog2 + 4)
def recSlots (rc : Bytes) : Nat := (rc.length + 127) / 128
/-- FQ_HEAD as the driver writes it; a free value where it stands in another package or its sector fails its check (log entry 4). -/
def fqHead (s : State) (v : Vd) : Nat := (devReadN s (v.fqbase + 8) 0 8).getD (Config.freeBits 64 s.free).toNat
def fqFree (s : State) (v : Vd) : Nat := fqSlots v - (v.fqTail + 2 ^ 64 - fqHead s v) % 2 ^ 64

/-- The message a record sends unless one has been sent since FQ_HEAD last changed. -/
def fqNotify (s : State) (k : Nat) (v : Vd) : State :=
  if v.notify = true ∧ v.notified ≠ some (fqHead s v) then
    (s.emit (.interrupt v.nvec k)).modVd k (fun v => { v with notified := some (fqHead s v) })
  else s

def writeSlots : Nat → State → Vd → Nat → Bytes → State
  | 0, s, _, _, _ => s
  | n + 1, s, v, i, l =>
    let b := l.take 128
    writeSlots n (devWrite s (v.fqbase + 128 + 128 * (i % fqSlots v)) 0 (b ++ zerosB (128 - b.length))) v (i + 1) (l.drop 128)

/-- A record written into the queue, FQ_TAIL after it. -/
def fqWrite (s : State) (k : Nat) (v : Vd) (rc : Bytes) : State :=
  let n := recSlots rc
  let s := writeSlots n s v v.fqTail rc
  let v := { v with fqTail := v.fqTail + n }
  let s := s.setVd k v
  fqNotify (devWrite s v.fqbase 0 (bytesLE 8 v.fqTail)) k v

/-- Whether a source may raise a record now (R454): a 65th held record makes it wait. -/
def canRaise (s : State) (k : Nat) (rc : Bytes) : Bool :=
  match s.vd? k with
  | none => true
  | some v => (v.fqHeld.isEmpty && decide (recSlots rc ≤ fqFree s v)) || decide (v.fqHeld.length < 64)

/-- A record raised: written, or held with OVF set. -/
def raise (s : State) (k : Nat) (rc : Bytes) : State :=
  match s.vd? k with
  | none => s
  | some v =>
    if v.fqHeld.isEmpty = true ∧ recSlots rc ≤ fqFree s v then (devReadF (fqWrite s k v rc) (v.fqbase + 8) 0 8).1
    else
      let s := s.setVd k { v with fqHeld := v.fqHeld ++ [rc] }
      let (s, o) := devReadF s (v.fqbase + 16) 0 1
      devWrite s (v.fqbase + 16) 0 [BitVec.ofNat 8 (o ||| 1)]

/-- A context's balance changed: a signed 32-bit counter (R59). -/
def Ctx.addBal (c : Ctx) (d : Int) : Ctx := { c with bal := sgn 32 (wrap 32 (c.bal + d)) }
/-- SQ_EVENT bit i of a context (R206). -/
def setEvent (s : State) (cid i : Nat) : State := s.modCtx cid (fun c => { c with event := c.event ||| BitVec.ofNat 64 (2 ^ i) })

/-! ## Tag words (R32) -/

def Token.nul (t : Token) : Bool := t.tag.getLsbD 4
def Token.psn (t : Token) : Bool := t.tag.getLsbD 5
def Token.scl (t : Token) : Bool := t.tag.getLsbD 6
def Token.seal (t : Token) : Bool := t.tag.getLsbD 7
def Token.mrk (t : Token) : Bool := t.tag.getLsbD 8
def Token.drn (t : Token) : Bool := t.tag.getLsbD 9
def Token.knt (t : Token) : Bool := t.tag.getLsbD 10
def Token.rpl (t : Token) : Bool := t.tag.getLsbD 11
/-- A control token (R33). -/
def Token.ctl (t : Token) : Bool := t.mrk || t.drn || t.knt
def Token.utag (t : Token) : BitVec 4 := t.tag.extractLsb' 0 4

def mkTag (scl psn nul : Bool) (utag : BitVec 4) : BitVec 16 :=
  BitVec.ofNat 16 (64 * scl.toNat + 32 * psn.toNat + 16 * nul.toNat + utag.toNat)
def knotTok (drain : Bool) : Token := { data := 0, tag := if drain then 0x600 else 0x400 }
def markerTok : Token := { data := 0, tag := 0x100 }
def nullTok (scl : Bool) (utag : BitVec 4) : Token := { data := 0, tag := mkTag scl false true utag }
def dataTok (v : Lanes) (scl : Bool) (utag : BitVec 4) : Token := { data := v, tag := mkTag scl false false utag }
/-- A poisoned token: the origin in lanes 0-1, SCL 0 (R33, R105). -/
def poisonTok (org : Word) (utag : BitVec 4) : Token := { data := org.setWidth 256, tag := mkTag false true false utag }
/-- The origin a poisoned token carries. -/
def Token.origin (t : Token) : Word := t.data.setWidth 64

/-- The token of an operator's step, whose SCL its rule sets whatever its kind (R276, R278, R280, R281, R283). -/
def kindTokS (k : Kind) (v : Lanes) (scl : Bool) (utag : BitVec 4) : Token :=
  match k with
  | .data => dataTok v scl utag
  | .null => nullTok scl utag
  | .poison org => { poisonTok org utag with tag := mkTag scl true false utag }
/-- The token of a firing's kind (R37). -/
def kindTok (k : Kind) (v : Lanes) (scl : Bool) (utag : BitVec 4) : Token :=
  match k with
  | .data => dataTok v scl utag
  | .null => nullTok scl utag
  | .poison org => poisonTok org utag

/-! ## Channels (R31, R36, R42, R51) -/

/-- Places that are not a marker's. -/
def Place.plain (p : Place) : Bool :=
  match p.tok with
  | some t => !t.mrk
  | none => true

/-- The head token as a guard sees it at ac n: the first place, if filled and visible; a full replay buffer hides it. -/
def Chan.head (c : Chan) (n : Nat) : Option Token :=
  if c.entry = true ∧ 256 ≤ c.replay.length then none
  else match c.q with
    | [] => none
    | p :: _ => match p.tok with
      | some t => if p.vis ≤ n ∧ t.mrk = false then some t else none
      | none => none

/-- Entries taken at ac n: places, and those freed in this same ac. -/
def Chan.occ (c : Chan) (n : Nat) : Nat := (c.q.filter Place.plain).length + (if c.freedAt = n then c.freed else 0)

/-- Whether a producer finds a free entry; while a reconfiguration is pending it finds none (R228). -/
def Chan.free (c : Chan) (n : Nat) : Bool := decide (c.occ n + 1 < c.depth) && c.recfg.isNone

/-- A place put behind every place but the floating ones. -/
def insertPlace (p : Place) : List Place → List Place
  | [] => [p]
  | x :: r => if x.float then p :: x :: r else x :: insertPlace p r

def Chan.put (c : Chan) (p : Place) : Chan := { c with q := insertPlace p c.q }
/-- A floating place, behind everything (log entry 12). -/
def Chan.putFloat (c : Chan) (id : Nat) (late : Bool) : Chan :=
  { c with q := c.q ++ [{ id := id, tok := none, vis := 0, float := true, late := late }] }
/-- Whether a reply reserved now must float behind another one. -/
def Chan.floats (c : Chan) : Bool := c.q.any (fun p => p.float)

/-- Floating places that are filled and stand before any unfilled one take their place. -/
def settle : List Place → List Place
  | [] => []
  | x :: r => if x.float then (if x.tok.isSome then { x with float := false } :: settle r else x :: r) else x :: settle r

def Chan.fill (c : Chan) (id : Nat) (t : Token) (vis : Nat) : Chan :=
  { c with q := settle (c.q.map (fun p => if p.id = id then { p with tok := some t, vis := vis } else p)) }

/-- The head leaves at ac n (R42, R51). -/
def Chan.pop (c : Chan) (n : Nat) : Chan :=
  match c.q with
  | [] => c
  | p :: r =>
    { c with
      q := r
      freedAt := n
      freed := (if c.freedAt = n then c.freed else 0) + 1
      replay := match p.tok with
        | some t => if c.entry || p.keep || (t.knt && !c.replay.isEmpty) then c.replay ++ [t] else c.replay
        | none => c.replay
      recfg := c.recfg.map (fun (d, k) => (d, k - 1)) }

/-! ## Planes: units, activity, balance (R59, R60, R332) -/

def chanUnit (k : Nat) : Nat := k / 8
def blockOf (p : Plane) (u : Nat) : Nat := ((p.page.blocks.getD (u - 8) 0).toNat)

/-- The units that take part: elements with a routed channel or output (R332), operators whose block is enabled. -/
def Plane.units (p : Plane) : List Nat :=
  (List.range 20).filter (fun u =>
    if u < 8 then p.chans.any (fun e => chanUnit e.1 == u) || p.outs.any (fun e => chanUnit e.1 == u)
    else (blockOf p u).testBit 0)
def Plane.inputs (p : Plane) (u : Nat) : List Nat := (p.chans.filter (fun e => chanUnit e.1 == u)).map (·.1)
def Plane.fwdInputs (p : Plane) (u : Nat) : List Nat :=
  (p.chans.filter (fun e => chanUnit e.1 == u && !e.2.back)).map (·.1)
def Plane.backInputs (p : Plane) (u : Nat) : List Nat :=
  (p.chans.filter (fun e => chanUnit e.1 == u && e.2.back)).map (·.1)
def Plane.outputs (p : Plane) (u : Nat) : List Nat := (p.outs.filter (fun e => chanUnit e.1 == u)).map (·.1)
def Plane.chan (p : Plane) (k : Nat) : Chan := tget p.chans k { depth := 0 }
def Plane.setChan (p : Plane) (k : Nat) (c : Chan) : Plane := { p with chans := tset p.chans k c }
def Plane.head (p : Plane) (k n : Nat) : Option Token := (p.chan k).head n
def Plane.elem (p : Plane) (e : Nat) : Elem := p.elems.getD e { g := Vector.replicate 32 0, p := 0, halted := false }
def Plane.setElem (p : Plane) (e : Nat) (x : Elem) : Plane := { p with elems := p.elems.set e x }
def mxZero : Mx := { stat := 0, shadow := 0, sf := 0, af := false, cb := 0, sca := 0, scs := 0 }
def Plane.mxOf (p : Plane) (e : Nat) : Mx := p.mx.getD e mxZero
def Plane.setMx (p : Plane) (e : Nat) (x : Mx) : Plane := { p with mx := p.mx.set e x }
def rowZero : AccRow := { data := 0, psn := false, oix := 0xFFFF }
def Plane.row (p : Plane) (r : Nat) : AccRow := tget p.rows r rowZero

/-- A firing or transfer at ac n (R60): the count starts again, a report is followed by a busy report. -/
def Plane.touch (p : Plane) (n : Nat) : Plane := { p with idle := 0, idleSent := false, lastAct := n + 1 }
def Plane.addBal (p : Plane) (d : Int) : Plane := { p with bal := p.bal + d }

/-- Entries of the data part a held effect fills, in bytes (R46, R192): a knot at an exit fills none (log entry 11). -/
def Effect.dataBytes : Effect → Nat
  | .fx (.store _) (some _) => 0
  | .fx _ _ => 32
  | .exit _ _ (some t) _ => if t.ctl then 0 else 32
  | .exit _ _ none _ => 32
  | .pre _ _ => 160
def Effect.remote : Effect → Nat
  | .fx (.store _) (some _) => 1
  | _ => 0
def sumBy {α : Type} (f : α → Nat) (l : List α) : Nat := l.foldl (fun a x => a + f x) 0
/-- The accumulator row a pending operation writes (R186); a null pass writes none. -/
def Work.rowOf : Work → Option Nat
  | .mmaRow k _ r _ => if k = .null then none else some r
  | .acca k _ r _ _ => if k = .null then none else some r
  | .accz r _ => some r
  | .accs _ r => some r
  | _ => none
/-- Whether a group (late or not) already holds a row's pre-image (R192). -/
def Plane.preHeld (p : Plane) (late : Bool) (row : Nat) : Bool :=
  p.held.any (fun h => h.late == late && (match h.fx with | .pre r _ => r == row | _ => false))
/-- Rows, with their group, whose pre-images the pending operations will place. -/
def Plane.preDue (p : Plane) : List (Nat × Bool) :=
  ((p.pend.filterMap (fun w => if w.done then none else w.work.rowOf.map (fun r => (r, w.late)))).filter
    (fun x => !p.preHeld x.2 x.1)).eraseDups
/-- Whether an output is on a checked route, whose tokens are not held (R290). -/
def Plane.isChecked (p : Plane) (k : Nat) : Bool :=
  match tfind p.outs k with
  | some o => match o.dest with
    | .exit _ _ c => c
    | .loc _ => false
  | none => false
/-- Held tokens of a port, and bytes a held effect takes. -/
def Plane.heldOf (p : Plane) (k : Nat) : Nat :=
  (p.held.filter (fun h => match h.fx with | .exit j _ _ _ => j == k | _ => false)).length
def Plane.heldBytes (p : Plane) (h : Held) : Nat :=
  match h.fx with
  | .exit k _ _ _ => if p.isChecked k then 0 else h.fx.dataBytes
  | _ => h.fx.dataBytes
/-- Bytes of the data part in use: open groups, pre-images to come, and released exit tokens that wait. -/
def Plane.dataUsed (p : Plane) : Nat :=
  sumBy p.heldBytes p.held + 160 * p.preDue.length +
    sumBy (fun o => if p.isChecked o.1 then 0 else sumBy (fun t => if t.ctl then 0 else 32) o.2.q) p.outs
def isStorePacket (p : Packet) : Bool :=
  match p.body with
  | .fx (.store _) _ => true
  | _ => false
/-- Remote-store entries in use: held ones, and released ones not yet acknowledged. -/
def Plane.remoteUsed (p : Plane) : Nat :=
  sumBy (fun h => h.fx.remote) p.held + (p.unack.filter isStorePacket).length
def Plane.room (p : Plane) (data remote : Nat) : Bool :=
  decide (p.dataUsed + data ≤ 8192) && decide (p.remoteUsed + remote ≤ 128)

/-- Whether an exit's destination is resolved (R331) and has a free entry that no released token waits for. A held token takes its
entry when it leaves (log entry 10). -/
def Out.free (o : Out) : Bool := o.plane.isSome && decide ((o.q.length : Int) < o.credit)
/-- R34 condition 5 for one output at ac n: a free entry at the destination, and for an exit room in the commit buffer; on a checked
route, which holds nothing, an entry for every token (R290). -/
def Plane.outReady (p : Plane) (k n : Nat) : Bool :=
  match tfind p.outs k with
  | none => false
  | some o => match o.dest with
    | .loc c => (p.chan c).free n
    | .exit _ _ c =>
      o.free && (if c then decide (((p.heldOf k + o.q.length : Nat) : Int) < o.credit) else p.room 32 0)

/-- Bytes of the commit buffer that one token on each of some outputs takes: 32 for an exit that holds its tokens (R46). -/
def Plane.exitBytes (p : Plane) (l : List Nat) : Nat :=
  sumBy (fun k => match tfind p.outs k with
    | some o => (match o.dest with
      | .exit _ _ c => if c then 0 else 32
      | .loc _ => 0)
    | none => 0) l

/-- A place taken on output k (R36); the token is there already (vis), or comes later (tok none). The answer is the id. -/
def Plane.enqueue (p : Plane) (k : Nat) (tok : Option Token) (vis : Nat) (late : Bool) : Plane :=
  let id := p.nextId
  let p := { p with nextId := id + 1 }
  let p := if tok.isSome then p.addBal 1 else p
  match tfind p.outs k with
  | none => p
  | some o => match o.dest with
    | .loc c => p.setChan c ((p.chan c).put { id := id, tok := tok, vis := vis })
    | .exit _ _ _ => { p with held := p.held ++ [{ fx := .exit k id tok vis, late := late }] }

/-- The place of a reply reserved on output k (R155): amo says that its result comes only after its group is released. -/
def Plane.reserveReply (p : Plane) (k : Nat) (amo late : Bool) : Plane × Nat :=
  let id := p.nextId
  let p := { p with nextId := id + 1 }
  match tfind p.outs k with
  | none => (p, id)
  | some o => match o.dest with
    | .loc c =>
      let ch := p.chan c
      (p.setChan c (if amo || ch.floats then ch.putFloat id late else ch.put { id := id, tok := none, vis := 0 }), id)
    | .exit _ _ _ => (p, id)

/-- A reserved place of output k filled (R36). -/
def Plane.fillPlace (p : Plane) (k id : Nat) (t : Token) (vis : Nat) : Plane :=
  let p := p.addBal 1
  match tfind p.outs k with
  | none => p
  | some o => match o.dest with
    | .loc c => p.setChan c ((p.chan c).fill id t vis)
    | .exit _ _ _ =>
      { p with held := p.held.map (fun h => match h.fx with
          | .exit j i _ _ => if j = k ∧ i = id then { h with fx := .exit j i (some t) vis } else h
          | _ => h) }

/-- A marker put in a channel's reserved entry (R56); at an exit it waits until the region is released (R463). -/
def Plane.sendMarker (p : Plane) (k vis : Nat) : Plane :=
  match tfind p.outs k with
  | some o => match o.dest with
    | .loc c =>
      let ch := p.chan c
      { p.setChan c { ch with q := ch.q ++ [{ id := p.nextId, tok := some markerTok, vis := vis }] } with nextId := p.nextId + 1 }
    | .exit _ _ _ => p
  | none => p

/-- Routers between two tiles, at least one: the ac a packet takes (R42). -/
def hops (a b : Nat) : Nat :=
  let d := fun (x y : Nat) => if x ≤ y then y - x else x - y
  max 1 (d (tileTx a) (tileTx b) + d (tileTy a) (tileTy b))

/-- Whether the output that feeds an entry still leads to it: a region freed and placed again owns none of the entries that the tokens
of the earlier one hold (R24). -/
def feedStands (s : State) (fp port pl k : Nat) : Bool :=
  match s.plane? fp with
  | some q => match tfind q.outs port with
    | some o => o.plane == some pl && (match o.dest with | .exit _ c _ => c == k | .loc _ => false)
    | none => false
  | none => false
/-- The head of channel k leaves at ac n: the balance falls, and an entry's credit goes back to its producer, which sees it in the
ac after the routers between (R42, R59). -/
def dequeue (s : State) (pl k : Nat) : State :=
  match s.plane? pl with
  | none => s
  | some p =>
    let n := s.planeAc pl
    let c := p.chan k
    if c.q = [] then s
    else
      let inj := match c.q with | x :: _ => x.inj | [] => false
      let s := s.setPlane pl (((p.setChan k (c.pop n)).addBal (-1)).touch n)
      match c.fed, inj with
      | some (fp, port), false =>
        if feedStands s fp port pl k = false then s
        else
        let at_ := s.ac (planeDie fp) + hops (planeTile pl) (planeTile fp) + 1
        s.send ⟨.plane pl, p.vd, ownDieKey s (planeDie fp), at_, .credit fp port pl k, []⟩
      | _, _ => s

def dequeueAll (s : State) (pl : Nat) : List Nat → State
  | [] => s
  | k :: r => dequeueAll (dequeue s pl k) pl r

/-! ## Traps of an element (R53, R55) -/

/-- The token at the head of a channel whether a guard sees it or not. -/
def Chan.first (c : Chan) : Option Token :=
  match c.q with
  | [] => none
  | p :: _ => p.tok

/-- The 128-byte element trap record; a head is a token that stands present in this ac (R42, R51). chans: the channels the firing would have read or dequeued. -/
def trapRecord (s : State) (pl e slot cause code : Nat) (p : Plane) (chans : BitVec 8) : Bytes :=
  let t := planeTile pl
  let hd := fun i => p.head (8 * e + i) (s.planeAc pl)
  let idx := List.range 8
  let m := fun (f : Token → Bool) => sumBy (fun i => match hd i with | some t => if f t then 2 ^ i else 0 | none => 0) idx
  let rp := idx.any (fun i => chans.getLsbD i && (match hd i with | some t => t.rpl | none => false))
  let hdata := idx.map (fun i => (256 + 64 * i, 64, match hd i with
    | some t => if t.seal then 0 else t.data.toNat
    | none => 0))
  let htag := idx.map (fun i => (128 + 16 * i, 16, match hd i with
    | some t => t.tag.toNat
    | none => 0))
  bytesLE 128 (pack (hdata ++ htag ++ [(112, 16, code), (104, 8, m Token.seal), (103, 1, rp.toNat), (99, 4, p.vd % 16),
    (96, 3, p.cid % 8), (56, 8, 0x01), (52, 4, cause), (48, 4, slot), (45, 3, e), (43, 2, pl % 4), (33, 10, faY s t),
    (23, 10, faX s t), (15, 8, (p.elem e).p.toNat), (7, 8, m (fun _ => true))]))

def trapSealv : Nat := 5
def trapBound : Nat := 6
def trapTrapi : Nat := 7

/-- A precise element trap (R53): no effect of the firing; the element halts; the record and the event ETRAP. It waits where
the fault queue can hold no further record (R454). -/
def elemTrap (s : State) (pl e slot cause code : Nat) (chans : BitVec 8) : State :=
  match s.plane? pl with
  | none => s
  | some p =>
    let rc := trapRecord s pl e slot cause code p chans
    if canRaise s p.vd rc = false then s
    else
      let n := s.planeAc pl
      let x := p.elem e
      let p' := { p.setElem e { x with halted := true, trapped := true } with firedAt := tset p.firedAt e (n + 1) }
      let s := raise (s.setPlane pl p') p.vd rc
      setEvent s p.cid 0

end Sys2Proof.Machine
end

