-- ==== Sys2Proof/Machine/Operands.lean ====
section
/-! DEFINITION. The operands of an element firing (R69), the firing's kind (R38, R39) and what keeps a slot from being ready
(R34, R155, R192). -/

namespace Sys2Proof.Machine

/-! ## The matrix configuration word (R169, R172) -/

def mxFmt (w : Word) : Nat := bits w.toNat 1 3
def mxAfmt (w : Word) : Bool := w.getLsbD 4
def mxBs (w : Word) : Bool := w.getLsbD 5
def mxNp (w : Word) : Bool := w.getLsbD 6
def mxOn (w : Word) : Bool := w.getLsbD 0

/-- Weight width, ke and N of a format (R172). -/
def mxGeom (w : Word) : Nat × Nat × Nat :=
  match mxFmt w with
  | 0 => (4, 32, 8)
  | 1 => (8, 16, 8)
  | 2 => (8, 16, 8)
  | 3 => (16, 8, 8)
  | 4 => (16, 8, 8)
  | 5 => (32, 4, 8)
  | _ => (64, 4, 4)

/-! ## Operands -/

/-- The value of a 32-bit pattern in every lane, for a 64-bit type sign- or zero-extended in every pair (R69). -/
def laneConst (wide signed : Bool) (v : Nat) : Lanes :=
  if wide then bcastVal 64 (if signed then wrap 64 (sgn 32 v) else v % 2 ^ 32) else bcastVal 32 v

/-- The element coordinate word (R19). -/
def coordWord (s : State) (pl e : Nat) : Nat :=
  pack [(23, 2, pl % 4), (20, 3, e), (10, 10, faY s (planeTile pl)), (0, 10, faX s (planeTile pl))]

/-- An operand's value, and its token when it is a channel's head (R69). -/
def operand (s : State) (pl : Nat) (p : Plane) (e n : Nat) (wide : Bool) (imm : BitVec 16) (x : Sel) : Lanes × Option Token :=
  match x with
  | .g r => ((p.elem e).g.get r, none)
  | .head c => match p.head (8 * e + c.val) n with
    | some t => (t.data, some t)
    | none => (0, none)
  | .immS => (laneConst wide true (wrap 32 (sgn 16 imm.toNat)), none)
  | .immH => (laneConst wide true (imm.toNat * 65536), none)
  | .lane => (if wide then ofVals 64 [0, 2, 4, 6] else ofVals 32 (List.range 8), none)
  | .coord => (laneConst wide false (coordWord s pl e), none)
  | .zero => (0, none)
  | .k i => (p.page.consts.getD i.val 0, none)

/-- The origin of the first poisoned token of a list. -/
def firstPoison : List (Option Token) → Option Word
  | [] => none
  | some t :: r => if t.psn then some t.origin else firstPoison r
  | none :: r => firstPoison r

def anyNull (l : List (Option Token)) : Bool := l.any (fun o => match o with | some t => t.nul | none => false)
def anySeal (l : List (Option Token)) : Bool := l.any (fun o => match o with | some t => t.seal | none => false)

/-- The kind of a firing from its operand tokens in the order OPA, OPB, OPC (R38, R39). -/
def kindOf (l : List (Option Token)) : Kind :=
  if anyNull l then .null
  else match firstPoison l with
    | some o => .poison o
    | none => .data

/-- Channel keys of element e named by a mask. -/
def chanKeys (e : Nat) (m : BitVec 8) : List Nat := (bitsSet 8 m.toNat).map (fun i => 8 * e + i)

/-- The heads of the channels that DEQ names. -/
def deqHeads (p : Plane) (e n : Nat) (f : EFields) : List (Option Token) := (chanKeys e f.deq).map (fun k => p.head k n)

/-! ## Pending results (R34 conditions 6 and 7, R44) -/

def Work.dst : Work → Option (Fin 32)
  | .result d _ _ _ _ => d
  | .accd _ _ _ _ d _ _ => d
  | _ => none
/-- Whether a work item is an accumulator operation still due (R44, R186). -/
def Work.isAcc : Work → Bool
  | .result _ _ _ _ _ => false
  | .mmaSouth _ _ _ _ => false
  | _ => true

def regPending (p : Plane) (e : Nat) (r : Fin 32) : Bool := p.pend.any (fun w => w.elem == e && w.work.dst == some r)
def selPending (p : Plane) (e : Nat) : Sel → Bool
  | .g r => regPending p e r
  | _ => false
def dstPending (p : Plane) (e : Nat) : Option (Fin 32) → Bool
  | some r => regPending p e r
  | none => false
def iterPending (p : Plane) (e : Nat) : Bool := p.pend.any (fun w => w.elem == e && w.iter)

/-! ## Readiness (R34, R62) -/

def Instr.isRequest : Instr → Bool
  | .elemLd _ _ | .elemSt _ _ | .elemLda _ _ | .elemStl _ _ | .elemAmo _ _ | .elemVamo _ _ | .elemCst _ _ => true
  | _ => false
def Instr.isIter : Instr → Bool
  | .elemFdiv _ _ _ _ | .elemFsqrt _ _ _ _ | .elemFrcp _ _ _ | .elemFrsq _ _ _ | .elemFexp2 _ _ _ | .elemFlog2 _ _ _ => true
  | _ => false
/-- Bits 8:0 of lane 0 of a row operand with its token (R185). -/
def rowOperand (p : Plane) (e n : Nat) (x : Sel) : Nat × Option Token :=
  match x with
  | .g r => (bits ((p.elem e).g.get r).toNat 0 9, none)
  | .head c => match p.head (8 * e + c.val) n with
    | some t => (bits t.data.toNat 0 9, some t)
    | none => (0, none)
  | .k i => (bits (p.page.consts.getD i.val 0).toNat 0 9, none)
  | _ => (0, none)
/-- The accumulator row a firing of the instruction would write; none where it writes none: a null pass, a null or poisoned copy or
clear, a row copied onto itself (R185, R190, R191, R192). -/
def Instr.rowWritten (p : Plane) (e n : Nat) (i : Instr) : Option Nat :=
  let op := rowOperand p e n
  let whole := fun (f : EFields) (r : Nat) =>
    let ts := [(op f.opa).2, (op f.opb).2]
    if anyNull ts || (firstPoison ts).isSome then none else some r
  match i with
  | .elemMma f zs tor =>
    if !tor || anyNull ([(op f.opa).2, (op f.opc).2] ++ (if zs then [] else [(op f.opb).2])) then none
    else some (bits f.imm.toNat 0 9 + (op f.opc).1)
  | .elemAcca f _ => if anyNull [(op f.opa).2, (op f.opb).2] then none else some (bits f.imm.toNat 0 9 + (op f.opa).1)
  | .elemAccz f => whole f (bits f.imm.toNat 0 9 + (op f.opa).1)
  | .elemAccs f => if bits f.imm.toNat 0 9 + (op f.opa).1 = (op f.opb).1 then none else whole f (op f.opb).1
  | .elemAccl f => if bits f.imm.toNat 0 9 + (op f.opa).1 = (op f.opb).1 then none else whole f (bits f.imm.toNat 0 9 + (op f.opa).1)
  | _ => none

/-- Whether a unit has taken the open knot, so that its effects belong to the next group (R47, R192). -/
def afterKnot (p : Plane) (u : Nat) : Bool :=
  match p.knot with
  | some k => k.taken.contains u
  | none => false
/-- Whether a marker stands present on an input of a unit that has not stopped for it yet (R56). -/
def markerDue (p : Plane) (u n : Nat) : Bool :=
  !p.stopped.contains u && (p.inputs u).any (fun k => (p.chan k).q.any (fun x => !x.plain && decide (x.vis ≤ n)))

/-- Bytes of the commit buffer that the pre-image of the row an instruction writes takes (R192). -/
def preBytes (p : Plane) (e n : Nat) (i : Instr) : Nat :=
  match Instr.rowWritten p e n i with
  | none => 0
  | some r =>
    let late := afterKnot p e
    if decide (r < p.aq) && !p.preHeld late r && !p.preDue.contains (r, late) then 160 else 0
/-- Whether everything a firing puts into the commit buffer together would not fit (R48, R192). -/
def bufferFails (p : Plane) (e n : Nat) (i : Instr) (outs : List Nat) : Bool := !p.room (p.exitBytes outs + preBytes p e n i) 0

/-- Condition 3 for one channel: its code where it fails (1 absent, 5 a control token at the head). -/
def headFails (p : Plane) (k n : Nat) : Option Nat :=
  match p.head k n with
  | some t => if t.ctl then some 5 else none
  | none => some 1

/-- The outputs a firing uses, as port keys. -/
def outKeys (e : Nat) (f : EFields) : List Nat := chanKeys e f.omask

/-- Condition 5 for one output: 3 the destination full, 6 the commit buffer full. -/
def outFails (p : Plane) (k n : Nat) : Option Nat :=
  if p.outReady k n then none
  else match tfind p.outs k with
    | some o => match o.dest with
      | .exit _ _ c => if o.free && !c then some 6 else some 3
      | .loc _ => some 3
    | none => some 3

/-- The WHY code (R62) of the first condition of R34 that slot instruction i of element e fails at ac n; none: ready. The
active-plane part of condition 1 is the step's. DESIGN CHOICE (log entry 93): R62 gives code 7 to a halted element, and the model gives
it to one that is stopped, drained or refilling too. -/
def slotFails (p : Plane) (e n : Nat) (i : Instr) (f : EFields) : Option Nat :=
  let x := p.elem e
  if x.halted = true ∨ p.stopped.contains e = true ∨ markerDue p e n = true ∨ p.drained.contains e = true ∨ p.refill.contains e = true then some 7
  else if (x.p ^^^ f.pval) &&& f.pmask ≠ 0 then some 0
  else match (chanKeys e f.inrdy).findSome? (fun k => headFails p k n) with
    | some w => some w
    | none =>
      if f.tmask ≠ 0 ∧ (match p.head (8 * e + f.tch.val) n with
          | some t => t.utag &&& f.tmask != f.tval
          | none => true) = true then some 2
      else if Instr.isRequest i = true ∧ 16 ≤ p.reqs.length then some 3
      else match (outKeys e f).findSome? (fun k => outFails p k n) with
        | some w => some w
        | none =>
          if bufferFails p e n i (outKeys e f) = true then some 6
          else if selPending p e f.opa || selPending p e f.opb || selPending p e f.opc || dstPending p e f.dst then some 4
          else if Instr.isIter i = true ∧ iterPending p e = true then some 4
          else none

/-- The instruction of slot j of element e. -/
def Plane.slotInstr (p : Plane) (e j : Nat) : Option Instr := decodeElem (p.page.slots.getD (16 * e + j) 0)

/-- Whether slot j of element e is ready at ac n. -/
def slotReady (p : Plane) (e n j : Nat) : Bool :=
  match p.slotInstr e j with
  | none => false
  | some i => match i.fields? with
    | none => false
    | some f => (slotFails p e n i f).isNone

/-- The lowest ready slot from j on (R37), on fuel. -/
def lowestReady (p : Plane) (e n : Nat) : Nat → Nat → Option Nat
  | 0, _ => none
  | k + 1, j => if slotReady p e n j then some j else lowestReady p e n k (j + 1)

/-- The slot that element e would fire at ac n. -/
def readySlot (p : Plane) (e n : Nat) : Option Nat := lowestReady p e n 16 0

end Sys2Proof.Machine
end

