-- ==== Sys2Proof/Machine/Flags.lean ====
section
/-! DEFINITION. The scale classes (R105, R106), predicates and PRES (R37), and the shared course of a firing: SEALV, kind,
scale mismatch, NaN-to-poison (R107), the effect of R37. -/

namespace Sys2Proof.Machine

/-! ## Scale classes (R105) -/

/-- A scale class; cmp marks CMP and FCMP, whose tokens carry SCL = 0. -/
inductive ScaleCls where
  | carrying | additive | addCmp | mult | div | fused | nonlinear | clearing | explicit (m : TagMode)
deriving DecidableEq, Repr

def sclOf : Option Token → Bool
  | some t => t.scl
  | none => false

/-- Whether the tokens among the operands do not all carry the same SCL. -/
def sclDiffer (l : List (Option Token)) : Bool :=
  let v := l.filterMap (fun o => o.map Token.scl)
  v.any (fun x => x) && v.any (fun x => !x)

/-- The mismatch condition over the operands a, b, c of the class (R105). -/
def sclMismatch (k : ScaleCls) (a b c : Option Token) : Bool :=
  match k with
  | .carrying | .clearing | .explicit _ => false
  | .additive | .addCmp => sclDiffer [a, b, c]
  | .mult => sclOf a && sclOf b
  | .div => sclOf b
  | .fused => (sclOf a && sclOf b) || (c.isSome && (a.isSome || b.isSome) && sclOf c != (sclOf a || sclOf b))
  | .nonlinear => sclOf a || sclOf b || sclOf c

/-- scaled(s) of the class (R105); where the tokens of the additive class differ, a null firing carries their OR, and so does one that
R106 poisons for it (log entry 74). -/
def scaled (k : ScaleCls) (a b c : Option Token) : Bool :=
  match k with
  | .carrying | .additive | .mult | .div | .fused => sclOf a || sclOf b || sclOf c
  | .addCmp | .nonlinear | .clearing => false
  | .explicit .keep => sclOf a || sclOf b || sclOf c
  | .explicit .clr => false
  | .explicit .set => true

/-! ## Predicates (R37) -/

/-- The predicates after a firing: PSETM and PSETV first, then PRES in a data firing. -/
def predsAfter (f : EFields) (kind : Kind) (cmp : Bool) (p : BitVec 8) : BitVec 8 :=
  let q := (p &&& ~~~f.psetm) ||| (f.psetv &&& f.psetm)
  match f.pres, kind with
  | some i, .data =>
    let b := BitVec.ofNat 8 (2 ^ i.val)
    if cmp then q ||| b else q &&& ~~~b
  | _, _ => q

/-! ## The firing -/

/-- What execute gives (R37): value, comparison result, whether a NaN counts under .NP. -/
structure Result where
  val : Lanes
  cmp : Bool := false
  nan : Bool := false
deriving DecidableEq, Repr

/-- Places reserved on several outputs: (port, id) pairs and the plane. -/
def reserveAll (p : Plane) (late : Bool) : List Nat → Plane × List (Nat × Nat)
  | [] => (p, [])
  | k :: r =>
    let id := p.nextId
    let (p, l) := reserveAll (p.enqueue k none 0 late) late r
    (p, (k, id) :: l)

def enqueueAll (p : Plane) (t : Token) (vis : Nat) (late : Bool) : List Nat → Plane
  | [] => p
  | k :: r => enqueueAll (p.enqueue k (some t) vis late) t vis late r

/-- A register of an element written. -/
def setG (x : Elem) (d : Option (Fin 32)) (v : Lanes) : Elem :=
  match d with
  | some r => { x with g := x.g.set r v }
  | none => x

def Kind.isData : Kind → Bool
  | .data => true
  | _ => false
def Kind.isPoison : Kind → Bool
  | .poison _ => true
  | _ => false

/-- DEQ, predicates, and the mark that the element fired in this ac (R37). -/
def finishFiring (s : State) (pl e : Nat) (f : EFields) (kind : Kind) (cmp : Bool) : State :=
  let s := dequeueAll s pl (chanKeys e f.deq)
  let n := s.planeAc pl
  s.modPlane pl (fun p =>
    let x := p.elem e
    { (p.setElem e { x with p := predsAfter f kind cmp x.p }).touch n with firedAt := tset p.firedAt e (n + 1) })

/-- The token of a firing (R37): one that is poisoned carries scaled(s) too. -/
def firedTok (k : Kind) (v : Lanes) (scl : Bool) (utag : BitVec 4) : Token :=
  match k with
  | .poison org => { poisonTok org utag with tag := mkTag scl true false utag }
  | k => kindTok k v scl utag

/-- The effect of R37 for a firing of latency lat: register and tokens now, or a result that falls due (R36). -/
def completeFiring (s : State) (pl e slot : Nat) (f : EFields) (kind : Kind) (r : Result) (scl : Bool) (lat : Nat)
    (iter : Bool) : State :=
  let s := finishFiring s pl e f kind r.cmp
  let n := s.planeAc pl
  s.modPlane pl (fun p =>
    let late := afterKnot p e
    let outs := chanKeys e f.omask
    let t := firedTok kind r.val scl f.otag
    if lat ≤ 1 then
      let p := enqueueAll p t (n + 1) late outs
      if kind.isData then p.setElem e (setG (p.elem e) f.dst r.val) else p
    else
      let (p, places) := reserveAll p late outs
      { p with pend := p.pend ++ [{ due := n + lat - 1, elem := e, slot := slot, late := late, iter := iter,
                                    work := .result f.dst kind r.val t.tag places }] })

/-- A firing's kind after the refinements of R106 and R107. -/
def refineKind (s : State) (pl e slot : Nat) (kind : Kind) (mismatch nan : Bool) : Kind :=
  if kind.isData && mismatch then .poison (newOrigin s (planeTile pl) e slot causeScale 0xFFFF)
  else if kind.isData && nan then .poison (newOrigin s (planeTile pl) e slot causeNan 0xFFFF)
  else kind

/-- The channels a firing would read or dequeue (R55). -/
def touchedChans (f : EFields) : BitVec 8 := f.readMask ||| f.deq

/-- The course of an arithmetic firing of the slot under the cursor. rnd says that OPC is the random operand, which is
neutral in the scale check; test says which of a, b, c take part in it. -/
def fireAlu (f : EFields) (wide : Bool) (cls : ScaleCls) (ta tb tc : Bool) (lat : Nat) (iter np : Bool)
    (op : Lanes → Lanes → Lanes → Result) (s : State) : Ans :=
  let pl := s.cur.plane
  let e := s.cur.elem
  let slot := s.cur.slot
  match s.plane? pl with
  | none => .next s
  | some p =>
    let n := s.planeAc pl
    let (a, xa) := operand s pl p e n wide f.imm f.opa
    let (b, xb) := operand s pl p e n wide f.imm f.opb
    let (c, xc) := operand s pl p e n wide f.imm f.opc
    if anySeal ([xa, xb, xc] ++ deqHeads p e n f) then .next (elemTrap s pl e slot trapSealv 0 (touchedChans f))
    else
      let r := op a b c
      let sa := if ta then xa else none
      let sb := if tb then xb else none
      let sc := if tc then xc else none
      let k38 := kindOf [xa, xb, xc]
      let kind := refineKind s pl e slot k38 (sclMismatch cls sa sb sc) (np && r.nan)
      .next (completeFiring s pl e slot f kind r (scaled cls sa sb sc && !k38.isPoison) lat iter)

end Sys2Proof.Machine
end

