-- ==== Sys2Proof/Machine/ElemInt.lean ====
section
/-! DEFINITION. The element's integer, bit, lane-moving, reduction and scan instructions (R121 to R134). -/

namespace Sys2Proof.Machine

/-- A result computed on each value position (R121). -/
def map1 (w : Nat) (f : Nat → Nat) (a : Lanes) : Lanes := ofVals w ((vals w a).map f)
def map2 (w : Nat) (f : Nat → Nat → Nat) (a b : Lanes) : Lanes := ofVals w (List.zipWith f (vals w a) (vals w b))
def map3 (w : Nat) (f : Nat → Nat → Nat → Nat) (a b c : Lanes) : Lanes :=
  ofVals w (List.zipWith (fun g z => g z) (List.zipWith f (vals w a) (vals w b)) (vals w c))

/-- Latency of the pipelined class (R36). -/
def latPipe : Nat := 4

/-- A firing of one operand, single-cycle. -/
def fire1 (f : EFields) (wide : Bool) (cls : ScaleCls) (op : Lanes → Lanes) (s : State) : Ans :=
  fireAlu f wide cls true true true 1 false false (fun a _ _ => { val := op a }) s
/-- A firing of two operands of the given latency. -/
def fire2 (f : EFields) (wide : Bool) (cls : ScaleCls) (lat : Nat) (op : Lanes → Lanes → Lanes) (s : State) : Ans :=
  fireAlu f wide cls true true true lat false false (fun a b _ => { val := op a b }) s
/-- A firing of three operands of the given latency. -/
def fire3 (f : EFields) (wide : Bool) (cls : ScaleCls) (lat : Nat) (op : Lanes → Lanes → Lanes → Lanes) (s : State) : Ans :=
  fireAlu f wide cls true true true lat false false (fun a b c => { val := op a b c }) s

/-! ## Arithmetic (R123) -/

/-- A function of the values read under the type, wrapped. -/
def intOp2 (t : IntTy) (f : Int → Int → Int) (x y : Nat) : Nat := wrap t.width (f (t.read x) (t.read y))

/-- ADD (R123). -/
def execElemAdd (f : EFields) (t : IntTy) (s : State) : Ans :=
  fire2 f t.wide .additive 1 (map2 t.width (intOp2 t (· + ·))) s
/-- SUB (R123). -/
def execElemSub (f : EFields) (t : IntTy) (s : State) : Ans :=
  fire2 f t.wide .additive 1 (map2 t.width (intOp2 t (· - ·))) s
/-- MUL (R123). -/
def execElemMul (f : EFields) (t : IntTy) (s : State) : Ans :=
  fire2 f t.wide .mult latPipe (map2 t.width (intOp2 t (· * ·))) s
/-- The high half of a product: floor division by 2^w. -/
def mulHigh (w : Nat) (x y : Int) : Int := x * y / (2 ^ w : Nat)
/-- MULH (R123). -/
def execElemMulh (f : EFields) (t : IntTy) (s : State) : Ans :=
  fire2 f t.wide .mult latPipe (map2 t.width (intOp2 t (mulHigh t.width))) s
/-- MAD (R123). -/
def execElemMad (f : EFields) (t : IntTy) (s : State) : Ans :=
  fire3 f t.wide .fused latPipe (map3 t.width (fun x y z => wrap t.width (t.read x * t.read y + t.read z))) s
/-- MIN (R123). -/
def execElemMin (f : EFields) (t : IntTy) (s : State) : Ans :=
  fire2 f t.wide .additive 1 (map2 t.width (intOp2 t min)) s
/-- MAX (R123). -/
def execElemMax (f : EFields) (t : IntTy) (s : State) : Ans :=
  fire2 f t.wide .additive 1 (map2 t.width (intOp2 t max)) s
/-- ABS (R123). -/
def execElemAbs (f : EFields) (t : IntTy) (s : State) : Ans :=
  fire1 f t.wide .carrying (map1 t.width (fun x => wrap t.width (t.read x).natAbs)) s

/-! ## Logic, shifts, bit counts (R124 to R127) -/

/-- AND (R124). -/
def execElemAnd (f : EFields) (s : State) : Ans := fire2 f false .clearing 1 (· &&& ·) s
/-- OR (R124). -/
def execElemOr (f : EFields) (s : State) : Ans := fire2 f false .clearing 1 (· ||| ·) s
/-- XOR (R124). -/
def execElemXor (f : EFields) (s : State) : Ans := fire2 f false .clearing 1 (· ^^^ ·) s
/-- ANDN (R124). -/
def execElemAndn (f : EFields) (s : State) : Ans := fire2 f false .clearing 1 (fun a b => a &&& ~~~b) s

/-- The shifts of w-bit values by n (R125). -/
def shlV (w u n : Nat) : Nat := if n < w then u * 2 ^ n % 2 ^ w else 0
def shrV (w u n : Nat) : Nat := if n < w then u / 2 ^ n else 0
def sarV (w u n : Nat) : Nat := wrap w (sgn w u / (2 ^ (min n (w - 1)) : Nat))
def rotV (w u n : Nat) : Nat := (u * 2 ^ (n % w) + u / 2 ^ (w - n % w)) % 2 ^ w
/-- SHL (R125). -/
def execElemShl (f : EFields) (t : IntTy) (s : State) : Ans := fire2 f t.wide .clearing 1 (map2 t.width (shlV t.width)) s
/-- SHR (R125). -/
def execElemShr (f : EFields) (t : IntTy) (s : State) : Ans := fire2 f t.wide .clearing 1 (map2 t.width (shrV t.width)) s
/-- SAR (R125). -/
def execElemSar (f : EFields) (t : IntTy) (s : State) : Ans := fire2 f t.wide .clearing 1 (map2 t.width (sarV t.width)) s
/-- ROT (R125). -/
def execElemRot (f : EFields) (t : IntTy) (s : State) : Ans := fire2 f t.wide .clearing 1 (map2 t.width (rotV t.width)) s

/-- Zero bits above the highest one bit of w bits, and one bits among them (R126). -/
def clzV (w u : Nat) : Nat := if u = 0 then w else w - 1 - Nat.log2 u
def popcV (w u : Nat) : Nat := ((List.range w).filter (fun i => u.testBit i)).length
/-- CLZ (R126). -/
def execElemClz (f : EFields) (t : IntTy) (s : State) : Ans := fire1 f t.wide .clearing (map1 t.width (clzV t.width)) s
/-- POPC (R126). -/
def execElemPopc (f : EFields) (t : IntTy) (s : State) : Ans := fire1 f t.wide .clearing (map1 t.width (popcV t.width)) s

/-- The low w bits of the carry-less product (R127). -/
def clmulV (w u v : Nat) : Nat :=
  ((List.range w).foldl (fun p k => if v.testBit k then p ^^^ (u * 2 ^ k) else p) 0) % 2 ^ w
/-- CLMUL (R127). -/
def execElemClmul (f : EFields) (t : NatTy) (s : State) : Ans :=
  fire2 f t.wide .clearing latPipe (map2 t.width (clmulV t.width)) s

/-! ## Comparison and selection (R128, R129) -/

/-- All ones of w bits, or zero. -/
def maskV (w : Nat) (c : Bool) : Nat := if c then 2 ^ w - 1 else 0
/-- CMP.cond.t (R128). -/
def execElemCmp (f : EFields) (c : Cond) (t : IntTy) (s : State) : Ans :=
  fireAlu f t.wide .addCmp true true true 1 false false
    (fun a b _ =>
      { val := map2 t.width (fun x y => maskV t.width (icond c (t.read x) (t.read y))) a b
        cmp := icond c (t.read (valAt t.width a.toNat 0)) (t.read (valAt t.width b.toNat 0)) }) s
/-- SEL.t (R129): the mask a takes no part in the scale check. -/
def execElemSel (f : EFields) (t : NatTy) (s : State) : Ans :=
  fireAlu f t.wide .additive false true true 1 false false
    (fun a b c => { val := map3 t.width (fun x y z => if x ≠ 0 then y else z) a b c }) s

/-! ## Moving values (R130 to R132) -/

/-- MOV (R130). -/
def execElemMov (f : EFields) (s : State) : Ans := fire1 f false .carrying (fun a => a) s
/-- The 2n values of a followed by c under the indices of b (R131). -/
def shufV (w : Nat) (a b c : Lanes) : Lanes :=
  let l := vals w a ++ vals w c
  map1 w (fun i => l.getD (i % l.length) 0) b
/-- SHUF.t (R131). -/
def execElemShuf (f : EFields) (t : NatTy) (s : State) : Ans := fire3 f t.wide .carrying latPipe (shufV t.width) s
/-- BCAST.t (R132). -/
def execElemBcast (f : EFields) (t : NatTy) (s : State) : Ans :=
  fire1 f t.wide .carrying (fun a => bcastVal t.width (valAt t.width a.toNat (f.imm.toNat % 8))) s

/-! ## Reductions and scans (R133, R134) -/

/-- LRED.op.t (R133, R109). -/
def execElemLred (f : EFields) (o : RedOp) (t : Ty) (s : State) : Ans :=
  fire2 f t.wide .additive latPipe (fun a _ => bcastVal t.width (pairwise (combine o t) 0 (vals t.width a))) s
/-- The inclusive prefixes of a list. -/
def scanL {α : Type} (c : α → α → α) : List α → List α
  | [] => []
  | x :: r => prefixes c x r
/-- SCAN.op.t (R134, R110). -/
def execElemScan (f : EFields) (o : RedOp) (t : Ty) (s : State) : Ans :=
  fire2 f t.wide .additive latPipe (fun a _ => ofVals t.width (scanL (combine o t) (vals t.width a))) s

end Sys2Proof.Machine
end

