-- ==== Sys2Proof/Machine/ElemFloat.lean ====
section
/-! DEFINITION. The element's floating-point and conversion instructions (R145 to R154). -/

namespace Sys2Proof.Machine

/-- Whether any value of a 256-bit result is a NaN of the format. -/
def anyNan (f : Fmt) (x : Lanes) : Bool := (vals f.w x).any f.isNan

/-- A result checked for NaN. -/
def fltResult (f : Fmt) (v : Lanes) : Result := { val := v, nan := anyNan f v }

/-- A two-operand function of each position and its random field (R149). -/
def mapRnd (f : Fmt) (op : Nat → Nat → Nat → Nat) (a b r : Lanes) : Lanes :=
  ofVals f.w ((List.range (256 / f.w)).map (fun j => op (rndField f.w r j) (valAt f.w a.toNat j) (valAt f.w b.toNat j)))

/-- FADD, FSUB or FMUL: OPC is the random operand. -/
def fireArith (f : EFields) (t : FltTy) (cls : ScaleCls) (np : Bool) (op : Nat → Nat → Nat → Nat) (s : State) : Ans :=
  fireAlu f t.wide cls true true false latPipe false np (fun a b c => fltResult t.fmt (mapRnd t.fmt op a b c)) s

/-- FADD.t.rm (R148, R149). -/
def execElemFadd (f : EFields) (t : FltTy) (r : Rnd) (np : Bool) (s : State) : Ans :=
  fireArith f t .additive np (fadd t.fmt r) s
/-- FSUB.t.rm (R148, R149). -/
def execElemFsub (f : EFields) (t : FltTy) (r : Rnd) (np : Bool) (s : State) : Ans :=
  fireArith f t .additive np (fsub t.fmt r) s
/-- FMUL.t.rm (R148, R149). -/
def execElemFmul (f : EFields) (t : FltTy) (r : Rnd) (np : Bool) (s : State) : Ans :=
  fireArith f t .mult np (fmul t.fmt r) s
/-- FFMA.t.rm (R148). -/
def execElemFfma (f : EFields) (t : FltTy) (r : Rnd) (np : Bool) (s : State) : Ans :=
  fireAlu f t.wide .fused true true true latPipe false np
    (fun a b c => fltResult t.fmt (map3 t.width (ffma t.fmt r) a b c)) s

/-- FMIN or FMAX. -/
def fireMinMax (f : EFields) (t : FltTy) (isMax np : Bool) (s : State) : Ans :=
  fireAlu f t.wide .additive true true true 1 false np
    (fun a b _ => fltResult t.fmt (map2 t.width (fminmax t.fmt isMax) a b)) s
/-- FMIN.t (R148). -/
def execElemFmin (f : EFields) (t : FltTy) (np : Bool) (s : State) : Ans := fireMinMax f t false np s
/-- FMAX.t (R148). -/
def execElemFmax (f : EFields) (t : FltTy) (np : Bool) (s : State) : Ans := fireMinMax f t true np s

/-- FCMP.cond.t (R150); under .NP a NaN in either operand counts (R107). -/
def execElemFcmp (f : EFields) (c : FCond) (t : FltTy) (np : Bool) (s : State) : Ans :=
  fireAlu f t.wide .addCmp true true true 1 false np
    (fun a b _ =>
      { val := map2 t.width (fun x y => maskV t.width (fcond t.fmt c x y)) a b
        cmp := fcond t.fmt c (valAt t.width a.toNat 0) (valAt t.width b.toNat 0)
        nan := anyNan t.fmt a || anyNan t.fmt b }) s

/-- FDIV.t.rm (R151). -/
def execElemFdiv (f : EFields) (t : FltTy) (r : Rnd) (np : Bool) (s : State) : Ans :=
  fireAlu f t.wide .div true true true t.latIter true np
    (fun a b _ => fltResult t.fmt (map2 t.width (fdiv t.fmt r) a b)) s
/-- A non-linear function of the iterative class. -/
def fireIter (f : EFields) (t : FltTy) (np : Bool) (g : Nat → Nat) (s : State) : Ans :=
  fireAlu f t.wide .nonlinear true true true t.latIter true np (fun a _ _ => fltResult t.fmt (map1 t.width g a)) s
/-- FSQRT.t.rm (R151). -/
def execElemFsqrt (f : EFields) (t : FltTy) (r : Rnd) (np : Bool) (s : State) : Ans := fireIter f t np (fsqrt t.fmt r) s
/-- FRCP.t (R152). -/
def execElemFrcp (f : EFields) (t : FltTy) (np : Bool) (s : State) : Ans := fireIter f t np (frcp t.fmt) s
/-- FRSQ.t (R152). -/
def execElemFrsq (f : EFields) (t : FltTy) (np : Bool) (s : State) : Ans := fireIter f t np (frsq t.fmt) s
/-- FEXP2.t (R152). -/
def execElemFexp2 (f : EFields) (t : FltTy) (np : Bool) (s : State) : Ans := fireIter f t np (fexp2 t.fmt) s
/-- FLOG2.t (R152). -/
def execElemFlog2 (f : EFields) (t : FltTy) (np : Bool) (s : State) : Ans := fireIter f t np (flog2 t.fmt) s

/-! ## Conversion (R153, R154) -/

/-- The converted values of an operand, by source position. -/
def convVals (td ts : Ty) (mode : Rnd) (sat : Bool) (x r : Lanes) : List Nat :=
  (List.range (256 / ts.width)).map (fun j => conv td ts mode sat (rndField ts.width r j) (valAt ts.width x.toNat j))
/-- CVT.td.ts.rm (R154). -/
def execElemCvt (f : EFields) (td ts : Ty) (r : Rnd) (sat : Bool) (s : State) : Ans :=
  fireAlu f ts.wide .carrying true true false latPipe false false
    (fun a _ c => { val := ofVals td.width (convVals td ts r sat a c) }) s
/-- PACK.td.ts.rm (R154): under .RSR only a is converted. -/
def execElemPack (f : EFields) (td ts : Ty) (r : Rnd) (sat : Bool) (s : State) : Ans :=
  fireAlu f ts.wide .carrying true true false latPipe false false
    (fun a b c =>
      { val := ofVals td.width (convVals td ts r sat a c ++ (if r == .rsr then [] else convVals td ts r sat b c)) }) s
/-- UNPK.td.ts (R154): part q of a, q from lane 0 of OPB. -/
def execElemUnpk (f : EFields) (td ts : Ty) (s : State) : Ans :=
  fireAlu f ts.wide .carrying true true true latPipe false false
    (fun a b _ =>
      let nd := 256 / td.width
      let q := valAt 32 b.toNat 0 % (256 / ts.width / nd)
      { val := ofVals td.width (((convVals td ts .rne false a 0).drop (q * nd)).take nd) }) s

end Sys2Proof.Machine
end

