-- ==== Sys2Proof/Machine/Translate.lean ====
section
/-! DEFINITION. Translation (R450 to R453): the five-level walk with the checks of R451, the D bit and the dirty log (R452,
R471), the TLBs, and the translation fault records (R265, R266, R455, R456). -/

namespace Sys2Proof.Machine

/-! ## Reasons (R265) -/

def rNotpres : Nat := 0
def rWrprot : Nat := 1
def rOponly : Nat := 2
def rForbid : Nat := 3
def rKey : Nat := 4
def rExtent : Nat := 5
def rPolicy : Nat := 6
/-- Whether a reason stalls (R265). -/
def stalls (r : Nat) : Bool := decide (r ≤ 1)

/-- What a translation gives: physical address, key slot, cache policy, operand-only; or a REASON. -/
inductive TRes where
  | ok (pa kslot cp : Nat) (opo : Bool)
  | bad (reason : Nat)
deriving DecidableEq, Repr

/-! ## Entry fields (R451) -/

def eV (e : Nat) : Bool := e.testBit 0
def eLeaf (e : Nat) : Bool := e.testBit 1
def eW (e : Nat) : Bool := e.testBit 2
def eD (e : Nat) : Bool := e.testBit 6
def eDlog (e : Nat) : Bool := e.testBit 7
def ePfn (e : Nat) : Nat := bits e 8 40
def eCp (e : Nat) : Nat := bits e 48 2
def eKslot (e : Nat) : Nat := bits e 50 12
def eConf (e : Nat) : Bool := e.testBit 62
def eOpo (e : Nat) : Bool := e.testBit 63

/-- Bytes mapped by a leaf of a level (R450). -/
def leafBytes (level : Nat) : Nat := 2 ^ (12 + 9 * level)
/-- Base of a leaf's frame. -/
def leafBase (level e : Nat) : Nat := ePfn e * 4096 / leafBytes level * leafBytes level
/-- The second row of R451. -/
def entryBad (level e : Nat) : Bool :=
  bits e 3 3 != 0 ||
  (if eLeaf e then decide (3 ≤ level) || eCp e == 3 || ePfn e % 2 ^ (9 * level) != 0
   else level == 0 || e != pack [(0, 2, bits e 0 2), (8, 40, ePfn e)])

def unitBytes : Nat := 2 ^ 21
/-- Whether a range of physical addresses lies in the virtual device's ranges (R443), unit by unit. -/
def inRanges (v : Vd) (pa n : Nat) : Bool :=
  (List.range ((unitBytes - 1 + n + pa % unitBytes) / unitBytes)).all (fun i =>
    v.ranges.any (fun r => decide (r.1 ≤ pa / unitBytes + i ∧ pa / unitBytes + i < r.1 + r.2)))
/-- Whether n bytes at a physical address are HBM4 of some package (R439). -/
def paHbm (pa n : Nat) : Bool := decide (n + pa % 2 ^ 44 ≤ hbmBytes)
def paSram (pa n : Nat) : Bool := decide (sramBase ≤ pa % 2 ^ 44 ∧ n + pa % 2 ^ 44 ≤ sramBase + sramBytes)

/-- The frame-lock entry of a unit of this package (R438). -/
def lockOf (s : State) (u : Nat) : Nat := (tget s.hub.locks u 0).toNat
def lockState (l : Nat) : Nat := bits l 0 2
/-- The owner of a lock as a virtual device of the package. -/
def lockVd (l : Nat) : Nat := 16 * bits l 2 4 + bits l 6 4
/-- Lock entries of the local units that a frame of HBM4 covers; a unit of another package counts as open. -/
def frameLocks (s : State) (base n : Nat) : List Nat :=
  if base / 2 ^ 44 = s.posN then
    (List.range ((unitBytes - 1 + n + base % unitBytes) / unitBytes)).map
      (fun i => lockOf s (base % 2 ^ 44 / unitBytes + i))
  else []

/-- Whether a leaf may name the key slot's kind (R451, R484). -/
def keyOk (s : State) (vd : Nat) (v : Vd) (e : Nat) : Bool :=
  let k := eKslot e
  let x := s.slot k
  (k == 0 || (decide (v.ksbase ≤ k) && decide (k < v.ksbase + v.kscnt))) &&
  (match x.kind with
   | .open => true
   | .vdkey => x.vd == vd && (x.conf || !eConf e)
   | .operand => x.vd == vd && eOpo e
   | .free | .session | .evict => false)

/-- The banks a SCRATCH frame covers are the virtual device's and serve as memory: in SCRATCH mode (R451), or in FIFO mode, which
R457 gives accesses of its own (log entry 18). -/
def banksOk (s : State) (vd base n : Nat) : Bool :=
  (List.range ((2 ^ 18 - 1 + n) / 2 ^ 18)).all (fun i =>
    let b := sramBank (base % 2 ^ 44 + 2 ^ 18 * i)
    match (s.cluster (b / 16)).banks[b % 16]? with
    | some x => x.mode != .cache && x.owner == some vd
    | none => false)

/-- Whether a bank that a SCRATCH frame of this package covers is assigned to another virtual device, which the lock row refuses
(R451). -/
def banksOther (s : State) (vd base n : Nat) : Bool :=
  (List.range ((2 ^ 18 - 1 + n) / 2 ^ 18)).any (fun i =>
    let b := sramBank (base % 2 ^ 44 + 2 ^ 18 * i)
    match (s.cluster (b / 16)).banks[b % 16]? with
    | some x => x.owner.isSome && x.owner != some vd
    | none => false)

/-- The rows of R451 for a leaf, from the third on; none: it translates. Ranges and locks are judged for the whole frame (log entry
34). A frame of another package has no lock here and counts as open; far says how a SCRATCH frame of one fares, whose banks are not seen
from here: 0 it passes, 1 the lock row refuses it, else the last row. -/
def leafCheck (s : State) (vd : Nat) (v : Vd) (level e : Nat) (write wport : Bool) (far : Nat) : Option Nat :=
  let n := leafBytes level
  let base := leafBase level e
  let sram := paSram base n
  let here := base / 2 ^ 44 == s.posN
  let locks := if sram then [] else frameLocks s base n
  let other := sram && (if here then banksOther s vd base n else far == 1)
  let want := if eOpo e then 2 else if eConf e then 1 else 0
  if !(sram || paHbm base n) || (!sram && !inRanges v base n) || (eConf e && !v.conf) then some rForbid
  else if locks.any (fun l => lockState l == 2) && !eOpo e then some rOponly
  else if ((sram || !here) && want != 0) || other || locks.any (fun l => lockState l != want || (lockState l != 0 && lockVd l != vd)) then
    some rForbid
  else if !keyOk s vd v e then some rKey
  else if eOpo e && !wport then some rOponly
  else if write && !eW e then some rWrprot
  else if sram && (if here then !banksOk s vd base n else far != 0) then some rForbid
  else none

/-! ## The dirty log (R452, R471) -/

/-- The page of a leaf appended to the dirty log, or its OVF set; what another package holds of the log reads as free values. -/
def dlogAppend (s : State) (v : Vd) (level e : Nat) : State :=
  if v.dlbase = 0 then s
  else
    let (s, tail) := devReadF s v.dlbase 0 8
    let (s, head) := devReadF s (v.dlbase + 8) 0 8
    let (s, nent) := devReadF s (v.dlbase + 24) 0 8
    let pow := nent = 2 ^ Nat.log2 nent ∧ 64 ≤ nent ∧ nent ≤ 2 ^ 24
    if pow ∧ (tail + 2 ^ 64 - head) % 2 ^ 64 < nent then
      let ent := leafBase level e % 2 ^ 52 + level
      let s := devWrite s (v.dlbase + 64 + 8 * (tail % nent)) 0 (bytesLE 8 ent)
      devWrite s v.dlbase 0 (bytesLE 8 (tail + 1))
    else
      let (s, ovf) := devReadF s (v.dlbase + 16) 0 8
      devWrite s (v.dlbase + 16) 0 (bytesLE 8 (ovf ||| 1))

/-- D set in the entry at ea (R452), with the log. -/
def setDirty (s : State) (v : Vd) (ea level e : Nat) : State :=
  let s := devWrite s ea 0 (bytesLE 8 (e ||| 64))
  if eDlog e then dlogAppend s v level e else s

/-! ## The walk (R450, R451) -/

/-- The walk cache that serves a unit: that of its die. -/
def walkUnit (unit : Nat) : Nat := 4096 + (if unit < 2048 then tileDie unit else clusterDie (unit - 2048))
/-- An entry above the leaves that a walk cache holds. -/
def walkHit (s : State) (w vd level va : Nat) : Option TlbEntry :=
  s.hub.tlb.find? (fun t => t.unit == w && t.vd == vd && t.level == level && t.vpn == va / leafBytes level)
/-- An entry as the walker reads it at its home, or as the walk cache still holds it, a free choice (R23, R453). -/
def readEntry (s : State) (w vd level va ea : Nat) : State × Nat :=
  match walkHit s w vd level va with
  | none => devReadF s ea 0 8
  | some t =>
    let (n, s) := s.draw
    if Config.freePick n % 2 = 0 then (s, t.entry.toNat) else devReadF s ea 0 8
/-- A present entry above the leaves put into the walk cache. -/
def walkPut (s : State) (w vd level va e : Nat) : State :=
  let other := fun (t : TlbEntry) => !(t.unit == w && t.vd == vd && t.level == level && t.vpn == va / leafBytes level)
  { s with hub := { s.hub with tlb := s.hub.tlb.filter other ++ [⟨w, vd, level, va / leafBytes level, BitVec.ofNat 64 e⟩] } }

/-- The walk from a table of a level down, with the walk cache w: the result, the level and entry of the leaf where it translates. -/
def walkFrom (s : State) (w vd : Nat) (v : Vd) (va : Nat) (write wport : Bool) :
    Nat → Nat → State × (Nat ⊕ (Nat × Nat))
  | 0, _ => (s, .inl rForbid)
  | k + 1, table =>
    let level := k
    if !inRanges v table 4096 || !paHbm table 4096 then (s, .inl rForbid)
    else
      let ea := table + 8 * bits va (12 + 9 * level) 9
      let (s, e) := readEntry s w vd level va ea
      if !eV e then (s, .inl rNotpres)
      else if entryBad level e then (s, .inl rForbid)
      else if eLeaf e then
        let (n, s) := if leafBase level e / 2 ^ 44 = s.posN then (0, s) else s.draw
        match leafCheck s vd v level e write wport (Config.freePick n % 3) with
        | some r => (s, .inl r)
        | none =>
          if write && !eD e then (setDirty s v ea level e, .inr (level, e ||| 64))
          else (s, .inr (level, e))
      else walkFrom (walkPut s w vd level va e) w vd v va write wport k (ePfn e * 4096)

/-- The physical address of a leaf. -/
def leafRes (level e va : Nat) : TRes := .ok (leafBase level e + va % leafBytes level) (eKslot e) (eCp e) (eOpo e)

/-- A TLB entry of the unit that serves the access: a write needs W and D in it (R452, R453). -/
def tlbHit (s : State) (unit vd va : Nat) (write wport : Bool) : Option TlbEntry :=
  s.hub.tlb.find? (fun t =>
    t.unit == unit && t.vd == vd && t.vpn == va / leafBytes t.level &&
    (!write || (eW t.entry.toNat && eD t.entry.toNat)) && (!eOpo t.entry.toNat || wport))

/-- The FIFO bank that a physical address of this package lies in. -/
def fifoBank (s : State) (pa : Nat) : Option Nat :=
  match localOff s pa with
  | some o =>
    if isSram o then
      match (s.cluster (sramBank o / 16)).banks[sramBank o % 16]? with
      | some x => if x.mode = .fifo then some (sramBank o) else none
      | none => none
    else none
  | none => none

/-- Entries a TLB holds at most: a tile's first level, and a cluster's second level (R23). -/
def tlbSize (unit : Nat) : Nat := if unit < 2048 then 128 else 2048
/-- The second level behind a TLB. -/
def tlbSecond (unit : Nat) : Nat := if unit < 2048 then 2048 + tileCluster unit else unit
/-- The translation of an address put into a TLB in place of an older one; a full TLB gives up an entry of its own choice. -/
def tlbPut (s : State) (a : Nat) (t : TlbEntry) : State :=
  let keep := s.hub.tlb.filter (fun x => !(x.unit == t.unit && x.vd == t.vd && x.vpn == a / leafBytes x.level))
  let own := keep.filter (fun x => x.unit == t.unit)
  if own.length < tlbSize t.unit then { s with hub := { s.hub with tlb := keep ++ [t] } }
  else
    let (n, s) := s.draw
    let gone := own[Config.freePick n % own.length]?
    { s with hub := { s.hub with tlb := keep.filter (fun x => gone != some x) ++ [t], tlbGone := gone.toList ++ s.hub.tlbGone } }
/-- Entries dropped from every TLB, whose translations may still be in use (R453). -/
def dropTlb (s : State) (hit : TlbEntry → Bool) : State :=
  { s with hub := { s.hub with tlb := s.hub.tlb.filter (fun t => !hit t), tlbGone := s.hub.tlb.filter hit ++ s.hub.tlbGone } }
/-- A translation put into a TLB and the second level behind it. -/
def tlbFill (s : State) (a : Nat) (t : TlbEntry) : State :=
  let u := tlbSecond t.unit
  let s := if u = t.unit then s else tlbPut s a { t with unit := u }
  tlbPut s a t

/-- A translation that no TLB entry answers: the walk, whose present leaf the TLBs then hold. -/
def walkMiss (s : State) (unit vd : Nat) (v : Vd) (a : Nat) (write wport : Bool) : State × TRes :=
  match walkFrom s (walkUnit unit) vd v a write wport 5 v.ptroot with
  | (s, .inl r) => (s, .bad r)
  | (s, .inr (level, e)) =>
    (tlbFill s a ⟨unit, vd, level, a / leafBytes level, BitVec.ofNat 64 e⟩, leafRes level e a)
/-- A translation by a unit's TLB, by the second level behind it, or by a walk. -/
def translateAny (s : State) (unit vd : Nat) (va : Word) (write wport : Bool) : State × TRes :=
  match s.vd? vd with
  | none => (s, .bad rForbid)
  | some v =>
    if 2 ^ 57 ≤ va.toNat then (s, .bad rForbid)
    else match tlbHit s unit vd va.toNat write wport with
      | some t => (s, leafRes t.level t.entry.toNat va.toNat)
      | none => match tlbHit s (tlbSecond unit) vd va.toNat write wport with
        | some t => (tlbPut s va.toNat { t with unit := unit }, leafRes t.level t.entry.toNat va.toNat)
        | none => walkMiss s unit vd v va.toNat write wport

/-- The translation of an access: a FIFO bank takes whole sectors (blk) alone (R457). -/
def translateFor (s : State) (unit vd : Nat) (va : Word) (write wport blk : Bool) : State × TRes :=
  match translateAny s unit vd va write wport with
  | (s, .ok pa k cp opo) => if blk = false ∧ (fifoBank s pa).isSome = true then (s, .bad rForbid) else (s, .ok pa k cp opo)
  | r => r
def translate (s : State) (unit vd : Nat) (va : Word) (write wport : Bool) : State × TRes :=
  translateFor s unit vd va write wport false

/-- The TLB of a tile's MIF, and that of a cluster's sequencer and dispatcher. -/
def tlbTile (t : Nat) : Nat := t
def tlbCluster (c : Nat) : Nat := 2048 + c

/-- Whether a range of virtual addresses lies inside the virtual device (R521). -/
def insideVd (lo hi : Nat) : Bool := decide (lo < hi ∧ hi ≤ 2 ^ 57)

/-! ## Translation fault records (R266, R455) -/

/-- The 32 bytes of a KIND 0x05 or 0x07 record. acc: 0 read, 1 write, 2 atomic, 3 fetch. -/
def faultRecord (va : Word) (ord fid : Nat) (ue ce : Bool) (vd ctx : Nat) (final : Bool) (reason acc src slot elem kind
    plane tx ty : Nat) : Bytes :=
  bytesLE 32 (pack [(192, 64, va.toNat), (144, 48, ord), (128, 16, if final then 0 else fid), (127, 1, ue.toNat),
    (126, 1, ce.toNat), (100, 4, vd % 16), (97, 3, ctx % 8), (96, 1, final.toNat), (92, 4, reason), (90, 2, acc),
    (88, 2, src), (84, 4, slot), (81, 3, elem), (56, 8, kind), (54, 2, plane), (44, 10, ty), (34, 10, tx)])

/-- A record of a plane's MIF, AGEN or WPORT. -/
def planeFaultRec (s : State) (pl : Nat) (p : Plane) (va : Word) (ord fid : Nat) (final : Bool)
    (reason acc src slot elem : Nat) : Bytes :=
  faultRecord va ord fid false false p.vd p.cid final reason acc src slot elem 5 (pl % 4) (faX s (planeTile pl))
    (faY s (planeTile pl))

/-- A record of a sequencer context or of its dispatcher (R455). -/
def seqFaultRec (s : State) (cluster vd ctx : Nat) (va : Word) (fid : Nat) (final ue ce : Bool) (reason acc : Nat) : Bytes :=
  faultRecord va 0 fid ue ce vd ctx final reason acc 0 0 0 7 0 (faX s (clusterTile cluster)) (faY s (clusterTile cluster))

/-- The next FID of a virtual device (R456), on fuel: in turn, skipping those outstanding. -/
def nextFid (v : Vd) : Nat → Nat → Nat
  | 0, n => n
  | k + 1, n =>
    let m := if 65535 ≤ n then 1 else n + 1
    if (tfind v.fids m).isSome then nextFid v k m else m
/-- An FID taken for an owner. -/
def takeFid (s : State) (vd : Nat) (o : FidOwner) : Nat × State :=
  match s.vd? vd with
  | none => (0, s)
  | some v =>
    let f := nextFid v 65535 v.fidLast
    (f, s.setVd vd { v with fids := tset v.fids f o, fidLast := f })
/-- An FID no longer outstanding. -/
def dropFid (s : State) (vd fid : Nat) : State := s.modVd vd (fun v => { v with fids := tdel v.fids fid })

end Sys2Proof.Machine
end

