-- ==== Sys2Proof/Machine/Mem.lean ====
section
/-! DEFINITION. Loads and stores of one sector as an agent of a cluster makes them (R296, R297): the home, the copy in the
cluster cache, the usage counters (R507), and virtual reads of the device itself. -/

namespace Sys2Proof.Machine

/-- 32 counted for a sector that moves between this package's HBM4 and a virtual device's agent (R507). -/
def countHbm (s : State) (vd i pa : Nat) : State :=
  match localOff s pa with
  | some o => if isHbm o then s.modVd vd (fun v => { v with usage := v.usage.set i (v.usage.getD i 0 + 32) }) else s
  | none => s

/-- A correctable error in a sector: corrected as the data are read, and counted in the event log under the tile of its home (R475,
R515; log entry 104). -/
def correct (s : State) (o : Nat) : State :=
  if s.soft.contains o then addLog { s with soft := s.soft.filter (· != o) } 1 0 (faY s (homeTile o)) (faX s (homeTile o)) 1 else s
/-- A sector read at its home, with whether it fails its check. A load of another package's memory leaves as a packet; what
it brings back is a free value, its check's outcome too (log entry 4). -/
def plainSector (s : State) (src : Agent) (vd pa kslot : Nat) (acq : Option Scope := none) : State × Lanes × Bool :=
  match localOff s pa with
  | some o =>
    let s := correct (touchLine s o) o
    if s.bad.contains o then (s, 0, true) else (s, BitVec.ofNat 256 (sectorAt s o kslot), false)
  | none =>
    let (n, s) := (s.emitPacket ⟨src, vd, dieKey pa, 0, .load pa 0 0 kslot acq false, []⟩).draw
    (s, Config.freeBits 256 n, Config.freePick n % 2 == 1)

/-- The same for an agent of a virtual device, whose reads are counted (R507). -/
def homeSector (s : State) (src : Agent) (vd pa kslot : Nat) (acq : Option Scope := none) : State × Lanes × Bool :=
  plainSector (countHbm s vd 9 pa) src vd pa kslot acq

def cpUncached : Nat := 2

/-! ## FIFO banks (R457) -/

def fifoOf (s : State) (b : Nat) : List Lanes :=
  match (s.cluster (b / 16)).banks[b % 16]? with
  | some x => x.fifo
  | none => []
def setFifo (s : State) (b : Nat) (l : List Lanes) : State :=
  s.modCluster (b / 16) (fun c => { c with banks := c.banks.modify (b % 16) (fun x => { x with fifo := l }) })
/-- Whether a load meets an empty FIFO, and whether a store meets a full one and waits. -/
def fifoEmpty (s : State) (pa : Nat) : Bool :=
  match fifoBank s pa with
  | some b => (fifoOf s b).isEmpty
  | none => false
def fifoFull (s : State) (pa : Nat) : Bool :=
  match fifoBank s pa with
  | some b => decide (8192 ≤ (fifoOf s b).length)
  | none => false
/-- Whether a cluster has a bank in CACHE mode; without one it caches nothing. -/
def caches (s : State) (cluster : Nat) : Bool := (s.cluster cluster).banks.any (fun b => b.mode == .cache)

/-- A sector's bytes as a copy keeps them: read through slot 0. -/
def toCopy (s : State) (pa kslot : Nat) (v : Lanes) : Lanes := BitVec.ofNat 256 (recode s (pa % 2 ^ 44) kslot 0 v.toNat)
def ofCopy (s : State) (pa kslot : Nat) (v : Lanes) : Lanes := BitVec.ofNat 256 (recode s (pa % 2 ^ 44) 0 kslot v.toNat)

/-- Copies a cluster cache holds at most: 8,192 sectors in each bank in CACHE mode (R23, R457). -/
def cacheSize (c : Cluster) : Nat := 8192 * (c.banks.filter (fun b => b.mode == .cache)).length
/-- A copy put into a cluster cache; a full one gives up a copy of its own choice (R297). -/
def cachePut (s : State) (cluster pa : Nat) (v : Lanes) : State :=
  let c := s.cluster cluster
  if (tfind c.cache pa).isSome || decide (c.cache.length < cacheSize c) then s.setCluster cluster { c with cache := tset c.cache pa v }
  else
    let (n, s) := s.draw
    let rest := c.cache.eraseIdx (Config.freePick n % c.cache.length)
    s.setCluster cluster { c with cache := tset (rest.take (cacheSize c - 1)) pa v }

/-- The cluster to which an agent belongs; none for the hub and the companion. -/
def agentCluster : Agent → Option Nat
  | .plane pl => some (planeCluster pl)
  | .ctx c => some (ctxCluster c)
  | .copy c => some c
  | .hub => none
  | .companion => none

/-- A load of one sector by an agent of a cluster under a cache policy (R296). -/
def loadSector (s : State) (src : Agent) (vd pa kslot cp : Nat) (acq : Option Scope := none) : State × Lanes × Bool :=
  let cluster := (agentCluster src).getD 0
  match fifoBank s pa with
  | some b =>
    let l := fifoOf s b
    (setFifo s b (l.drop 1), l.headD 0, false)
  | none =>
  let copy := tfind (s.cluster cluster).cache pa
  match copy, cp == cpUncached with
  | some v, false => (s, ofCopy s pa kslot v, false)
  | _, unc =>
    match homeSector s src vd pa kslot acq with
    | (s, v, ue) =>
      if ue || (unc && copy.isNone) || !caches s cluster then (s, v, ue)
      else (cachePut s cluster pa (toCopy s pa kslot v), v, false)

/-- Whether a load of a sector by an agent is answered: by this package, by its cluster's copy, or over a link that is UP (R460). -/
def reaches (s : State) (src : Agent) (pa cp : Nat) : State × Bool :=
  let copied := match agentCluster src with
    | some c => (tfind (s.cluster c).cache pa).isSome && cp != cpUncached
    | none => false
  if pa / 2 ^ 44 = s.posN ∨ copied = true then (s, true) else s.linkUp
/-- Every copy in a cluster cache invalidated (R297). -/
def invalidate (s : State) (cluster : Nat) : State := s.modCluster cluster (fun c => { c with cache := [] })

/-- A present copy of the writer's cluster updated by a store that its home performs (R296). -/
def updateCopy (s : State) (cluster pa mask data kslot : Nat) : State :=
  match tfind (s.cluster cluster).cache pa with
  | none => s
  | some v =>
    let w := mergeMask 32 mask data (ofCopy s pa kslot v).toNat
    s.modCluster cluster (fun c => { c with cache := tset c.cache pa (toCopy s pa kslot (BitVec.ofNat 256 w)) })

/-- A store performed at its home (R293), its agent's copy updated. -/
def performStore (s : State) (src : Agent) (vd : Nat) (a : Access) : State :=
  match localOff s a.sector with
  | none => s
  | some o =>
    match fifoBank s a.sector with
    | some b => fireMonitors (setFifo s b (fifoOf s b ++ [a.data])) a.sector
    | none =>
    let s := homePut (countHbm s vd 10 a.sector) o a.mask.toNat a.data.toNat a.kslot
    match agentCluster src with
    | some c => updateCopy s c a.sector a.mask.toNat a.data.toNat a.kslot
    | none => s

/-! ## Virtual reads and writes of the device (R230 and on): at the home, by a context's TLB -/

/-- What a virtual access of the device gives: the bytes, a fault's reason with its address, an error of a sector, or nothing yet: one
sector has been read in this turn, and the rest comes in later ones, for no access is indivisible across two sectors (R294). -/
inductive VRes (α : Type) where
  | ok (v : α)
  | fault (reason : Nat) (va : Word)
  | ue (va : Word)
  | pause
deriving DecidableEq, Repr

/-- Who reads: an instruction of a context, or the hub for a command or a service by a cluster's TLB. -/
inductive Who where
  | ctx (cid : Nat) | cmd (cluster : Nat) | svc (cluster : Nat)
deriving DecidableEq, Repr
def Who.cluster : Who → Nat
  | .ctx c => ctxCluster c
  | .cmd c => c
  | .svc c => c
def Who.agent : Who → Agent
  | .ctx c => .ctx c
  | .cmd c => .copy c
  | .svc _ => .hub
/-- A sector that a reader has read in an earlier turn, and one more put beside those. -/
def partGet (s : State) (w : Who) (va : Word) : Option Lanes :=
  match w with
  | .ctx c => ((s.ctx c).part.find? (fun x => x.1 == va)).map (·.2)
  | .cmd _ => (s.hub.cmdPart.find? (fun x => x.1 == va)).map (·.2)
  | .svc _ => (s.hub.svcPart.find? (fun x => x.1 == va)).map (·.2)
def partAdd (s : State) (w : Who) (va : Word) (v : Lanes) : State :=
  match w with
  | .ctx c => s.modCtx c (fun x => { x with part := x.part ++ [(va, v)] })
  | .cmd _ => { s with hub := { s.hub with cmdPart := s.hub.cmdPart ++ [(va, v)] } }
  | .svc _ => { s with hub := { s.hub with svcPart := s.hub.svcPart ++ [(va, v)] } }

/-- One sector that a reader wants: read in an earlier turn, or now unless this turn has read one. -/
def readSector (s : State) (w : Who) (vd : Nat) (va : Word) (got : Bool) : State × VRes Lanes :=
  match partGet s w va with
  | some v => (s, .ok v)
  | none =>
    if got then (s, .pause)
    else match translate s (tlbCluster w.cluster) vd va false false with
      | (s, .bad r) => (s, .fault r va)
      | (s, .ok pa kslot cp _) =>
        match reaches s w.agent pa cp with
        | (s, false) => (s, .pause)
        | (s, true) => match (match w with | .svc _ => homeSector s w.agent vd pa kslot | _ => loadSector s w.agent vd pa kslot cp) with
          | (s, _, true) => (s, .ue va)
          | (s, v, false) => (partAdd s w va v, .ok v)
/-- n bytes from a virtual address on, sector by sector, one in a turn (fuel bounds the sectors; got: this turn has read one); they are
complete in the turn that finds all of them read. The address of a fault is the first that the read wants of its sector. -/
def vreadAux (w : Who) (vd : Nat) : Nat → State → Word → Nat → Bool → Bytes → State × VRes Bytes
  | 0, s, _, _, got, acc => (s, if got then .pause else .ok acc)
  | f + 1, s, va, n, got, acc =>
    if n = 0 then (s, if got then .pause else .ok acc)
    else
      let lo := va.toNat % 32
      let k := min (32 - lo) n
      let had := (partGet s w (va - BitVec.ofNat 64 lo)).isSome
      match readSector s w vd (va - BitVec.ofNat 64 lo) got with
      | (s, .fault r _) => (s, .fault r va)
      | (s, .ue _) => (s, .ue va)
      | (s, .pause) => (s, .pause)
      | (s, .ok v) =>
        vreadAux w vd f s (va + BitVec.ofNat 64 k) (n - k) (got || !had) (acc ++ ((bytesLE 32 v.toNat).drop lo).take k)
def vread (s : State) (w : Who) (vd : Nat) (va : Word) (n : Nat) : State × VRes Bytes := vreadAux w vd (n / 32 + 2) s va n false []

/-- The sectors of n bytes from a virtual address on, up to the first that does not translate. -/
def vsectorsAux (cluster vd : Nat) : Nat → State → Word → Nat → List Nat
  | 0, _, _, _ => []
  | f + 1, s, va, n =>
    if n = 0 then []
    else
      let lo := va.toNat % 32
      let k := min (32 - lo) n
      match translate s (tlbCluster cluster) vd va false false with
      | (_, .bad _) => []
      | (_, .ok pa _ _ _) => (pa - lo) :: vsectorsAux cluster vd f s (va + BitVec.ofNat 64 k) (n - k)
def vsectors (s : State) (cluster vd : Nat) (va : Word) (n : Nat) : List Nat := vsectorsAux cluster vd (n / 32 + 2) s va n

/-- The places that n bytes from a virtual address on are written to: (physical sector, key slot, mask, data), or a fault. No
byte is written yet. -/
def vplanAux (cluster vd : Nat) : Nat → State → Word → Bytes → List Access → State × VRes (List Access)
  | 0, s, _, _, acc => (s, .ok acc)
  | f + 1, s, va, l, acc =>
    if l = [] then (s, .ok acc)
    else
      let lo := va.toNat % 32
      let k := min (32 - lo) l.length
      match translate s (tlbCluster cluster) vd va true false with
      | (s, .bad r) => (s, .fault r va)
      | (s, .ok pa kslot _ _) =>
        let a : Access := ⟨pa - lo, BitVec.ofNat 256 (ofBytesLE (l.take k) * 2 ^ (8 * lo)),
          BitVec.ofNat 32 ((2 ^ k - 1) * 2 ^ lo), none, false, kslot⟩
        vplanAux cluster vd f s (va + BitVec.ofNat 64 k) (l.drop k) (acc ++ [a])
def vplan (s : State) (cluster vd : Nat) (va : Word) (l : Bytes) : State × VRes (List Access) :=
  vplanAux cluster vd (l.length / 32 + 2) s va l []

end Sys2Proof.Machine
end

