-- ==== Sys2Proof/Machine/ElemToken.lean ====
section
/-! DEFINITION. The element's token operations and element control (R135 to R143). -/

namespace Sys2Proof.Machine

/-- A firing under the cursor whose operand tokens pass R40: k is given the plane number, element, slot, plane and the
operand tokens of OPA, OPB, OPC with their values. -/
def withOperands (f : EFields) (wide : Bool) (s : State)
    (k : Nat → Nat → Nat → Plane → List (Lanes × Option Token) → Ans) : Ans :=
  let pl := s.cur.plane
  let e := s.cur.elem
  match s.plane? pl with
  | none => .next s
  | some p =>
    let n := s.planeAc pl
    let l := [f.opa, f.opb, f.opc].map (operand s pl p e n wide f.imm)
    if anySeal (l.map (·.2) ++ deqHeads p e n f) then
      .next (elemTrap s pl e s.cur.slot trapSealv 0 (touchedChans f))
    else k pl e s.cur.slot p l

/-- PASS (R135). -/
def execElemPass (f : EFields) (s : State) : Ans := fire1 f false .carrying (fun a => a) s

/-- NULLT (R136): its firing is null whatever it consumed. -/
def execElemNullt (f : EFields) (s : State) : Ans :=
  withOperands f false s (fun pl e slot _ _ => .next (completeFiring s pl e slot f .null { val := 0 } false 1 false))

/-- TAGS.m (R137). -/
def execElemTags (f : EFields) (m : TagMode) (s : State) : Ans := fire1 f false (.explicit m) (fun a => a) s

/-- PTST (R138): a poisoned head is data here, its PSN bit the comparison result. -/
def execElemPtst (f : EFields) (s : State) : Ans :=
  withOperands f false s (fun pl e slot _ l =>
    let (v, t) := l.headD (0, none)
    let psn := match t with | some t => t.psn | none => false
    let kind := if anyNull [t] then .null else .data
    .next (completeFiring s pl e slot f kind { val := v, cmp := psn } false 1 false))

/-- An origin copied from a register or constant (R139). -/
def copiedOrigin (v : Nat) : Word :=
  let c := bits v 40 4
  let c := if c < 1 ∨ 6 < c then causeInject else c
  BitVec.ofNat 64 (pack [(44, 20, bits v 44 20), (40, 4, c), (16, 24, bits v 16 24)])
/-- PSN (R139). -/
def execElemPsn (f : EFields) (s : State) : Ans :=
  withOperands f false s (fun pl e slot _ l =>
    let org := if f.opa = .zero then newOrigin s (planeTile pl) e slot causeInject f.imm.toNat
      else copiedOrigin (l.headD (0, none)).1.toNat
    .next (completeFiring s pl e slot f (.poison org) { val := 0 } false 1 false))

/-- NOP (R140). -/
def execElemNop (f : EFields) (s : State) : Ans := fire1 f false .clearing (fun _ => 0) s

/-- TRAPI (R142). A sealed token under DEQ raises SEALV first (R40). -/
def execElemTrapi (f : EFields) (s : State) : Ans :=
  withOperands f false s (fun pl e slot _ _ => .next (elemTrap s pl e slot trapTrapi f.imm.toNat (touchedChans f)))

/-- The element's halted flag set. -/
def haltElem (s : State) (pl e : Nat) : State := s.modPlane pl (fun p => p.setElem e { p.elem e with halted := true })
/-- HALT (R143): the full effect of a firing, then the flag. -/
def execElemHalt (f : EFields) (s : State) : Ans :=
  withOperands f false s (fun pl e slot _ _ =>
    .next (haltElem (completeFiring s pl e slot f .data { val := 0 } false 1 false) pl e))

end Sys2Proof.Machine
end

