-- ==== Sys2Proof/Machine/ElemMatrix.lean ====
section
/-! DEFINITION. Matrix mode (R169 to R191): weight loading, MMA, accumulator rows and their passes. -/

namespace Sys2Proof.Machine

/-! ## The numbers of a format (R169, R172) -/

/-- The weights' format; a CB4 weight is a BF16 codebook entry (R93, R173). -/
def mxWfmt (w : Word) : Fmt :=
  match mxFmt w with
  | 0 => fmtBF16
  | 1 => fmtE4M3
  | 2 => fmtE5M2
  | 3 => fmtBF16
  | 4 => fmtF16
  | 5 => fmtF32
  | _ => fmtF64
def mxActFmt (w : Word) : Fmt := if mxFmt w = 0 then (if mxAfmt w then fmtE5M2 else fmtE4M3) else mxWfmt w
/-- The column format (R111). -/
def mxAcc (w : Word) : Fmt := if mxFmt w = 6 then fmtF64 else fmtF32

/-- An exact value times 2^k. -/
def FVal.scaleBy (k : Int) : FVal → FVal
  | .fin s m e => .fin s m (e + k)
  | v => v

/-- Weight w(k, j) of a job. -/
def mxWeight (cfg : Word) (job : MmaJob) (k j : Nat) : Nat :=
  let (b, _, nn) := mxGeom cfg
  let x := bits job.w.toNat (b * (k * nn + j)) b
  if mxFmt cfg = 0 then bits job.cb.toNat (16 * x) 16 else x

/-- The product a(k) w(k, j), scaled in a BS = 1 region (R94, R111). -/
def mxTerm (cfg : Word) (job : MmaJob) (k j : Nat) : FVal :=
  let af := mxActFmt cfg
  let t := mulV (af.decode (valAt af.w job.x.toNat k)) ((mxWfmt cfg).decode (mxWeight cfg job k j))
  if mxBs cfg then
    let ea := bits job.x.toNat 128 8
    let ew := bits job.sca.toNat (8 * j) 8
    if ea = 255 ∨ ew = 255 then .nan else FVal.scaleBy ((ea : Int) + ew - 254) t
  else t

/-- The column sums of a firing, each one exact sum rounded once (R111, R182); whether one is NaN. -/
def mxSums (cfg : Word) (job : MmaJob) (row : Option Lanes) : Lanes × Bool :=
  let (_, ke, nn) := mxGeom cfg
  let acc := mxAcc cfg
  let at_ := fun (o : Option Lanes) (j : Nat) => match o with
    | some x => [acc.decode (valAt acc.w x.toNat j)]
    | none => []
  let l := (List.range nn).map (fun j =>
    roundN acc (sumV false ((List.range ke).map (fun k => mxTerm cfg job k j) ++ at_ job.north j ++ at_ row j)))
  (ofVals acc.w l, l.any acc.isNan)

/-! ## Accumulator rows (R184 to R191) -/

def AccRow.quarter (r : AccRow) (q : Nat) : Lanes := r.data.extractLsb' (256 * q) 256
def AccRow.setQuarter (r : AccRow) (q : Nat) (v : Lanes) : AccRow :=
  { r with data := (r.data &&& ~~~(BitVec.ofNat 1024 (fullLanes * 2 ^ (256 * q)))) ||| (v.setWidth 1024 <<< (256 * q)) }
where fullLanes : Nat := 2 ^ 256 - 1
/-- A row poisoned (R191). -/
def AccRow.poison (r : AccRow) (org : Word) : AccRow :=
  let o := if bits org.toNat 24 16 = 0xFFFF ∧ r.oix ≠ 0xFFFF then
      pack [(40, 24, bits org.toNat 40 24), (24, 16, r.oix.toNat), (0, 24, bits org.toNat 0 24)]
    else org.toNat
  { r with psn := true, data := BitVec.ofNat 1024 o, ue := false }
/-- A pass of MMA .TOR or ACCA (R191). -/
def AccRow.pass (r : AccRow) (q : Nat) (kind : Kind) (v : Lanes) : AccRow :=
  if r.psn then r
  else match kind with
    | .null => r
    | .data => r.setQuarter q v
    | .poison org => r.poison org

/-- ACCA's sum of a quarter (R188) and whether a value is NaN. -/
def accAdd (t : AccTy) (q v : Lanes) : Lanes × Bool :=
  match t with
  | .i32 => (map2 32 (fun x y => (x + y) % 2 ^ 32) q v, false)
  | .f32 => let r := map2 32 (fadd fmtF32 .rne 0) q v; (r, anyNanOf fmtF32 r)
  | .f64 => let r := map2 64 (fadd fmtF64 .rne 0) q v; (r, anyNanOf fmtF64 r)
where anyNanOf (f : Fmt) (x : Lanes) : Bool := (vals f.w x).any f.isNan

/-- ACCD's conversion of a quarter (R189, R103) and whether a value is NaN. -/
def accRead (t : Ty) (q : Lanes) : Lanes × Bool :=
  let ts : Ty := if t = .f64 then .f64 else .f32
  let l := (vals ts.width q).map (conv t ts .rne true 0)
  (ofVals t.width l, l.any (fun x => match t.fmt with | some f => f.isNan x | none => false))

/-- A row written by an operation of the group late, its pre-image logged when it is the group's first (R192). -/
def Plane.writeRow (p : Plane) (late : Bool) (row : Nat) (x : AccRow) : Plane :=
  let p := if p.preHeld late row then p else { p with held := p.held ++ [{ fx := .pre row (p.row row), late := late }] }
  { p with rows := tset p.rows row x }

/-! ## Weights (R178 to R180) -/

/-- The matrix state and recorded indices after LDST of a sealed token (R179, R193). -/
def mxLdst (m : Mx) (x : WIdx) (t : Token) : Mx × WIdx :=
  let restart := m.sf == 4
  let part := if restart then 0 else m.sf
  let mask := BitVec.ofNat 1024 ((2 ^ 256 - 1) * 2 ^ (256 * part))
  let shx := (if restart then [] else x.shx) ++ (match t.stream with | some i => [i] | none => [])
  ({ m with shadow := (m.shadow &&& ~~~mask) ||| (t.data.setWidth 1024 <<< (256 * part)), sf := part + 1 },
    { x with shx := shx, sf := part + 1 })

/-- LDCB of a sealed token (R179). -/
def mxLdcb (cfg : Word) (m : Mx) (x : WIdx) (t : Token) : Mx × WIdx :=
  if mxFmt cfg = 0 then ({ m with cb := t.data }, { x with cbx := t.stream })
  else ({ m with scs := t.data.setWidth 64 }, { x with ssx := t.stream })

/-- SWAPW of a complete shadow plane (R180, R193). -/
def mxSwap (cfg : Word) (m : Mx) (x : WIdx) : Mx × WIdx :=
  let sf := if m.af then 4 else 0
  let bs := mxBs cfg
  ({ m with stat := m.shadow, shadow := m.stat, sf := sf, af := true, sca := if bs then m.scs else m.sca,
            scs := if bs then m.sca else m.scs },
    { x with stx := x.shx, shx := x.stx, sf := sf, af := true, sax := if bs then x.ssx else x.sax,
             ssx := if bs then x.sax else x.ssx })

/-- The matrix state of an element changed. -/
def Plane.modMx (p : Plane) (e : Nat) (g : Mx → WIdx → Mx × WIdx) : Plane :=
  let x := p.elem e
  let (m, w) := g (p.mxOf e) x.widx
  (p.setMx e m).setElem e { x with widx := w }

/-- The course of LDST and LDCB, which alone may read a sealed head (R179). -/
def fireLoadWeight (f : EFields) (g : Word → Token → Mx → WIdx → Mx × WIdx) (s : State) : Ans :=
  let pl := s.cur.plane
  let e := s.cur.elem
  match s.plane? pl with
  | none => .next s
  | some p => match (operand s pl p e (s.planeAc pl) false f.imm f.opa).2 with
    | none => .next s
    | some t =>
      if t.nul then .next (completeFiring s pl e s.cur.slot f .null { val := 0 } false 1 false)
      else if t.psn || !t.seal then .next (elemTrap s pl e s.cur.slot trapBound 0 (touchedChans f))
      else
        let s := completeFiring s pl e s.cur.slot f .data { val := 0 } false 1 false
        .next (s.modPlane pl (fun p => p.modMx e (g p.page.mxcfg t)))

/-- LDST (R179). -/
def execElemLdst (f : EFields) (s : State) : Ans := fireLoadWeight f (fun _ t m x => mxLdst m x t) s
/-- LDCB (R179). -/
def execElemLdcb (f : EFields) (s : State) : Ans := fireLoadWeight f (fun c t m x => mxLdcb c m x t) s
/-- SWAPW (R180). -/
def execElemSwapw (f : EFields) (s : State) : Ans :=
  withOperands f false s (fun pl e slot p _ =>
    if (p.mxOf e).sf ≠ 4 then .next (elemTrap s pl e slot trapBound 0 (touchedChans f))
    else
      let s := completeFiring s pl e slot f .data { val := 0 } false 1 false
      .next (s.modPlane pl (fun p => p.modMx e (mxSwap p.page.mxcfg))))

/-! ## MMA (R181, R182) -/

/-- The activation token as it goes east: UTAG ← OTAG, RPL ← 0 (R32, R182). -/
def eastTok (x : Token) (otag : BitVec 4) : Token := { x with tag := (x.tag &&& 0xF7F0) ||| otag.setWidth 16 }

def toksOf (l : List (Lanes × Option Token)) : List (Option Token) := l.map (·.2)
def valOf (l : List (Lanes × Option Token)) (i : Nat) : Lanes := (l.getD i (0, none)).1
def tokOf (l : List (Lanes × Option Token)) (i : Nat) : Option Token := (l.getD i (0, none)).2

/-- A pending effect added, due at the end of ac n + 3. -/
def Plane.addPend (p : Plane) (n e slot : Nat) (w : Work) : Plane :=
  { p with pend := p.pend ++ [{ due := n + 3, elem := e, slot := slot, late := afterKnot p e, iter := false, work := w }] }

/-- The low and high nibbles of OMASK as output masks. -/
def eastMask (m : BitVec 8) : BitVec 8 := m &&& 0x0F
def southMask (m : BitVec 8) : BitVec 8 := m &&& 0xF0

/-- MMA (R181, R182). -/
def execElemMma (f : EFields) (zs : Bool) (tor : Bool) (s : State) : Ans :=
  withOperands f false s (fun pl e slot p l =>
    let n := s.planeAc pl
    let cfg := p.page.mxcfg
    let m := p.mxOf e
    let ri := bits f.imm.toNat 0 9 + bits (valOf l 2).toNat 0 9
    let kind := kindOf (toksOf l)
    if kind.isData && (!m.af || (tor && decide (p.aq ≤ ri))) then
      .next (elemTrap s pl e slot trapBound 0 (touchedChans f))
    else
      let mismatch := sclOf (tokOf l 0) != mxBs cfg || (!zs && sclOf (tokOf l 1))
      let kind := refineKind s pl e slot kind mismatch false
      let job : MmaJob :=
        { x := valOf l 0, north := if zs then none else some (valOf l 1), w := m.stat, cb := m.cb, sca := m.sca }
      let s := finishFiring s pl e f kind false
      .next (s.modPlane pl (fun p =>
        let late := afterKnot p e
        let p := match tokOf l 0 with
          | some x => enqueueAll p (eastTok x f.otag) (n + 1) late (chanKeys e (eastMask f.omask))
          | none => p
        if tor then p.addPend n e slot (.mmaRow kind job ri (bits f.imm.toNat 9 2))
        else
          let (p, places) := reserveAll p late (chanKeys e (southMask f.omask))
          p.addPend n e slot (.mmaSouth kind job f.otag places))))

/-! ## The accumulator instructions (R187 to R190) -/

/-- The course of an accumulator firing: ri and the second row checked (R185), then the work of the kind. -/
def fireAcc (f : EFields) (second : Bool) (work : Kind → Nat → List (Lanes × Option Token) → Work) (s : State) : Ans :=
  withOperands f false s (fun pl e slot p l =>
    let n := s.planeAc pl
    let ri := bits f.imm.toNat 0 9 + bits (valOf l 0).toNat 0 9
    let kind := kindOf (toksOf l)
    if kind.isData && (decide (p.aq ≤ ri) || (second && decide (p.aq ≤ bits (valOf l 1).toNat 0 9))) then
      .next (elemTrap s pl e slot trapBound 0 (touchedChans f))
    else
      let s := finishFiring s pl e f kind false
      .next (s.modPlane pl (fun p => p.addPend n e slot (work kind ri l))))

def accQtr (f : EFields) : Nat := bits f.imm.toNat 9 2
/-- The scale check of ACCA's addend is made at the firing on v alone (R188). -/
def execElemAcca (f : EFields) (t : AccTy) (s : State) : Ans :=
  fireAcc f false (fun k ri l =>
    .acca (refineKind s s.cur.plane s.cur.elem s.cur.slot k (sclOf (tokOf l 1)) false) t ri (accQtr f) (valOf l 1)) s
/-- ACCD.t (R189): its destination and outputs are pending from the firing. -/
def execElemAccd (f : EFields) (t : Ty) (s : State) : Ans :=
  withOperands f false s (fun pl e slot p l =>
    let n := s.planeAc pl
    let ri := bits f.imm.toNat 0 9 + bits (valOf l 0).toNat 0 9
    let kind := kindOf (toksOf l)
    if kind.isData && decide (p.aq ≤ ri) then .next (elemTrap s pl e slot trapBound 0 (touchedChans f))
    else
      let s := finishFiring s pl e f kind false
      .next (s.modPlane pl (fun p =>
        let (p, places) := reserveAll p (afterKnot p e) (chanKeys e f.omask)
        p.addPend n e slot (.accd kind t ri (accQtr f) f.dst f.otag places))))
/-- ACCZ (R190): a null or poisoned firing changes no row. -/
def execElemAccz (f : EFields) (s : State) : Ans :=
  fireAcc f false (fun k ri l =>
    if k.isData then .accz ri (if f.opb = .zero then 0xFFFF else BitVec.ofNat 16 (valOf l 1).toNat) else .accNone) s
/-- ACCS (R190). -/
def execElemAccs (f : EFields) (s : State) : Ans :=
  fireAcc f true (fun k ri l => if k.isData then .accs ri (bits (valOf l 1).toNat 0 9) else .accNone) s
/-- ACCL (R190). -/
def execElemAccl (f : EFields) (s : State) : Ans :=
  fireAcc f true (fun k ri l => if k.isData then .accs (bits (valOf l 1).toNat 0 9) ri else .accNone) s

end Sys2Proof.Machine
end

