-- ==== Sys2Proof/Machine/ElemMem.lean ====
section
/-! DEFINITION. The element's memory requests (R155 to R163): addresses, BOUND, and the request handed to the MIF. -/

namespace Sys2Proof.Machine

/-- The MIF's element request window of a plane (R262): WLO, WHI. -/
def mifWindow (p : Plane) : Nat × Nat := (bits (blockOf p 9) 64 64, bits (blockOf p 9) 128 64)

/-- Bytes of each access of a request (R157); h 16 and above is an installed handler. -/
def ReqOp.bytes : ReqOp → Nat
  | .load sh _ | .store sh _ => (match sh with | .blk => 32 | .lane32 => 4 | .pair64 => 8)
  | .close _ => 8
  | .amo h => if h = 1 ∨ h = 10 ∨ h = 11 then 4 else if h = 13 ∨ h = 14 then 16 else 8
  | .vamo _ => 32

/-- The addresses of a request from lane pair 0 of a and the offsets b (R157). -/
def ReqOp.addrs (op : ReqOp) (a b : Lanes) : List Word :=
  let base := a.setWidth 64
  let lane := fun i => (b.extractLsb' (32 * i) 32).signExtend 64
  match op with
  | .load .lane32 _ | .store .lane32 _ => (List.range 8).map (fun i => base + lane i)
  | .load .pair64 _ | .store .pair64 _ => (List.range 4).map (fun j => base + lane (2 * j))
  | _ => [base]

/-- Whether every address is aligned and inside the window (R157). -/
def addrsOk (p : Plane) (op : ReqOp) (l : List Word) : Bool :=
  let (lo, hi) := mifWindow p
  l.all (fun a => a.toNat % op.bytes == 0 && decide (lo ≤ a.toNat) && decide (a.toNat + op.bytes ≤ hi))

/-- The local strand a request names (R77, R160). -/
def reqLsix (f : EFields) : Option Nat := if f.imm.getLsbD 6 then some (bits f.imm.toNat 0 3) else none

def Kind.isNull : Kind → Bool
  | .null => true
  | _ => false
def ReqOp.isAmo : ReqOp → Bool
  | .amo _ => true
  | _ => false

/-- A request put in the queue: in firing order, within one ac by ascending element (R161). -/
def putReq (r : Req) : List Req → List Req
  | [] => [r]
  | x :: l => if x.ac = r.ac ∧ r.elem < x.elem then r :: x :: l else x :: putReq r l

/-- The course of a memory request's firing (R155 to R157, R163): val is the data or the operand. DESIGN CHOICE (log entry 97): through
selector 42 or 43 an address or operand of 64 bits is lane 0 with lane 1 above it; R69 gives its form for a type, and a request has none. -/
def fireRequest (f : EFields) (op : ReqOp) (val : List (Lanes × Option Token) → Lanes) (s : State) : Ans :=
  withOperands f false s (fun pl e slot p l =>
    let kind := kindOf (l.map (·.2))
    let addrs := op.addrs (l.headD (0, none)).1 (l.getD 1 (0, none)).1
    if kind.isData && !addrsOk p op addrs then .next (elemTrap s pl e slot trapBound 0 (touchedChans f))
    else
      let s := finishFiring s pl e f kind false
      .next (s.modPlane pl (fun p =>
        let late := afterKnot p e
        let port := (chanKeys e f.omask).head?
        let (p, place) := match port with
          | some k => p.reserveReply k (op.isAmo && !kind.isNull) late
          | none => (p, 0)
        { p with reqs := putReq ⟨op, addrs, val l, reqLsix f, kind, e, slot, port, place, f.otag, late, false, s.planeAc pl⟩ p.reqs })))

def operandB (l : List (Lanes × Option Token)) : Lanes := (l.getD 1 (0, none)).1
def operandC (l : List (Lanes × Option Token)) : Lanes := (l.getD 2 (0, none)).1

/-- LD (R158). -/
def execElemLd (f : EFields) (sh : Shape) (s : State) : Ans := fireRequest f (.load sh none) (fun _ => 0) s
/-- ST (R158). -/
def execElemSt (f : EFields) (sh : Shape) (s : State) : Ans := fireRequest f (.store sh none) operandC s
/-- LDA (R159); .LN acts as .EL (R314). -/
def execElemLda (f : EFields) (sc : Scope) (s : State) : Ans := fireRequest f (.load .blk (some sc)) (fun _ => 0) s
/-- STL (R159). -/
def execElemStl (f : EFields) (sc : Scope) (s : State) : Ans := fireRequest f (.store .blk (some sc)) operandC s
/-- CST (R159). -/
def execElemCst (f : EFields) (sc : Scope) (s : State) : Ans := fireRequest f (.close sc) operandC s
/-- AMO (R156, R167). -/
def execElemAmo (f : EFields) (h : Fin 16) (s : State) : Ans :=
  fireRequest f (.amo (if f.imm.getLsbD 7 then 16 + h.val else h.val)) operandB s
/-- VAMO (R166). -/
def execElemVamo (f : EFields) (wide : Bool) (s : State) : Ans := fireRequest f (.vamo wide) operandC s

end Sys2Proof.Machine
end

