-- ==== Sys2Proof/Machine/Net.lean ====
section
/-! DEFINITION. Packets on their way: when one may be performed (R295, R299, R312), and how one leaves for its home or for another
package (R439, R460). -/

namespace Sys2Proof.Machine

/-! ## When a packet may be performed (R295, R299, R312) -/

/-- The sector a packet reads or writes. -/
def Packet.sector? (x : Packet) : Option Nat :=
  match x.body with
  | .load sec _ _ _ _ _ => some sec
  | .fx (.store a) _ => some a.sector
  | .fx (.vamo sec _ _ _) _ => some sec
  | .fx (.invoke m) _ => some (m.pa / 32 * 32)
  | _ => none
/-- A packet that writes: a store, a vector atomic or an invocation. -/
def Packet.isWrite (x : Packet) : Bool :=
  match x.body with
  | .fx _ _ => true
  | _ => false
def Packet.isRelease (x : Packet) : Bool :=
  match x.body with
  | .fx (.store a) _ => a.rel.isSome
  | .fx (.invoke m) _ => m.rel
  | _ => false
/-- Packets of a sender not yet acknowledged. -/
def unackOf (s : State) : Agent → List Packet
  | .plane pl => match s.plane? pl with | some p => p.unack | none => []
  | .ctx c => (s.ctx c).unack
  | _ => []
/-- Whether two packets travel on one strand. -/
def sameStrand (x : Packet) (a : Strand) : Bool := x.strand?.map (fun b => (b.six, b.die)) == some (a.six, a.die)

/-- Whether packet k may be performed: none of its sender's earlier packets to its sector is on its way or unacknowledged, and
a release waits for all of the sender's earlier ones, and for the acknowledgements of those on other strands (R299, R300,
R312). A packet sent again after a RETRY stays earlier than those that were sent behind it. -/
def mayPerform (s : State) (k : Nat) (x : Packet) : Bool :=
  let sec := x.sector?
  let own := (s.net.take k).filter (fun y => y.src == x.src && y.sector?.isSome &&
    (match x.strand? with | some a => !y.after.contains a | none => true))
  let open_ := (unackOf s x.src).filter (fun y => match y.strand? with
    | some a => x.after.contains a && !sameStrand x a
    | none => false)
  own.all (fun y => y.sector? != sec) && open_.all (fun y => y.sector? != sec) &&
  (!x.isRelease || (own.isEmpty && open_.isEmpty))

/-! ## Leaving (R439, R460) -/

/-- The die a packet's sender stands on, as strands count it. -/
def agentDie (s : State) : Agent → Nat
  | .plane pl => ownDieKey s (planeDie pl)
  | .ctx c => ownDieKey s (clusterDie (ctxCluster c))
  | .copy c => ownDieKey s (clusterDie c)
  | .hub => ownDieKey s 0
  | .companion => ownDieKey s 0

/-- Acquire scopes that invalidate the cluster cache (R297). -/
def wideScope : Scope → Bool
  | .cl | .die | .pkg | .pod => true
  | _ => false
/-- A handler whose target, and so whose result, has 32 bits (R164). -/
def target32 (h : Nat) : Bool := h == 1 || h == 10 || h == 11
/-- The result of an invocation in another package (log entry 4): a free value, zero-extended where it has 32 bits; the home may find
the sector failing its check (R520), and an installed handler absent (R83). -/
def freeResult (m : Msg) (n : Nat) : Body :=
  let v : Word := if target32 m.handler then (Config.freeBits 32 n).setWidth 64 else Config.freeBits 64 n
  let null := m.psn.isNone && decide (16 ≤ m.handler) && Config.freePick n % 4 == 1
  .result m.cont v null m.psn (m.psn.isNone && !null && Config.freePick n % 4 == 2) m.pa
/-- The copy of its cluster that serves a load of another package's memory (R296). -/
def copyFor (s : State) (p : Packet) : Option Lanes :=
  match p.body with
  | .load sec pl _ kslot _ false => (tfind (s.cluster (planeCluster pl)).cache sec).map (ofCopy s sec kslot)
  | _ => none
/-- A load answered to a plane, with the copies gone that an acquire invalidates (R297). -/
def answerLoad (s : State) (p : Packet) (v : Lanes) (ue : Bool) : State :=
  match p.body with
  | .load sec pl id _ acq _ =>
    let s := match acq with | some sc => if wideScope sc then invalidate s (planeCluster pl) else s | none => s
    s.send ⟨p.src, p.vd, agentDie s p.src, 0, .reply pl id sec v ue false, []⟩
  | _ => s
/-- What comes back for a packet that another package takes, at some later time (log entry 4): the acknowledgement of a strand
packet, the result of an invocation, and the sector of a load, free values. The load's sector becomes its cluster's copy as R296 says. -/
def remoteAnswer (s : State) (p : Packet) : State :=
  let back := fun (s : State) (b : Body) => s.send ⟨p.src, p.vd, agentDie s p.src, 0, b, []⟩
  match p.body with
  | .fx f st =>
    let s := match f with
      | .invoke m => if m.nr = true ∧ m.bar = false then s else let (n, s) := s.draw; back s (freeResult m n)
      | _ => s
    match st with
    | some x => back s (.ack x.six x.die x.seq)
    | none => s
  | .load sec pl _ kslot _ unc =>
    let c := planeCluster pl
    let (n, s) := s.draw
    let v : Lanes := Config.freeBits 256 n
    let ue := Config.freePick n % 2 == 1
    let s := if ue || (unc && (tfind (s.cluster c).cache sec).isNone) || !caches s c then s else cachePut s c sec (toCopy s sec kslot v)
    answerLoad s p v ue
  | _ => s

/-- A store on its way to another package updates its cluster's own copy (R295, R296). -/
def remoteCopy (s : State) (p : Packet) : State :=
  match p.body, agentCluster p.src with
  | .fx (.store a) _, some c => updateCopy s c a.sector a.mask.toNat a.data.toNat a.kslot
  | _, _ => s
/-- A packet that leaves over a board link; a link that is not UP does not forward it (R460). No packet that leaves carries a token, so
none becomes a misroute. -/
def leave (s : State) (p : Packet) : State :=
  match copyFor s p with
  | some v => answerLoad s p v false
  | none => match s.linkUp with
    | (s, true) => remoteAnswer ((remoteCopy s p).emitPacket p) p
    | (s, false) => s
/-- Packets for another package that wait in this one. -/
def Packet.remote (s : State) (p : Packet) : Bool := p.die / 4 != s.posN
def remoteWaits (s : State) (a : Agent) : Bool := s.net.any (fun y => y.src == a && y.remote s && y.sector?.isSome)
/-- A packet sent: on the mesh of this package, or out to another one (R439). One for another package waits here for what it must
follow, and what its sender sends there after it waits behind it (R300, R302, R312). -/
def toNet (s : State) (p : Packet) : State :=
  if !p.remote s || p.isRelease || remoteWaits s p.src || !mayPerform (s.send p) s.net.length p then s.send p else leave s p
/-- The first waiting packet for another package that may leave, from index i on, on fuel. -/
def mayLeave (s : State) : Nat → Nat → Option Nat
  | 0, _ => none
  | f + 1, i => match s.net[i]? with
    | none => none
    | some x =>
      let behind := (s.net.take i).any (fun y => y.src == x.src && y.remote s)
      if x.remote s && !behind && mayPerform s i x then some i else mayLeave s f (i + 1)
/-- Packets that waited leave for another package, in order. -/
def flushRemote : Nat → State → State
  | 0, s => s
  | f + 1, s => match mayLeave s s.net.length 0 with
    | none => s
    | some i => match s.net[i]? with
      | some x => flushRemote f (leave (s.dropPacket i) x)
      | none => s

/-- Stores performed at once, in order; those of another package leave as packets. -/
def performAll (s : State) (src : Agent) (vd : Nat) : List Access → State
  | [] => s
  | a :: r =>
    let s := if (localOff s a.sector).isSome then performStore s src vd a
      else leave s ⟨src, vd, dieKey a.sector, 0, .fx (.store a) none, []⟩
    performAll s src vd r

/-- The ac of a home's die before which a packet from a tile cannot arrive (R42); another package's is not counted. -/
def homeAc (s : State) (tile pa : Nat) : Nat :=
  if pa / 2 ^ 44 = s.posN then s.ac (homeDie (pa % 2 ^ 44)) + hops tile (homeTile (pa % 2 ^ 44)) else 0

end Sys2Proof.Machine
end

