-- ==== Sys2Proof/Machine/Knot.lean ====
section
/-! DEFINITION. Knots, commit, roll-back and retirement as shared operations (R43 to R52, R192, R302 to R308, R463). -/

namespace Sys2Proof.Machine

/-! ## Counting (R507) -/

/-- The MAC counter of an MMA firing of a plane (R507). -/
def countMac (s : State) (p : Plane) : State :=
  let (_, ke, nn) := mxGeom p.page.mxcfg
  let i := 2 + mxFmt p.page.mxcfg
  s.modVd p.vd (fun v => { v with usage := v.usage.set i (v.usage.getD i 0 + BitVec.ofNat 64 (ke * nn)) })
def Work.isMma : Work → Bool
  | .mmaSouth _ _ _ _ | .mmaRow _ _ _ _ => true
  | _ => false
/-- The MMA firings of a plane that are still pending, counted as they are dropped: a firing counts whether its result comes or not
(R507, R508). -/
def countDropped (s : State) (p : Plane) : State :=
  p.pend.foldl (fun s w => if !w.done && w.work.isMma then countMac s p else s) s

/-! ## Packets on their way -/

def Fx.pa : Fx → Nat
  | .store a => a.sector
  | .vamo x _ _ _ => x
  | .invoke m => m.pa

/-- A strand's key in a count table: 1024 * index + die key (R304). -/
def strandIdx (k die : Nat) : Nat := 1024 * k + die

/-- Local strand index of a plane's strand (R78). -/
def planeSix (pl k : Nat) : Nat := 8 * (pl % 4) + k

/-- An effect of a plane issued (R46, R302): with an OPEN ahead of a strand's first packet (R307); strand packets are kept
until acknowledged. -/
def issueFx (s : State) (pl : Nat) (f : Fx) (st : Option Strand) : State :=
  match s.plane? pl with
  | none => s
  | some p =>
    let t := planeTile pl
    let die := dieKey f.pa
    let k : Packet := ⟨.plane pl, p.vd, die, homeAc s t f.pa, .fx f st, p.unack.filterMap Packet.strand?⟩
    match st with
    | none => toNet s k
    | some x =>
      let key := strandIdx (x.six % 8) die
      let s :=
        if (tfind p.seen key).isSome then s
        else
          let o : Packet := ⟨.plane pl, p.vd, die, homeAc s t f.pa, .strandOpen x.six x.seq, []⟩
          toNet (s.setPlane pl { p with seen := tset p.seen key (), unack := p.unack ++ [o] }) o
      let closes := match f with | .store a => a.close | _ => false
      toNet (s.modPlane pl (fun p =>
        { p with unack := p.unack ++ [k], seen := if closes then tdel p.seen key else p.seen })) k

/-! ## Exits (R42, R46) -/

/-- A released token of an exit sent to the entry it resolved to: its destination plane and channel key. -/
def sendToken (s : State) (pl port dpl chan : Nat) (t : Token) : State :=
  let vd := match s.plane? pl with | some p => p.vd | none => 0
  let at_ := s.planeAc dpl + hops (planeTile pl) (planeTile dpl)
  s.send ⟨.plane pl, vd, ownDieKey s (planeDie dpl), at_, .token dpl chan pl port t, []⟩

/-- Whether a reconfiguration of a channel is pending, for which new tokens are held (R228). -/
def recfgHolds (s : State) (pl chan : Nat) : Bool :=
  match s.plane? pl with
  | some p => (p.chan chan).recfg.isSome
  | none => false

/-- Tokens of an exit that have credit leave, in order; with force the credit is not asked for (R463, log entry 15). -/
def drainPort (force : Bool) (pl port : Nat) : Nat → State → State
  | 0, s => s
  | n + 1, s =>
    match s.plane? pl with
    | none => s
    | some p => match tfind p.outs port with
      | none => s
      | some o => match o.dest, o.plane, o.q with
        | .exit _ chan _, some dpl, t :: r =>
          if t.mrk = true ∨ force = true ∨ (0 < o.credit ∧ recfgHolds s dpl chan = false) then
            let o' := { o with q := r, credit := if t.mrk then o.credit else o.credit - 1 }
            let p := { p with outs := tset p.outs port o' }
            let p := if t.mrk then p else (p.addBal (-1)).touch (s.planeAc pl)
            drainPort force pl port n (sendToken (s.setPlane pl p) pl port dpl chan t)
          else s
        | _, _, _ => s

/-- Every exit of a plane drained as far as credit allows. -/
def drainOuts (force : Bool) (s : State) (pl : Nat) : State :=
  match s.plane? pl with
  | none => s
  | some p => p.outs.foldl (fun s o => drainPort force pl o.1 o.2.q.length s) s

/-- Filled tokens at the front of a checked exit leave the held effects at once (R290). -/
def releaseChecked (n : Nat) (p : Plane) : List Held → Plane → Plane
  | [], q => q
  | h :: r, q =>
    let keep := fun (q : Plane) => { q with held := q.held ++ [h] }
    match h.fx with
    | .exit k _ (some t) vis =>
      let ahead := q.held.any (fun x => match x.fx with | .exit j _ _ _ => j == k | _ => false)
      if p.isChecked k && !ahead && decide (vis ≤ n + 1) then
        let o := tget q.outs k { dest := .loc 0 }
        let o := { o with q := o.q ++ [t], sent := o.sent + 1, after := if t.knt then 0 else o.after + 1 }
        releaseChecked n p r { q with outs := tset q.outs k o }
      else releaseChecked n p r (keep q)
    | _ => releaseChecked n p r (keep q)
def checkedOut (p : Plane) (n : Nat) : Plane :=
  if p.outs.any (fun o => p.isChecked o.1) then releaseChecked n p p.held { p with held := [] } else p

/-! ## Taking a knot (R44 to R50) -/

/-- The part of the operator state that belongs to unit u, taken over from a. -/
def OpSt.take (u : Nat) (a b : OpSt) : OpSt :=
  match u with
  | 8 => { b with agen := a.agen }
  | 9 => { b with strOrd := a.strOrd }
  | 10 => { b with wport := a.wport }
  | 11 => { b with steer := a.steer }
  | 13 => { b with scale := a.scale }
  | 14 => { b with bflyIn := a.bflyIn, bflyOut := a.bflyOut }
  | 15 => { b with conv := a.conv }
  | 16 => { b with red := a.red, redNo := a.redNo }
  | 17 => { b with maskT := a.maskT, maskPsn := a.maskPsn, maskLeft := a.maskLeft }
  | 18 => { b with rngC := a.rngC, rngN := a.rngN, rngK := a.rngK }
  | 19 => { b with check := a.check, checkPos := a.checkPos }
  | _ => b

def agenTrig (p : Plane) : Bool := (blockOf p 8).testBit 7
def agenDest1 (p : Plane) : Bool := (blockOf p 8).testBit 3
def mifOn (p : Plane) : Bool := (blockOf p 9).testBit 0
def mifSdir (p : Plane) : Nat := bits (blockOf p 9) 5 2
def wportSel (p : Plane) : Bool := (blockOf p 10).testBit 1
def rngReq (p : Plane) : Bool := (blockOf p 18).testBit 1
def rngNtok (p : Plane) : Nat := bits (blockOf p 18) 48 32

/-- A closed source (R50). -/
def closedSource (p : Plane) (u : Nat) : Bool :=
  (blockOf p u).testBit 0 &&
  (match u with
   | 8 => !agenTrig p
   | 10 => !wportSel p
   | 18 => !rngReq p && rngNtok p != 0
   | _ => false)
/-- An open source (R50). -/
def openSource (p : Plane) (u : Nat) : Bool :=
  if u < 8 then p.units.contains u && (p.inputs u).isEmpty
  else u == 18 && (blockOf p 18).testBit 0 && !rngReq p && rngNtok p == 0
/-- Whether a closed source has finished its pattern, and whether an operator is within a step's work, where it takes no
knot (R256, R257, R270, R285). -/
def patternDone (p : Plane) (u : Nat) : Bool :=
  match u with
  | 8 => p.ops.agen.fin
  | 10 => p.ops.wport.fin
  | 18 => decide (rngNtok p ≤ p.ops.rngN)
  | _ => false
def midWork (p : Plane) (u : Nat) : Bool :=
  match u with
  | 8 => agenTrig p && (p.ops.agen.busy || p.ops.agen.trig.isSome)
  | 9 => !p.stream.isEmpty
  | 10 => p.ops.wport.busy
  | 14 => !p.ops.bflyOut.isEmpty
  | 17 => p.ops.maskLeft.isSome
  | _ => false
/-- KIV and the count toward it (R255, R269, R286). -/
def kivOf (p : Plane) (u : Nat) : Nat :=
  match u with
  | 8 => bits (blockOf p 8) 48 16
  | 10 => bits (blockOf p 10) 48 16
  | 18 => bits (blockOf p 18) 32 16
  | _ => 0
def kivCount (p : Plane) (u : Nat) : Nat :=
  match u with
  | 8 => p.ops.agen.kcnt
  | 10 => p.ops.wport.kcnt
  | 18 => p.ops.rngK
  | _ => 0
def kivDue (p : Plane) (u : Nat) : Bool := kivOf p u != 0 && decide (kivOf p u ≤ kivCount p u)
/-- The count toward KIV starts again. -/
def resetKiv (p : Plane) (u : Nat) : Plane :=
  match u with
  | 8 => { p with ops := { p.ops with agen := { p.ops.agen with kcnt := 0 } } }
  | 10 => { p with ops := { p.ops with wport := { p.ops.wport with kcnt := 0 } } }
  | 18 => { p with ops := { p.ops with rngK := 0 } }
  | _ => p

/-- An output that can take a knot at ac n (R44); at an exit it takes no bytes of the commit buffer (log entry 11). -/
def knotRoom (p : Plane) (n k : Nat) : Bool :=
  match tfind p.outs k with
  | none => false
  | some o => match o.dest with
    | .loc c => (p.chan c).free n
    | .exit _ _ _ => o.free

def headTok (p : Plane) (n k : Nat) : Option Token := p.head k n
def headKnot (p : Plane) (n k : Nat) : Bool := match headTok p n k with | some t => t.knt | none => false
def headDrain (p : Plane) (n k : Nat) : Bool := match headTok p n k with | some t => t.drn | none => false
def headData (p : Plane) (n k : Nat) : Bool := match headTok p n k with | some t => !t.ctl | none => false

def frontKnot (l : List QItem) : Bool := match l with | .knot _ :: _ => true | _ => false
def frontDrain (l : List QItem) : Bool := match l with | .knot d :: _ => d | _ => false
/-- AGEN's queue as an input of the MIF (R261). -/
def mifFed (p : Plane) (u : Nat) : Bool := u == 9 && mifSdir p != 0

/-- Whether every forward input of a unit holds a knot at its head, and whether one holds a drain. A unit without one never
passes. -/
def inputsKnot (p : Plane) (u n : Nat) : Bool :=
  (!(p.fwdInputs u).isEmpty || mifFed p u) && (p.fwdInputs u).all (headKnot p n) && (!mifFed p u || frontKnot p.agq)
def inputsDrain (p : Plane) (u n : Nat) : Bool :=
  (p.fwdInputs u).any (headDrain p n) || (mifFed p u && frontDrain p.agq)

/-- Whether a unit acts at all in this ac: neither halted, stopped or reached by a marker (R56), drained, refilling nor in an assay, and it has not
acted yet. -/
def unitFree (p : Plane) (u n : Nat) : Bool :=
  !p.stopped.contains u && !markerDue p u n && !p.drained.contains u && !p.refill.contains u && !p.assay && !p.retiring && p.armed &&
  (decide (8 ≤ u) || !(p.elem u).halted) && decide (tget p.firedAt u 0 ≤ n)

/-- Whether every back-edge input of a unit is empty at ac n: a place that is reserved holds no token yet (R44). -/
def backEmpty (p : Plane) (u n : Nat) : Bool :=
  (p.backInputs u).all (fun k => (p.chan k).q.all (fun x => !x.plain || x.tok.isNone || decide (n < x.vis)))
/-- The parts of R44 that do not ask for knots at the heads. -/
def knotReady (p : Plane) (u n : Nat) : Bool :=
  unitFree p u n && !afterKnot p u && !midWork p u && backEmpty p u n &&
  (p.outputs u).all (knotRoom p n) &&
  !(p.pend.any (fun w => w.elem == u && decide (u < 8) && (w.work.dst.isSome || w.work.isAcc)))

/-- Whether a unit takes a knot or a drain in ac n (R44): every condition holds, and it then fires nothing else (log entry 16). -/
def mustTake (p : Plane) (u n : Nat) : Bool := p.units.contains u && knotReady p u n && inputsKnot p u n

/-- CHECK's grant to every region that feeds one of its checked routes (R290). -/
def grantAll (s : State) (p : Plane) : State :=
  (p.inputs 19).foldl (fun s k => match (p.chan k).checked, (p.chan k).fed with
    | true, some (fp, port) => s.modPlane fp (fun q => match tfind q.outs port with
      | some o => { q with outs := tset q.outs port { o with grant := true } }
      | none => q)
    | _, _ => s) s

/-- A knot taken by a unit (R44): state recorded, knots dequeued, one knot sent on every output. -/
def takeKnot (s : State) (pl u : Nat) (drain : Bool) : State :=
  match s.plane? pl with
  | none => s
  | some p =>
    let n := s.planeAc pl
    let keys := (p.fwdInputs u).filter (headKnot p n)
    let s := dequeueAll (if u = 19 then grantAll s p else s) pl keys
    s.modPlane pl (fun p =>
      let p := resetKiv p u
      let p := if u = 19 then { p with ops := { p.ops with checkPos := [] } } else p
      let p := { p with agq := if mifFed p u then p.agq.drop 1 else if u = 8 ∧ !agenDest1 p then p.agq ++ [QItem.knot drain] else p.agq }
      let p := if u < 8 then { p with kElems := tset p.kElems u (p.elem u) } else { p with kOps := tset p.kOps u p.ops }
      let kn := p.knot.getD { drain := drain, taken := [], implicit := false }
      let p := enqueueKnots p n (p.outputs u)
      let p := (p.backInputs u).foldl (fun p k =>
        let c := p.chan k
        if c.entry then p.setChan k { c with replay := c.replay ++ [knotTok drain] } else p) p
      { p.touch n with
        knot := some { kn with drain := kn.drain || drain, taken := kn.taken ++ [u] }
        drained := if drain then p.drained ++ [u] else p.drained
        firedAt := tset p.firedAt u (n + 1) })
where
  enqueueKnots (p : Plane) (n : Nat) : List Nat → Plane
    | [] => p
    | k :: r => enqueueKnots (p.enqueue k (some (knotTok drain)) (n + 1) false) n r

/-! ## Commit (R46) -/

/-- The MIF's exit counts as reached (R47). What it took behind the knot, a group in progress among it, does not count. -/
def mifReached (p : Plane) : Bool :=
  !mifOn p || (p.reqs.all (fun r => r.late) && (if mifSdir p == 0 then p.stream.isEmpty else afterKnot p 9))

/-- Whether the open knot is complete at ac n: every unit has taken it, it has reached every exit (R46). A unit that took it and
has halted since does not keep it open (log entry 62). -/
def knotComplete (p : Plane) (n : Nat) : Bool :=
  match p.knot with
  | none => false
  | some k =>
    p.units.all (fun u => k.taken.contains u || (u == 9 && mifSdir p == 0)) && mifReached p &&
    p.held.all (fun h => h.late || (match h.fx with
      | .exit _ _ (some _) vis => decide (vis ≤ n + 1)
      | .exit _ _ none _ => false
      | _ => true)) &&
    p.outs.all (fun o => !p.isChecked o.1 || o.2.grant)

/-- Held effects released, in order: exit tokens to their outputs, memory effects to the memory system. -/
def releaseHeld (pl : Nat) : List Held → State → State
  | [], s => s
  | h :: r, s =>
    releaseHeld pl r (match h.fx with
      | .exit k _ (some t) _ => s.modPlane pl (fun p =>
          let o := tget p.outs k { dest := .loc 0 }
          { p with outs := tset p.outs k { o with q := o.q ++ [t] } })
      | .exit _ _ none _ => s
      | .fx f st => issueFx s pl f st
      | .pre _ _ => s)

/-- The tokens of a replay buffer that stand behind its first knot; all of them where it holds none. -/
def afterFirstKnot (l : List Token) : List Token :=
  if l.any Token.knt then (l.dropWhile (fun t => !t.knt)).drop 1 else l

/-- Reply places of a committed group are kept over a roll-back (R321). -/
def commitPlace (x : Place) : Place :=
  if x.float then (if x.late then { x with late := false } else { x with keep := true }) else { x with late := false }

/-- The strand counts that a roll-back restores: the first number of the next group. -/
def committedSeqs (late : List Held) (seqs : Tab Nat) : Tab Nat :=
  late.foldr (fun h t => match h.fx with
    | .fx _ (some x) => tset t (strandIdx (x.six % 8) x.die) x.seq
    | _ => t) seqs

/-- What a commit leaves of the queued items that a cut committed: those behind the committed knot (R464). -/
def laterItems (p : Plane) : List QItem :=
  let knot := fun (x : QItem) => match x with | .knot _ => true | _ => false
  if p.cAgq.any knot then (p.cAgq.dropWhile (fun x => !knot x)).drop 1
  else match p.cKnot with
    | some k => if k.taken.contains 9 then p.cAgq else []
    | none => []

def StreamAcc.isStore : StreamAcc → Bool
  | .store _ _ _ => true
  | .load _ _ _ _ _ => false

/-- A plane's commit, or with all its last one, noted in the pending shoot-downs (R453). -/
def shootNote (s : State) (pl : Nat) (all : Bool) : State :=
  { s with hub := { s.hub with vds := tmap (fun _ v =>
      { v with shoots := v.shoots.map (fun x => { x with planes := if all then x.planes.filter (· != pl) else x.planes.erase pl }) }) s.hub.vds } }

/-- The open group's effects released and its knot state committed (R46). all: the cut releases every open group, and the state as
it stands is committed, the tokens in its channels and the requests in its queues with it (R463, R464). -/
def commitGroup (s : State) (pl : Nat) (all : Bool) : State :=
  match s.plane? pl with
  | none => s
  | some p =>
    let open_ := fun (h : Held) => match h.fx with | .exit _ _ none _ => true | _ => false
    let now := p.held.filter (fun h => if all then !open_ h else !h.late)
    let later := p.held.filter (fun h => if all then open_ h else h.late)
    let kn := p.knot
    let p := { p with held := later.map (fun h => { h with late := false, keep := all || h.keep }) }
    let s := releaseHeld pl now (s.setPlane pl p)
    let s := s.modPlane pl (fun p =>
      { p with
        cElems := if all then p.elems else p.kElems.foldl (fun l e => l.set e.1 e.2) p.cElems
        cSeqs := committedSeqs later p.seqs
        kElems := [], kOps := []
        knot := if all then p.knot else none
        reqs := if all then p.reqs else p.reqs.map (fun r => { r with late := false })
        cReqs := if all then p.reqs else (p.cReqs.filter (fun r => r.late)).map (fun r => { r with late := false })
        cAgq := if all then p.agq else laterItems p
        cKnot := if all then p.knot else none
        cStream := if all then p.stream.filter StreamAcc.isStore else match p.cKnot with
          | some k => if k.taken.contains 9 then p.cStream else []
          | none => []
        cDrained := if all then p.drained else []
        pend := p.pend.map (fun w => { w with late := false })
        chans := tmap (fun _ c => { c with
          replay := if all then [] else afterFirstKnot c.replay
          q := if all then c.q.map (fun x => { x with late := false, keep := x.plain && !c.entry }) else c.q.map commitPlace }) p.chans
        outs := tmap (fun _ o => { o with grant := false, sent := if all then 0 else o.after, after := if all then 0 else o.after }) p.outs
        rollbacks := 0
        ops := { p.ops with check := 0 }
        cOps := (let o := if all then p.ops else p.kOps.foldl (fun o e => OpSt.take e.1 e.2 o) p.cOps; { o with check := 0 })
        retiring := p.retiring || (!all && (match kn with | some k => k.drain | none => false)) })
    drainOuts all (shootNote s pl all) pl

/-! ## Freeing a plane (R49, R303, R308) -/

def srcIs (pl : Nat) (k : Packet) : Bool := k.src == .plane pl

/-- RELEASE sent for every clasp context the plane's strands hold (R308). -/
def releaseStrands (s : State) (pl : Nat) : State :=
  match s.plane? pl with
  | none => s
  | some p =>
    p.seen.foldl (fun s e =>
      let die := e.1 % 1024
      let at_ := if die / 4 = s.posN then s.ac (die % 4) + 1 else 0
      toNet s ⟨.plane pl, p.vd, die, at_, .release (planeSix pl (e.1 / 1024)) (tget p.seqs e.1 0), []⟩)
      (s.setPlane pl { p with seen := [] })

/-- Whether everything the plane released is done: tokens delivered, effects performed, strand packets acknowledged. -/
def released (s : State) (pl : Nat) : Bool :=
  match s.plane? pl with
  | none => true
  | some p => p.outs.all (fun o => o.2.q.isEmpty) && p.unack.isEmpty && p.pend.all (fun w => w.done) &&
      !(s.net.any (fun k => srcIs pl k && (match k.body with | .fx _ _ | .load _ _ _ _ _ _ | .reply _ _ _ _ _ _ => true | _ => false)) ||
        s.net.any (fun k => match k.body with | .result (.chan q _ _ _) _ _ _ _ _ => q == pl | _ => false))
/-- The same with no load outstanding and no group in progress. -/
def settled (s : State) (pl : Nat) : Bool :=
  released s pl && (match s.plane? pl with | none => true | some p => p.loads.isEmpty && p.stream.isEmpty)
/-- Whether a RELEASE or an OPEN of the plane is still on its way. -/
def releasing (s : State) (pl : Nat) : Bool :=
  s.net.any (fun k => srcIs pl k && (match k.body with | .release _ _ | .strandOpen _ _ => true | _ => false))

/-- Whether every plane that a context armed has an idle report outstanding. -/
def allIdle (s : State) (cid : Nat) : Bool := s.planes.all (fun e => !(e.2.cid == cid && e.2.armed) || e.2.idleSent)
/-- Whether a context is STUCK (R61): it armed a plane that stands, all of them are idle, and its balance is not zero. -/
def isStuck (s : State) (cid : Nat) : Bool :=
  s.planes.any (fun e => e.2.cid == cid && e.2.armed) && allIdle s cid && (s.ctx cid).bal != 0

def Ctx.sec (c : Ctx) (k : Nat) : Section := tget c.secs k {}
def State.modSec (s : State) (cid k : Nat) (f : Section → Section) : State :=
  s.modCtx cid (fun c => { c with secs := tset c.secs k (f (c.sec k)) })

/-- The sectors of a waybill's STAGE extents, of those to be read or to be written back. -/
def Waybill.stages (w : Waybill) (out : Bool) : List (Nat × Nat × Nat) :=
  ((List.range w.exts.length).zip w.exts).filterMap (fun e =>
    if e.2.stage && (if out then e.2.wr else e.2.rd) then some (e.1, 0, e.2.len / 32) else none)
/-- The TASK waybills of a section whose last plane has gone: the copy-back is left, none for an aborted one (R224, R226). -/
def taskEnds (s : State) (cid sec : Nat) : State :=
  let x := (s.ctx cid).sec sec
  if x.planes.isEmpty && !x.away then
    s.modCluster (ctxCluster cid) (fun c => { c with wbs := c.wbs.map (fun w =>
      if w.cid == cid && w.task && w.sec == sec && w.phase == .running then
        { w with phase := .stageOut, cur := none, todo := if w.status = 2 then [] else w.stages true
                 status := if w.status = 0 ∧ x.trapped = true then 1 else w.status }
      else w) })
  else s

/-- The plane freed (R22, R49): its page removed, its balance reported to the arming context, which stands as the sender of
tokens still on their way (R67, R206); routes that led to it stand, credits on their way to it are gone (R24), and so are the
answers of clasps to its strands, whose numbers the next region on the plane uses again (R304). What is left may make the context STUCK
(R61). -/
def freePlane (s : State) (pl : Nat) : State :=
  match s.plane? pl with
  | none => s
  | some p =>
    let was := isStuck s p.cid
    let s := s.modCtx p.cid (fun c =>
      { c.addBal p.bal with
          stuckDue := c.stuckDue || !was
          secs := tmap (fun j x => if j = p.sec then { x with planes := x.planes.filter (· != pl) } else x) c.secs })
    let own := fun (k : Packet) => match k.body with
      | .token _ _ _ _ _ => if srcIs pl k then { k with src := .ctx p.cid } else k
      | _ => k
    let s := taskEnds s p.cid p.sec
    { shootNote s pl true with
      planes := tdel s.planes pl
      net := (s.net.filter (fun k => match k.body with
        | .credit q _ _ _ => q != pl
        | .ack _ _ _ | .retry _ _ _ _ => !srcIs pl k
        | _ => true)).map own }

/-- A plane whose drain has committed retires once everything is settled and its clasp contexts are released (R303). -/
def tryRetire (s : State) (pl : Nat) : State :=
  match s.plane? pl with
  | none => s
  | some p =>
    if p.retiring && settled s pl then
      if !p.seen.isEmpty then releaseStrands s pl
      else if releasing s pl then s
      else freePlane s pl
    else s

/-! ## Roll-back (R52, R192, R193) -/

def rplTok (t : Token) : Token := { t with tag := t.tag ||| 0x800 }

/-- The pre-images of the open groups, the oldest last, put back (R192). -/
def restoreRows (p : Plane) : Plane :=
  let back := fun (late : Bool) (p : Plane) => p.held.foldl (fun p h => match h.fx with
    | .pre r old => if h.late == late then { p with rows := tset p.rows r old } else p
    | _ => p) p
  back false (back true p)

/-- A channel after a roll-back (marks: markers of a complete cut stay in it): an entry's replayed tokens ahead of what stands in it; elsewhere only kept replies. What stands
ahead of a reconfiguration token is counted anew (R228). What the producer of a checked route sends again has been taken back (unsend). -/
def rolledChan (marks : Bool) (c : Chan) : Chan :=
  let rep := (c.replay.filter (fun t => !t.mrk)).map (fun t => ({ id := 0, tok := some (rplTok t), vis := 0, inj := true } : Place))
  let mk := if marks || c.entry then c.q.filter (fun x => !x.plain) else []
  if c.entry then
    { c with q := rep ++ c.q.filter Place.plain ++ mk, replay := [], recfg := c.recfg.map (fun (d, k) => (d, rep.length + k)) }
  else
    let q := rep.map (fun x => { x with keep := true }) ++ c.q.filter (fun x => x.plain && x.keep)
    { c with q := q ++ mk, replay := [], recfg := c.recfg.map (fun (d, _) => (d, q.length)) }

def countTok (l : List Place) : Int :=
  ((l.filter (fun x => match x.tok with | some t => !t.mrk | none => false)).length : Nat)
def chanTokens (p : Plane) : Int := p.chans.foldl (fun a e => a + countTok e.2.q) 0
def heldTokens (p : Plane) : Int :=
  ((p.held.filter (fun h => match h.fx with | .exit _ _ (some _) _ => true | _ => false)).length : Nat)

/-- Loads whose replies a committed group reserved go on; the others are dropped, with their packets. -/
def keptPlaces (p : Plane) : List Nat := p.chans.flatMap (fun e => (e.2.q.filter (fun x => x.keep)).map (·.id))

/-- Requests that a cut committed and that a roll-back puts back: those whose reply has not come and is not on its way (R463). -/
def keptReqs (p : Plane) (loads : List Load) : List Req :=
  p.cReqs.filter (fun r => r.port.isNone || (!loads.any (fun l => l.place == r.place) &&
    p.chans.any (fun e => e.2.q.any (fun x => x.id == r.place && x.tok.isNone))))

/-- One region rolled back to its committed knot state (R52), or to that of a cut that has released it; before that the cut begins
again with markers at its entries (R463). -/
def rollbackPlane (s : State) (pl : Nat) : State :=
  match s.plane? pl with
  | none => s
  | some p =>
    let held := p.held.filter (fun h => h.keep)
    let keep := keptPlaces p ++ held.filterMap (fun h => match h.fx with | .exit _ i _ _ => some i | _ => none)
    let loads := p.loads.filter (fun l => keep.contains l.place)
    let gone := (p.loads.filter (fun l => !keep.contains l.place)).map (·.id)
    let s := { s with net := s.net.filter (fun k => match k.body with
      | .load _ q i _ _ _ => !(q == pl && gone.contains i)
      | .reply q i _ _ _ _ => !(q == pl && gone.contains i)
      | _ => true) }
    let s := match p.fault with
      | some f => dropFid s p.vd f.fid
      | none => s
    let s := match p.wfault with
      | some f => dropFid s p.vd f.fid
      | none => s
    let q := restoreRows p
    let chans := q.chans.map (fun e => (e.1, rolledChan p.cutDone e.2))
    let s := countDropped (shootNote s pl true) p
    let before := chanTokens p + heldTokens p
    let q := { q with chans := chans, held := held }
    let mx := mxOnPage q
    s.setPlane pl
      { (q.addBal (chanTokens q + heldTokens q - before)).touch (s.planeAc pl) with
        elems := p.cElems, ops := { p.cOps with check := p.ops.check, agen := { p.cOps.agen with ahead := [] } }, seqs := p.cSeqs, pend := [], reqs := keptReqs p loads, agq := p.cAgq, loads := loads, knot := p.cKnot
        stream := if p.cStream.isEmpty then p.stream.filter (fun a => match a with
          | .load i _ _ _ _ => loads.any (fun l => l.id == i)
          | .store _ _ _ => false) else p.cStream
        stopped := if p.cutDone then p.stopped else [], marked := if p.cutDone then p.marked else []
        kElems := [], kOps := [], fault := none, wfault := none
        drained := if p.retiring then p.drained else p.cDrained
        outs := tmap (fun _ o => { o with grant := false }) p.outs
        refill := if mx then q.units.filter (· < 8) else [], refailed := []
        rollbacks := p.rollbacks + 1 }
where
  mxOnPage (p : Plane) : Bool := p.page.mxcfg.getLsbD 0 && (blockOf p 10).testBit 0

end Sys2Proof.Machine
end

