-- ==== Sys2Proof/Machine/PlaneEv.lean ====
section
/-! DEFINITION. The events of a placed plane: results and accumulator operations falling due, tokens arriving, knots, commits,
drains, roll-back, idle reports (R36, R42 to R52, R59 to R67, R186). -/

namespace Sys2Proof.Machine

/-- Whether the plane is its tile's active plane on a powered tile (R20, R458). -/
def isActive (s : State) (pl : Nat) : Bool :=
  let c := s.cluster (planeCluster pl)
  activePlane c == pl % 4 && !frameDue c && s.powerOf (planeTile pl) == .on

/-! ## Results (R36) -/

/-- The token of a finished work. -/
def resultTok (k : Kind) (v : Lanes) (otag : BitVec 4) : Token := kindTok k v false otag

def fillAll (p : Plane) (t : Token) (vis : Nat) : List (Nat × Nat) → Plane
  | [] => p
  | (k, id) :: r => fillAll (p.fillPlace k id t vis) t vis r

/-- NaN-to-poison of a matrix result (R108, R182). -/
def npKind (s : State) (p : Plane) (pl e slot : Nat) (k : Kind) (nan : Bool) : Kind :=
  if k.isData && nan && mxNp p.page.mxcfg then .poison (newOrigin s (planeTile pl) e slot causeNan 0xFFFF) else k

def markDone (p : Plane) (k : Nat) : Plane := { p with pend := p.pend.modify k (fun w => { w with done := true }) }

/-- The k-th pending firing of a plane where it falls due now and passes the test. -/
def dueWork (s : State) (pl k : Nat) (acc : Bool) : Option (Plane × Pend) :=
  match s.plane? pl with
  | none => none
  | some p => match p.pend[k]? with
    | none => none
    | some w => if w.done = false ∧ w.due ≤ s.planeAc pl ∧ w.work.isAcc = acc then some (p, w) else none

/-- PIPELINED_RESULT: a firing's register is written and its tokens become present (R36, R183). -/
def execPipelinedResult (pl : Nat) (k : Nat) (s : State) : Ans :=
  match dueWork s pl k false with
  | none => .next s
  | some (p, w) =>
    let vis := s.planeAc pl + 1
    match w.work with
    | .result dst kind val tag places =>
      let data := (kindTok kind val false 0).data
      let p := fillAll (markDone p k) { data := data, tag := tag } vis places
      let x := p.elem w.elem
      .next (s.setPlane pl ((if kind.isData then p.setElem w.elem (setG x dst val) else p).touch (s.planeAc pl)))
    | .mmaSouth kind job otag places =>
      let (v, nan) := if kind.isData then mxSums p.page.mxcfg job none else (0, false)
      let kind := npKind s p pl w.elem w.slot kind nan
      let q := (fillAll (markDone p k) (resultTok kind v otag) vis places).touch (s.planeAc pl)
      .next (countMac (s.setPlane pl q) p)
    | _ => .next s

/-- The row whose contents an accumulator operation reads (R476). -/
def Work.rowRead : Work → Option Nat
  | .mmaRow kind _ row _ | .acca kind _ row _ _ => if kind.isData then some row else none
  | .accd kind _ row _ _ _ _ => if kind.isData then some row else none
  | .accs row _ => some row
  | _ => none
/-- A row with an uncorrectable error poisoned by the operation that reads it (R191, R476). -/
def poisonRead (s : State) (pl : Nat) (w : Pend) (p : Plane) : Plane :=
  match w.work.rowRead with
  | none => p
  | some r =>
    if (p.row r).ue && decide (r < p.aq) then
      p.writeRow w.late r ((p.row r).poison (newOrigin s (planeTile pl) w.elem w.slot causeMemue 0xFFFF))
    else p

/-- ACC_OPERATION: an accumulator operation applies to its row, in ascending element index (R186, R191). -/
def execAccOperation (pl : Nat) (k : Nat) (s : State) : Ans :=
  match dueWork s pl k true with
  | none => .next s
  | some (p, w) =>
    if p.pend.any (fun x => !x.done && x.work.isAcc && decide (x.due < w.due ∨ (x.due = w.due ∧ x.elem < w.elem))) then .next s
    else
      let q := poisonRead s pl w (markDone p k)
      let pass := fun (q : Plane) (row qtr : Nat) (kind : Kind) (v : Lanes) =>
        let r := q.row row
        if kind.isNull || r.psn || decide (q.aq ≤ row) then q else q.writeRow w.late row (r.pass qtr kind v)
      match w.work with
      | .mmaRow kind job row qtr =>
        let (v, nan) := if kind.isData then mxSums p.page.mxcfg job (some ((q.row row).quarter qtr)) else (0, false)
        .next (countMac (s.setPlane pl (pass q row qtr (npKind s p pl w.elem w.slot kind nan) v)) p)
      | .acca kind t row qtr v =>
        let (r, nan) := if kind.isData then accAdd t ((q.row row).quarter qtr) v else (0, false)
        .next (s.setPlane pl (pass q row qtr (npKind s p pl w.elem w.slot kind nan) r))
      | .accd kind t row qtr dst otag places =>
        let r := q.row row
        let kind := if kind.isData && r.psn then .poison (r.data.setWidth 64) else kind
        let (v, nan) := if kind.isData then accRead t (r.quarter qtr) else (0, false)
        let kind := npKind s p pl w.elem w.slot kind nan
        let q := fillAll q (resultTok kind v otag) (s.planeAc pl + 1) places
        let x := q.elem w.elem
        .next (s.setPlane pl ((if kind.isData then q.setElem w.elem (setG x dst v) else q).touch (s.planeAc pl)))
      | .accz row oix => .next (s.setPlane pl (q.writeRow w.late row { data := 0, psn := false, oix := oix }))
      | .accs row d => .next (s.setPlane pl (if row = d then q else q.writeRow w.late d (q.row row)))
      | _ => .next (s.setPlane pl q)

/-! ## Tokens between tiles (R42, R64 to R67) -/

/-- The misroute record (R67). -/
def misRecord (late : Bool) (origin : Word) (vd dunit pl dch case tx ty sx sy : Nat) : Bytes :=
  bytesLE 128 (pack [(128, 1, late.toNat), (64, 64, origin.toNat), (56, 8, 3), (52, 4, vd % 16), (47, 5, dunit), (45, 2, pl % 4),
    (42, 3, dch), (40, 2, case), (30, 10, ty), (20, 10, tx), (10, 10, sy), (0, 10, sx)])

/-- The context that armed the region of a packet's sender. -/
def senderCtx (s : State) (a : Agent) : Option Nat :=
  match a with
  | .plane q => (s.plane? q).map (·.cid)
  | .ctx c => some c
  | _ => none

def raiseEvent (s : State) (c : Option Nat) (i : Nat) : State :=
  match c with
  | some c => setEvent s c i
  | none => s

/-- Why a token cannot be delivered (R66): the case, or none where it can. -/
def misrouteCase (s : State) (dpl chan fromPl fromPort : Nat) : Option Nat :=
  let pw := s.powerOf (planeTile dpl)
  if pw ≠ .on ∧ pw ≠ .clockGated then some 0
  else match s.plane? dpl with
    | none => some 1
    | some p => match tfind p.chans chan with
      | none => some 2
      | some c => if c.fed = some (fromPl, fromPort) then none else some 2

/-- Why a reply or a result cannot be delivered (R66): the case, or none where the plane's MIF has the request outstanding. -/
def replyCase (s : State) (dpl : Nat) (asked : Plane → Bool) : Option Nat :=
  let pw := s.powerOf (planeTile dpl)
  if pw ≠ .on ∧ pw ≠ .clockGated then some 0
  else match s.plane? dpl with
    | none => some 1
    | some p => if asked p then none else some 3

/-- A misroute handled by the router (R67): the credit returned to a sender that still stands, the record written to the sender's virtual device. -/
def misroute (s : State) (k : Nat) (x : Packet) (case dpl dunit dch srcFa : Nat) (credit : Option (Nat × Nat)) : State :=
  let t := planeTile dpl
  let rc := misRecord false (newOrigin s t 20 0 causeMisroute 0xFFFF) x.vd dunit dpl dch case (faX s t) (faY s t)
    (srcFa % 1024) (srcFa / 1024)
  if canRaise s x.vd rc = false then s
  else
    let s := raiseEvent (raise (s.dropPacket k) x.vd rc) (senderCtx s x.src) 2
    match credit with
    | some (fp, port) =>
      if feedStands s fp port dpl (8 * dunit + dch) = false then s
      else s.send ⟨.hub, x.vd, ownDieKey s (planeDie fp), s.ac (planeDie fp) + hops t (planeTile fp), .credit fp port dpl (8 * dunit + dch), []⟩
    | none => s

/-- A packet of the mesh that may arrive now. -/
def arriving (s : State) (k : Nat) : Option Packet :=
  match s.net[k]? with
  | none => none
  | some x => if x.die / 4 = s.posN ∧ x.earliest ≤ s.ac (x.die % 4) then some x else none

/-- A token with an uncorrectable error in a data word, poisoned by the router that held it (R475). -/
def routed (s : State) (tile : Nat) (t : Token) : Token :=
  if t.ue && !t.ctl then poisonTok (newOrigin s tile 20 0 causeMemue 0xFFFF) t.utag else { t with ue := false }

/-- A token enters its channel, or is a misroute. An earlier token of the same route goes first (R36). -/
def deliverToken (s : State) (k : Nat) : State :=
  match arriving s k with
  | none => s
  | some x => match x.body with
    | .token dpl chan fp port t =>
      let first := (s.net.take k).all (fun y => match y.body with
        | .token d c f q _ => !(d == dpl && c == chan && f == fp && q == port)
        | _ => true)
      if !first then s
      else match misrouteCase s dpl chan fp port with
        | some c => misroute s k x c dpl (chan / 8) (chan % 8) (tileFa s (planeTile fp)) (if t.mrk then none else some (fp, port))
        | none =>
          (s.dropPacket k).modPlane dpl (fun p =>
            let n := s.planeAc dpl
            let pl : Place := { id := p.nextId, tok := some (routed s (planeTile dpl) t), vis := n + 1 }
            let c := p.chan chan
            let c := if t.mrk then { c with q := c.q ++ [pl] } else c.put pl
            let p := { p.setChan chan c with nextId := p.nextId + 1 }
            if t.mrk then p else (p.addBal 1).touch n)
    | _ => s

/-- Whether a reply's place in a channel is reserved and not yet filled. -/
def Plane.placeOpen (p : Plane) (c place : Nat) : Bool := (p.chan c).q.any (fun x => x.id == place && x.tok.isNone)
/-- The result of an invocation put in the place its reply has reserved (R164, R520). -/
def fillResult (s : State) (pl c place : Nat) (otag : BitVec 4) (val : Word) (null : Bool) (psn : Option Word) (ue : Bool) :
    State :=
  s.modPlane pl (fun p =>
    let n := s.planeAc pl
    let t := if ue then poisonTok (newOrigin s (planeTile pl) 9 0 causeMemue 0xFFFF) otag
      else match psn with
        | some o => poisonTok o otag
        | none => if null then nullTok false otag else dataTok (val.setWidth 256) false otag
    ((p.setChan c ((p.chan c).fill place t (n + 1))).addBal 1).touch n)

/-- A result delivered, or a misroute where nothing asked for it (R66). -/
def deliverResult (s : State) (k : Nat) : State :=
  match arriving s k with
  | some x => match x.body with
    | .result (.chan pl c place otag) val null psn ue _ =>
      (match replyCase s pl (fun p => p.placeOpen c place) with
       | some case => misroute s k x case pl (c / 8) (c % 8) (x.srcFa s) none
       | none => fillResult (s.dropPacket k) pl c place otag val null psn ue)
    | _ => s
  | none => s

/-- A token or a result delivered. -/
def deliver (s : State) (k : Nat) : State :=
  match arriving s k with
  | some x => match x.body with
    | .token _ _ _ _ _ => deliverToken s k
    | .result _ _ _ _ _ _ => deliverResult s k
    | _ => s
  | none => s

/-- The tile to which a packet brings a token, a result or a memory reply. -/
def Packet.toTile (x : Packet) : Option Nat :=
  match x.body with
  | .token pl _ _ _ _ => some (planeTile pl)
  | .result (.chan pl _ _ _) _ _ _ _ _ => some (planeTile pl)
  | .reply pl _ _ _ _ _ => some (planeTile pl)
  | _ => none

/-- Whether a tile's router holds what arrives for it: until a clock-gated tile wakes (R64), or through an assay (R479). -/
def tileHolds (s : State) (tile : Nat) : Bool :=
  s.powerOf tile == .clockGated || s.planes.any (fun e => planeTile e.1 == tile && e.2.assay)
/-- TOKEN_ARRIVE (R42, R66). -/
def execTokenArrive (k : Nat) (s : State) : Ans :=
  match arriving s k with
  | some x => match x.toTile with
    | some t => if tileHolds s t then .next s else .next (deliver s k)
    | none => .next s
  | none => .next s

/-- The first packet from index i on that is for the tile and may arrive, on fuel. -/
def nextToken (s : State) (tile : Nat) : Nat → Nat → Option Nat
  | 0, _ => none
  | f + 1, i =>
    match arriving s i with
    | some x => if x.toTile = some tile then some i else nextToken s tile f (i + 1)
    | none => nextToken s tile f (i + 1)
/-- The held tokens of a tile delivered in arrival order; a memory reply waits for its own event. -/
def deliverHeld (tile : Nat) : Nat → State → State
  | 0, s => s
  | f + 1, s =>
    match nextToken s tile s.net.length 0 with
    | none => s
    | some i =>
      let t := deliver s i
      if t.net.length < s.net.length then deliverHeld tile f t else s

/-- The planes of a tile. -/
def tilePlanes (s : State) (tile : Nat) : List Nat := (List.range 4).filterMap (fun i =>
  if (s.plane? (4 * tile + i)).isSome then some (4 * tile + i) else none)
/-- A clock-gated tile switched on; a wake counts as a transfer (R64). -/
def wakeTile (s : State) (tile : Nat) : State :=
  if s.powerOf tile = .clockGated then
    (tilePlanes s tile).foldl (fun s pl => s.modPlane pl (fun p => p.touch (s.planeAc pl))) (s.setPower tile .on)
  else s
/-- TILE_WAKE (R64). -/
def execTileWake (tile : Nat) (s : State) : Ans :=
  if s.powerOf tile = .clockGated ∧ tileHolds (s.setPower tile .on) tile = false ∧ (nextToken s tile s.net.length 0).isSome then
    let s := wakeTile s tile
    .next (deliverHeld tile s.net.length s)
  else .next s

/-- A plane's waiting exit tokens sent as far as credit allows; one that leaves a clock-gated tile wakes it, for the transfer ends the
standing of its idle report (R60, R64; log entry 8). -/
def drainWake (s : State) (pl : Nat) : State :=
  let t := drainOuts false s pl
  if s.powerOf (planeTile pl) = .clockGated ∧ s.net.length < t.net.length then drainOuts false (wakeTile s (planeTile pl)) pl else t

/-- Whether an output leads to a channel of a plane. -/
def Out.leadsTo (o : Out) (dpl chan : Nat) : Bool :=
  o.plane == some dpl && (match o.dest with | .exit _ c _ => c == chan | .loc _ => false)

/-- CREDIT_RETURN (R42): an entry freed at the destination is free space for its producer. A credit of a route that no longer
stands changes nothing (R24). -/
def execCreditReturn (k : Nat) (s : State) : Ans :=
  match arriving s k with
  | some x => match x.body with
    | .credit pl port dpl chan =>
      .next (drainWake ((s.dropPacket k).modPlane pl (fun p => match tfind p.outs port with
        | some o => if o.leadsTo dpl chan then { p with outs := tset p.outs port { o with credit := o.credit + 1 } } else p
        | none => p)) pl)
    | _ => .next s
  | none => .next s

/-! ## Knots (R44 to R50) -/

/-- Whether the unit may take an open or due knot without an input to bring it (R44, R48, R50). -/
def joinsKnot (p : Plane) (u : Nat) : Bool :=
  (p.fwdInputs u).isEmpty && !mifFed p u && u != 9 &&
  (match p.knot with
   | some k => !k.drain && (decide (u < 8) || k.implicit || kivDue p u || !closedSource p u)
   | none => decide (8 ≤ u) && kivDue p u)

/-- Whether a source takes the open knot before anything more (R44, R48). -/
def mustJoin (p : Plane) (u : Nat) : Bool :=
  p.knot.isSome && !afterKnot p u && joinsKnot p u && (p.backInputs u).all (fun k => (p.chan k).q.all (fun x => !x.plain || x.tok.isNone))

/-- KNOT_TAKE (R44): a knot whose conditions hold is taken ahead of any slot (log entry 16). -/
def execKnotTake (pl : Nat) (unit : Nat) (s : State) : Ans :=
  match s.plane? pl with
  | none => .next s
  | some p =>
    let n := s.planeAc pl
    if isActive s pl && p.units.contains unit && knotReady p unit n &&
        ((inputsKnot p unit n && !inputsDrain p unit n) || joinsKnot p unit) then
      .next (takeKnot s pl unit false)
    else .next s

/-- BACK_EDGE_KNOT_DISCARD (R44). -/
def execBackEdgeKnotDiscard (pl : Nat) (unit : Nat) (ch : Nat) (s : State) : Ans :=
  match s.plane? pl with
  | none => .next s
  | some p =>
    let k := 8 * unit + ch
    if isActive s pl && (p.backInputs unit).contains k && !p.stopped.contains unit && headKnot p (s.planeAc pl) k then
      .next (dequeue s pl k)
    else .next s

/-- KNOT_COMMIT (R46). -/
def execKnotCommit (pl : Nat) (s : State) : Ans :=
  match s.plane? pl with
  | none => .next s
  | some p =>
    if knotComplete p (s.planeAc pl) && !p.cutDone && !p.assay then .next (tryRetire (commitGroup s pl false) pl)
    else .next s

/-- Whether a threshold of R48 is reached: what the open groups hold, pre-images that have been placed among it (R192). -/
def implicitDue (p : Plane) : Bool :=
  decide (4096 ≤ sumBy p.heldBytes p.held) ||
  decide (64 ≤ sumBy (fun h => h.fx.remote) p.held) ||
  p.chans.any (fun e => e.2.entry && decide (128 ≤ e.2.replay.length)) ||
  p.held.any (fun h => match h.fx with
    | .fx (.invoke _) _ | .fx (.vamo _ _ _ _) _ => true
    | _ => false)

/-- The output that feeds an entry. -/
def feedOf (s : State) (c : Chan) : Option (Nat × Plane × Nat × Out) :=
  match c.fed with
  | none => none
  | some (fp, port) => match s.plane? fp with
    | none => none
    | some p => (tfind p.outs port).map (fun o => (fp, p, port, o))
/-- Whether an entry has room for a knot that the device injects: the knot takes an ordinary entry (R44), one that its producer may
not fill any more (log entry 61). -/
def entryRoom (s : State) (c : Chan) (n : Nat) : Bool :=
  c.free n && (match feedOf s c with | some (_, _, _, o) => decide (0 < o.credit) | none => true)
/-- The entry taken from its producer's credit. -/
def takeEntry (s : State) (c : Chan) : State :=
  match feedOf s c with
  | some (fp, p, port, o) => s.setPlane fp { p with outs := tset p.outs port { o with credit := o.credit - 1 } }
  | none => s
/-- The entries of a region at which the device injects knots. -/
def Plane.entries (p : Plane) : List (Nat × Chan) := p.chans.filter (fun e => e.2.entry && !e.2.back)

/-- IMPLICIT_KNOT (R48): the device injects a knot at every entry of the region once each has room; sources take it by
KNOT_TAKE. -/
def execImplicitKnot (pl : Nat) (s : State) : Ans :=
  match s.plane? pl with
  | none => .next s
  | some p =>
    let n := s.planeAc pl
    if p.knot.isNone && implicitDue p && p.armed && !p.retiring && p.stopped.isEmpty && !p.assay &&
        p.entries.all (fun e => entryRoom s e.2 n) then
      let inject := fun (p : Plane) (e : Nat × Chan) =>
        (p.setChan e.1 (e.2.put { id := 0, tok := some (knotTok false), vis := n + 1 })).addBal 1
      let s := p.entries.foldl (fun s e => takeEntry s e.2) s
      .next (s.modPlane pl (fun p =>
        { p.entries.foldl inject p with knot := some { drain := false, taken := [], implicit := true } }.touch n))
    else .next s

/-! ## Drains (R49, R50) -/

def secOf (s : State) (p : Plane) : Section := tget (s.ctx p.cid).secs p.sec {}

/-- Whether a channel is fed by an open source. -/
def fedByOpen (s : State) (p : Plane) (k : Nat) : Bool :=
  p.outs.any (fun o => o.2.dest == .loc k && openSource p (o.1 / 8)) ||
  (match (p.chan k).fed with
   | some (fp, port) => (match s.plane? fp with | some q => openSource q (port / 8) | none => false)
   | none => false)

/-- Whether a channel holds a drain behind data-class tokens or at its head. -/
def holdsDrain (c : Chan) : Bool := c.q.any (fun x => match x.tok with | some t => t.drn | none => false)

/-- Surplus tokens of an input fed by an open source, ahead of its drain, leave without a record (R50). -/
def dropSurplus (pl k : Nat) : Nat → State → State
  | 0, s => s
  | f + 1, s =>
    match s.plane? pl with
    | none => s
    | some p => match (p.chan k).first with
      | some t => if t.ctl then s else dropSurplus pl k f (dequeue s pl k)
      | none => s

/-- Whether every forward input of a unit holds a drain at its head, but for those fed by open sources that hold tokens ahead
of one. -/
def surplusDrain (s : State) (p : Plane) (u n : Nat) : Bool :=
  !(p.fwdInputs u).isEmpty &&
  (p.fwdInputs u).all (fun k => headDrain p n k || (fedByOpen s p k && headData p n k && holdsDrain (p.chan k))) &&
  (!mifFed p u || frontDrain p.agq)

/-- DRAIN_TAKE (R49, R50): from the inputs, with the surplus rule; or a closed source after its pattern. -/
def execDrainTake (pl : Nat) (unit : Nat) (s : State) : Ans :=
  match s.plane? pl with
  | none => .next s
  | some p =>
    let n := s.planeAc pl
    let noPlain := match p.knot with | some k => k.drain | none => true
    if !(isActive s pl && p.units.contains unit && knotReady p unit n) then .next s
    else if inputsKnot p unit n && inputsDrain p unit n then .next (takeKnot s pl unit true)
    else if p.draining && surplusDrain s p unit n then
      let s := (p.fwdInputs unit).foldl (fun s k => dropSurplus pl k (p.chan k).q.length s) s
      .next (takeKnot s pl unit true)
    else if p.draining && closedSource p unit && patternDone p unit && noPlain && !kivDue p unit then .next (takeKnot s pl unit true)
    else .next s

/-- LATE_TOKEN_DISCARD (R49, R67): a data-class token behind the drain, with a LATE record. -/
def execLateTokenDiscard (pl : Nat) (unit : Nat) (ch : Nat) (s : State) : Ans :=
  match s.plane? pl with
  | none => .next s
  | some p =>
    let k := 8 * unit + ch
    let t := planeTile pl
    let src := match (p.chan k).fed with | some (fp, _) => planeTile fp | none => t
    let rc := misRecord true (newOrigin s t unit 0 causeMisroute 0xFFFF) p.vd unit pl ch 0 (faX s t) (faY s t) (faX s src)
      (faY s src)
    if p.drained.contains unit && (p.inputs unit).contains k && headData p (s.planeAc pl) k && canRaise s p.vd rc then
      .next (setEvent (raise (dequeue s pl k) p.vd rc) p.cid 2)
    else .next s

/-- Whether every forward input of every unit that an open source's outputs feed, other than inputs fed by open sources,
holds a drain at its head (R50). -/
def targetsDrained (s : State) (p : Plane) (pl u : Nat) : Bool :=
  (p.outputs u).all (fun k =>
    match tfind p.outs k with
    | none => true
    | some o =>
      let (q, qpl, c) := match o.dest, o.plane with
        | .loc c, _ => (some p, pl, c)
        | .exit _ c _, some d => (s.plane? d, d, c)
        | .exit _ c _, none => (none, pl, c)
      match q with
      | none => false
      | some q => (q.fwdInputs (c / 8)).all (fun i => fedByOpen s q i || headDrain q (s.planeAc qpl) i))

/-- The surplus tokens of a unit's full local destinations dropped, so that its drain has room (R50, log entry 33). -/
def makeRoom (s : State) (pl : Nat) (p : Plane) (unit : Nat) : State :=
  (p.outputs unit).foldl (fun s k => match tfind p.outs k with
    | some o => (match o.dest with
      | .loc c => if knotRoom p (s.planeAc pl) k then s else dropSurplus pl c (p.chan c).q.length s
      | .exit _ _ _ => s)
    | none => s) s

/-- OPEN_SOURCE_DRAIN (R50). A drain that falls due wakes a clock-gated tile. -/
def execOpenSourceDrain (pl : Nat) (unit : Nat) (s0 : State) : Ans :=
  match s0.plane? pl with
  | none => .next s0
  | some p =>
    let sec := secOf s0 p
    let closedDone := sec.planes.all (fun q => match s0.plane? q with
      | some x => x.units.all (fun u => !closedSource x u || x.drained.contains u)
      | none => true)
    let noPlain := match p.knot with | some k => k.drain | none => true
    let s := if s0.powerOf (planeTile pl) = .clockGated then s0.setPower (planeTile pl) .on else s0
    if isActive s pl && openSource p unit && p.draining && (sec.closed || p.drainNamed) && closedDone && noPlain &&
        targetsDrained s p pl unit then
      let t := makeRoom s pl p unit
      match t.plane? pl with
      | some q => if knotReady { q with chans := tmap (fun _ c => { c with freed := 0 }) q.chans } unit (s.planeAc pl)
          then .next (takeKnot t pl unit true) else .next s0
      | none => .next s0
    else .next s0

/-! ## Progress (R60 to R62) -/

/-- One channel entry of a STUCK record (R62). An operator with a knot at the head of an input stands at it (R352). -/
def stuckEntry (s : State) (pl : Nat) (p : Plane) (k : Nat) (c : Chan) : Nat :=
  let n := s.planeAc pl
  let t := planeTile pl
  let u := k / 8
  let names := fun (f : EFields) => f.inrdy.getLsbD (k % 8) || f.deq.getLsbD (k % 8) || (f.tmask != 0 && f.tch.val == k % 8)
  let fails := if u < 8 then (List.range 16).filterMap (fun j => match p.slotInstr u j with
    | none => none
    | some i => match i.fields? with
      | none => none
      | some f => if names f then (slotFails p u n i f).map (fun w => (j, w)) else none)
    else []
  let knotted := decide (8 ≤ u) && ((p.inputs u).any (headKnot p n) || (mifFed p u && frontKnot p.agq))
  pack [(118, 10, faX s t), (108, 10, faY s t), (106, 2, pl % 4), (101, 5, u), (98, 3, k % 8), (87, 11, (c.q.filter (fun x => x.tok.isSome)).length),
    (71, 16, match c.first with | some t => t.tag.toNat | none => 0),
    (55, 16, sumBy (fun x => 2 ^ x.1) fails), (52, 3, (fails.head?.map (·.2)).getD (if knotted then 5 else 0))]

def chanNonEmpty (c : Chan) : Bool := c.q.any (fun x => x.tok.isSome)

/-- The STUCK record of a context (R61, R62, R455). -/
def stuckRecord (s : State) (cid : Nat) : Bytes :=
  let c := s.ctx cid
  let t := clusterTile (ctxCluster cid)
  let vd := c.vd.getD 0
  let all := s.planes.flatMap (fun e => if e.2.cid = cid ∧ e.2.armed = true then
    (e.2.chans.filter (fun x => chanNonEmpty x.2)).map (fun x => stuckEntry s e.1 e.2 x.1 x.2) else [])
  let cap := match s.vd? vd with | some v => 8 * fqSlots v - 1 | none => 255
  let l := all.take (min 255 cap)
  let head := pack [(118, 10, faX s t), (108, 10, faY s t), (56, 8, 2), (52, 4, vd), (49, 3, cid % 8),
    (48, 1, if l.length < all.length then 1 else 0), (40, 8, l.length), (0, 32, wrap 32 c.bal)]
  bytesLE 16 head ++ l.flatMap (bytesLE 16)

/-- The STUCK record of a context written where its condition holds, and the event STUCK; it waits where the fault queue can
hold no further record. -/
def reportStuck (s : State) (cid : Nat) : State :=
  let rc := stuckRecord s cid
  let vd := (s.ctx cid).vd.getD 0
  if !isStuck s cid then s.modCtx cid (fun c => { c with stuckDue := false })
  else if canRaise s vd rc then setEvent ((raise s vd rc).modCtx cid (fun c => { c with stuckDue := false })) cid 1
  else s.modCtx cid (fun c => { c with stuckDue := true })

/-- IDLE_REPORT (R60, R61): the plane's change of balance goes to the context, which writes a STUCK record where its condition
holds; a tile whose planes are all idle is clock-gated (R64, R458). -/
def execIdleReport (pl : Nat) (s : State) : Ans :=
  match s.plane? pl with
  | none => .next s
  | some p =>
    if p.idleSent || decide (p.idle < 4096) then .next s
    else
      let s := s.setPlane pl { p with idleSent := true, bal := 0 }
      let s := reportStuck (s.modCtx p.cid (fun c => c.addBal p.bal)) p.cid
      if (tilePlanes s (planeTile pl)).all (fun q => match s.plane? q with | some x => x.idleSent | none => true) then
        .next (s.setPower (planeTile pl) .clockGated)
      else .next s

end Sys2Proof.Machine
end

