-- ==== Sys2Proof/Machine/Operators.lean ====
section
/-! DEFINITION. The operators of a plane other than the MIF's memory path (R251 to R291) and the refill of weights (R193). -/

namespace Sys2Proof.Machine

/-! ## Common rules (R251 to R254) -/

def fld (p : Plane) (u lo n : Nat) : Nat := bits (blockOf p u) lo n
def fbit (p : Plane) (u i : Nat) : Bool := (blockOf p u).testBit i

/-- A step of operator u of a plane where it may take one (R253): k gives the state after the step's own effect, or none where
the step is not ready. -/
def runOp (pl u : Nat) (s : State) (k : Plane → Nat → Option State) : Ans :=
  match s.plane? pl with
  | none => .next s
  | some p =>
    let n := s.planeAc pl
    if isActive s pl && p.units.contains u && unitFree p u n && !kivDue p u && !mustJoin p u then
      match k p n with
      | some s => .next (s.modPlane pl (fun p => { p.touch n with firedAt := tset p.firedAt u (n + 1) }))
      | none => .next s
    else .next s

/-- The head of an operator's input when it is data-class (R253). -/
def opHead (p : Plane) (u i n : Nat) : Option Token :=
  match p.head (8 * u + i) n with
  | some t => if t.ctl then none else some t
  | none => none

/-- A token an operator produces: RPL is 0 (R254). -/
def clearRpl (t : Token) : Token := { t with tag := t.tag &&& 0xF7FF }
/-- A token sent on a port, present at the end of ac n + L - 1 (R253). -/
def sendOp (p : Plane) (u port n lat : Nat) (t : Token) : Plane :=
  p.enqueue (8 * u + port) (some (clearRpl t)) (n + lat) (afterKnot p u)
def opRoom (p : Plane) (u port n : Nat) : Bool := p.outReady (8 * u + port) n
/-- Room for a token on each of two ports in one step: the commit buffer takes both (R48). -/
def opRoom2 (p : Plane) (u a b n : Nat) : Bool :=
  let bytes := p.exitBytes [8 * u + a, 8 * u + b]
  opRoom p u a n && opRoom p u b n && (bytes == 0 || p.room bytes 0)

/-- The kind of a list of tokens in the order of R254. -/
def kindOfToks (l : List Token) : Kind := kindOf (l.map some)
/-- Two kinds of tokens that contribute to one output, the earlier first (R254). -/
def Kind.join : Kind → Kind → Kind
  | .null, _ => .null
  | _, .null => .null
  | .poison o, _ => .poison o
  | .data, k => k
/-- The origin of a poison that operator u of a plane creates (R254). -/
def opOrigin (s : State) (pl u cause row : Nat) : Word := newOrigin s (planeTile pl) u 0 cause row

def toksHead (p : Plane) (u n : Nat) (l : List Nat) : Option (List Token) := l.mapM (fun i => opHead p u i n)

/-! ## STEER and MERGE (R272, R273) -/

/-- STEER_STEP (R272). -/
def execSteerStep (pl : Nat) (s : State) : Ans :=
  runOp pl 11 s (fun p n =>
    match opHead p 11 0 n, opHead p 11 1 n with
    | some d, some c =>
      if !opRoom2 p 11 0 1 n then none
      else
        let left := (if p.ops.steer = 0 then fld p 11 40 8 + 1 else p.ops.steer) - 1
        let cond := if fld p 11 2 2 = 0 then c.data.setWidth 32 != 0 else c.utag.getLsbD 0
        let nul := nullTok false d.utag
        let (a, b) :=
          if c.nul then (nul, nul)
          else if c.psn then (poisonTok c.origin d.utag, poisonTok c.origin d.utag)
          else if cond != fbit p 11 1 then (d, nul) else (nul, d)
        let s := dequeueAll s pl (88 :: (if left = 0 then [89] else []))
        some (s.modPlane pl (fun p =>
          let p := sendOp (sendOp p 11 0 n 1 a) 11 1 n 1 b
          { p with ops := { p.ops with steer := left } }))
    | _, _ => none)

/-- MERGE_STEP (R273). -/
def execMergeStep (pl : Nat) (s : State) : Ans :=
  runOp pl 12 s (fun p n =>
    match opHead p 12 0 n, opHead p 12 1 n with
    | some a, some b =>
      let out := if a.nul && b.nul then (if fbit p 12 1 then none else some (nullTok false a.utag))
        else if a.nul then some b else some a
      match out with
      | none => some (dequeueAll s pl [96, 97])
      | some t => if opRoom p 12 0 n then some ((dequeueAll s pl [96, 97]).modPlane pl (fun p => sendOp p 12 0 n 1 t)) else none
    | _, _ => none)

/-! ## SCALE (R275, R276) -/

def rndAt (v : Nat) : Rnd :=
  match v with
  | 0 => .rne | 1 => .rtz | 2 => .rup | 3 => .rdn | _ => .rsr
def fmtAt (v : Nat) : Fmt := (fltOf (v % 4)).fmt

/-- The scaled value token of R276. -/
def scaleVal (p : Plane) (e : Nat) (v : Lanes) : Lanes :=
  let f := fmtAt (fld p 13 20 4)
  let k : Int := if fbit p 13 13 then 127 - (e : Int) else (e : Int) - 127
  ofVals f.w ((vals f.w v).map (fun x =>
    if e = 255 then f.nan else round f (rndAt (fld p 13 17 3)) (fbit p 13 16) 0 0 (FVal.scaleBy k (f.decode x))))

/-- SCALE_STEP (R276). -/
def execScaleStep (pl : Nat) (s : State) : Ans :=
  runOp pl 13 s (fun p n =>
    let src := fbit p 13 12
    match opHead p 13 0 n, (if src then opHead p 13 1 n else some (nullTok false 0)) with
    | some v, some c =>
      if !opRoom p 13 0 n then none
      else
        let per := fld p 13 24 8 + 1
        let t := p.ops.scale
        let e := if src then bits c.data.toNat (8 * (t / per)) 8 else fld p 13 32 8
        let kind := kindOfToks (if src then [v, c] else [v])
        let sop := fld p 13 14 2
        let scl := if sop = 0 then v.scl else sop = 2
        let last := t + 1 = 32 * per
        let s := dequeueAll s pl (104 :: (if src && last then [105] else []))
        some (s.modPlane pl (fun p =>
          let p := sendOp p 13 0 n 2 (kindTokS kind (scaleVal p e v.data) scl v.utag)
          { p with ops := { p.ops with scale := if last then 0 else t + 1 } }))
    | _, _ => none)

/-! ## BFLY (R277, R278) -/

/-- One stage of the transform over a list of values. -/
def bflyStage (add sub : Nat → Nat → Nat) (st : Nat) (x : List Nat) : List Nat :=
  (List.range x.length).map (fun i =>
    let j := i ^^^ 2 ^ st
    if i.testBit st then sub (x.getD j 0) (x.getD i 0) else add (x.getD i 0) (x.getD j 0))
/-- The unnormalised transform of one block (R278). -/
def bflyBlock (ty stg : Nat) (x : List Nat) : List Nat :=
  let (add, sub) : (Nat → Nat → Nat) × (Nat → Nat → Nat) :=
    if ty = 2 then (fun a b => (a + b) % 2 ^ 32, fun a b => (a + 2 ^ 32 - b) % 2 ^ 32)
    else (fadd (fmtAt ty) .rne 0, fsub (fmtAt ty) .rne 0)
  (List.range stg).foldl (fun x st => bflyStage add sub st x) x
def splitEvery (n : Nat) : Nat → List Nat → List (List Nat)
  | 0, _ => []
  | f + 1, l => if l = [] then [] else l.take n :: splitEvery n f (l.drop n)

/-- The SCL that every token of a list carries; 0 where they differ or there is none. -/
def commonScl (l : List Token) : Bool := !l.isEmpty && l.all Token.scl
/-- The tokens a full block gives. -/
def bflyOuts (s : State) (pl : Nat) (p : Plane) (l : List Token) : List Token :=
  let ty := fld p 14 12 4
  let stg := fld p 14 6 3
  let w := if ty = 2 then 32 else (fmtAt ty).w
  let xs := l.flatMap (fun t => vals w t.data)
  let ys := (splitEvery (2 ^ stg) xs.length xs).flatMap (bflyBlock ty stg)
  let outs := splitEvery (256 / w) ys.length ys
  let scl := commonScl l
  let kind := kindOfToks l
  let kind := if kind.isData && l.any (fun t => t.scl != scl) then .poison (opOrigin s pl 14 causeScale 0xFFFF) else kind
  (l.zip outs).map (fun x => kindTokS kind (ofVals w x.2) scl x.1.utag)

/-- BFLY_STEP (R278): a token of the finished block leaves and the next input token is taken, as far as each may. DESIGN CHOICE (log
entry 105): the block's last token asks for one free entry, its other outputs take entries one in each later ac, and while an output of
a finished block has none no token of the next block is taken. -/
def execBflyStep (pl : Nat) (s : State) : Ans :=
  runOp pl 14 s (fun p n =>
    let stg := fld p 14 6 3
    let w := if fld p 14 12 4 = 2 then 32 else (fmtAt (fld p 14 12 4)).w
    let need := max 1 (2 ^ stg / (256 / w))
    let room := opRoom p 14 0 n
    let take := fun (p : Plane) (outs : List Token) (sent : Bool) (s : State) =>
      match opHead p 14 0 n with
      | none => if sent then some s else none
      | some t =>
        let l := p.ops.bflyIn ++ [t]
        if l.length < need then
          some ((dequeue s pl 112).modPlane pl (fun p => { p with ops := { p.ops with bflyIn := l } }))
        else if outs = [] ∧ sent = false ∧ room = true then
          let os := bflyOuts s pl p l
          some ((dequeue s pl 112).modPlane pl (fun p =>
            let p := sendOp p 14 0 n (stg + 1) (os.headD (nullTok false 0))
            { p with ops := { p.ops with bflyIn := [], bflyOut := os.drop 1 } }))
        else if sent then some s else none
    match p.ops.bflyOut with
    | [] => take p [] false s
    | t :: r =>
      if !room then none
      else
        let q := sendOp p 14 0 n (stg + 1) t
        let q := { q with ops := { q.ops with bflyOut := r } }
        take q r true (s.setPlane pl q))

/-! ## CONV (R279 to R281) -/

def tyAt (v : Nat) : Ty := (tyOf v).getD .n8
def convDty (p : Plane) : Ty := tyAt (fld p 15 28 4)
def convSty (p : Plane) : Ty := tyAt (fld p 15 24 4)
def convRsr (p : Plane) : Bool := fld p 15 21 3 == 4

/-- The scale byte of a block (R281). -/
def blockScale (f : Fmt) (emx : Int) (xs : List Nat) : Nat :=
  let vs := xs.map f.decode
  if vs.any (fun v => match v with | .fin _ _ _ => false | _ => true) then 255
  else
    let es := vs.filterMap (fun v => match v with
      | .fin _ m e => if m = 0 then none else some (e + (Nat.log2 m : Int))
      | _ => none)
    match es with
    | [] => 127
    | e :: r => (clamp 0 254 (r.foldl max e - emx + 127)).toNat
/-- The values of a quantised block; each entry of xs is a value with its random field above bit 64. -/
def quantVals (p : Plane) (e : Nat) (xs : List Nat) : List Nat :=
  let f := (convDty p).fmt.getD fmtE4M3
  let g := (convSty p).fmt.getD fmtF32
  xs.map (fun x => if e = 255 then f.nan else
    round f (rndAt (fld p 15 21 3)) (fbit p 15 20) (x / 2 ^ 64) (rsrBits g.w)
      (FVal.scaleBy (127 - (e : Int)) (g.decode (x % 2 ^ 64))))

/-- The destination tokens that the values pending fill, all in one step (R253); without QUANT. None where one of them has no
room. -/
def convEmit (s : State) (pl n : Nat) : Nat → Plane → Option Plane
  | 0, p => some p
  | f + 1, p =>
    let d := convDty p
    let nd := 256 / d.width
    let c := p.ops.conv
    if c.vals.length < nd then some p
    else if !opRoom p 15 0 n then none
    else
      let vs := c.vals.take nd
      let nan := match d.fmt with | some f => vs.any f.isNan | none => false
      let kind := if c.kind.isData && nan && fbit p 15 19 then .poison (opOrigin s pl 15 causeNan (c.row % 65535)) else c.kind
      let q := sendOp p 15 0 n 4 (kindTokS kind (ofVals d.width vs) c.scl c.utag)
      convEmit s pl n f { q with ops := { q.ops with conv := { c with vals := c.vals.drop nd } } }

/-- One destination token and its scale byte when 32 values stand pending (R281); a full or closing scale token leaves. -/
def quantEmit (s : State) (pl n : Nat) (p : Plane) (closes : Bool) : Option Plane :=
  let c := p.ops.conv
  if c.vals.length < 32 then some p
  else
    let f := (convDty p).fmt.getD fmtE4M3
    let g := (convSty p).fmt.getD fmtF32
    let e := blockScale g (if f.e4m3 then 8 else 15) (c.vals.map (· % 2 ^ 64))
    let vs := quantVals p e c.vals
    let kind := if c.kind.isData && vs.any f.isNan && fbit p 15 19 then .poison (opOrigin s pl 15 causeNan (c.row % 65535))
      else c.kind
    let scales := c.scales ++ [if kind.isData then e else 255]
    let full := closes || scales.length == 32
    if !opRoom p 15 0 n || (full && !opRoom2 p 15 0 1 n) then none
    else
      let q := sendOp p 15 0 n 4 (kindTokS kind (ofVals 8 vs) (fbit p 15 17) c.utag)
      let q := if full then sendOp q 15 1 n 4 (dataTok (ofVals 8 (scales ++ List.replicate (32 - scales.length) 0)) false 0) else q
      some { q with ops := { q.ops with conv := { c with vals := [], scales := if full then [] else scales } } }

/-- CONV_STEP (R280, R281): the next source token is taken, and what it completes leaves. -/
def execConvStep (pl : Nat) (s : State) : Ans :=
  runOp pl 15 s (fun p n =>
      let rsr := convRsr p
      match opHead p 15 0 n, (if rsr then opHead p 15 1 n else some (nullTok false 0)) with
      | some v, some r =>
        let st := convSty p
        let d := convDty p
        let w := st.width
        let quant := fbit p 15 18
        let c := p.ops.conv
        let src := (List.range (256 / w)).map (fun j =>
          let x := valAt w v.data.toNat j
          let rnd := if rsr then rndField w r.data j else 0
          if quant then x + 2 ^ 64 * rnd else conv d st (rndAt (fld p 15 21 3)) (fbit p 15 20) rnd x)
        let first := c.vals.isEmpty
        let pos := c.pos + 256 / w
        let closes := pos == 32 * fld p 15 32 16
        let k := kindOfToks [v]
        let c' : ConvSt := { c with
          vals := c.vals ++ src, pos := if closes then 0 else pos,
          kind := if first then k else c.kind.join k, scl := if first then v.scl else c.scl || v.scl,
          utag := if first then v.utag else c.utag }
        let s := dequeueAll s pl (120 :: (if rsr then [121] else []))
        match s.plane? pl with
        | none => none
        | some q =>
          let q := { q with ops := { q.ops with conv := c' } }
          let res := if quant then quantEmit s pl n q closes else convEmit s pl n 32 q
          res.map (fun q => s.setPlane pl
            (if closes then { q with ops := { q.ops with conv := { q.ops.conv with row := c.row + 1 } } } else q))
      | _, _ => none)

/-! ## RED (R282, R283) -/

def redOpAt (v : Nat) : RedOp :=
  match v with
  | 0 => .add | 1 => .min | 2 => .max | 3 => .and | 4 => .or | _ => .xor

/-- The result of one reduction over its operands in index order (R283). DESIGN CHOICE (log entry 27): an all-null result under NSKIP
takes the UTAG of the first token, and SCL 0. -/
def redResult (s : State) (pl : Nat) (p : Plane) (l : List Token) : Token :=
  let ty := tyAt (fld p 16 20 4)
  let o := redOpAt (fld p 16 17 3)
  let row := p.ops.redNo % 65535
  let kept := if fbit p 16 15 then l.filter (fun t => !t.nul) else l
  let utag := ((if kept.isEmpty then l else kept).head?.map Token.utag).getD 0
  let scl := commonScl kept
  let kind := if kept.isEmpty then .null else kindOfToks kept
  let differ := kept.any (fun t => t.scl != scl)
  let v := ofVals ty.width (pairwise (List.zipWith (combine o ty)) [] (kept.map (fun t => vals ty.width t.data)))
  let nan := match ty.fmt with | some f => anyNan f v | none => false
  let kind := if kind.isData && differ then .poison (opOrigin s pl 16 causeScale row)
    else if kind.isData && fbit p 16 16 && nan then .poison (opOrigin s pl 16 causeNan row) else kind
  kindTokS kind v scl utag

/-- RED_STEP (R283). -/
def execRedStep (pl : Nat) (s : State) : Ans :=
  runOp pl 16 s (fun p n =>
    let g := fld p 16 24 8 + 1
    let total := g * (fld p 16 12 3 + 1)
    let i := p.ops.red.length / g
    match opHead p 16 i n with
    | none => none
    | some t =>
      let l := p.ops.red ++ [clearRpl t]
      if l.length < total then
        some ((dequeue s pl (128 + i)).modPlane pl (fun p => { p with ops := { p.ops with red := l } }))
      else if !opRoom p 16 0 n then none
      else
        let out := redResult s pl p l
        some ((dequeue s pl (128 + i)).modPlane pl (fun p =>
          let p := sendOp p 16 0 n 4 out
          { p with ops := { p.ops with red := [], redNo := p.ops.redNo + 1 } })))

/-! ## MASK (R284, R285) -/

/-- An entry of the table: an empty root of its own where none was loaded. -/
def maskEntry (t : Tab (BitVec 32)) (i : Nat) : Nat := (tget t i (BitVec.ofNat 32 (0xFFFFFF00 + i))).toNat
/-- The cache positions visible from node n, on fuel: at most 256 steps. -/
def maskWalk (t : Tab (BitVec 32)) : Nat → Nat → List Nat
  | 0, _ => []
  | f + 1, n =>
    let e := maskEntry t n
    let pos := e / 256
    if pos = 0xFFFFFF then [] else pos :: (if e % 256 = n then [] else maskWalk t f (e % 256))
/-- The mask of R285 for node n and window base w under prefix length pfx. -/
def maskBits (t : Tab (BitVec 32)) (pfx n w : Nat) : Lanes :=
  let ps := maskWalk t 256 n
  BitVec.ofNat 256 (sumBy (fun b => if w + b < pfx ∨ ps.contains (w + b) = true then 2 ^ b else 0) (List.range 256))

/-- Whether a query asks for a reload first. -/
def asksReload (t : Token) : Bool := !t.nul && !t.psn && t.data.getLsbD 8

/-- MASK_RELOAD (R285): one table token, while a query with RELOAD stands at the head. -/
def execMaskReload (pl : Nat) (s : State) : Ans :=
  runOp pl 17 s (fun p n =>
    match opHead p 17 1 n, opHead p 17 0 n with
    | some q, some t =>
      let left := p.ops.maskLeft.getD 32
      if !asksReload q || left = 0 then none
      else
        let k := 32 - left
        let tab := if t.nul || t.psn then p.ops.maskT
          else (List.range 8).foldl (fun m i => tset m (8 * k + i) (t.data.extractLsb' (32 * i) 32)) p.ops.maskT
        let psn := if left = 32 then none else p.ops.maskPsn
        let psn := if t.nul then psn else if t.psn then (match psn with | some o => some o | none => some t.origin) else psn
        some ((dequeue s pl 136).modPlane pl (fun p =>
          { p with ops := { p.ops with maskT := tab, maskPsn := psn, maskLeft := some (left - 1) } }))
    | _, _ => none)

/-- MASK_QUERY (R285); its latency is the bound of R253. -/
def execMaskQuery (pl : Nat) (s : State) : Ans :=
  runOp pl 17 s (fun p n =>
    match opHead p 17 1 n with
    | none => none
    | some q =>
      if (asksReload q && p.ops.maskLeft != some 0) || !opRoom p 17 0 n then none
      else
        let kind := if q.nul then .null else if q.psn then .poison q.origin
          else match p.ops.maskPsn with | some o => .poison o | none => .data
        let d := q.data.toNat
        let m := maskBits p.ops.maskT (fld p 17 16 32) (bits d 0 8) (bits d 32 32)
        some ((dequeue s pl 137).modPlane pl (fun p =>
          let p := sendOp p 17 0 n 34 (kindTok kind m false q.utag)
          { p with ops := { p.ops with maskLeft := none } })))

/-! ## RNG (R286 to R288) -/

def philoxRound (k : Nat × Nat) (c : Nat × Nat × Nat × Nat) : Nat × Nat × Nat × Nat :=
  let (c0, c1, c2, c3) := c
  let p0 := 0xD2511F53 * c0
  let p1 := 0xCD9E8D57 * c2
  ((p1 / 2 ^ 32) ^^^ c1 ^^^ k.1, m32 p1, (p0 / 2 ^ 32) ^^^ c3 ^^^ k.2, m32 p0)
def philoxAux : Nat → Nat × Nat → Nat × Nat × Nat × Nat → Nat × Nat × Nat × Nat
  | 0, _, c => c
  | n + 1, k, c => philoxAux n (m32 (k.1 + 0x9E3779B9), m32 (k.2 + 0xBB67AE85)) (philoxRound k c)
/-- Philox-4x32-10 of a counter and key (R287), as a 128-bit number. -/
def philox (c k : Nat) : Nat :=
  let (a, b, d, e) := philoxAux 10 (bits k 0 32, bits k 32 32) (bits c 0 32, bits c 32 32, bits c 64 32, bits c 96 32)
  a + 2 ^ 32 * b + 2 ^ 64 * d + 2 ^ 96 * e
/-- The F32 value of (x >> 8) * 2^-24 (R288). -/
def uniform (x : Nat) : Nat := roundN fmtF32 (.fin false (x / 256) (-24))
/-- The payload of a random token for counter c. -/
def rngLanes (p : Plane) (c : BitVec 128) : Lanes :=
  let k := fld p 18 320 64
  let raw := philox c.toNat k + 2 ^ 128 * philox (c + 1).toNat k
  let v := BitVec.ofNat 256 raw
  if fbit p 18 2 then map1 32 uniform v else v

/-- RNG_TOKEN (R288). -/
def execRngToken (pl : Nat) (s : State) : Ans :=
  runOp pl 18 s (fun p n =>
    let otag := BitVec.ofNat 4 (fld p 18 4 4)
    let give := fun (s : State) (kind : Kind) (c : BitVec 128) (echo : Bool) =>
      s.modPlane pl (fun p =>
        let p := sendOp p 18 0 n 3 (kindTok kind (rngLanes p c) false otag)
        let p := if echo then sendOp p 18 1 n 3 (kindTok kind (c.setWidth 256) false otag) else p
        if kind.isData then
          { p with ops := { p.ops with rngC := c + 2, rngN := p.ops.rngN + 1, rngK := p.ops.rngK + 1 } }
        else p)
    if !opRoom p 18 0 n then none
    else if !rngReq p then
      if rngNtok p != 0 && decide (rngNtok p ≤ p.ops.rngN) then none else some (give s .data p.ops.rngC false)
    else
      let echo := (tfind p.outs 145).isSome
      match opHead p 18 0 n with
      | none => none
      | some t =>
        if echo && !opRoom2 p 18 0 1 n then none
        else
          let c := if t.data.getLsbD 128 then t.data.setWidth 128 else p.ops.rngC
          some (give (dequeue s pl 144) (kindOfToks [t]) c echo))

/-! ## CHECK (R289 to R291) -/

/-- Whether two tokens match (R290). -/
def checkMatch (a b : Token) : Bool :=
  if a.psn && b.psn then bits a.origin.toNat 24 24 == bits b.origin.toNat 24 24
  else a.tag.setWidth 8 == b.tag.setWidth 8 && a.data == b.data

/-- The mismatch record (R291). -/
def checkRecord (s : State) (pl : Nat) (p : Plane) (a b : Token) (pair pos : Nat) (again : Bool) : Bytes :=
  bytesLE 32 (pack [(192, 64, b.origin.toNat), (128, 64, a.origin.toNat), (112, 16, b.tag.toNat), (96, 16, a.tag.toNat),
    (64, 32, pos), (56, 8, 6), (52, 4, p.vd % 16), (49, 3, p.cid % 8), (48, 1, again.toNat), (46, 2, pair), (44, 2, pl % 4),
    (34, 10, faY s (planeTile pl)), (24, 10, faX s (planeTile pl))])

/-- Planes linked to those of a list by checked routes, in either direction. -/
def checkedNext (s : State) (l : List Nat) : List Nat :=
  let feeds := fun (q : Plane) => (q.outs.filterMap (fun o => if q.isChecked o.1 then o.2.plane else none))
  (s.planes.filterMap (fun e => if l.contains e.1 || (feeds e.2).any l.contains then some e.1 else none)) ++
    (l.flatMap (fun pl => match s.plane? pl with | some p => feeds p | none => []))
/-- Every plane linked by checked routes to one, on fuel. -/
def checkedClosure (s : State) : Nat → List Nat → List Nat
  | 0, l => l
  | f + 1, l => checkedClosure s f ((l ++ checkedNext s l).eraseDups)
def linkedPlanes (s : State) (pl : Nat) : List Nat := checkedClosure s s.planes.length [pl]

/-- A list without the last n of its members that are f, with what is left of n. -/
def dropLastOf {α : Type} (f : α → Bool) (l : List α) (n : Nat) : List α × Nat :=
  l.foldr (fun x r => if f x && decide (0 < r.2) then (r.1, r.2 - 1) else (x :: r.1, r.2)) ([], n)
/-- What a checked exit has sent since its producer's last commit is taken back, the newest first, from where it stands: waiting at the
exit, on its way, in CHECK's input, and among what CHECK has taken since its own commit (R52, R290, R291). -/
def unsend (pl : Nat) (s : State) (port : Nat) : State :=
  match s.plane? pl with
  | none => s
  | some p => match tfind p.outs port with
    | none => s
    | some o => match o.dest, o.plane with
      | .exit _ c true, some d =>
        let (q, n1) := dropLastOf (fun t => !t.mrk) o.q o.sent
        let (net, n2) := dropLastOf (fun k => match k.body with
          | .token dpl ch fp fo t => dpl == d && ch == c && fp == pl && fo == port && !t.mrk
          | _ => false) s.net n1
        let s := { s with net := net }
        let back := o.q.length - q.length
        match s.plane? d with
        | none => s.setPlane pl ({ p with outs := tset p.outs port { o with q := q, sent := 0, credit := o.credit + ((n1 - n2 : Nat) : Int) } }.addBal
            (-(back : Int)))
        | some x =>
          let ch := x.chan c
          let (places, n3) := dropLastOf (fun y => y.plain && y.tok.isSome) ch.q n2
          let (replay, _) := dropLastOf (fun t => !t.mrk) ch.replay n3
          let taken := (n2 - n3 : Nat)
          let ch := { ch with q := places, replay := replay, recfg := ch.recfg.map (fun e => (e.1, min e.2 (places.filter Place.plain).length)) }
          let s := s.setPlane d ((x.setChan c ch).addBal (-(taken : Int)))
          s.modPlane pl (fun p =>
            { p with outs := tset p.outs port { o with q := q, sent := 0, credit := o.credit + ((n1 - n3 : Nat) : Int) } }.addBal (-(back : Int)))
      | _, _ => s
/-- The checked exits of a plane emptied so (rolled-back producers send again). -/
def unsendAll (s : State) (pl : Nat) : State :=
  match s.plane? pl with
  | none => s
  | some p => (p.outs.map (·.1)).foldl (unsend pl) s
/-- A cut starts again in a region rolled back before its release (R467): its markers are injected anew. -/
def recut (s : State) (pl : Nat) : State :=
  s.modPlane pl (fun p => if p.cutDone then p else
    { p with stopped := [], marked := [],
             chans := tmap (fun _ c => if c.entry then c else { c with q := c.q.filter Place.plain }) p.chans })
/-- A region rolled back with those linked to it by checked routes (R52, R291). -/
def rollbackLinked (s : State) (pl : Nat) : State :=
  let l := linkedPlanes s pl
  l.foldl recut (l.foldl rollbackPlane (l.foldl unsendAll s))

/-- The assay of a tile started: its planes stand, the region of the trigger is implicated (R479). -/
def startAssay (s : State) (tile pl trig : Nat) : State :=
  let s := (tilePlanes s tile).foldl (fun s q => s.modPlane q (fun p => { p with assay := true })) s
  s.modPlane pl (fun p => { p with suspect := some trig })

/-- CHECK_PAIR (R290, R291). -/
def execCheckPair (pl : Nat) (pair : Nat) (s : State) : Ans :=
  match s.plane? pl with
  | none => .next s
  | some p =>
    let n := s.planeAc pl
    if !(isActive s pl && p.units.contains 19 && unitFree p 19 n && decide (pair ≤ fld p 19 4 2)) then .next s
    else match opHead p 19 pair n, opHead p 19 (pair + 4) n with
      | some a, some b =>
        let pos := tget p.ops.checkPos pair 0
        if checkMatch a b then
          if opRoom p 19 pair n then
            let s := dequeueAll s pl [152 + pair, 156 + pair]
            .next (s.modPlane pl (fun p =>
              let p := sendOp p 19 pair n 1 a
              { p.touch n with firedAt := tset p.firedAt 19 (n + 1),
                               ops := { p.ops with checkPos := tset p.ops.checkPos pair (pos + 1) } }))
          else .next s
        else
          let again := p.ops.check != 0
          let rc := checkRecord s pl p a b pair pos again
          if canRaise s p.vd rc then
            let s := rollbackLinked (raise s p.vd rc) pl
            let s := s.modPlane pl (fun q => { q with ops := { q.ops with check := p.ops.check + 1 } })
            .next (if again then (linkedPlanes s pl).foldl (fun s q => startAssay s (planeTile q) q 0) s else s)
          else .next s
      | _, _ => .next s

/-! ## AGEN (R255 to R261) -/

def esz (p : Plane) : Nat := match fld p 8 4 3 with | 0 => 1 | 1 => 2 | 2 => 4 | 3 => 8 | _ => 32
def agenCnt (p : Plane) (k : Nat) : Nat := fld p 8 (256 + 16 * k) 16
def agenStr (p : Plane) (k : Nat) : Word := (BitVec.ofNat 32 (fld p 8 (128 + 32 * k) 32)).signExtend 64
def agenBase (p : Plane) : Word := BitVec.ofNat 64 (fld p 8 320 64)
def agenLo (p : Plane) : Nat := fld p 8 384 64
def agenHi (p : Plane) : Nat := fld p 8 448 64
def agenRb (p : Plane) : Nat := fld p 8 40 8
def agenMode (p : Plane) : Nat := fld p 8 1 2

/-- The next indices of an AFF pattern; the flag says that the pattern ended. -/
def affNext (p : Plane) (a : AgenSt) : AgenSt × Bool :=
  if a.i0 + 1 < agenCnt p 0 then ({ a with i0 := a.i0 + 1 }, false)
  else if a.i1 + 1 < agenCnt p 1 then ({ a with i0 := 0, i1 := a.i1 + 1 }, false)
  else if a.i2 + 1 < agenCnt p 2 then ({ a with i0 := 0, i1 := 0, i2 := a.i2 + 1 }, false)
  else if a.i3 + 1 < agenCnt p 3 then ({ a with i0 := 0, i1 := 0, i2 := 0, i3 := a.i3 + 1 }, false)
  else ({ a with i0 := 0, i1 := 0, i2 := 0, i3 := 0 }, true)
/-- At most m elements from the indices on (R256). -/
def affGroup (p : Plane) (t : Word) : Nat → AgenSt → List Word × AgenSt × Bool
  | 0, a => ([], a, false)
  | m + 1, a =>
    let w := fun (i : Nat) (k : Nat) => BitVec.ofNat 64 i * agenStr p k
    let addr := agenBase p + t + w a.i0 0 + w a.i1 1 + w a.i2 2 + w a.i3 3
    match affNext p a with
    | (a, true) => ([addr], a, true)
    | (a, false) => match affGroup p t m a with
      | (l, a, e) => (addr :: l, a, e)

/-- Whether bytes lie inside the declared extent. -/
def inExtent (p : Plane) (a n : Nat) : Bool := decide (agenLo p ≤ a ∧ a + n ≤ agenHi p)

/-- What one step of AGEN makes: an item of the stream and the state after, with an address for a record of R259 where one is
due. -/
structure AgenOut where
  addrs : List Word
  kind : Kind
  n : Nat
  st : AgenSt
  done : Bool
  err : Option Word := none

def trigKind (a : AgenSt) : Kind := match a.trig with | some t => kindOfToks [t] | none => .data
/-- A null or poisoned trigger's item (R259). -/
def plainOr (k : Kind) (l : List Word) : List Word := if k.isData then l else []

/-- One group or token of an AFF pattern. -/
def affStep (s : State) (pl : Nat) (p : Plane) (a : AgenSt) : AgenOut :=
  let m := if agenDest1 p then 1 else 32 / esz p
  let t : Word := match a.trig with | some t => t.data.setWidth 64 | none => 0
  let (l, b, e) := affGroup p t m a
  let k := trigKind a
  let bad := k.isData && agenTrig p &&
    (t.toNat % esz p != 0 || l.any (fun x => !inExtent p x.toNat (esz p)))
  let k' := if bad then .poison (opOrigin s pl 8 causeXfault 0xFFFF) else k
  { addrs := plainOr k' l, kind := k', n := l.length, st := b, done := e,
    err := if bad && !a.erred then l.head? else none }

/-- One group of a GATH pattern (R258). -/
def gathStep (s : State) (pl : Nat) (p : Plane) (a : AgenSt) : AgenOut :=
  let k := trigKind a
  let d := match a.trig with | some t => t.data.toNat | none => 0
  let ix := bits d (32 * a.i0) 32
  let row := agenBase p + BitVec.ofNat 64 ix * agenStr p 0
  let addr := row + BitVec.ofNat 64 (32 * a.grp)
  let skip := k.isData && ix == 0xFFFFFFFF
  let bad := k.isData && !skip && !inExtent p row.toNat (32 * agenRb p)
  let k' := if skip then .null else if bad then .poison (opOrigin s pl 8 causeXfault 0xFFFF) else k
  let rowEnd := a.grp + 1 = agenRb p
  let b := if rowEnd then { a with grp := 0, i0 := if a.i0 = 7 then 0 else a.i0 + 1 } else { a with grp := a.grp + 1 }
  { addrs := plainOr k' [addr], kind := k', n := 1, st := b, done := rowEnd && a.i0 == 7,
    err := if bad && !a.erred then some row else none }

/-- One group of the page in progress of a LINK chain (R257). -/
def linkRow (p : Plane) (a : AgenSt) : AgenOut :=
  let rowEnd := a.grp + 1 = agenRb p
  let addr := a.page + BitVec.ofNat 64 (64 + 32 * agenRb p * a.row + 32 * a.grp)
  { addrs := [addr], kind := .data, n := 1, done := false,
    st := if rowEnd then { a with grp := 0, row := a.row + 1 } else { a with grp := a.grp + 1 } }

/-- The pattern in progress ends (R256, R257). -/
def agenEnd (p : Plane) (a : AgenSt) : AgenSt :=
  { a with i0 := 0, i1 := 0, i2 := 0, i3 := 0, busy := false, trig := none, page := 0, next := 0, ntok := 0, ahead := [], pages := 0,
           row := 0, grp := 0, erred := false, fin := !agenTrig p }

def groupsIn (l : List QItem) : Nat := (l.filter (fun q => match q with | .group _ _ _ => true | .knot _ => false)).length
/-- Room for one item of the stream. -/
def agenRoom (p : Plane) (n : Nat) : Bool :=
  if agenDest1 p then opRoom p 8 0 n else decide (groupsIn p.agq < 16)

/-- An item put where AGEN sends it. -/
def agenPut (p : Plane) (n : Nat) (o : AgenOut) : Plane :=
  let q := if agenDest1 p then
      sendOp p 8 0 n 1 (kindTok o.kind ((o.addrs.headD 0).setWidth 256) false (BitVec.ofNat 4 (fld p 8 36 4)))
    else { p with agq := p.agq ++ [.group o.addrs o.kind (p.ops.agen.ord)] }
  let a := { o.st with ord := (o.st.ord + o.n) % 2 ^ 48, kcnt := if agenTrig p then 0 else o.st.kcnt + 1,
                       erred := o.st.erred || o.err.isSome }
  { q with ops := { q.ops with agen := if o.done then agenEnd p a else a } }

/-- An item put with its FINAL record of REASON EXTENT, SRC 0b11 (R259); none where the record must wait. -/
def agenGive (s : State) (pl n : Nat) (p : Plane) (o : AgenOut) : Option State :=
  match o.err with
  | none => some (s.setPlane pl (agenPut p n o))
  | some va =>
    let rc := planeFaultRec s pl p va p.ops.agen.ord 0 true rExtent 0 3 0 0
    if canRaise s p.vd rc then some (raise (s.setPlane pl (agenPut p n o)) p.vd rc) else none

/-- SRC of a fault record (R266): a load group of a GATH pattern is a gather read. -/
def srcCode (p : Plane) (src : Nat) : Nat := if src = 1 ∧ agenMode p = 2 ∧ mifSdir p = 1 then 3 else src
/-- A translation fault of a plane's MIF or AGEN: a stalling one takes an FID and stands outstanding, the plane's only one (R265).
got: the elements translated ahead of it. None where it must wait. -/
def raisePlaneFault (s : State) (pl : Nat) (va : Word) (ord reason acc src slot elem : Nat) (got : List (Word × Nat × Nat × Nat)) :
    Option State :=
  match s.plane? pl with
  | none => none
  | some p =>
    if stalls reason then
      let (fid, s') := takeFid s p.vd (.plane pl)
      let rc := planeFaultRec s pl p va ord fid false reason acc (srcCode p src) slot elem
      if canRaise s p.vd rc && p.wfault.isNone then
        some (raise (s'.modPlane pl (fun p => { p with fault := some { fid := fid, va := va, src := src, got := got } })) p.vd rc)
      else none
    else
      let rc := planeFaultRec s pl p va ord 0 true reason acc (srcCode p src) slot elem
      if canRaise s p.vd rc then some (raise s p.vd rc) else none

/-- Whether the MIF may make an access for AGEN in this ac (R263). -/
def mifIdle (p : Plane) (n : Nat) : Bool := decide (tget p.firedAt 9 0 ≤ n)
/-- The MIF's step counted against the access it may make in this ac. -/
def mifUsed (pl : Nat) (s : State) : State := s.modPlane pl (fun p => { p with firedAt := tset p.firedAt 9 (s.planeAc pl + 1) })
/-- Rows of a page whose header gives a count (R257). -/
def headRows (p : Plane) (v : Lanes) : Nat := min (bits v.toNat 64 32) (32704 / (32 * agenRb p))
/-- AGEN at the first row of a page. -/
def AgenSt.atPage (a : AgenSt) (pg next : Word) (rows : Nat) : AgenSt :=
  { a with busy := true, page := pg, next := next, ntok := rows, row := 0, grp := 0, pages := a.pages + 1 }

/-- Whether AGEN's read of a header's sector keeps the order of the plane's accesses: no acquire of the plane is outstanding (R297, R312),
and none of its released stores of that sector is on its way or unacknowledged (R300). -/
def linkOrdered (s : State) (pl : Nat) (p : Plane) (sector : Nat) : Bool :=
  !p.loads.any (fun l => l.acq) && (s.net ++ p.unack).all (fun k => !(srcIs pl k && k.isWrite && k.sector? == some sector))
/-- The header's sector read, where the order and the links allow; none where AGEN waits. -/
def linkRead (s : State) (pl : Nat) (p : Plane) (pa kslot cp : Nat) : Option (State × Lanes × Bool) :=
  let sector := pa / 32 * 32
  if linkOrdered s pl p sector = false then none
  else match reaches s (.plane pl) sector cp with
    | (_, false) => none
    | (s, true) => some (loadSector (mifUsed pl s) (.plane pl) p.vd sector kslot cp)
/-- The next page of a LINK chain: its header is read, or was read ahead (R257), or the chain ends, with a poisoned token where it
breaks. -/
def linkPage (s : State) (pl n : Nat) (p : Plane) (a : AgenSt) : Option State :=
  let first := !a.busy
  let pg : Word := if first then (match a.trig with | some t => t.data.setWidth 64 | none => agenBase p) else a.next
  let set := fun (s : State) (a : AgenSt) => s.modPlane pl (fun p => { p with ops := { p.ops with agen := a } })
  let poison := fun (s : State) (cause : Nat) (err : Option Word) =>
    match s.plane? pl with
    | none => none
    | some p => agenGive s pl n p { addrs := [], kind := .poison (opOrigin s pl 8 cause 0xFFFF), n := 1, st := a, done := true,
                                    err := err }
  match a.ahead with
  | (q, nx, rows) :: r => some (set s ({ a with ahead := r }.atPage q nx rows))
  | [] =>
  if pg = 0 ∨ agenCnt p 0 ≤ a.pages then some (set s (agenEnd p a))
  else if pg.toNat % (if first then 32 else 32768) ≠ 0 ∨ inExtent p pg.toNat 32768 = false then poison s causeXfault (some pg)
  else
    if (match p.fault with | some f => f.src != 3 | none => false) || !mifIdle p n then none
    else match translate s (tlbTile (planeTile pl)) p.vd pg false false with
      | (s, .bad r) =>
        match raisePlaneFault s pl pg a.ord r 0 3 0 0 [] with
        | none => none
        | some s => if stalls r then some s else poison s causeXfault none
      | (s, .ok pa kslot cp _) =>
        match linkRead s pl p pa kslot cp with
        | none => none
        | some (s, _, true) => poison s causeMemue none
        | some (s, v, false) => some (set s (a.atPage pg (v.setWidth 64) (headRows p v)))

/-- A header read ahead beside a step, while fewer than PFD + 1 are (R257); one that would fault or fail is left until its page is
due (log entry 63). -/
def linkAhead (s : State) (pl n : Nat) : State :=
  match s.plane? pl with
  | none => s
  | some p =>
    let a := p.ops.agen
    let pg := match a.ahead.getLast? with | some (_, nx, _) => nx | none => a.next
    if !a.busy || pg == 0 || decide (agenCnt p 0 ≤ a.pages + a.ahead.length) || decide (fld p 8 34 2 < a.ahead.length) ||
        pg.toNat % 32768 != 0 || !inExtent p pg.toNat 32768 || p.fault.isSome || !mifIdle p n then s
    else match translate s (tlbTile (planeTile pl)) p.vd pg false false with
      | (_, .bad _) => s
      | (t, .ok pa kslot cp _) =>
        match linkRead t pl p pa kslot cp with
        | none => s
        | some (_, _, true) => s
        | some (t, v, false) => t.modPlane pl (fun p => { p with ops := { p.ops with agen :=
            { p.ops.agen with ahead := p.ops.agen.ahead ++ [(pg, v.setWidth 64, headRows p v)] } } })

/-- AGEN_STEP (R256 to R259): a trigger is taken with the pattern's first item. -/
def execAgenStep (pl : Nat) (s : State) : Ans :=
  runOp pl 8 s (fun p n =>
    let a := p.ops.agen
    let mine := match p.fault with | some f => f.src == 3 | none => false
    let failed := match p.fault with | some f => f.src == 3 && f.failed | none => false
    let retry := match p.fault with | some f => f.src == 3 && f.retry | none => false
    if a.fin || !agenRoom p n || (mine && !failed && !retry) then none
    else
      let start := agenTrig p && a.trig.isNone
      match (if start then opHead p 8 0 n else some (nullTok false 0)) with
      | none => none
      | some t =>
        let s := if start then dequeue s pl 64 else s
        match s.plane? pl with
        | none => none
        | some p =>
          let a := if start then { a with trig := some (clearRpl t), busy := agenMode p != 1 } else a
          let p := { p with fault := if failed || retry then none else p.fault, ops := { p.ops with agen := a } }
          let s := s.setPlane pl p
          match agenMode p with
          | 0 => agenGive s pl n p (affStep s pl p a)
          | 2 => agenGive s pl n p (gathStep s pl p a)
          | _ =>
            let k := trigKind a
            if !k.isData then agenGive s pl n p { addrs := [], kind := k, n := 1, st := a, done := true }
            else if failed then
              agenGive s pl n p { addrs := [], kind := .poison (opOrigin s pl 8 causeXfault 0xFFFF), n := 1, st := a, done := true }
            else if a.busy && decide (a.row < a.ntok) then (agenGive s pl n p (linkRow p a)).map (fun s => linkAhead s pl n)
            else linkPage s pl n p a)

/-! ## WPORT (R269 to R271) -/

def wpBase (p : Plane) : Word := BitVec.ofNat 64 (fld p 10 448 64)
def wpAddr (p : Plane) (si pi o : Nat) : Word :=
  wpBase p + BitVec.ofNat 64 (si * fld p 10 416 32 + o * fld p 10 384 32 + 32 * pi)
def wpTps (p : Plane) : Nat := fld p 10 33 3
def wpPorts (p : Plane) : List Nat := bitsSet 8 (fld p 10 40 8)

/-- The measurement of a page image (R335): every unit that VARMASK marks is zero. -/
def measure (l : Bytes) : BitVec 256 :=
  let vm := ofBytesLE ((l.drop 32).take 16)
  digest ((List.range 128).flatMap (fun i => if vm.testBit i then zerosB 32 else (l.drop (32 * i)).take 32))
/-- The library measurements a policy record names (R488). -/
def policyLibs (l : Bytes) : List (BitVec 256) :=
  (List.range (l.getD 4 0).toNat).map (fun i => BitVec.ofNat 256 (ofBytesLE ((l.drop (208 + 32 * i)).take 32)))
/-- Whether a placed page may read an operand-only page under a key slot (R197). DESIGN CHOICE (log entry 99): the policy of an adaptation
lists no library (R488), so no measurement is named there and every such read is refused. -/
def wportAllowed (s : State) (p : Plane) (kslot : Nat) : Bool :=
  let m := measure p.page.bytes
  p.signed && s.hub.libs.any (fun e => e.1 == m && (policyLibs (s.slot kslot).policy).contains e.2)

/-- What a WPORT read gives: the payload, a poison's cause with the reason for a record where one is due, or a stall. -/
inductive WRes where
  | ok (v : Lanes)
  | poison (cause : Nat) (reason : Option Nat)
  | stall (reason : Nat)
deriving DecidableEq, Repr

/-- Whether the 512-byte block that holds a physical address of this package verifies: none of its sectors fails its check, and its
integrity tag is the one of its bytes (R271, R484). Another package's is not seen from here. -/
def blockIntact (s : State) (pa kslot : Nat) : Bool :=
  match localOff s pa with
  | none => true
  | some o =>
    let b := o / 512
    (List.range 16).all (fun i => !s.bad.contains (512 * b + 32 * i)) && tget s.tags b 0 == blockTag s b kslot
/-- WPORT's read of 32 bytes with its checks (R271). -/
def wportRead (s : State) (pl : Nat) (p : Plane) (va : Word) : State × WRes :=
  match translate s (tlbTile (planeTile pl)) p.vd va false true with
  | (s, .bad r) => (s, if stalls r then .stall r else .poison causeXfault (some r))
  | (s, .ok pa kslot _ opo) =>
    if opo && !wportAllowed s p kslot then (s, .poison causeXfault (some rPolicy))
    else if opo && !blockIntact s pa kslot then (s, .poison causeMemue none)
    else match homeSector s (.plane pl) p.vd pa kslot with
      | (s, _, true) => (s, .poison causeMemue none)
      | (s, v, false) => (s, .ok v)

/-- WPORT's next position after one token; the flag says that the set ended. -/
def wportNext (p : Plane) (w : WportSt) : WportSt × Bool :=
  if w.o + 1 < (wpPorts p).length then ({ w with o := w.o + 1 }, false)
  else if w.p + 1 < wpTps p then ({ w with o := 0, p := w.p + 1 }, false)
  else ({ w with o := 0, p := 0 }, true)

/-- A token sent by WPORT and its position advanced. -/
def wportGive (pl n : Nat) (t : Token) (s : State) : State :=
  s.modPlane pl (fun p =>
    let w := p.ops.wport
    let port := (wpPorts p).getD w.o 0
    let p := p.enqueue (80 + port) (some t) (n + 1) (afterKnot p 10)
    let (w, setEnd) := wportNext p w
    let w := if setEnd then
        (if wportSel p then { w with busy := false, erred := false }
         else { w with s := w.s + 1, busy := false, kcnt := w.kcnt + 1, fin := w.s + 1 == fld p 10 352 32 })
      else w
    { p with ops := { p.ops with wport := w }, wfault := none })

/-- WPORT_TOKEN (R270): the set is selected with its first token. -/
def execWportToken (pl : Nat) (s : State) : Ans :=
  runOp pl 10 s (fun p n =>
    let w := p.ops.wport
    let sel := wportSel p
    let failed := match p.wfault with | some f => f.failed && f.src == 2 | none => false
    if w.fin || (p.wfault.isSome && !failed) || !p.outReady (80 + (wpPorts p).getD w.o 0) n then none
    else
      let start := !w.busy
      match (if sel && start then opHead p 10 0 n else some (nullTok false 0)) with
      | none => none
      | some t =>
        let s := if sel && start then dequeue s pl 80 else s
        let w := if !start then w
          else if sel then { w with busy := true, s := bits t.data.toNat 0 32, p := 0, o := 0, kind := kindOfToks [t] }
          else { w with busy := true, kind := .data }
        match s.plane? pl with
        | none => none
        | some p =>
          let p := { p with ops := { p.ops with wport := w } }
          let s := s.setPlane pl p
          let otag := BitVec.ofNat 4 (fld p 10 36 4)
          let port := (wpPorts p).getD w.o 0
          let va := wpAddr p w.s w.p port
          let bad := fun (s : State) (cause : Nat) => wportGive pl n (poisonTok (opOrigin s pl 10 cause 0xFFFF) otag) s
          let final := fun (s : State) (reason cause : Nat) =>
            let rc := planeFaultRec s pl p va 0 0 true reason 0 2 0 0
            if canRaise s p.vd rc then some (bad (raise s p.vd rc) cause) else none
          if !w.kind.isData then some (wportGive pl n (kindTok w.kind 0 false otag) s)
          else if sel && decide (fld p 10 352 32 ≤ w.s) then
            (if w.erred then some (bad s causeXfault)
             else
               let s := s.setPlane pl { p with ops := { p.ops with wport := { w with erred := true } } }
               final s rExtent causeXfault)
          else if failed then some (bad s causeXfault)
          else match wportRead s pl p va with
            | (s, .ok v) => some (wportGive pl n { data := v, tag := (mkTag false false false otag) ||| 0x80, stream := some (w.s, w.p, port) } s)
            | (s, .poison cause none) => some (bad s cause)
            | (s, .poison cause (some r)) => final s r cause
            | (s, .stall r) =>
              let (fid, s) := takeFid s p.vd (.wport pl)
              let rc := planeFaultRec s pl p va 0 fid false r 0 2 0 0
              if canRaise s p.vd rc && p.fault.isNone then
                some (raise (s.modPlane pl (fun p => { p with wfault := some { fid := fid, va := va, src := 2 } })) p.vd rc)
              else none)

/-! ## Refill of weights (R193) -/

/-- A token's sector read again, unless that was answered FAIL. -/
def refillTry (s : State) (pl : Nat) (p : Plane) (va : Word) : State × WRes :=
  if p.refailed.contains va then (s, .poison causeXfault none) else wportRead s pl p va
/-- A recorded token read again; none reads zero, a read that fails is a free value (log entry 17). -/
def refillRead (s : State) (pl : Nat) (p : Plane) : Option (Nat × Nat × Nat) → State × Lanes
  | none => (s, 0)
  | some (si, pi, o) =>
    match refillTry s pl p (wpAddr p si pi o) with
    | (s, .ok v) => (s, v)
    | (s, _) => let (n, s) := s.draw; (s, Config.freeBits 256 n)
/-- Parts of a plane, part 0 lowest. -/
def refillParts (pl : Nat) (p : Plane) : List (Nat × Nat × Nat) → Nat → State → State × Nat
  | [], _, s => (s, 0)
  | i :: r, k, s =>
    match refillRead s pl p (some i) with
    | (s, v) => match refillParts pl p r (k + 1) s with
      | (s, w) => (s, v.toNat * 2 ^ (256 * k) + w)
/-- A restored sealed token read again through WPORT (R177). -/
def rereadTok (s : State) (pl : Nat) (p : Plane) (t : Token) (va : Word) : State × Token :=
  match refillTry s pl p va with
  | (s, .ok v) => (s, { t with data := v })
  | (s, .poison cause _) => (s, poisonTok (opOrigin s pl 10 cause 0xFFFF) t.utag)
  | (s, .stall _) => (s, poisonTok (opOrigin s pl 10 causeXfault 0xFFFF) t.utag)
def rereadPlace (s : State) (pl : Nat) (p : Plane) (x : Place) : State × Place :=
  match x.reread, x.tok with
  | true, some t => (match t.stream with
    | some (si, pi, o) => (match rereadTok s pl p t (wpAddr p si pi o) with
      | (s, t) => (s, { x with tok := some t, reread := false }))
    | none => (s, x))
  | _, _ => (s, x)
def rereadPlaces (pl : Nat) (p : Plane) : List Place → State → State × List Place
  | [], s => (s, [])
  | x :: r, s =>
    match rereadPlace s pl p x with
    | (s, x) => match rereadPlaces pl p r s with
      | (s, l) => (s, x :: l)
def rereadChans (pl : Nat) (p : Plane) : List Nat → State → State
  | [], s => s
  | k :: r, s =>
    match rereadPlaces pl p (p.chan k).q s with
    | (s, q) => rereadChans pl p r (s.modPlane pl (fun p => p.setChan k { p.chan k with q := q }))

/-- The tokens that a refill of an element reads again: those of its matrix state and those that stand in its channels. -/
def refillItems (p : Plane) (e : Nat) : List (Nat × Nat × Nat) :=
  let x := (p.elem e).widx
  (if x.af then x.stx else []) ++ x.shx.take x.sf ++ x.cbx.toList ++ x.sax.toList ++ x.ssx.toList ++
    (p.inputs e).flatMap (fun k => (p.chan k).q.filterMap (fun y => if y.reread then y.tok.bind Token.stream else none))
/-- The first of them whose translation stalls, with its reason. -/
def refillStall (s : State) (pl : Nat) (p : Plane) (e : Nat) : Option (Word × Nat) :=
  (refillItems p e).findSome? (fun i =>
    let va := wpAddr p i.1 i.2.1 i.2.2
    match (refillTry s pl p va).2 with
    | .stall r => some (va, r)
    | _ => none)
/-- An element's matrix state from its recorded stream indices, and the sealed tokens in its channels (R177, R193). -/
def refillElem (s : State) (pl : Nat) (p : Plane) (e : Nat) : State :=
  let x := (p.elem e).widx
  let (s, stat) := refillParts pl p (if x.af then x.stx else []) 0 s
  let (s, shadow) := refillParts pl p (x.shx.take x.sf) 0 s
  let (s, cb) := refillRead s pl p x.cbx
  let (s, sca) := refillRead s pl p x.sax
  let (s, scs) := refillRead s pl p x.ssx
  let m : Mx := ⟨BitVec.ofNat 1024 stat, BitVec.ofNat 1024 shadow, x.sf, x.af, cb, sca.setWidth 64, scs.setWidth 64⟩
  let s := rereadChans pl p (p.inputs e) s
  s.modPlane pl (fun p =>
    let left := p.refill.filter (· != e)
    { p.setMx e m with refill := left, refailed := if left = [] then [] else p.refailed })

/-- WEIGHT_REFILL (R193): a translation that stalls is WPORT's stall (R271), for each token anew; after FAIL that token is not read, and
what it stood for in the matrix state is a free value (log entry 17). -/
def execWeightRefill (pl : Nat) (elem : Nat) (s : State) : Ans :=
  match s.plane? pl with
  | none => .next s
  | some p =>
    if !(p.refill.contains elem && isActive s pl) then .next s
    else match p.wfault with
      | some f =>
        if f.failed && f.src == 4 then .next (s.setPlane pl { p with wfault := none, refailed := f.va :: p.refailed })
        else if f.failed && (refillStall s pl p elem).isNone then .next (refillElem s pl p elem)
        else .next s
      | none => match refillStall s pl p elem with
        | none => .next (refillElem s pl p elem)
        | some (va, r) =>
          let (fid, t) := takeFid s p.vd (.wport pl)
          let rc := planeFaultRec s pl p va 0 fid false r 0 2 0 0
          if canRaise s p.vd rc && p.fault.isNone then
            .next (raise (t.modPlane pl (fun p => { p with wfault := some { fid := fid, va := va, src := 4 } })) p.vd rc)
          else .next s

end Sys2Proof.Machine
end

