-- ==== Sys2Proof/Machine/Page.lean ====
section
/-! DEFINITION. The page image and its placement checks (R10, R31, R35, R70, R155, R169, R170, R175, R252, R292, R329 to R334). -/

namespace Sys2Proof.Machine

/-! ## Parsing (R329, R333, R334) -/

def byteSlice (l : Bytes) (o n : Nat) : Bytes := (l.drop o).take n
def numAt (l : Bytes) (o n : Nat) : Nat := ofBytesLE (byteSlice l o n)

def routeOf (w : Nat) : Route :=
  { kind := bits w 29 2, back := w.testBit 28, chk := w.testBit 27, src := bits w 19 8, dst := bits w 11 8, arg := bits w 3 8 }
def routeWords (l : Bytes) : List Nat := (List.range 128).map (fun i => numAt l (2304 + 4 * i) 4)
def parsePage (l : Bytes) : Page :=
  { bytes := l
    slots := (List.range 128).map (fun i => numAt l (256 + 16 * i) 16)
    routes := ((routeWords l).filter (fun w => w.testBit 31)).map routeOf
    blocks := (List.range 12).map (fun i => BitVec.ofNat 512 (numAt l (2816 + 64 * i) 64))
    consts := (List.range 16).map (fun i => BitVec.ofNat 256 (numAt l (3584 + 32 * i) 32))
    mxcfg := BitVec.ofNat 64 (numAt l 16 8)
    ipred := BitVec.ofNat 64 (numAt l 8 8) }

def kLocal : Nat := 0
def kExit : Nat := 1
def kEntry : Nat := 2
def Route.srcUnit (r : Route) : Nat := r.src / 8
def Route.dstUnit (r : Route) : Nat := r.dst / 8
def Page.blk (g : Page) (u : Nat) : Nat := (g.blocks.getD (u - 8) 0).toNat
def Page.en (g : Page) (u : Nat) : Bool := (g.blk u).testBit 0
def Page.f (g : Page) (u lo n : Nat) : Nat := bits (g.blk u) lo n
def Page.slotOf (g : Page) (e j : Nat) : Option Instr := decodeElem (g.slots.getD (16 * e + j) 0)
def Page.entry (g : Page) (k : Nat) : Option Route := g.routes.find? (fun r => r.dst == k && r.kind != kExit)
def Page.output (g : Page) (k : Nat) : Option Route := g.routes.find? (fun r => r.src == k && r.kind != kEntry)

/-- (element, slot) of every slot. -/
def slotIx : List (Nat × Nat) := (List.range 128).map (fun i => (i / 16, i % 16))

/-! ## ENC (R10, R35, R70, R292, R330, R334) -/

def headerOk (l : Bytes) : Bool :=
  numAt l 0 2 == 1 && numAt l 2 6 == 0 && numAt l 24 8 == 0 && numAt l 32 1 == 0 && numAt l 48 208 == 0
def routeEnc (w : Nat) : Bool :=
  if w.testBit 31 then
    bits w 29 2 != 3 && bits w 0 3 == 0 && !(w.testBit 28 && bits w 29 2 == kExit) && !(w.testBit 27 && bits w 29 2 == kLocal) &&
    !(bits w 29 2 == kEntry && bits w 19 8 != 0) && !(bits w 29 2 != kExit && bits w 3 8 == 0)
  else w == 0

/-- One field of the AGEN block is zero, one, or a multiple (R255, R292). -/
def agenEnc (g : Page) : Bool :=
  let f := g.f 8
  let mode := f 1 2
  let trig := f 7 1 == 1
  let ezc := f 4 3
  let ez := match ezc with | 0 => 1 | 1 => 2 | 2 => 4 | 3 => 8 | _ => 32
  let lo := f 384 64
  let hi := f 448 64
  let cnt := fun k => f (256 + 16 * k) 16
  let str := fun k => f (128 + 32 * k) 32
  let used := trig || mode != 0
  f 64 64 == 0 && f 8 26 == 0 && mode != 3 && decide (ezc ≤ 4) && (List.range 4).all (fun k => cnt k != 0) &&
  (f 320 64 % ez == 0) && (List.range 4).all (fun k => str k % ez == 0) && lo % 32 == 0 && hi % 32 == 0 &&
  (if used then decide (lo < hi) || (lo == 0 && hi == 0) else lo == 0 && hi == 0) &&
  (f 3 1 == 1 || f 36 4 == 0) && (!trig || f 48 16 == 0) &&
  (match mode with
   | 0 => f 40 8 == 0 && f 34 2 == 0
   | 1 => ezc == 4 && decide (1 ≤ f 40 8 ∧ f 40 8 ≤ 128) && [1, 2, 3].all (fun k => cnt k == 1) &&
          (List.range 4).all (fun k => str k == 0) && (!trig || f 320 64 == 0)
   | _ => ezc == 4 && decide (1 ≤ f 40 8 ∧ f 40 8 ≤ 128) && f 34 2 == 0 && (List.range 4).all (fun k => cnt k == 1) &&
          [1, 2, 3].all (fun k => str k == 0) && trig)

def isFloatCode (t : Nat) : Bool := decide (8 ≤ t ∧ t ≤ 13)
def fltCode (t : Nat) : Bool := decide (8 ≤ t ∧ t ≤ 11)

/-- The ENC rows of one operator block (R292). -/
def blockEnc (g : Page) (u : Nat) : Bool :=
  let f := g.f u
  if !g.en u then g.blk u == 0
  else match u with
    | 8 => agenEnc g && (f 3 1 == 1 || (g.en 9 && g.f 9 5 2 != 0))
    | 9 => f 204 308 == 0 && f 16 48 == 0 && f 1 4 == 0 && f 64 64 % 32 == 0 && f 128 64 % 32 == 0 &&
           (f 11 1 == 1 || f 192 12 == 0) && (f 7 1 == 1 || f 8 3 == 0) && f 5 2 != 3 &&
           (f 5 2 == 0 || (g.en 8 && g.f 8 3 1 == 0))
    | 10 => f 64 288 == 0 && f 2 31 == 0 && f 448 64 % 32 == 0 && f 416 32 % 32 == 0 && f 384 32 % 32 == 0 && f 352 32 != 0 &&
            (f 1 1 == 0 || f 48 16 == 0) && f 40 8 != 0 && decide (1 ≤ f 33 3 ∧ f 33 3 ≤ 5)
    | 11 => f 48 464 == 0 && f 4 36 == 0 && decide (f 2 2 < 2)
    | 12 => f 2 510 == 0
    | 13 => f 40 472 == 0 && f 1 11 == 0 && fltCode (f 20 4) && decide (f 17 3 ≤ 3) && f 14 2 != 3 && (f 12 1 == 0 || f 32 8 == 0)
    | 14 => f 16 496 == 0 && f 9 3 == 0 && f 1 5 == 0 && (f 12 4 == 2 || fltCode (f 12 4)) && f 6 3 != 0
    | 15 => f 48 464 == 0 && f 1 16 == 0 && f 32 16 != 0 && decide (f 28 4 ≤ 13) && decide (f 24 4 ≤ 13) && f 28 4 != f 24 4 &&
            decide (f 21 3 ≤ 4) && (f 18 1 == 0 || (decide (12 ≤ f 28 4) && isFloatCode (f 24 4))) && (f 17 1 == 0 || f 18 1 == 1)
    | 16 => f 32 480 == 0 && f 1 11 == 0 && decide (f 17 3 ≤ 5) &&
            (if 3 ≤ f 17 3 then f 20 4 == 6 || f 20 4 == 7 else decide (f 20 4 ≤ 11))
    | 17 => f 48 464 == 0 && f 1 15 == 0
    | 18 => f 80 240 == 0 && f 8 24 == 0 && f 3 1 == 0 && (f 1 1 == 0 || (f 48 32 == 0 && f 32 16 == 0))
    | _ => f 6 506 == 0 && f 1 3 == 0

/-- The first slot that fails a test of its instruction; one that does not decode fails. -/
def firstSlot (g : Page) (ok : Nat → Instr → Bool) : Option (Nat × Nat) :=
  slotIx.find? (fun x => match g.slotOf x.1 x.2 with
    | some i => !ok x.1 i
    | none => true)

/-! ## MXCFG (R170) -/

def usesMx : Instr → Bool
  | .elemLdst _ | .elemLdcb _ | .elemSwapw _ | .elemMma _ _ _ => true
  | _ => false
/-- The static ROW of an accumulator instruction (R79). -/
def staticRow : Instr → Option Nat
  | .elemMma f _ tor => if tor then some (bits f.imm.toNat 0 9) else none
  | .elemAcca f _ | .elemAccd f _ | .elemAccz f | .elemAccs f | .elemAccl f => some (bits f.imm.toNat 0 9)
  | _ => none
def mxWordOk (w : Word) : Bool :=
  let fmt := mxFmt w
  w.toNat / 128 == 0 && fmt != 7 && (mxOn w || (fmt == 0 && !mxAfmt w && !mxBs w)) && (!mxAfmt w || fmt == 0) &&
  (!mxBs w || fmt == 1 || fmt == 2)
def mxSlotOk (g : Page) (aq : Nat) (i : Instr) : Bool :=
  (mxOn g.mxcfg || !usesMx i) &&
  (match i with | .elemLdcb _ => (mxOn g.mxcfg && mxFmt g.mxcfg == 0) || mxBs g.mxcfg | _ => true) &&
  (match staticRow i with | some r => decide (r < 16 * aq) | none => true)

/-! ## SEALP (R175) -/

/-- Channels of its element that WPORT feeds. -/
def sealedChans (g : Page) (e : Nat) : List Nat :=
  g.routes.filterMap (fun r => if r.kind = kLocal ∧ r.srcUnit = 10 ∧ r.dstUnit = e then some (r.dst % 8) else none)
def loadsWeight : Instr → Option Sel
  | .elemLdst f | .elemLdcb f => some f.opa
  | _ => none
def sealSlotOk (g : Page) (e : Nat) (i : Instr) : Bool :=
  match i.fields? with
  | none => true
  | some f =>
    let cs := sealedChans g e
    let reads := cs.filter (fun c => f.deq.getLsbD c || f.readMask.getLsbD c)
    match loadsWeight i with
    | some (.head c) => cs.contains c.val && reads.all (fun x => x == c.val)
    | some _ => false
    | none => reads.isEmpty
def sealRoutesOk (g : Page) : Bool :=
  g.routes.all (fun r => r.kind == kEntry || r.srcUnit != 10 || (r.kind == kLocal && decide (r.dstUnit < 8) && mxOn g.mxcfg))

/-! ## ROUTE (R31, R155, R252, R292, R330, R332) -/

/-- Inputs and outputs a block's fields use (R252). -/
def opIns (g : Page) (u : Nat) : List Nat :=
  let f := g.f u
  let opt := fun (b : Bool) (l : List Nat) => if b then l else []
  match u with
  | 8 => opt (f 7 1 == 1) [0]
  | 9 => opt (f 5 2 == 2) [0]
  | 10 => opt (f 1 1 == 1) [0]
  | 11 | 12 | 17 => [0, 1]
  | 13 => 0 :: opt (f 12 1 == 1) [1]
  | 14 => [0]
  | 15 => 0 :: opt (f 21 3 == 4) [1]
  | 16 => List.range (f 12 3 + 1)
  | 18 => opt (f 1 1 == 1) [0]
  | _ => List.range (f 4 2 + 1) ++ (List.range (f 4 2 + 1)).map (· + 4)
def opOuts (g : Page) (u : Nat) : List Nat :=
  let f := g.f u
  match u with
  | 8 => if f 3 1 = 1 then [0] else []
  | 9 => if f 5 2 = 1 then [0] else []
  | 10 => bitsSet 8 (f 40 8)
  | 11 => [0, 1]
  | 15 => if f 18 1 = 1 then [0, 1] else [0]
  | 19 => List.range (f 4 2 + 1)
  | _ => [0]
def opPortsOk (g : Page) (u : Nat) : Bool :=
  let ins := if g.en u then opIns g u else []
  let outs := if g.en u then opOuts g u else []
  let echo := u == 18 && g.en 18 && g.f 18 1 1 == 1
  (List.range 8).all (fun i => (g.entry (8 * u + i)).isSome == ins.contains i) &&
  (List.range 8).all (fun i => (g.output (8 * u + i)).isSome == outs.contains i || (echo && i == 1))

def noDup (l : List Nat) : Bool := l.eraseDups.length == l.length
/-- The words of the fill NOP of element e (R141). -/
def fillNop (g : Page) (e : Nat) : Nat :=
  let pval := 255 - bits g.ipred.toNat (8 * e) 8
  let nop : EFields := ⟨0xFF, BitVec.ofNat 8 pval, 0, 0, 0, 0, .zero, .zero, .zero, 0, none, 0, 0, 0, 0, none, 0⟩
  (encodeElem (.elemNop nop)).getD 0
def elemUsed (g : Page) (e : Nat) : Bool :=
  g.routes.any (fun r => (r.kind != kEntry && r.srcUnit == e) || (r.kind != kExit && r.dstUnit == e))
/-- The channels and outputs that a slot names are routed; a reply output leads inside the region. -/
def slotRoutesOk (g : Page) (e : Nat) (i : Instr) : Bool :=
  match i.fields? with
  | none => true
  | some f =>
    let tst : BitVec 8 := if f.tmask ≠ 0 then BitVec.ofNat 8 (2 ^ f.tch.val) else 0
    let chans := f.inrdy ||| f.deq ||| f.readMask ||| tst
    (chanKeys e chans).all (fun k => (g.entry k).isSome) &&
    (chanKeys e f.omask).all (fun k => match g.output k with
      | some r => !Instr.isRequest i || r.kind == kLocal
      | none => false)
/-- The depth of an input, with its entry. -/
def depthOf (g : Page) (k : Nat) : Nat := match g.entry k with | some r => r.arg + 1 | none => 0
def bflyDepthOk (g : Page) : Bool :=
  let w := if g.f 14 12 4 = 2 then 32 else (fmtAt (g.f 14 12 4)).w
  !g.en 14 || decide (max 1 (2 ^ g.f 14 6 3 / (256 / w)) + 1 ≤ depthOf g 112)
def checkedEnd (r : Route) : Bool := !r.chk || (r.dstUnit == 19 && decide (4 ≤ r.dst % 8))
/-- The ROUTE rules of one page. -/
def routesOk (g : Page) (pix : Nat) : Bool :=
  g.routes.all (fun r => (r.kind == kEntry || decide (r.srcUnit ≤ 19)) && decide (r.dstUnit ≤ 19) && checkedEnd r &&
    !(r.kind == kExit && r.arg == pix)) &&
  noDup ((g.routes.filter (fun r => r.kind != kEntry)).map (·.src)) &&
  noDup ((g.routes.filter (fun r => r.kind != kExit)).map (·.dst)) &&
  ((List.range 12).all (fun i => opPortsOk g (i + 8))) && bflyDepthOk g && (!g.en 17 || decide (2 ≤ depthOf g 136)) &&
  (List.range 8).all (fun e => elemUsed g e || (List.range 16).all (fun j => g.slots.getD (16 * e + j) 0 == fillNop g e))

/-! ## EXTENT (R260, R269, R262) -/

/-- The AGEN extent of a page: [lo, hi) over the integers; none where AGEN is off. -/
def agenExtent (g : Page) : Option (Int × Int) :=
  if !g.en 8 then none
  else
    let f := g.f 8
    if f 7 1 = 1 ∨ f 1 2 ≠ 0 then some ((f 384 64 : Nat), (f 448 64 : Nat))
    else
      let ez : Int := match f 4 3 with | 0 => 1 | 1 => 2 | 2 => 4 | 3 => 8 | _ => 32
      let span := fun (k : Nat) => ((f (256 + 16 * k) 16 : Nat) - 1 : Int) * sgn 32 (f (128 + 32 * k) 32)
      let ks := List.range 4
      let lo := ks.foldl (fun a k => a + min 0 (span k)) ((f 320 64 : Nat) : Int)
      let hi := ks.foldl (fun a k => a + max 0 (span k)) ((f 320 64 : Nat) : Int)
      some (lo, hi + ez)
def wportExtent (g : Page) : Option (Int × Int) :=
  if !g.en 10 then none
  else
    let f := g.f 10
    let top := (bitsSet 8 (f 40 8)).foldl max 0
    some ((f 448 64 : Nat), ((f 448 64 + (f 352 32 - 1) * f 416 32 + top * f 384 32 + 32 * f 33 3 : Nat) : Int))
/-- The MIF's window; WLO = WHI = 0 alone is none (R521). -/
def windowExtent (g : Page) : Option (Int × Int) :=
  if !g.en 9 || (g.f 9 64 64 == 0 && g.f 9 128 64 == 0) then none else some ((g.f 9 64 64 : Nat), (g.f 9 128 64 : Nat))
def extInside (x : Option (Int × Int)) : Bool :=
  match x with
  | none => true
  | some (lo, hi) => decide (0 ≤ lo ∧ lo < hi ∧ hi ≤ 2 ^ 57)
/-- The extents of a page that STRICT compares, with whether each is a write extent (R260). -/
def strictExts (g : Page) : List ((Int × Int) × Bool) :=
  (match agenExtent g with | some x => [(x, g.en 9 && g.f 9 5 2 == 2)] | none => []) ++
  (match windowExtent g with | some x => [(x, true)] | none => [])
def overlaps (a b : Int × Int) : Bool := decide (a.1 < b.2 ∧ b.1 < a.2)
def strictClash (a b : Page) : Bool :=
  (strictExts a).any (fun x => (strictExts b).any (fun y => (x.2 || y.2) && overlaps x.1 y.1))

/-! ## The order of the checks (R221) -/

def stBadDesc : Nat := 1
def stPage : Nat := 2
def stArmed : Nat := 3
def stEnc : Nat := 4
def stMxcfg : Nat := 5
def stSealp : Nat := 6
def stUnsigned : Nat := 7
def stRoute : Nat := 8
def stExtent : Nat := 9
def stForbid : Nat := 10
def stMxbusy : Nat := 11
def stNoplane : Nat := 12
def stQuota : Nat := 13

/-- A failed check: its status, and the first failing slot where one is named. -/
abbrev PageErr := Nat × Option (Nat × Nat)

/-- Checks of the image alone, up to SEALP. Among the ENC checks those of header, routes and operator blocks come first and name no
slot (log entry 66). -/
def imageErr (g : Page) (aq : Nat) : Option PageErr :=
  let reqOk := fun (_ : Nat) (i : Instr) => g.en 9 || !Instr.isRequest i
  if !headerOk g.bytes || !(routeWords g.bytes).all routeEnc || !((List.range 12).all (fun i => blockEnc g (i + 8))) then
    some (stEnc, none)
  else match firstSlot g (fun e i => reqOk e i) with
    | some x => some (stEnc, some x)
    | none =>
      if !mxWordOk g.mxcfg then some (stMxcfg, none)
      else match firstSlot g (fun _ i => mxSlotOk g aq i) with
        | some x => some (stMxcfg, some x)
        | none =>
          if !sealRoutesOk g then some (stSealp, none)
          else match firstSlot g (sealSlotOk g) with
            | some x => some (stSealp, some x)
            | none => none
/-- The ROUTE and EXTENT checks of the image alone. -/
def imageRouteErr (g : Page) (pix : Nat) : Option PageErr :=
  if !routesOk g pix then some (stRoute, none)
  else (firstSlot g (slotRoutesOk g)).map (fun x => (stRoute, some x))
def extentErr (g : Page) : Bool := !(extInside (agenExtent g) && extInside (wportExtent g) && extInside (windowExtent g))

/-- Pool entries the routes need (R330). -/
def poolNeed (g : Page) : Nat :=
  sumBy (fun r => if r.kind = kExit then 0 else r.arg + 1 + (if r.kind = kEntry then 256 else 0)) g.routes

/-! ## A placed plane (R24, R331) -/

def chanOf (r : Route) : Chan := { depth := r.arg + 1, back := r.back, entry := r.kind == kEntry, checked := r.chk }
def outOf (r : Route) : Out := { dest := if r.kind = kExit then .exit r.arg r.dst r.chk else .loc r.dst }
/-- A plane as PLACE sets it up. -/
def newPlane (g : Page) (vd cid sec pix tq aq : Nat) (signed : Bool) : Plane :=
  let elems := (List.range 8).map (fun e =>
    ({ g := Vector.replicate 32 0, p := BitVec.ofNat 8 (bits g.ipred.toNat (8 * e) 8), halted := false } : Elem))
  let ops : OpSt := { rngC := BitVec.ofNat 128 (g.f 18 384 128) }
  { vd := vd, cid := cid, sec := sec, pix := pix, tq := tq, aq := 16 * aq, signed := signed, page := g,
    elems := elems, mx := List.replicate 8 mxZero, ops := ops, cElems := elems, cOps := ops,
    chans := g.routes.foldl (fun t r => if r.kind = kExit then t else tset t r.dst (chanOf r)) [],
    outs := g.routes.foldl (fun t r => if r.kind = kEntry then t else tset t r.src (outOf r)) [] }

end Sys2Proof.Machine
end

