-- ==== Sys2Proof/Machine/Mif.lean ====
section
/-! DEFINITION. The MIF: element requests, streams, replies (R155 to R163, R262 to R268, R500). -/

namespace Sys2Proof.Machine

def mifBit (p : Plane) (i : Nat) : Bool := (blockOf p 9).testBit i
def mifOtag (p : Plane) : BitVec 4 := BitVec.ofNat 4 (bits (blockOf p 9) 12 4)

/-! ## Strands and holding (R160, R304, R307, R46) -/

/-- The local strand on which a store travels (R160): the one it names, or strand 7 towards another die. -/
def storeStrand (s : State) (pl : Nat) (lsix : Option Nat) (pa : Nat) : Option Nat :=
  match lsix with
  | some k => some k
  | none => if dieKey pa = ownDieKey s (planeDie pl) then none else some 7

/-- Packets of a strand that are held or not acknowledged (R307). -/
def strandLoad (p : Plane) (six die : Nat) : Nat :=
  (p.unack.filter (fun k => match k.body with
    | .fx _ (some x) => x.six % 8 == six && x.die == die
    | _ => false)).length +
  (p.held.filter (fun h => match h.fx with
    | .fx _ (some x) => x.six % 8 == six && x.die == die
    | _ => false)).length

/-- Effects held in the commit buffer, in order, each a member of its strand (R160). -/
def holdAll (pl : Nat) (late : Bool) : List (Fx × Option Nat) → Plane → Plane
  | [], p => p
  | (f, k) :: r, p =>
    let die := dieKey f.pa
    holdAll pl late r (match k with
      | none => { p with held := p.held ++ [{ fx := .fx f none, late := late }] }
      | some k =>
        let key := strandIdx k die
        let n := tget p.seqs key 0
        let st : Strand := { six := planeSix pl k, die := die, seq := n }
        { p with held := p.held ++ [{ fx := .fx f (some st), late := late }], seqs := tset p.seqs key ((n + 1) % 65536) })

/-- Whether the commit buffer and the strands' windows admit a list of effects. -/
def holdRoom (p : Plane) (l : List (Fx × Option Nat)) : Bool :=
  let remote := fun (x : Fx × Option Nat) => x.2.isSome && (match x.1 with | .store _ => true | _ => false)
  let m := (l.filter remote).length
  p.room (32 * (l.length - m)) m &&
  l.all (fun x => match x.2 with
    | some k => decide (strandLoad p k (dieKey x.1.pa) + l.length ≤ 32768)
    | none => true)

/-! ## Reply sealing (R500) -/

/-- The reply nonce of a session (R497). -/
def replyNonce (x : KeySlot) : Bytes := bytesLE 12 (x.sid * 2 ^ 64 + x.rp % 2 ^ 63)
/-- 32 bytes sealed at offset b of the reply window. -/
def sealAt (x : KeySlot) (b : Nat) (v : Lanes) : Lanes :=
  let ks := gcmStream (roundKeys (bytesLE 32 x.key.toNat)) (replyNonce x) 2 (m32 (2 + b / 16))
  BitVec.ofNat 256 (ofBytesLE (xorB (bytesLE 32 v.toNat) ks))
/-- A BLK store of a sealing MIF: the ciphertext, or the REASON of its final fault. -/
def sealStore (s : State) (p : Plane) (blk : Bool) (va : Word) (v : Lanes) : Lanes ⊕ Nat :=
  if !mifBit p 11 then .inl v
  else
    let x := s.slot (bits (blockOf p 9) 192 12)
    if !blk then .inr rForbid
    else if x.kind != .session || x.vd != p.vd || decide (va.toNat < x.rbase) || decide (x.rbase + x.rlen < va.toNat + 32) then
      .inr rKey
    else .inl (sealAt x (va.toNat - x.rbase) v)

/-! ## Translating several addresses (R263, R265) -/

/-- Addresses translated in turn, behind those translated already; the answer is the list of (va, pa, kslot, cp), or the position,
address and reason of the first fault and what was translated ahead of it. -/
def translateAll (unit vd : Nat) (write blk : Bool) : List Word → List (Word × Nat × Nat × Nat) → State →
    State × (List (Word × Nat × Nat × Nat) ⊕ (Nat × Word × Nat × List (Word × Nat × Nat × Nat)))
  | [], got, s => (s, .inl got)
  | a :: r, got, s =>
    match translateFor s unit vd a write false blk with
    | (s, .bad e) => (s, .inr (got.length, a, e, got))
    | (s, .ok pa k cp _) => translateAll unit vd write blk r (got ++ [(a, pa, k, cp)]) s
/-- The elements of the first request that were translated ahead of a resolved fault (R267). -/
def gotOf (p : Plane) : List (Word × Nat × Nat × Nat) := match p.fault with | some f => f.got | none => []

/-- The pieces of a load: value i of n bytes at a physical address to position i. -/
def piecesOf (n : Nat) : Nat → List (Word × Nat × Nat × Nat) → List Piece
  | _, [] => []
  | i, (_, pa, _, _) :: r => ⟨pa / 32 * 32, pa % 32, n, n * i⟩ :: piecesOf n (i + 1) r
/-- The distinct sectors of a translation, in order, with key slot, policy, and the address and position of the first value in each. -/
def sectorsOf : Nat → List (Word × Nat × Nat × Nat) → List (Nat × Nat × Nat × Word × Nat) → List (Nat × Nat × Nat × Word × Nat)
  | _, [], acc => acc
  | i, (va, pa, k, cp) :: r, acc =>
    let x := pa / 32 * 32
    sectorsOf (i + 1) r (if acc.any (fun e => e.1 == x) then acc else acc ++ [(x, k, cp, va, i)])

/-- A load's token delivered in its place (R161). -/
def deliverLoad (s : State) (pl : Nat) (l : Load) : State :=
  s.modPlane pl (fun p =>
    let utag := l.tag.setWidth 4
    let t := if l.ue then poisonTok (opOrigin s pl 9 causeMemue 0xFFFF) utag else if l.nul then nullTok false utag else dataTok l.data false utag
    { (p.fillPlace l.port l.place t (s.planeAc pl + 1)).touch (s.planeAc pl) with loads := p.loads.filter (fun x => x.id != l.id) })

/-- A sector that has returned put into a load; the load is delivered with its last one. -/
def takeSector (s : State) (pl id sector : Nat) (v : Lanes) (ue nul : Bool) : State :=
  match s.plane? pl with
  | none => s
  | some p => match p.loads.find? (fun l => l.id == id) with
    | none => s
    | some l =>
      let put := fun (d : Nat) (x : Piece) =>
        if x.sector = sector then d ||| (bits v.toNat (8 * x.off) (8 * x.n) * 2 ^ (8 * x.dst)) else d
      let l' := { l with waiting := l.waiting.filter (· != sector), ue := l.ue || ue, nul := l.nul || nul,
                         data := BitVec.ofNat 256 (l.pieces.foldl put l.data.toNat) }
      let s := s.setPlane pl { p with loads := p.loads.map (fun x => if x.id = id then l' else x) }
      if l'.waiting.isEmpty then deliverLoad s pl l' else s

/-- A sector of a load asked for: a packet to its home, or to another package (log entry 4). The load is ordered behind the plane's
strand packets that are not acknowledged (R300). -/
def askSector (s : State) (pl id sector kslot cp : Nat) (acq : Option Scope) : State :=
  match s.plane? pl with
  | none => s
  | some p =>
    toNet s ⟨.plane pl, p.vd, dieKey sector, homeAc s (planeTile pl) sector, .load sector pl id kslot acq (cp == cpUncached),
      p.unack.filterMap Packet.strand?⟩

/-! ## Element requests (R155 to R163) -/

def Req.write (r : Req) : Bool :=
  match r.op with
  | .load _ _ => false
  | .amo h => h != 15
  | _ => true
/-- An access of one whole sector. -/
def Req.blk (r : Req) : Bool :=
  match r.op with
  | .load .blk _ | .store .blk _ => true
  | _ => false
/-- ACC of a fault record (R266). -/
def Req.acc (r : Req) : Nat :=
  match r.op with
  | .load _ _ => 0
  | .amo _ | .vamo _ => 2
  | _ => 1

/-- The request leaves the queue; the MIF has used n accesses. -/
def reqDone (pl n : Nat) (s : State) : State :=
  s.modPlane pl (fun p =>
    { p.touch (s.planeAc pl) with reqs := p.reqs.drop 1, firedAt := tset p.firedAt 9 (s.planeAc pl + n), fault := none })
/-- A reply given without a memory access. -/
def replyNow (pl : Nat) (r : Req) (t : Token) (s : State) : State :=
  match r.port with
  | some k => s.modPlane pl (fun p => p.fillPlace k r.place t (s.planeAc pl + 1))
  | none => s

/-- The message of an AMO (R83, R156). -/
def amoMsg (pl : Nat) (p : Plane) (r : Req) (h pa kslot : Nat) (psn : Option Word) : Msg :=
  { handler := h, psn := psn, w32 := h == 1 || h == 11, nr := r.port.isNone, operand := r.data.setWidth 64, pa := pa,
    vd := p.vd, elem := r.elem, kslot := kslot,
    cont := match r.port with
      | some k => match tfind p.outs k with
        | some o => (match o.dest with
          | .loc c => .chan pl c r.place r.otag
          | .exit _ _ _ => .none)
        | none => .none
      | none => .none }

/-- Bytes of a lane or pair at its place in a sector. -/
def laneAccess (va : Word × Nat × Nat × Nat) (n i : Nat) (v : Lanes) (rel : Option Scope) (close : Bool) : Access :=
  let (_, pa, k, _) := va
  ⟨pa / 32 * 32, BitVec.ofNat 256 (bits v.toNat (8 * n * i) (8 * n) * 2 ^ (8 * (pa % 32))),
    BitVec.ofNat 32 ((2 ^ n - 1) * 2 ^ (pa % 32)), rel, close, k⟩
def laneAccesses (n : Nat) (v : Lanes) (rel : Option Scope) (close : Bool) : Nat → List (Word × Nat × Nat × Nat) → List Access
  | _, [] => []
  | i, x :: r => laneAccess x n i v rel close :: laneAccesses n v rel close (i + 1) r

/-- A translated request performed: a load's first sector asked for and the others one in each ac (R263), or effects held; none where
the commit buffer has no room. -/
def performReq (s : State) (pl : Nat) (p : Plane) (r : Req) (l : List (Word × Nat × Nat × Nat)) : Option State :=
  let hold := fun (fs : List (Fx × Option Nat)) =>
    if holdRoom p fs then some (reqDone pl (max 1 fs.length) (s.modPlane pl (holdAll pl r.late fs))) else none
  let stores := fun (as : List Access) => hold (as.map (fun a => (.store a, storeStrand s pl r.lsix a.sector)))
  match r.op with
  | .load _ acq =>
    match r.port with
    | none => some (reqDone pl 1 s)
    | some k =>
      let id := p.nextId
      let secs := sectorsOf 0 l []
      let ld : Load := ⟨id, k, r.place, r.otag.setWidth 16, piecesOf r.op.bytes 0 l, secs.map (·.1), 0, false, 0, acq.isSome, false⟩
      let s := s.setPlane pl { p with nextId := id + 1, loads := p.loads ++ [ld] }
      match secs with
      | [] => some (reqDone pl 1 s)
      | (x, ks, cp, _) :: rest =>
        let who := fun (va : Word) => ({ va := va, src := 0, slot := r.slot, elem := r.elem } : Asker)
        some (reqDone pl 1 ((askSector s pl id x ks cp acq).modPlane pl (fun p =>
          { p with stream := rest.map (fun y => .load id y.1 y.2.1 y.2.2.1 (who y.2.2.2.1)) })))
  | .store .blk rel =>
    match l with
    | x :: _ => match sealStore s p true x.1 r.data with
      | .inl v => stores [laneAccess x 32 0 v rel false]
      | .inr e =>
        (raisePlaneFault s pl x.1 0 e 1 0 r.slot r.elem []).map (reqDone pl 1)
    | [] => some (reqDone pl 1 s)
  | .store _ rel =>
    match l with
    | x :: _ => match sealStore s p false x.1 r.data with
      | .inl v => stores (laneAccesses r.op.bytes v rel false 0 l)
      | .inr e => (raisePlaneFault s pl x.1 0 e 1 0 r.slot r.elem []).map (reqDone pl 1)
    | [] => some (reqDone pl 1 s)
  | .close sc =>
    match l with
    | x :: _ => match sealStore s p false x.1 r.data with
      | .inl v => stores [laneAccess x 8 0 v (some sc) true]
      | .inr e => (raisePlaneFault s pl x.1 0 e 1 0 r.slot r.elem []).map (reqDone pl 1)
    | [] => some (reqDone pl 1 s)
  | .amo h =>
    match l with
    | (_, pa, k, _) :: _ =>
      let psn := match r.kind with | .poison o => some o | _ => none
      hold [(.invoke (amoMsg pl p r h pa k psn), r.lsix)]
    | [] => some (reqDone pl 1 s)
  | .vamo wide =>
    match l with
    | (_, pa, k, _) :: _ => hold [(.vamo pa wide r.data k, r.lsix)]
    | [] => some (reqDone pl 1 s)

/-- A request that makes no access: suppressed, or poisoned (R163). -/
def plainReq (pl : Nat) (r : Req) (s : State) : State :=
  reqDone pl 1 (replyNow pl r (kindTok r.kind 0 false r.otag) s)

/-- The first request of a plane taken (R161, R265). A poisoned AMO takes no sequence number, makes no access and so meets no fault:
its invocation goes out with PSN where its address translates as a read, and else its poisoned reply is given at once (R163, log
entry 65). -/
def takeRequest (s : State) (pl : Nat) (p : Plane) (r : Req) : Option State :=
  let poisonedAmo := match r.op, r.kind, r.port with
    | .amo _, .poison _, some _ => true
    | _, _, _ => false
  let failed := match p.fault with | some f => f.failed | none => false
  let refuse := fun (s : State) =>
    reqDone pl 1 (replyNow pl r (poisonTok (opOrigin s pl 9 causeXfault 0xFFFF) r.otag) s)
  let unit := tlbTile (planeTile pl)
  if poisonedAmo then
    match translateAll unit p.vd false false r.addrs [] s with
    | (s, .inl l) => performReq s pl p { r with lsix := none } l
    | (s, .inr _) => some (plainReq pl r s)
  else if !r.kind.isData then some (plainReq pl r s)
  else if failed then some (refuse s)
  else match translateAll unit p.vd r.write r.blk (r.addrs.drop (gotOf p).length) (gotOf p) s with
    | (s, .inl l) => performReq s pl p r l
    | (s, .inr (_, va, e, got)) =>
      match raisePlaneFault s pl va 0 e r.acc 0 r.slot r.elem got with
      | none => none
      | some s => if stalls e then some s else some (refuse s)

/-! ## Streams (R263) -/

/-- A group taken: its accesses follow one by one, a group without access gives its token at once. ord: the stream ordinal behind
it. -/
def groupDone (pl ord : Nat) (s : State) : State :=
  s.modPlane pl (fun p =>
    { p.touch (s.planeAc pl) with agq := p.agq.drop 1, fault := none, ops := { p.ops with strOrd := ord % 2 ^ 48 } })

/-- The values of a store group put into sector accesses, later positions over earlier ones. -/
def groupAccess (n : Nat) (v : Lanes) (l : List (Word × Nat × Nat × Nat)) (sec : Nat × Nat × Nat × Word × Nat) : Access :=
  let parts := (laneAccesses n v none false 0 l).filter (fun a => a.sector == sec.1)
  parts.foldl (fun (a b : Access) =>
    { a with data := BitVec.ofNat 256 (mergeMask 32 b.mask.toNat b.data.toNat a.data.toNat), mask := a.mask ||| b.mask })
    ⟨sec.1, 0, 0, none, false, sec.2.1⟩

/-- The first group of AGEN's queue taken (R263). -/
def takeGroup (s : State) (pl n : Nat) (p : Plane) (addrs : List Word) (kind : Kind) (ord : Nat) : Option State :=
  let load := mifSdir p == 1
  let late := afterKnot p 9
  let after := ord + addrs.length
  let failed := match p.fault with | some f => f.failed | none => false
  let store := if load then none else opHead p 9 0 n
  let kind := match store with | some t => kind.join (kindOfToks [t]) | none => kind
  let lsix := if mifBit p 7 then some (bits (blockOf p 9) 8 3) else none
  let give := fun (s : State) (k : Kind) => s.modPlane pl (fun p => p.enqueue 72 (some (kindTok k 0 false (mifOtag p))) (n + 1) late)
  let finish := fun (s : State) (k : Kind) => some (mifUsed pl (groupDone pl after (if load then give s k else dequeue s pl 72)))
  if (load && !p.outReady 72 n) || (!load && store.isNone) then none
  else if !kind.isData then finish s kind
  else if failed then finish s (.poison (opOrigin s pl 9 causeXfault 0xFFFF))
  else match translateAll (tlbTile (planeTile pl)) p.vd (!load) (esz p == 32) (addrs.drop (gotOf p).length) (gotOf p) s with
    | (s, .inr (i, va, e, got)) =>
      (match raisePlaneFault s pl va (ord + i) e (if load then 0 else 1) 1 0 0 got with
       | none => none
       | some s => if stalls e then some s else finish s (.poison (opOrigin s pl 9 causeXfault 0xFFFF)))
    | (s, .inl l) =>
      let secs := sectorsOf 0 l []
      let who := fun (y : Nat × Nat × Nat × Word × Nat) => ({ va := y.2.2.2.1, ord := ord + y.2.2.2.2 } : Asker)
      if load then
        let id := p.nextId
        let q := { p with nextId := id + 1 }
        let place := q.nextId
        let q := q.enqueue 72 none 0 late
        let ld : Load := ⟨id, 72, place, (mifOtag p).setWidth 16, piecesOf (esz p) 0 l, secs.map (·.1), 0, false, 0, false, false⟩
        some (groupDone pl after (s.setPlane pl
          { q with loads := q.loads ++ [ld], stream := secs.map (fun x => .load id x.1 x.2.1 x.2.2.1 (who x)) }))
      else
        let v := match store with | some t => t.data | none => 0
        let whole := esz p == 32
        match addrs with
        | [] => finish s .null
        | a :: _ => match sealStore s p whole a v with
          | .inr e => (raisePlaneFault s pl a ord e 1 1 0 0 []).bind (fun s => finish s .null)
          | .inl v =>
            some (groupDone pl after ((dequeue s pl 72).modPlane pl (fun p =>
              { p with stream := secs.map (fun x => .store (groupAccess (esz p) v l x) lsix (who x)) })))

/-- Whether the MIF may act in this ac: an outstanding fault or acquire holds it. A drain that it has taken ends its stream, not
the elements' requests (R49). -/
def mifFree (p : Plane) (n : Nat) : Bool :=
  mifOn p && unitFree { p with drained := [] } 9 n && (match p.fault with | some f => f.src != 3 && (f.failed || f.retry) | none => true) && !p.loads.any (fun l => l.acq)

/-- MIF_REQUEST_TAKE (R161, R263). -/
def execMifRequestTake (pl : Nat) (s : State) : Ans :=
  match s.plane? pl with
  | none => .next s
  | some p =>
    let n := s.planeAc pl
    if !(isActive s pl && mifFree p n && p.stream.isEmpty) then .next s
    else
      let stream := fun (_ : Unit) => match p.agq with
        | .group addrs kind ord :: _ => if mifSdir p = 0 then none else takeGroup s pl n p addrs kind ord
        | _ => none
      let groupFirst := match p.fault with | some f => f.src == 1 | none => false
      let res := match p.reqs with
        | r :: _ => if r.ac < n ∧ groupFirst = false then takeRequest s pl p r else stream ()
        | [] => stream ()
      match res with
      | some s => .next s
      | none => .next s

/-- For whom an access is made, and whether it is of one whole sector (R457). -/
def StreamAcc.asker : StreamAcc → Asker
  | .load _ _ _ _ w => w
  | .store _ _ w => w
def StreamAcc.whole (p : Plane) : StreamAcc → Bool
  | .store a _ _ => a.mask.toNat == fullMask
  | .load id sector _ _ _ => p.loads.any (fun l => l.id == id && l.pieces.any (fun x => x.sector == sector && x.n == 32))
/-- The accesses of a restored group translated again, in order: each with its physical address, key slot and policy, or the first that
does not translate, with the reason. -/
def translateStream (unit : Nat) (p : Plane) :
    List StreamAcc → List (StreamAcc × Nat × Nat × Nat) → State → State × (List (StreamAcc × Nat × Nat × Nat) ⊕ (StreamAcc × Nat))
  | [], got, s => (s, .inl got)
  | x :: r, got, s =>
    match translateFor s unit p.vd x.asker.va x.isStore false (x.whole p) with
    | (s, .bad e) => (s, .inr (x, e))
    | (s, .ok pa k cp _) => translateStream unit p r (got ++ [(x, pa / 32 * 32, k, cp)]) s
/-- The sector that a load's old one has become. -/
def newSector (l : List (StreamAcc × Nat × Nat × Nat)) (id old : Nat) : Nat :=
  (l.findSome? (fun x => match x.1 with
    | .load i o _ _ _ => if i = id ∧ o = old then some x.2.1 else none
    | .store _ _ _ => none)).getD old
/-- A restored group goes on at the sectors where its addresses are now; what its load has already received is in it. -/
def moveStream (p : Plane) (l : List (StreamAcc × Nat × Nat × Nat)) : Plane :=
  let acc := fun (x : StreamAcc × Nat × Nat × Nat) => match x.1 with
    | .load i _ _ _ w => StreamAcc.load i x.2.1 x.2.2.1 x.2.2.2 w
    | .store a k w => .store { a with sector := x.2.1, kslot := x.2.2.1 } k w
  let load := fun (y : Load) => { y with
    pieces := (y.pieces.filter (fun z => y.waiting.contains z.sector)).map (fun z => { z with sector := newSector l y.id z.sector })
    waiting := y.waiting.map (newSector l y.id) }
  { p with stream := l.map acc, loads := p.loads.map load, restream := false }
/-- A restored group that cannot go on: its load's token is poisoned with CAUSE XFAULT, its stores have no effect (R161, R265). -/
def failStream (s : State) (pl : Nat) (p : Plane) : State :=
  let ids := p.stream.filterMap (fun x => match x with | .load i _ _ _ _ => some i | .store _ _ _ => none)
  let poison := fun (s : State) (l : Load) => s.modPlane pl (fun p =>
    { p.fillPlace l.port l.place (poisonTok (opOrigin s pl 9 causeXfault 0xFFFF) (l.tag.setWidth 4)) (s.planeAc pl + 1) with
        loads := p.loads.filter (fun x => x.id != l.id) })
  ((p.loads.filter (fun l => ids.contains l.id)).foldl poison s).modPlane pl (fun p =>
    { p.touch (s.planeAc pl) with stream := [], restream := false, fault := none })
/-- A restored group's accesses translated again before the first of them (R268, R463). -/
def restream (s : State) (pl : Nat) (p : Plane) : State :=
  match p.fault with
  | some f => if f.failed && f.src != 3 then failStream s pl p else if f.retry && f.src != 3 then again { p with fault := none } else s
  | none => again p
where
  again (p : Plane) : State :=
    match translateStream (tlbTile (planeTile pl)) p p.stream [] (s.setPlane pl p) with
    | (s, .inl l) => s.modPlane pl (fun p => moveStream p l)
    | (s, .inr (x, e)) =>
      let w := x.asker
      match raisePlaneFault s pl w.va w.ord e (if x.isStore then 1 else 0) w.src w.slot w.elem [] with
      | none => s
      | some s => if stalls e then s else failStream s pl p

/-- MIF_STREAM_ACCESS (R263): one sector access of the group in progress; a stopped MIF makes none (R56). -/
def execMifStreamAccess (pl : Nat) (s : State) : Ans :=
  match s.plane? pl with
  | none => .next s
  | some p =>
    let n := s.planeAc pl
    if !(isActive s pl && p.armed && !p.assay && !p.stopped.contains 9 && !markerDue p 9 n && decide (tget p.firedAt 9 0 ≤ n)) then .next s
    else if p.restream then .next (restream s pl p)
    else match p.stream with
      | [] => .next s
      | .load id x k cp _ :: r =>
        .next (mifUsed pl (askSector (s.setPlane pl ({ p with stream := r }.touch n)) pl id x k cp none))
      | .store a lsix _ :: r =>
        let f := [((.store a : Fx), storeStrand s pl lsix a.sector)]
        if holdRoom p f then .next (mifUsed pl (s.setPlane pl (holdAll pl (afterKnot p 9) f ({ p with stream := r }.touch n))))
        else .next s

/-- MEMORY_REPLY (R161): a sector returns to its load, or is a misroute where none asked for it (R66). -/
def execMemoryReply (k : Nat) (s : State) : Ans :=
  match arriving s k with
  | some x => match x.body with
    | .reply pl id sector v ue nul =>
      if tileHolds s (planeTile pl) then .next s
      else (match replyCase s pl (fun p => p.loads.any (fun l => l.id == id && l.waiting.contains sector)) with
        | some case => .next (misroute s k x case pl 9 0 (x.srcFa s) none)
        | none => .next (takeSector (s.dropPacket k) pl id sector v ue nul))
    | _ => .next s
  | none => .next s

end Sys2Proof.Machine
end

