-- ==== Sys2Proof/Machine/Home.lean ====
section
/-! DEFINITION. Homes and clasps: loads, stores, handlers and vector atomics performed (R293, R164 to R167, R520), strands
(R304 to R309), packets of a board link (R86). -/

namespace Sys2Proof.Machine

/-! ## Loads (R293, R296) -/

/-- HOME_LOAD (R293, R296): the home or the requester's cluster performs a load, and a reply leaves. -/
def execHomeLoad (k : Nat) (s : State) : Ans :=
  match arriving s k with
  | some x => match x.body with
    | .load sec pl id kslot acq unc =>
      if !mayPerform s k x then .next s
      else
        let c := planeCluster pl
        let nul := fifoEmpty s sec
        match loadSector (s.dropPacket k) (.plane pl) x.vd sec kslot (if unc then cpUncached else 0) with
        | (s, v, ue) =>
          let s := match acq with | some sc => if wideScope sc then invalidate s c else s | none => s
          let at_ := s.planeAc pl + hops (planeTile pl) (homeTile (sec % 2 ^ 44))
          .next (s.send ⟨x.src, x.vd, ownDieKey s (planeDie pl), at_, .reply pl id sec v ue nul, []⟩)
    | _ => .next s
  | none => .next s

/-! ## Handlers (R164 to R167, R520) -/

/-- The value a handler writes (none: no write) and its result, from the old value of its target; the target's width in bytes
is handlerBytes. -/
def handlerBytes (h : Nat) : Nat := if h = 1 ∨ h = 10 ∨ h = 11 then 4 else if h = 13 ∨ h = 14 then 16 else 8
def applyArch (h : Nat) (m op : Nat) : Option Nat × Nat :=
  let si := fun x => sgn 64 x
  match h with
  | 0 => (some ((m + op) % 2 ^ 64), m)
  | 1 => (some ((m + op % 2 ^ 32) % 2 ^ 32), m)
  | 2 => (some (if si op < si m then op else m), m)
  | 3 => (some (if si m < si op then op else m), m)
  | 4 => (some (min m op), m)
  | 5 => (some (max m op), m)
  | 6 => (some (m &&& op), m)
  | 7 => (some (m ||| op), m)
  | 8 => (some (m ^^^ op), m)
  | 9 => (some op, m)
  | 10 => (if m = op / 2 ^ 32 then some (op % 2 ^ 32) else none, m)
  | 11 => (some (fadd fmtF32 .rne 0 m (op % 2 ^ 32)), m)
  | 12 => (some (fadd fmtF64 .rne 0 m op), m)
  | 13 =>
    let c := m % 2 ^ 64
    (some ((c + 2 ^ 64 - op) % 2 ^ 64 + m / 2 ^ 64 * 2 ^ 64), c)
  | 14 =>
    let c := m % 2 ^ 64
    let c' := (c + op / 2 ^ 32 + 2 ^ 64 - op % 2 ^ 32) % 2 ^ 64
    (some (c' + (m / 2 ^ 64 + 1) % 2 ^ 64 * 2 ^ 64), c)
  | _ => (none, m)

/-- The result of an invocation on its way, unless none is due (R164). -/
def sendResult (s : State) (x : Packet) (m : Msg) (val : Word) (null : Bool) (psn : Option Word) (ue : Bool) : State :=
  if m.nr = true ∧ m.bar = false then s
  else
    let die := agentDie s x.src
    s.send ⟨x.src, x.vd, die, s.ac (die % 4) + hops (homeTile (m.pa % 2 ^ 44)) (agentTile x.src),
      .result m.cont val null psn ue m.pa, []⟩

/-- The absent-handler record (R455). -/
def absentRecord (s : State) (x : Packet) (m : Msg) : Bytes :=
  let t := agentTile x.src
  let (sq, ctx, pl) : Nat × Nat × Nat := match x.src with
    | .plane pl => (0, (match s.plane? pl with | some p => p.cid | none => 0), pl)
    | .ctx c => (1, c, 0)
    | _ => (1, 0, 0)
  bytesLE 128 (pack [(120, 8, m.handler), (64, 52, m.pa), (56, 8, 4), (52, 4, m.vd % 16), (49, 3, ctx % 8), (48, 1, sq),
    (45, 3, if sq = 1 then 0 else m.elem), (43, 2, if sq = 1 then 0 else pl % 4), (33, 10, faY s t), (23, 10, faX s t)])

/-- An installed handler's write and result (R506): microcode whose format the spec does not give. -/
def applyInstalled (s : State) (image : BitVec 256) (o kslot off : Nat) (op : Word) : State × Word :=
  let (v, r) := Config.handlerMicrocode image (BitVec.ofNat 256 (sectorAt s o kslot)) off op
  (homePut s o fullMask v.toNat kslot, r)

/-- The arrival at a barrier object (R243), as one indivisible access: the result holds the generation read, with bit 32 where
N is 0. -/
def applyBar (s : State) (x : Packet) (m : Msg) (o : Nat) : State :=
  let off := m.pa % 32
  let v := bits (sectorAt s o m.kslot) (8 * off) 128
  let g := bits v 96 32
  let n := bits v 64 32
  let a := bits v 0 32
  let s := countHbm s m.vd 9 m.pa
  if n = 0 then sendResult s x m (BitVec.ofNat 64 (g + 2 ^ 32)) false none false
  else
    let v' := if (a + 1) % 2 ^ 32 = n then pack [(96, 32, g + 1), (64, 32, n), (32, 32, bits v 32 32)]
      else pack [(96, 32, g), (64, 32, n), (32, 32, bits v 32 32), (0, 32, a + 1)]
    let s := homePut (countHbm s m.vd 10 m.pa) o ((2 ^ 16 - 1) * 2 ^ off) (v' * 2 ^ (8 * off)) m.kslot
    sendResult s x m (BitVec.ofNat 64 g) false none false

/-- An invocation applied at its home (R164): none where an absent handler's record must wait. -/
def applyInvoke (s : State) (x : Packet) (m : Msg) : Option State :=
  match localOff s (m.pa / 32 * 32) with
  | none => some s
  | some o =>
    let off := m.pa % 32
    match m.psn with
    | some org => some (sendResult s x m 0 false (some org) false)
    | none =>
      let absent := decide (16 ≤ m.handler) && (tfind s.hub.handlers (16 * (m.vd / 16) + (m.handler - 16))).isNone
      if absent then
        let rc := absentRecord s x m
        let cid := senderCtx s x.src
        if canRaise s m.vd rc then some (sendResult (raiseEvent (raise s m.vd rc) cid 3) x m 0 true none false) else none
      else if s.bad.contains o then
        let t := homeTile o
        let s := if m.nr = true ∧ m.bar = false then addLog s 9 0 (faY s t) (faX s t) 0 else s
        some (sendResult s x m 0 false none true)
      else if m.bar then some (applyBar s x m o)
      else
        let s := countHbm s m.vd 9 m.pa
        match tfind s.hub.handlers (16 * (m.vd / 16) + (m.handler - 16)), decide (16 ≤ m.handler) with
        | some image, true =>
          let (s, r) := applyInstalled (countHbm s m.vd 10 m.pa) image o m.kslot off m.operand
          some (sendResult s x m r false none false)
        | _, _ =>
          let n := handlerBytes m.handler
          let old := bits (sectorAt s o m.kslot) (8 * off) (8 * n)
          let op := if m.w32 then m.operand.toNat % 2 ^ 32 else m.operand.toNat
          let (w, r) := applyArch m.handler old op
          let s := match w with
            | some v => homePut (countHbm s m.vd 10 m.pa) o ((2 ^ n - 1) * 2 ^ off) (v * 2 ^ (8 * off)) m.kslot
            | none => s
          some (sendResult s x m (BitVec.ofNat 64 r) false none false)

/-- A vector atomic applied at its home (R166, R520). -/
def applyVamo (s : State) (vd sec : Nat) (wide : Bool) (v : Lanes) (kslot : Nat) : State :=
  match localOff s sec with
  | none => s
  | some o =>
    if s.bad.contains o then addLog s 9 0 (faY s (homeTile o)) (faX s (homeTile o)) 0
    else
      let f := if wide then fmtF32 else fmtBF16
      let old := BitVec.ofNat 256 (sectorAt s o kslot)
      let s := countHbm (countHbm s vd 9 sec) vd 10 sec
      homePut s o fullMask (map2 f.w (fun a b => fadd f .rne 0 a b) old v).toNat kslot

/-- An effect performed at its home; none where it must wait. -/
def performFx (s : State) (x : Packet) (f : Fx) : Option State :=
  match f with
  | .store a => if fifoFull s a.sector then none else some (performStore s x.src x.vd a)
  | .vamo sec wide v k => some (applyVamo s x.vd sec wide v k)
  | .invoke m => applyInvoke s x m

/-- HOME_WRITE (R293): a store that travels without a strand. -/
def execHomeWrite (k : Nat) (s : State) : Ans :=
  match arriving s k with
  | some x => match x.body with
    | .fx (.store a) none => if mayPerform s k x ∧ fifoFull s a.sector = false then .next (performStore (s.dropPacket k) x.src x.vd a) else .next s
    | _ => .next s
  | none => .next s

/-- HANDLER_APPLY (R164). -/
def execHandlerApply (k : Nat) (s : State) : Ans :=
  match arriving s k with
  | some x => match x.body with
    | .fx (.invoke m) none =>
      if mayPerform s k x then
        match applyInvoke (s.dropPacket k) x m with
        | some s => .next s
        | none => .next s
      else .next s
    | _ => .next s
  | none => .next s

/-- VAMO_APPLY (R166). -/
def execVamoApply (k : Nat) (s : State) : Ans :=
  match arriving s k with
  | some x => match x.body with
    | .fx (.vamo sec wide v ks) none =>
      if mayPerform s k x then .next (applyVamo (s.dropPacket k) x.vd sec wide v ks) else .next s
    | _ => .next s
  | none => .next s

/-! ## Clasps (R304 to R309) -/

/-- A strand's key at a clasp: the source tile's fabric address and SIX. -/
def strandKey (s : State) (a : Agent) (six : Nat) : Nat := 64 * (faX s (agentTile a) + 1024 * faY s (agentTile a)) + six

def claspGet (s : State) (d key : Nat) : Option ClaspCtx := tfind (s.die d).clasp key
def claspSet (s : State) (d key : Nat) (c : ClaspCtx) : State :=
  let x := s.die d
  s.setDie d { x with clasp := tset x.clasp key c }
def claspDel (s : State) (d key : Nat) : State :=
  let x := s.die d
  s.setDie d { x with clasp := tdel x.clasp key }
/-- Entries of the holding store in use. -/
def claspHeld (s : State) (d : Nat) : Nat := sumBy (fun e => e.2.held.length) (s.die d).clasp

/-- An answer of a clasp on its way to the source. -/
def claspAnswer (s : State) (x : Packet) (b : Body) : State :=
  let die := agentDie s x.src
  s.send ⟨x.src, x.vd, die, s.ac (die % 4) + 1, b, []⟩

/-- A context taken for a strand, unless it holds one; false where none is free (R306). -/
def takeClasp (s : State) (d key seq : Nat) : State × Bool :=
  if (claspGet s d key).isSome then (s, true)
  else if 4096 ≤ (s.die d).clasp.length then (s, false)
  else (claspSet s d key { e := seq, held := [], since := 0 }, true)

/-- Whether a packet of a strand carries a number up to seq; an OPEN counts as one. -/
def ackedBy (six die seq : Nat) (y : Packet) : Bool :=
  match y.body with
  | .fx _ (some st) => st.six == six && st.die == die && decide ((seq + 65536 - st.seq) % 65536 < 32768)
  | .strandOpen i n => i == six && y.die == die && decide ((seq + 65536 - n) % 65536 < 32768)
  | _ => false
/-- The packets of a sender's strand to a die for which no acknowledgement has come or is on its way, in ascending number. -/
def strandWaits (s : State) (a : Agent) (six die : Nat) : List Packet :=
  (unackOf s a).filter (fun y => (match y.body with
    | .fx _ (some st) => st.six == six && st.die == die
    | _ => false) && !(s.net.any (fun z => z.src == a && (match z.body with
    | .ack i d n => i == six && d == die && ackedBy six die n y
    | _ => false))))
/-- The lowest number among them. -/
def strandLow (s : State) (a : Agent) (six die : Nat) : Option Nat :=
  ((strandWaits s a six die).head?.bind Packet.strand?).map (·.seq)

/-- CLASP_OPEN (R306). An OPEN takes a context where its number is the next that the clasp can expect; one whose packets the clasp has
already committed changes nothing, one sent behind packets still to be committed waits for them (R308, log entry 70). -/
def execClaspOpen (k : Nat) (s : State) : Ans :=
  match arriving s k with
  | some x => match x.body with
    | .strandOpen six seq =>
      (match strandLow s x.src six x.die with
       | none => .next (s.dropPacket k)
       | some m =>
         if m = seq then
           match takeClasp (s.dropPacket k) (x.die % 4) (strandKey s x.src six) seq with
           | (s, true) => .next s
           | (s, false) => .next (claspAnswer s x (.retry six x.die seq true))
         else if (seq + 65536 - m) % 65536 < 32768 then .next s
         else .next (s.dropPacket k))
    | _ => .next s
  | none => .next s

/-- A context freed: what it still holds is answered RETRY (R308). -/
def freeClasp (s : State) (d key : Nat) : State :=
  match claspGet s d key with
  | none => s
  | some c => c.held.foldl (fun s h => match h.2.strand? with
      | some st => claspAnswer s h.2 (.retry st.six st.die st.seq false)
      | none => s) (claspDel s d key)

def Packet.closes (x : Packet) : Bool :=
  match x.body with
  | .fx (.store a) _ => a.close
  | _ => false

/-- A number committed: e advances, an ACK leaves after 16 commits or when nothing waits, a close store frees the context. -/
def afterCommit (s : State) (x : Packet) (st : Strand) (d key : Nat) : State :=
  match claspGet s d key with
  | none => s
  | some c =>
    let e := (c.e + 1) % 65536
    let due := decide (16 ≤ c.since + 1) || c.held.isEmpty || x.closes
    let s := claspSet s d key { c with e := e, since := if due then 0 else c.since + 1 }
    let s := if due then claspAnswer s x (.ack st.six st.die st.seq) else s
    if x.closes then freeClasp s d key else s

/-- Held packets that are next committed in turn; one that must still wait goes back on its way (fuel bounds them). -/
def commitHeld (d key : Nat) : Nat → State → State
  | 0, s => s
  | f + 1, s =>
    match claspGet s d key with
    | none => s
    | some c => match tfind c.held c.e with
      | none => s
      | some x =>
        let s := claspSet s d key { c with held := tdel c.held c.e }
        match x.body, x.strand? with
        | .fx fx _, some st =>
          if mayPerform s s.net.length x then
            match performFx s x fx with
            | some s => commitHeld d key f (afterCommit s x st d key)
            | none => s.send x
          else s.send x
        | _, _ => s

/-- CLASP_PACKET (R306, R309): a strand packet is committed, held or dropped. -/
def execClaspPacket (k : Nat) (s : State) : Ans :=
  match arriving s k with
  | none => .next s
  | some x => match x.body, x.strand? with
    | .fx fx _, some st =>
      let d := x.die % 4
      let key := strandKey s x.src st.six
      match claspGet s d key with
      | none => .next (claspAnswer (s.dropPacket k) x (.retry st.six st.die st.seq false))
      | some c =>
        let gap := (st.seq + 65536 - c.e) % 65536
        if gap = 0 then
          if !mayPerform s k x then .next s
          else match performFx (s.dropPacket k) x fx with
            | none => .next s
            | some s =>
              let s := afterCommit s x st d key
              .next (commitHeld d key (c.held.length + 1) s)
        else if gap < 32768 then
          if (tfind c.held st.seq).isSome then .next (s.dropPacket k)
          else if claspHeld s d < 8192 then .next (claspSet (s.dropPacket k) d key { c with held := tset c.held st.seq x })
          else .next (claspAnswer (s.dropPacket k) x (.retry st.six st.die st.seq false))
        else .next (claspAnswer (s.dropPacket k) x (.ack st.six st.die ((c.e + 65535) % 65536)))
    | _, _ => .next s

/-- CLASP_RELEASE (R308). -/
def execClaspRelease (k : Nat) (s : State) : Ans :=
  match arriving s k with
  | some x => match x.body with
    | .release six seq =>
      let d := x.die % 4
      let key := strandKey s x.src six
      match claspGet s d key with
      | none => .next (s.dropPacket k)
      | some c => if c.e = seq % 65536 then .next (freeClasp (s.dropPacket k) d key) else .next s
    | _ => .next s
  | none => .next s

/-- The unacknowledged packets of a sender changed. -/
def setUnack (s : State) (a : Agent) (f : List Packet → List Packet) : State :=
  match a with
  | .plane pl => s.modPlane pl (fun p => { p with unack := f p.unack })
  | .ctx c => s.modCtx c (fun x => { x with unack := f x.unack })
  | _ => s

/-- A store of a packet in another package, known there to have been performed, fires the monitors armed on its sector (R217). -/
def fireRemote (s : State) (y : Packet) : State :=
  match y.body with
  | .fx (.store a) _ => if y.remote s then fireMonitors s a.sector else s
  | _ => s
/-- STRAND_ACK (R305). -/
def execStrandAck (k : Nat) (s : State) : Ans :=
  match arriving s k with
  | some x => match x.body with
    | .ack six die seq =>
      let s := ((unackOf s x.src).filter (ackedBy six die seq)).foldl fireRemote s
      let s := setUnack (s.dropPacket k) x.src (fun l => l.filter (fun y => !ackedBy six die seq y))
      .next (match x.src with | .plane pl => tryRetire s pl | _ => s)
    | _ => .next s
  | none => .next s

/-- Whether an OPEN of a strand with a number is on its way. -/
def openComing (s : State) (a : Agent) (six die n : Nat) : Bool :=
  s.net.any (fun y => y.src == a && y.die == die && (match y.body with | .strandOpen i m => i == six && m == n | _ => false))
/-- An OPEN sent ahead of a strand's packet n, unless its clasp holds a context for the strand or one is on its way (R307). -/
def reopen (s : State) (x : Packet) (six die n : Nat) : State :=
  if (claspGet s (die % 4) (strandKey s x.src six)).isSome || openComing s x.src six die n then s
  else toNet s ⟨x.src, x.vd, die, if die / 4 = s.posN then s.ac (die % 4) + 1 else 0, .strandOpen six n, []⟩

/-- STRAND_RETRY (R306, R307): the unacknowledged packets of the strand go out again in ascending number, after an OPEN where the
clasp holds no context. -/
def execStrandRetry (k : Nat) (s : State) : Ans :=
  match arriving s k with
  | some x => match x.body with
    | .retry six die _ _ =>
      let s := s.dropPacket k
      let mine := strandWaits s x.src six die
      let s := match strandLow s x.src six die with | some n => reopen s x six die n | none => s
      .next (mine.foldl (fun s y => if s.net.contains y then s else toNet s y) s)
    | _ => .next s
  | none => .next s

/-! ## Board-link packets (R86) -/

/-- BAD_PACKET_DISCARD: a packet of unassigned class or MOP on a board link is discarded and counted, its credit returned; bits 233:231 of its head
flit are CLASS, bits 91:88 MOP of a memory request. -/
def execBadPacketDiscard (link : Fin 16) (flit : BitVec 256) (s : State) : Ans :=
  let cls := bits flit.toNat 231 3
  let mop := bits flit.toNat 88 4
  if cls = 6 ∨ cls = 7 ∨ (cls = 1 ∧ 5 < mop) then
    let l := s.hub.links.modify link.val (fun l => { l with errs := min (l.errs + 1) (2 ^ 32 - 1) })
    .next ({ s with hub := { s.hub with links := l } }.emit (.linkCredit link.val))
  else .next s

end Sys2Proof.Machine
end

