-- ==== Sys2Proof/Machine/SeqCore.lean ====
section
/-! DEFINITION. What the sequencer's instructions share (R199 to R208, R212, R247): registers, levels, traps and events, the
advance of the PC, the checks of an access, and the effects a context sends. -/

namespace Sys2Proof.Machine

/-! ## Registers, levels, traps (R200 to R207) -/

def user : BitVec 2 := 0
def super : BitVec 2 := 1
def firm : BitVec 2 := 2

def causeAlign : Nat := 1
def causeIllegal : Nat := 2
def causePriv : Nat := 3
def causePage : Nat := 4
def causeBound : Nat := 6
def causeTrapi : Nat := 7

/-- X[r]; X0 reads zero (R23). -/
def Ctx.getX (c : Ctx) (r : XReg) : Word := if r.val = 0 then 0 else c.x.get r
/-- X[r] written; a write of X0 is discarded. -/
def Ctx.setX (c : Ctx) (r : XReg) (v : Word) : Ctx := if r.val = 0 then c else { c with x := c.x.set r v }

/-- The context goes on at the next position (R82); what the instruction had read in earlier turns is done with. -/
def Ctx.adv (c : Ctx) : Ctx := { c with pc := c.pc + 8, wait := .none, part := [] }

/-- The value of SQ_CAUSE for a trap. -/
def causeWord (ue : Bool) (c : Nat) : Word := BitVec.ofNat 64 (pack [(62, 1, ue.toNat), (0, 4, c)])

/-- A trap taken (R205): at USER into SUPER, at SUPER into FIRM; at FIRM the context stops and the hub gets a record. -/
def takeTrap (s : State) (cid cause : Nat) (ue : Bool) (v epc : Word) : State :=
  let c := { s.ctx cid with wait := .none, part := [] }
  if c.pl = user then
    s.setCtx cid { c with epc := epc, cause := causeWord ue cause, tval := v, ppl := false, peie := c.eie, eie := false,
                          pl := super, pc := c.tvec }
  else if c.pl = super then
    s.setCtx cid { c with fepc := epc, fcause := causeWord ue cause, ftval := v, fppl := c.pl, fpeie := c.eie, eie := false,
                          pl := firm, pc := c.ftvec }
  else (s.setCtx cid { c with run := .stopped }).emit (.hubReport cid cause v)

/-- A trap of the instruction at the PC. -/
def trapHere (s : State) (cid cause : Nat) (v : Word) : State := takeTrap s cid cause false v (s.ctx cid).pc

/-- The lowest pending enabled event of a context that may take events (R206). -/
def eventDue (c : Ctx) : Option Nat :=
  if c.eie = true ∧ c.pl ≠ firm ∧ c.event &&& c.evmask ≠ 0 then
    (List.range 64).find? (fun i => (c.event &&& c.evmask).getLsbD i)
  else none

/-- Whether an event may end the context's wait (R247). -/
def Wait.open (w : Wait) : Bool :=
  match w with
  | .none | .stall _ _ _ | .mwait _ _ _ | .waitw _ _ | .wbill _ _ | .recfg _ _ _ | .sbar _ => true
  | .bar _ a => a.isNone
  | .atomic _ _ _ | .cut _ _ _ _ _ _ | .abort _ _ | .fwcall _ | .firmware => false

/-- Entry for an event (R206): SQ_EPC is the next instruction to execute; a wait ends as R247 says, MWAIT with status 2. -/
def enterEvent (s : State) (cid : Nat) : State :=
  let c := s.ctx cid
  match eventDue c with
  | none => s
  | some i =>
    if c.run ≠ .running ∨ c.wait.open = false then s
    else
      let c := match c.wait with
        | .mwait xd _ _ => { (c.setX xd 2).adv with mon := none, monFired := false }
        | _ => { c with wait := .none, part := [] }
      s.setCtx cid { c with epc := c.pc, cause := BitVec.ofNat 64 (pack [(63, 1, 1), (8, 4, i)]), tval := 0,
                            ppl := c.pl == super, peie := c.eie, eie := false, pl := super, pc := c.tvec }

/-- EVENT_ENTRY (R206). -/
def execEventEntry (cid : Nat) (s : State) : Ans := .next (enterEvent s cid)

/-- The word of an instruction, as SQ_TVAL takes it for ILLEGAL and PRIV. -/
def wordOf (i : Instr) : Word := BitVec.ofNat 64 ((encodeSeq i).getD 0)

/-- A sequencer instruction that needs a level (R200): PRIV below it. -/
def atLevel (lvl : BitVec 2) (i : Instr) (s : State) (k : Nat → Ctx → State) : Ans :=
  let cid := s.cur.cid
  let c := s.ctx cid
  if c.pl.toNat < lvl.toNat then .next (trapHere s cid causePriv (wordOf i)) else .next (k cid c)
/-- An instruction that any level may execute. -/
def anyLevel (s : State) (k : Nat → Ctx → State) : Ans := .next (k s.cur.cid (s.ctx s.cur.cid))

/-- An instruction that writes one register and goes on. -/
def writeX (xd : XReg) (v : Ctx → Word) (s : State) : Ans :=
  anyLevel s (fun cid c => s.setCtx cid (c.setX xd (v c)).adv)

/-- A status written to a register, the instruction done. -/
def finishX (s : State) (cid : Nat) (xd : XReg) (v : Nat) : State :=
  s.modCtx cid (fun c => (c.setX xd (BitVec.ofNat 64 v)).adv)
def finish (s : State) (cid : Nat) : State := s.modCtx cid Ctx.adv

def Ctx.vdn (c : Ctx) : Nat := c.vd.getD 0

/-! ## Accesses (R212) -/

def faRead : Nat := 0
def faWrite : Nat := 1
def faAtomic : Nat := 2
def faFetch : Nat := 3

/-- A translation fault of a context: a stall with its record, or a final record and PAGE (R212); where soft names a status,
the instruction does not raise PAGE and a final fault gives the status with no record (log 35). -/
def ctxFaultS (s : State) (cid : Nat) (va : Word) (reason acc : Nat) (soft : Option (XReg × Nat)) : State :=
  let c := s.ctx cid
  let v := c.vdn
  if stalls reason then
    let (fid, t) := takeFid s v (.ctx cid)
    let rc := seqFaultRec s (ctxCluster cid) v cid va fid false false false reason acc
    if canRaise s v rc then raise (t.modCtx cid (fun c => { c with wait := .stall fid va soft })) v rc else s
  else
    match soft with
    | some (xd, st) => finishX s cid xd st
    | none =>
      let rc := seqFaultRec s (ctxCluster cid) v cid va 0 true false false reason acc
      if canRaise s v rc then takeTrap (raise s v rc) cid causePage false va c.pc else s
def ctxFault (s : State) (cid : Nat) (va : Word) (reason acc : Nat) : State := ctxFaultS s cid va reason acc none

/-- Uncorrectable data met by an instruction (R212). -/
def ctxUe (s : State) (cid : Nat) (va : Word) (acc : Nat) : State :=
  let c := s.ctx cid
  let rc := seqFaultRec s (ctxCluster cid) c.vdn cid va 0 true true false 0 acc
  if canRaise s c.vdn rc then takeTrap (raise s c.vdn rc) cid causePage true va c.pc else s

/-- A context's access translated; k is given the physical address, key slot and cache policy. -/
def ctxAccessS (s : State) (cid : Nat) (va : Word) (acc : Nat) (soft : Option (XReg × Nat))
    (k : State → Nat → Nat → Nat → State) : State :=
  match translate s (tlbCluster (ctxCluster cid)) (s.ctx cid).vdn va (acc == faWrite || acc == faAtomic) false with
  | (s, .ok pa kslot cp _) => k s pa kslot cp
  | (s, .bad r) => ctxFaultS s cid va r acc soft
def ctxAccess (s : State) (cid : Nat) (va : Word) (acc : Nat) (k : State → Nat → Nat → Nat → State) : State :=
  ctxAccessS s cid va acc none k

/-- Whether an own write to a sector is still on its way, which a later access of the context waits for (R295, R299). -/
def ownPending (s : State) (cid sector : Nat) : Bool :=
  s.net.any (fun x => x.src == .ctx cid && x.sector? == some sector) ||
  (s.ctx cid).unack.any (fun x => x.sector? == some sector)
/-- Whether any earlier effect of the context is not yet performed or acknowledged (R312). -/
def ownAny (s : State) (cid : Nat) : Bool :=
  s.net.any (fun x => x.src == .ctx cid && x.sector?.isSome) || !(s.ctx cid).unack.isEmpty
/-- Whether an invocation of the context is still on its way. -/
def ownAtomic (s : State) (cid : Nat) : Bool :=
  s.net.any (fun x => x.src == .ctx cid && (match x.body with | .fx (.invoke _) _ => true | _ => false))

/-- Whether an own write to a sector of a record is still on its way, which the record's read waits for (R295, R299). -/
def ctxHolds (s : State) (cid : Nat) (va : Word) (n : Nat) : Bool :=
  ownAny s cid && (vsectors s (ctxCluster cid) (s.ctx cid).vdn va n).any (ownPending s cid)

/-- A record, image or area read by an instruction of a context, as loads, one sector in a turn: k is given its bytes; a fault stalls
or traps. -/
def ctxRead (s : State) (cid : Nat) (va : Word) (n : Nat) (k : State → Bytes → State) : State :=
  if ctxHolds s cid va n then s
  else match vread s (.ctx cid) (s.ctx cid).vdn va n with
  | (s, .ok l) => k s l
  | (s, .fault r a) => ctxFault s cid a r faRead
  | (s, .ue a) => ctxUe s cid a faRead
  | (s, .pause) => s

/-! ## The firmware address space (R208) -/

/-- The monitor's name for a sector of the firmware space. -/
def firmSector (a : Word) : Nat := 2 ^ 60 + a.toNat / 32 * 32
/-- Whether n bytes from an address of it on lie in part in a sector that fails its check (R475). -/
def firmBad (s : State) (a n : Nat) : Bool := s.fbad.any (fun x => decide (x < a + n ∧ a < x + 32))
/-- Such a sector met by a context at FIRM: a trap there, with no record, which stops the context (R205, R208). -/
def firmUe (s : State) (cid : Nat) (a : Word) : State := takeTrap s cid causePage true a (s.ctx cid).pc
/-- Bytes written there; a sector written whole passes its check again (R519). -/
def firmWrite (s : State) (a : Nat) (l : Bytes) : State :=
  { s with fmem := mwriteBytes s.fmem a l, fbad := s.fbad.filter (fun x => !decide (a ≤ x ∧ x + 32 ≤ a + l.length)) }

/-- A record of a context; one at FIRM reads it from the firmware address space (R208). -/
def ctxBytes (s : State) (cid : Nat) (va : Word) (n : Nat) (k : State → Bytes → State) : State :=
  if (s.ctx cid).pl = firm then (if firmBad s va.toNat n then firmUe s cid va else k s (mreadBytes s.fmem va.toNat n))
  else ctxRead s cid va n k

/-! ## Effects a context sends (R213 to R216, R234, R235) -/

/-- SIX of a context's strand (R234). -/
def ctxSix (cid k : Nat) : Nat := 32 + 4 * (cid % 8) + k

/-- An effect of a context sent, on a strand or not (R235, R302, R307). -/
def issueCtx (s : State) (cid : Nat) (f : Fx) (k : Option Nat) : State :=
  let c := s.ctx cid
  let t := clusterTile (ctxCluster cid)
  let die := dieKey f.pa
  let pkt := fun (st : Option Strand) => (⟨.ctx cid, c.vdn, die, homeAc s t f.pa, .fx f st, c.unack.filterMap Packet.strand?⟩ : Packet)
  match k with
  | none => toNet s (pkt none)
  | some k =>
    let key := strandIdx k die
    let n := tget c.seqs key 0
    let st : Strand := ⟨ctxSix cid k, die, n⟩
    let closes := match f with | .store a => a.close | _ => false
    let o : Packet := ⟨.ctx cid, c.vdn, die, homeAc s t f.pa, .strandOpen st.six n, []⟩
    let s := if (tfind c.seen key).isSome then s else toNet s o
    toNet (s.setCtx cid { c with seqs := tset c.seqs key ((n + 1) % 65536), unack := c.unack ++ [pkt (some st)],
                                 seen := if closes then tdel c.seen key else tset c.seen key () }) (pkt (some st))

/-- The strand of a context's store to a physical address (R235). -/
def ctxStrand (s : State) (cid pa : Nat) : Option Nat :=
  let c := s.ctx cid
  if dieKey pa ≠ ownDieKey s (clusterDie (ctxCluster cid)) ∨ c.sctl.getLsbD 2 = true then some (bits c.sctl.toNat 0 2) else none

/-- n bytes of v as an access of the sector that holds a physical address. -/
def subAccess (pa n kslot : Nat) (v : Word) (rel : Option Scope) (close : Bool) : Access :=
  ⟨pa / 32 * 32, BitVec.ofNat 256 (v.toNat % 2 ^ (8 * n) * 2 ^ (8 * (pa % 32))), BitVec.ofNat 32 ((2 ^ n - 1) * 2 ^ (pa % 32)),
    rel, close, kslot⟩

/-- A strand of a context has room for one more packet (R307). -/
def ctxRoom (s : State) (cid pa : Nat) (k : Option Nat) : Bool :=
  match k with
  | none => true
  | some k => decide (((s.ctx cid).unack.filter (fun y => match y.strand? with
      | some st => st.six == ctxSix cid k && st.die == dieKey pa
      | none => false)).length < 32768)

def Sz.bytes : Sz → Nat
  | .b1 => 1 | .b2 => 2 | .b4 => 4 | .b8 => 8

/-- A memory address of format M (R212). -/
def ea (c : Ctx) (xa : XReg) (disp : BitVec 24) : Word := c.getX xa + disp.signExtend 64

/-- Loaded bytes extended to 64 bits (R213). -/
def extendTo (n : Nat) (natural : Bool) (v : Nat) : Word :=
  if natural then BitVec.ofNat 64 v else BitVec.ofNat 64 (wrap 64 (sgn (8 * n) v))

end Sys2Proof.Machine
end

