-- ==== Sys2Proof/Machine/SeqInt.lean ====
section
/-! DEFINITION. The sequencer's integer, immediate and branch instructions (R209 to R211). -/

namespace Sys2Proof.Machine

/-- Signed and natural reading of a register. -/
def rd (n : Bool) (v : Word) : Int := if n then (v.toNat : Int) else sgn 64 v.toNat
def toWord (v : Int) : Word := BitVec.ofNat 64 (wrap 64 v)

/-- The quotient and remainder of DIV and REM (R209). -/
def seqQuot (n : Bool) (a b : Word) : Int := if b = 0 then -1 else Int.tdiv (rd n a) (rd n b)
def seqRemV (n : Bool) (a b : Word) : Int := if b = 0 then rd n a else Int.tmod (rd n a) (rd n b)

/-- Two registers to one. -/
def rrr (xd xa xb : XReg) (f : Word → Word → Word) (s : State) : Ans := writeX xd (fun c => f (c.getX xa) (c.getX xb)) s
/-- A register and a sign-extended immediate to a register. -/
def rri (xd xa : XReg) (imm : BitVec 32) (f : Word → Word → Word) (s : State) : Ans :=
  writeX xd (fun c => f (c.getX xa) (imm.signExtend 64)) s

/-- Shifts of a word by any count (R209). -/
def shlW (a : Word) (n : Nat) : Word := BitVec.ofNat 64 (shlV 64 a.toNat n)
def shrW (a : Word) (n : Nat) : Word := BitVec.ofNat 64 (shrV 64 a.toNat n)
def sarW (a : Word) (n : Nat) : Word := BitVec.ofNat 64 (sarV 64 a.toNat n)

/-- ADD (R209). -/
def execSeqAdd (xd xa xb : XReg) (s : State) : Ans :=
  rrr xd xa xb (fun a b => a + b) s

/-- SUB (R209). -/
def execSeqSub (xd xa xb : XReg) (s : State) : Ans :=
  rrr xd xa xb (fun a b => a - b) s

/-- MUL (R209). -/
def execSeqMul (xd xa xb : XReg) (s : State) : Ans :=
  rrr xd xa xb (fun a b => a * b) s

/-- MULH (R209). -/
def execSeqMulh (xd xa xb : XReg) (n : Bool) (s : State) : Ans :=
  rrr xd xa xb (fun a b => toWord (rd n a * rd n b / 2 ^ 64)) s

/-- DIV (R209). -/
def execSeqDiv (xd xa xb : XReg) (n : Bool) (s : State) : Ans :=
  rrr xd xa xb (fun a b => toWord (seqQuot n a b)) s

/-- REM (R209). -/
def execSeqRem (xd xa xb : XReg) (n : Bool) (s : State) : Ans :=
  rrr xd xa xb (fun a b => toWord (seqRemV n a b)) s

/-- AND (R209). -/
def execSeqAnd (xd xa xb : XReg) (s : State) : Ans :=
  rrr xd xa xb (fun a b => a &&& b) s

/-- OR (R209). -/
def execSeqOr (xd xa xb : XReg) (s : State) : Ans :=
  rrr xd xa xb (fun a b => a ||| b) s

/-- XOR (R209). -/
def execSeqXor (xd xa xb : XReg) (s : State) : Ans :=
  rrr xd xa xb (fun a b => a ^^^ b) s

/-- SHL (R209). -/
def execSeqShl (xd xa xb : XReg) (s : State) : Ans :=
  rrr xd xa xb (fun a b => shlW a b.toNat) s

/-- SHR (R209). -/
def execSeqShr (xd xa xb : XReg) (s : State) : Ans :=
  rrr xd xa xb (fun a b => shrW a b.toNat) s

/-- SAR (R209). -/
def execSeqSar (xd xa xb : XReg) (s : State) : Ans :=
  rrr xd xa xb (fun a b => sarW a b.toNat) s

/-- MIN (R209). -/
def execSeqMin (xd xa xb : XReg) (n : Bool) (s : State) : Ans :=
  rrr xd xa xb (fun a b => if rd n a ≤ rd n b then a else b) s

/-- MAX (R209). -/
def execSeqMax (xd xa xb : XReg) (n : Bool) (s : State) : Ans :=
  rrr xd xa xb (fun a b => if rd n a ≤ rd n b then b else a) s

/-- CLZ (R209). -/
def execSeqClz (xd xa : XReg) (s : State) : Ans :=
  writeX xd (fun c => BitVec.ofNat 64 (clzV 64 (c.getX xa).toNat)) s

/-- POPC (R209). -/
def execSeqPopc (xd xa : XReg) (s : State) : Ans :=
  writeX xd (fun c => BitVec.ofNat 64 (popcV 64 (c.getX xa).toNat)) s

/-- ADDI (R209). -/
def execSeqAddi (xd xa : XReg) (imm : BitVec 32) (s : State) : Ans :=
  rri xd xa imm (fun a b => a + b) s

/-- ANDI (R209). -/
def execSeqAndi (xd xa : XReg) (imm : BitVec 32) (s : State) : Ans :=
  rri xd xa imm (fun a b => a &&& b) s

/-- ORI (R209). -/
def execSeqOri (xd xa : XReg) (imm : BitVec 32) (s : State) : Ans :=
  rri xd xa imm (fun a b => a ||| b) s

/-- XORI (R209). -/
def execSeqXori (xd xa : XReg) (imm : BitVec 32) (s : State) : Ans :=
  rri xd xa imm (fun a b => a ^^^ b) s

/-- SHLI (R209). -/
def execSeqShli (xd xa : XReg) (sh : Fin 64) (s : State) : Ans :=
  writeX xd (fun c => shlW (c.getX xa) sh.val) s

/-- SHRI (R209). -/
def execSeqShri (xd xa : XReg) (sh : Fin 64) (s : State) : Ans :=
  writeX xd (fun c => shrW (c.getX xa) sh.val) s

/-- SARI (R209). -/
def execSeqSari (xd xa : XReg) (sh : Fin 64) (s : State) : Ans :=
  writeX xd (fun c => sarW (c.getX xa) sh.val) s

/-- LI (R209). -/
def execSeqLi (xd : XReg) (imm : BitVec 32) (s : State) : Ans :=
  writeX xd (fun _ => imm.signExtend 64) s

/-- LIH (R209). -/
def execSeqLih (xd xa : XReg) (imm : BitVec 32) (s : State) : Ans :=
  writeX xd (fun c => imm ++ (c.getX xa).setWidth 32) s

/-! ## Branches (R82, R211) -/

/-- The start of the PC's block. -/
def blockOfPc (pc : Word) : Word := pc &&& ~~~63#64
/-- The target of a direct branch. -/
def branchTo (pc : Word) (off : BitVec 24) : Word := blockOfPc pc + off.signExtend 64 * 64
/-- A conditional branch: taken, the PC goes to the target; else to the next position. -/
def branchIf (xa xb : XReg) (off : BitVec 24) (cond : Word → Word → Bool) (s : State) : Ans :=
  anyLevel s (fun cid c =>
    s.setCtx cid (if cond (c.getX xa) (c.getX xb) then { c with pc := branchTo c.pc off } else c.adv))
/-- An indirect branch: ALIGN with no effect where the target is not on a block boundary. -/
def jumpTo (xd xa : XReg) (off : BitVec 24) (link : Bool) (s : State) : Ans :=
  anyLevel s (fun cid c =>
    let t := c.getX xa + off.signExtend 64 * 64
    if t.toNat % 64 ≠ 0 then trapHere s cid causeAlign t
    else s.setCtx cid { (if link then c.setX xd (blockOfPc c.pc + 64) else c) with pc := t })


/-- BEQ (R211). -/
def execSeqBeq (xa xb : XReg) (off : BitVec 24) (s : State) : Ans :=
  branchIf xa xb off (fun a b => a == b) s

/-- BNE (R211). -/
def execSeqBne (xa xb : XReg) (off : BitVec 24) (s : State) : Ans :=
  branchIf xa xb off (fun a b => a != b) s

/-- BLT (R211). -/
def execSeqBlt (xa xb : XReg) (off : BitVec 24) (s : State) : Ans :=
  branchIf xa xb off (fun a b => decide (rd false a < rd false b)) s

/-- BGE (R211). -/
def execSeqBge (xa xb : XReg) (off : BitVec 24) (s : State) : Ans :=
  branchIf xa xb off (fun a b => decide (rd false b ≤ rd false a)) s

/-- BLTN (R211). -/
def execSeqBltn (xa xb : XReg) (off : BitVec 24) (s : State) : Ans :=
  branchIf xa xb off (fun a b => decide (rd true a < rd true b)) s

/-- BGEN (R211). -/
def execSeqBgen (xa xb : XReg) (off : BitVec 24) (s : State) : Ans :=
  branchIf xa xb off (fun a b => decide (rd true b ≤ rd true a)) s

/-- J (R211). -/
def execSeqJ (off : BitVec 24) (s : State) : Ans :=
  anyLevel s (fun cid c => s.setCtx cid { c with pc := branchTo c.pc off })

/-- JAL (R211). -/
def execSeqJal (xd : XReg) (off : BitVec 24) (s : State) : Ans :=
  anyLevel s (fun cid c =>
    s.setCtx cid { (c.setX xd (blockOfPc c.pc + 64)) with pc := branchTo c.pc off })

/-- JI (R211). -/
def execSeqJi (xa : XReg) (off : BitVec 24) (s : State) : Ans :=
  jumpTo 0 xa off false s

/-- JALI (R211). -/
def execSeqJali (xd xa : XReg) (off : BitVec 24) (s : State) : Ans :=
  jumpTo xd xa off true s

end Sys2Proof.Machine
end

