-- ==== Sys2Proof/Machine/SeqMem.lean ====
section
/-! DEFINITION. The sequencer's loads, stores, atomics, fences and monitor (R213 to R218). -/

namespace Sys2Proof.Machine

/-- A load's value put in its register. -/
def loadDone (s : State) (cid : Nat) (xd : XReg) (v : Word) : State := s.modCtx cid (fun c => (c.setX xd v).adv)

/-- The course of LD and LDA (R213, R214): a load of another package's memory waits while no link carries it (R460). At FIRM it reads
the firmware address space (R208). -/
def seqLoad (xd xa : XReg) (sz : Sz) (n : Bool) (acq : Option Scope) (disp : BitVec 24) (s : State) : Ans :=
  anyLevel s (fun cid c =>
    let a := ea c xa disp
    let k := sz.bytes
    if a.toNat % k ≠ 0 then trapHere s cid causeAlign a
    else if c.pl = firm then
      if firmBad s a.toNat k then firmUe s cid a
      else loadDone (if acq.isSome then invalidate s (ctxCluster cid) else s) cid xd (extendTo k n (mreadN s.fmem a.toNat k))
    else ctxAccess s cid a faRead (fun s pa kslot cp =>
      let sec := pa / 32 * 32
      if ownPending s cid sec then s
      else match reaches s (.ctx cid) sec cp with
      | (s, false) => s
      | (s, true) => match loadSector s (.ctx cid) c.vdn sec kslot cp acq with
        | (s, _, true) => ctxUe s cid a faRead
        | (s, v, false) =>
          let s := if acq.isSome then invalidate s (ctxCluster cid) else s
          loadDone s cid xd (extendTo k n (bits v.toNat (8 * (pa % 32)) (8 * k)))))

/-- LD (R213). -/
def execSeqLd (xd xa : XReg) (sz : Sz) (n : Bool) (disp : BitVec 24) (s : State) : Ans := seqLoad xd xa sz n none disp s
/-- LDA (R214): every scope acts as .CL or wider, so the cluster's copies are invalidated (R297). -/
def execSeqLda (xd xa : XReg) (sz : Sz) (n : Bool) (sc : Scope) (disp : BitVec 24) (s : State) : Ans :=
  seqLoad xd xa sz n (some sc) disp s

/-- The course of ST and STL (R213, R214). -/
def seqStore (xa xb : XReg) (sz : Sz) (rel : Option Scope) (disp : BitVec 24) (s : State) : Ans :=
  anyLevel s (fun cid c =>
    let a := ea c xa disp
    let k := sz.bytes
    if a.toNat % k ≠ 0 then trapHere s cid causeAlign a
    else if c.pl = firm then
      if rel.isSome && ownAny s cid then s
      else finish (fireMonitors { s with fmem := mwriteN s.fmem a.toNat k (c.getX xb).toNat } (firmSector a)) cid
    else ctxAccess s cid a faWrite (fun s pa kslot _ =>
      let st := ctxStrand s cid pa
      if ctxRoom s cid pa st then finish (issueCtx s cid (.store (subAccess pa k kslot (c.getX xb) rel false)) st) cid else s))

/-- ST (R213). -/
def execSeqSt (xa xb : XReg) (sz : Sz) (disp : BitVec 24) (s : State) : Ans := seqStore xa xb sz none disp s
/-- STL (R214). -/
def execSeqStl (xa xb : XReg) (sz : Sz) (sc : Scope) (disp : BitVec 24) (s : State) : Ans := seqStore xa xb sz (some sc) disp s

/-- A handler's operand is 32 bits wide (R84). -/
def handler32 (h : Nat) : Bool := h == 1 || h == 11

/-- A result written as AMO writes it (R215). -/
def amoDone (s : State) (cid : Nat) (xd : XReg) (val : Word) (null : Bool) : State :=
  s.modCtx cid (fun c => { (c.setX xd (if null then 0 else val)).adv with amst := if null then 1 else 0 })

/-- An invocation of a context (R215, R242): waits says that the result is awaited. At FIRM it is performed on the firmware space at
once, a release after the context's earlier accesses; an installed handler is absent there (log entry 71). -/
def invoke (s : State) (cid : Nat) (xd : XReg) (a : Word) (h : Nat) (op : Word) (w32 waits acq rel : Bool) : State :=
  let c := s.ctx cid
  if a.toNat % handlerBytes h ≠ 0 then trapHere s cid causeAlign a
  else if c.pl = firm then
    if rel && ownAny s cid then s
    else if decide (h < 16) && firmBad s a.toNat (handlerBytes h) then firmUe s cid a
    else
    let n := handlerBytes h
    let (w, r) := if 16 ≤ h then (none, 0) else applyArch h (mreadN s.fmem a.toNat n) (if w32 then op.toNat % 2 ^ 32 else op.toNat)
    let s := match w with
      | some v => fireMonitors { s with fmem := mwriteN s.fmem a.toNat n v } (firmSector a)
      | none => s
    let s := if acq then invalidate s (ctxCluster cid) else s
    if waits then amoDone s cid xd (BitVec.ofNat 64 r) (decide (16 ≤ h)) else finish s cid
  else
    match translate s (tlbCluster (ctxCluster cid)) c.vdn a (h != 15) false with
    | (s, .bad r) => ctxFault s cid a r faAtomic
    | (s, .ok pa kslot _ _) =>
      let m : Msg := { handler := h, psn := none, w32 := w32, nr := !waits, operand := op, pa := pa, vd := c.vdn,
                       cont := .ctx cid, elem := 0, rel := rel, kslot := kslot }
      let s := issueCtx s cid (.invoke m) none
      if waits then s.modCtx cid (fun c => { c with wait := .atomic xd acq a }) else finish s cid

/-- AMO (R215). -/
def execSeqAmo (xd xa xb : XReg) (sz : Sz) (sc : Scope) (o : Ord) (h : Fin 32) (disp : BitVec 24) (s : State) : Ans :=
  anyLevel s (fun cid c =>
    let ok := if h.val < 16 then sz == (if handler32 h.val then .b4 else .b8) else sz == .b4 || sz == .b8
    let acq := o == .acq || o == .ar
    let rel := o == .rel || o == .ar
    if !ok then trapHere s cid causeIllegal (wordOf (.seqAmo xd xa xb sz sc o h disp))
    else invoke s cid xd (ea c xa disp) h.val (c.getX xb) (sz == .b4 && decide (h.val < 16)) (acq || xd.val != 0) acq rel)

/-- SEQ_ATOMIC_RESULT (R215, R242, R243, R520): a result reaches the context that waits for it; one that must write a record waits
until it can. A barrier arrival stands in SQ_BARA and SQ_BARG only with its result (R243, R250). -/
def execSeqAtomicResult (k : Nat) (s : State) : Ans :=
  match arriving s k with
  | some x => match x.body with
    | .result (.ctx cid) val null _ ue _ =>
      let c := s.ctx cid
      let trapUe := fun (a : Word) =>
        let t := ctxUe (s.dropPacket k) cid a faAtomic
        if (t.ctx cid).wait = .none ∨ (t.ctx cid).run ≠ .running then t else s
      match c.wait with
      | .atomic xd acq a =>
        if ue then .next (trapUe a)
        else
          let s := s.dropPacket k
          .next (amoDone (if acq then invalidate s (ctxCluster cid) else s) cid xd val null)
      | .bar sc (some a) =>
        if ue then .next (trapUe a)
        else
          let s := s.dropPacket k
          .next (if val.getLsbD 32 then trapHere s cid causeBound a
            else s.setCtx cid { c with wait := .bar sc none, bara := a ||| 1, barg := val &&& 0xFFFFFFFF#64 })
      | _ => .next (s.dropPacket k)
    | _ => .next s
  | none => .next s

/-- FENCE (R216): it takes place once the accesses it waits for are done; with .ACQ it is an acquire (R315). -/
def execSeqFence (_ : Scope) (o : Ord) (s : State) : Ans :=
  anyLevel s (fun cid _ =>
    let rel := o == .rel || o == .ar
    let waits := if rel then ownAny s cid else ownAtomic s cid
    if waits then s else finish (if o == .acq || o == .ar then invalidate s (ctxCluster cid) else s) cid)

/-- MON (R217). -/
def execSeqMon (xa : XReg) (disp : BitVec 24) (s : State) : Ans :=
  anyLevel s (fun cid c =>
    let a := ea c xa disp
    let arm := fun (s : State) (sec : Nat) => s.modCtx cid (fun c => { c.adv with mon := some sec, monFired := false })
    if c.pl = firm then arm s (firmSector a)
    else ctxAccess s cid a faRead (fun s pa _ _ => arm s (pa / 32 * 32)))

/-- MWAIT ends with a status and disarms the monitor (R218). -/
def mwaitDone (s : State) (cid : Nat) (xd : XReg) (status : Nat) : State :=
  s.modCtx cid (fun c => { (c.setX xd (BitVec.ofNat 64 status)).adv with mon := none, monFired := false })

/-- Whether a context's monitor has fired. On a sector of another package it also fires on the writes of agents there, which this package
does not see: a free choice each time that it is asked (log entry 4). -/
def monitorFired (s : State) (cid : Nat) : State × Bool :=
  let c := s.ctx cid
  match c.mon with
  | some sec =>
    if c.monFired || sec / 2 ^ 44 == s.posN || decide (2 ^ 60 ≤ sec) then (s, c.monFired)
    else let (n, s) := s.draw; (s, Config.freePick n % 2 == 1)
  | none => (s, c.monFired)
/-- MWAIT (R218). -/
def execSeqMwait (xd xb : XReg) (s : State) : Ans :=
  anyLevel s (fun cid c =>
    if c.mon.isNone then mwaitDone s cid xd 3
    else match monitorFired s cid with
      | (s, true) => mwaitDone s cid xd 0
      | (s, false) => s.setCtx cid { c with wait := .mwait xd (c.getX xb).toNat (s.ac (clusterDie (ctxCluster cid))) })

/-- MWAIT_WAKE (R218). -/
def execMwaitWake (cid : Nat) (s : State) : Ans :=
  let c := s.ctx cid
  match c.wait with
  | .mwait xd _ _ => .next (if c.run = .running then match monitorFired s cid with
      | (s, true) => mwaitDone s cid xd 0
      | (s, false) => s
    else s)
  | _ => .next s

/-- MWAIT_LIMIT (R218). -/
def execMwaitLimit (cid : Nat) (s : State) : Ans :=
  let c := s.ctx cid
  match c.wait with
  | .mwait xd limit since =>
    .next (if limit ≠ 0 ∧ limit ≤ s.ac (clusterDie (ctxCluster cid)) - since ∧ c.monFired = false ∧ c.run = .running then
      mwaitDone s cid xd 1 else s)
  | _ => .next s

end Sys2Proof.Machine
end

