-- ==== Sys2Proof/Machine/SeqQueue.lean ====
section
/-! DEFINITION. Strands, priority queues, counters, messages and barriers of a sequencer context (R234 to R243). -/

namespace Sys2Proof.Machine

/-! ## Strands (R236 to R238) -/

/-- SOPEN (R236): 0 reserved or already held, 1 the clasp has no free context, 2 a final fault. Packets of the strand that are on their
way, with an OPEN or a close, are let through first (log entry 70). Towards another package the OPEN goes out and its answer is a free
choice (R307, log entry 4). At FIRM, whose addresses name no die, 0 and nothing is reserved
(log entry 71). -/
def execSeqSopen (xd xa : XReg) (k : Fin 4) (s : State) : Ans :=
  anyLevel s (fun cid c =>
    let a := c.getX xa
    if c.pl = firm then finishX s cid xd 0
    else ctxAccessS s cid a faRead (some (xd, 2)) (fun s pa _ _ =>
      let die := dieKey pa
      let key := strandIdx k.val die
      let six := ctxSix cid k.val
      let hold := fun (s : State) => s.modCtx cid (fun c => { c with seen := tset c.seen key () })
      let full := (claspGet s (die % 4) (strandKey s (.ctx cid) six)).isNone && decide (4096 ≤ (s.die (die % 4)).clasp.length)
      if die / 4 ≠ s.posN then
        if (tfind c.seen key).isSome then finishX s cid xd 0
        else if (strandLow s (.ctx cid) six die).isSome then s
        else match s.linkUp with
          | (s, false) => s
          | (s, true) =>
            let (n, s) := (s.emitPacket ⟨.ctx cid, c.vdn, die, 0, .strandOpen six (tget c.seqs key 0), []⟩).draw
            let st := Config.freePick n % 2
            finishX (if st = 0 then hold s else s) cid xd st
      else if (tfind c.seen key).isSome && (claspGet s (die % 4) (strandKey s (.ctx cid) six)).isSome then finishX s cid xd 0
      else if full then finishX s cid xd 1
      else if (strandLow s (.ctx cid) six die).isSome then s
      else match takeClasp s (die % 4) (strandKey s (.ctx cid) six) (tget c.seqs key 0) with
        | (s, true) => finishX (hold s) cid xd 0
        | (s, false) => finishX s cid xd 1))

/-- SCLOSE (R237): a close store of 8 bytes, a release at .POD. -/
def execSeqSclose (xa xb : XReg) (k : Fin 4) (s : State) : Ans :=
  anyLevel s (fun cid c =>
    let a := c.getX xa
    if a.toNat % 8 ≠ 0 then trapHere s cid causeAlign a
    else if c.pl = firm then
      if ownAny s cid then s
      else finish (fireMonitors { s with fmem := mwriteN s.fmem a.toNat 8 (c.getX xb).toNat } (firmSector a)) cid
    else ctxAccess s cid a faWrite (fun s pa kslot _ =>
      if ctxRoom s cid pa (some k.val) then
        finish (issueCtx s cid (.store (subAccess pa 8 kslot (c.getX xb) (some .pod) true)) (some k.val)) cid
      else s))

/-- Whether every store of a strand has been acknowledged (R238). -/
def strandIdle (s : State) (cid k : Nat) : Bool :=
  (s.ctx cid).unack.all (fun y => match y.strand? with | some st => st.six != ctxSix cid k | none => true)

/-- SBAR (R238). -/
def execSeqSbar (k : Fin 4) (s : State) : Ans :=
  anyLevel s (fun cid _ => if strandIdle s cid k.val then finish s cid else s.modCtx cid (fun c => { c with wait := .sbar k.val }))

/-- SBAR_COMPLETE (R238). -/
def execSbarComplete (cid : Nat) (s : State) : Ans :=
  match (s.ctx cid).wait with
  | .sbar k => .next (if strandIdle s cid k ∧ (s.ctx cid).run = .running then finish s cid else s)
  | _ => .next s

/-! ## Priority queues (R239, R240) -/

def allOnes64 : Word := 0xFFFFFFFFFFFFFFFF#64

/-- PQPUSH (R239): a release at .DIE, so it waits for the context's earlier accesses. DESIGN CHOICE (log entry 101): BOUND also where the
die's queue is full and the device's own share is not. -/
def execSeqPqpush (xa xb : XReg) (s : State) : Ans :=
  anyLevel s (fun cid c =>
    let d := clusterDie (ctxCluster cid)
    let x := s.die d
    let key := c.getX xa
    let share := match s.vd? c.vdn with | some v => v.pqshare | none => 0
    let used := (x.pq.filter (fun e => e.vd == c.vdn)).length
    if key = allOnes64 ∨ share ≤ used ∨ 65536 ≤ x.pq.length then trapHere s cid causeBound key
    else if ownAny s cid then s
    else finish (s.setDie d { x with pq := x.pq ++ [⟨key, c.getX xb, c.vdn, x.pushes⟩], pushes := x.pushes + 1 }) cid)

/-- An entry put among others in ascending key, earlier pushes first. -/
def pqInsert (e : PqEntry) : List PqEntry → List PqEntry
  | [] => [e]
  | x :: r => if e.key.toNat < x.key.toNat then e :: x :: r else x :: pqInsert e r
/-- The virtual device's entries in ascending key, the earliest pushed first among equal keys. -/
def pqSorted (d : Die) (vd : Nat) : List PqEntry := (d.pq.filter (fun e => e.vd == vd)).foldl (fun l e => pqInsert e l) []

/-- The course of a pop: pick chooses among the sorted entries. It is an acquire at .DIE (R297, R312). The value is written after
the key, so that it stays where XC is XD (log entry 72). -/
def pqPop (xd xc : XReg) (pick : State → List PqEntry → State × Nat) (s : State) : Ans :=
  anyLevel s (fun cid c =>
    let d := clusterDie (ctxCluster cid)
    let l := pqSorted (s.die d) c.vdn
    let put := fun (s : State) (k v : Word) =>
      (invalidate s (ctxCluster cid)).modCtx cid (fun c => ((c.setX xd k).setX xc v).adv)
    let (s, i) := pick s l
    match l[i]? with
    | none => put s allOnes64 0
    | some e =>
      let x := s.die d
      put (s.setDie d { x with pq := x.pq.erase e }) e.key e.val)

/-- PQPOP (R240): any entry whose key ranks among the 16 smallest: a free choice. -/
def execSeqPqpop (xd xc : XReg) (s : State) : Ans :=
  pqPop xd xc (fun s l =>
    let top := match l[15]? with | some e => (l.filter (fun y => decide (y.key.toNat ≤ e.key.toNat))).length | none => l.length
    let (n, s) := s.draw
    (s, if top = 0 then 0 else Config.freePick n % top)) s
/-- PQPOP.W1 (R240). -/
def execSeqPqpopW1 (xd xc : XReg) (s : State) : Ans := pqPop xd xc (fun s _ => (s, 0)) s

/-! ## Counters and messages (R241, R242) -/

/-- EXPECT (R241). -/
def execSeqExpect (xa xb : XReg) (s : State) : Ans :=
  anyLevel s (fun cid c => invoke s cid 0 (c.getX xa) 14 (c.getX xb) false false false false)

/-- AMSEND (R242): flags NR (bit 0) and W32 (bit 1). -/
def execSeqAmsend (xd xa xb : XReg) (h fl : BitVec 8) (s : State) : Ans :=
  anyLevel s (fun cid c =>
    let nr := fl.getLsbD 0
    let w32 := fl.getLsbD 1
    let n := h.toNat
    if 31 < n ∨ 4 ≤ fl.toNat ∨ w32 ≠ (handler32 n && decide (n < 16)) ∨ (nr = true ∧ xd.val ≠ 0) then
      trapHere s cid causeIllegal (wordOf (.seqAmsend xd xa xb h fl))
    else invoke s cid xd (c.getX xa) n (c.getX xb) w32 (!nr) false false)

/-! ## Barriers (R243) -/

/-- BAR (R243): the arrival is a release of the context's earlier accesses; a resumed wait does not arrive again. DESIGN CHOICE (log
entry 95): as a message it carries HANDLER 0x00 and operand 0; the spec names no handler for it. -/
def execSeqBar (xa : XReg) (sc : Scope) (s : State) : Ans :=
  anyLevel s (fun cid c =>
    let a := c.getX xa
    if a.toNat % 16 ≠ 0 then trapHere s cid causeAlign a
    else if c.bara = a ||| 1 then s.setCtx cid { c with wait := .bar sc none }
    else if c.pl = firm then
      if ownAny s cid then s
      else if firmBad s a.toNat 16 then firmUe s cid a
      else
      let v := mreadN s.fmem a.toNat 16
      let g := bits v 96 32
      let n := bits v 64 32
      let arr := bits v 0 32
      if n = 0 then trapHere s cid causeBound a
      else
        let v' := if (arr + 1) % 2 ^ 32 = n then pack [(96, 32, g + 1), (64, 32, n), (32, 32, bits v 32 32)]
          else pack [(96, 32, g), (64, 32, n), (32, 32, bits v 32 32), (0, 32, arr + 1)]
        (fireMonitors { s with fmem := mwriteN s.fmem a.toNat 16 v' } (firmSector a)).modCtx cid
          (fun c => { c with wait := .bar sc none, bara := a ||| 1, barg := BitVec.ofNat 64 g })
    else ctxAccess s cid a faAtomic (fun s pa kslot _ =>
      if ownAny s cid then s
      else
        let m : Msg := ⟨0, none, false, false, 0, pa, c.vdn, .ctx cid, 0, true, true, kslot⟩
        (issueCtx s cid (.invoke m) none).modCtx cid (fun c => { c with wait := .bar sc (some a) })))

/-- BAR_COMPLETE (R243): the generation is read at the home; when it has changed the wait ends with an acquire. -/
def execBarComplete (cid : Nat) (s : State) : Ans :=
  let c := s.ctx cid
  match c.wait with
  | .bar _ none =>
    let a : Word := c.bara &&& ~~~15#64
    let done := fun (s : State) =>
      (invalidate s (ctxCluster cid)).modCtx cid (fun c => { c.adv with bara := c.bara &&& ~~~1#64 })
    if c.run ≠ .running then .next s
    else if c.pl = firm then .next (if firmBad s (a.toNat + 12) 4 then firmUe s cid a
      else if BitVec.ofNat 64 (mreadN s.fmem (a.toNat + 12) 4) = c.barg then s else done s)
    else .next (ctxAccess s cid a faRead (fun s pa kslot _ =>
      match reaches s (.ctx cid) (pa / 32 * 32) cpUncached with
      | (s, false) => s
      | (s, true) => match homeSector s (.ctx cid) c.vdn (pa / 32 * 32) kslot with
      | (s, _, true) => ctxUe s cid a faRead
      | (s, v, false) => if bits v.toNat (8 * (pa % 32) + 96) 32 = c.barg.toNat then s else done s))
  | _ => .next s

end Sys2Proof.Machine
end

