-- ==== Sys2Proof/Machine/SeqSys.lean ====
section
/-! DEFINITION. System instructions: TRAP, ERET, the control and status registers, the thread switch, FWCALL, HALT (R201 to R207,
R244 to R248). -/

namespace Sys2Proof.Machine

/-- TRAP (R244): it continues behind itself. -/
def execSeqTrap (code : BitVec 16) (s : State) : Ans :=
  anyLevel s (fun cid c => takeTrap s cid causeTrapi false (code.setWidth 64) (c.pc + 8))

/-- ERET (R207). -/
def execSeqEret (s : State) : Ans :=
  atLevel super .seqEret s (fun cid c =>
    if c.pl = super then s.setCtx cid { c with pc := c.epc, pl := if c.ppl then super else user, eie := c.peie }
    else s.setCtx cid { c with pc := c.fepc, pl := c.fppl, eie := c.fpeie })

/-! ## Control and status registers (R201 to R204) -/

/-- What a level may do with a register. -/
inductive CsrAcc where
  | priv | ro | rw
deriving DecidableEq, Repr

/-- The access a level has to a register (R201); none: no such register. -/
def csrAcc (pl : BitVec 2) (n : Nat) : Option CsrAcc :=
  let f := pl == firm
  if n = 0x000 then some (if pl = user then .ro else .rw)
  else if 0x001 ≤ n ∧ n ≤ 0x00A then some (if pl = user then .priv else .rw)
  else if n = 0x010 ∨ n = 0x011 then some .ro
  else if n = 0x012 then some .rw
  else if 0x013 ≤ n ∧ n ≤ 0x015 then some (if pl = user then .ro else .rw)
  else if 0x100 ≤ n ∧ n ≤ 0x104 then some (if f then .rw else .priv)
  else none

/-- SQ_STATUS (R202). -/
def statusWord (c : Ctx) : Word :=
  BitVec.ofNat 64 (pack [(4, 1, c.peie.toNat), (3, 1, c.eie.toNat), (2, 1, c.ppl.toNat), (0, 2, c.pl.toNat)])
/-- SQ_CTXID (R203). -/
def ctxidWord (s : State) (cid : Nat) (c : Ctx) : Word :=
  let t := clusterTile (ctxCluster cid)
  BitVec.ofNat 64 (pack [(54, 10, faX s t), (44, 10, faY s t), (40, 4, c.vdn % 16), (37, 3, cid % 8)])

/-- The value of a register as CSRRD reads it. -/
def csrRead (s : State) (cid n : Nat) : Word :=
  let c := s.ctx cid
  match n with
  | 0x000 => statusWord c
  | 0x001 => c.cause
  | 0x002 => c.epc
  | 0x003 => c.tval
  | 0x004 => c.tvec
  | 0x005 => c.scratch
  | 0x006 => c.next
  | 0x007 => c.save
  | 0x009 => c.event
  | 0x00A => c.evmask
  | 0x010 => BitVec.ofNat 64 (s.ac (clusterDie (ctxCluster cid)))
  | 0x011 => ctxidWord s cid c
  | 0x012 => c.sctl
  | 0x013 => c.amst
  | 0x014 => c.bara
  | 0x015 => c.barg
  | 0x100 => BitVec.ofNat 64 (pack [(2, 1, c.fpeie.toNat), (0, 2, c.fppl.toNat)])
  | 0x101 => c.fcause
  | 0x102 => c.fepc
  | 0x103 => c.ftval
  | 0x104 => c.ftvec
  | _ => 0

def causeMask : Word := 0xC000000000000F0F#64
def bits63_3 : Word := ~~~7#64
def bits63_6 : Word := ~~~63#64
def baraMask : Word := ~~~14#64

/-- A register written; reserved bits are discarded (R9, R10, R82), and so is the level 0b11, which is never held (R200, log
entry 73). -/
def csrWrite (c : Ctx) (n : Nat) (v : Word) : Ctx :=
  match n with
  | 0x000 => { c with peie := v.getLsbD 4, eie := v.getLsbD 3, ppl := v.getLsbD 2 }
  | 0x001 => { c with cause := v &&& causeMask }
  | 0x002 => { c with epc := v &&& bits63_3 }
  | 0x003 => { c with tval := v }
  | 0x004 => { c with tvec := v &&& bits63_6 }
  | 0x005 => { c with scratch := v }
  | 0x006 => { c with next := v &&& bits63_6 }
  | 0x007 => { c with save := v &&& bits63_6 }
  | 0x009 => { c with event := c.event &&& ~~~v }
  | 0x00A => { c with evmask := v }
  | 0x012 => { c with sctl := v &&& 7#64 }
  | 0x013 => { c with amst := v &&& 1#64 }
  | 0x014 => { c with bara := v &&& baraMask }
  | 0x015 => { c with barg := v &&& 0xFFFFFFFF#64 }
  | 0x100 => { c with fpeie := v.getLsbD 2, fppl := if v.setWidth 2 = 3#2 then c.fppl else v.setWidth 2 }
  | 0x101 => { c with fcause := v &&& causeMask }
  | 0x102 => { c with fepc := v &&& bits63_3 }
  | 0x103 => { c with ftval := v }
  | 0x104 => { c with ftvec := v &&& bits63_6 }
  | _ => c

/-- CSRRD (R204); SQ_SWITCH reads zero. -/
def execSeqCsrrd (xd : XReg) (csr : BitVec 12) (s : State) : Ans :=
  anyLevel s (fun cid c =>
    let w := wordOf (.seqCsrrd xd csr)
    match csrAcc c.pl csr.toNat with
    | none => trapHere s cid causeIllegal w
    | some .priv => trapHere s cid causePriv w
    | some _ => s.setCtx cid (c.setX xd (csrRead s cid csr.toNat)).adv)

/-- CSRWR of a register without behaviour of its own (R204). -/
def execSeqCsrwr (xa : XReg) (csr : BitVec 12) (s : State) : Ans :=
  anyLevel s (fun cid c =>
    let w := wordOf (.seqCsrwr xa csr)
    match csrAcc c.pl csr.toNat with
    | none => trapHere s cid causeIllegal w
    | some .priv => trapHere s cid causePriv w
    | some .ro => trapHere s cid causeIllegal w
    | some .rw => s.setCtx cid (csrWrite c csr.toNat (c.getX xa)).adv)

/-! ## The thread switch (R248) -/

/-- The 320 bytes of a thread's save area. -/
def threadArea (c : Ctx) : Bytes :=
  bytesLE 8 c.epc.toNat ++ ((List.range 31).flatMap (fun i => bytesLE 8 (c.x.toList.getD (i + 1) 0).toNat)) ++
    bytesLE 8 c.sctl.toNat ++ bytesLE 8 c.evmask.toNat ++ bytesLE 8 c.bara.toNat ++ bytesLE 8 c.barg.toNat ++ zerosB 32
def word64At (l : Bytes) (o : Nat) : Word := BitVec.ofNat 64 (ofBytesLE ((l.drop o).take 8))
/-- The context with a save area loaded. -/
def loadThread (c : Ctx) (l : Bytes) : Ctx :=
  let x : Vector Word 32 := Vector.ofFn (fun (i : Fin 32) => if i.val = 0 then 0 else word64At l (8 * i.val))
  { c with x := x, epc := word64At l 0 &&& bits63_3, sctl := word64At l 256 &&& 7#64, evmask := word64At l 264,
           bara := word64At l 272 &&& baraMask, barg := word64At l 280 &&& 0xFFFFFFFF#64, save := c.next, amst := 0,
           mon := none, monFired := false }

/-- Whether an area's bytes 288 to 319 are not zero. -/
def areaBad (l : Bytes) : Bool := (l.drop 288).any (fun b => b != 0)

/-- A whole area read in one turn, as the one indivisible step of a thread switch asks (fuel bounds the sectors). -/
def vreadAll (cid vd : Nat) (va : Word) (n : Nat) : Nat → State → State × VRes Bytes
  | 0, s => (s, .pause)
  | f + 1, s => match vread s (.ctx cid) vd va n with
    | (t, .pause) => vreadAll cid vd va n f t
    | r => r
/-- THREAD_SWITCH: CSRWR to SQ_SWITCH (R248). The new area is read as the store of the old one leaves it; where it cannot be loaded,
nothing has been stored. DESIGN CHOICE (log entry 102): SQ_TVAL of BOUND is SQ_NEXT; the spec names no operand for it. -/
def execThreadSwitch (xa : XReg) (s : State) : Ans :=
  atLevel super (.threadSwitch xa) s (fun cid c =>
    let cl := ctxCluster cid
    let load := fun (s : State) (l : Bytes) => s.modCtx cid (fun c => (loadThread c l).adv)
    if c.pl = firm then
      let t := firmWrite s c.save.toNat (threadArea c)
      let l := mreadBytes t.fmem c.next.toNat 320
      if firmBad t c.next.toNat 320 then firmUe s cid c.next
      else if areaBad l then trapHere s cid causeBound c.next else load t l
    else if ownAny s cid then s
    else match vplan s cl c.vdn c.save (threadArea c) with
      | (s, .fault r a) => ctxFault s cid a r faWrite
      | (s, .ue a) => ctxUe s cid a faWrite
      | (s, .pause) => s
      | (s, .ok w) => match vreadAll cid c.vdn c.next 320 16 (performAll s (.ctx cid) c.vdn w) with
        | (_, .pause) => s
        | (_, .fault r a) => ctxFault s cid a r faRead
        | (_, .ue a) => ctxUe s cid a faRead
        | (t, .ok l) => if areaBad l then trapHere s cid causeBound c.next else load t l)

/-! ## FWCALL and HALT (R245, R246) -/

/-- Services that firmware defines (R375, R483). -/
def fwDefined (n : Nat) : Bool :=
  [0x0100, 0x0110, 0x0111, 0x0112, 0x0113, 0x0120, 0x0121, 0x0130, 0x0140, 0x8000, 0x8001, 0x8002, 0x8003, 0x8004, 0x8005,
   0x8006, 0x8007, 0x8008, 0x8009].contains n

/-- FWCALL (R245): the request goes to the hub and the context waits; its service event answers. -/
def execSeqFwcall (xd xa : XReg) (svc : BitVec 16) (s : State) : Ans :=
  atLevel (if 0x8000 ≤ svc.toNat then super else user) (.seqFwcall xd xa svc) s (fun cid c =>
    if fwDefined svc.toNat then
      { s.setCtx cid { c with wait := .fwcall xd } with
        hub := { s.hub with fwq := s.hub.fwq ++ [⟨cid, xd, svc.toNat, c.getX xa⟩] } }
    else s.setCtx cid (c.setX xd allOnes64).adv)

/-- HALT (R246). -/
def execSeqHalt (s : State) : Ans :=
  atLevel super .seqHalt s (fun cid c => s.setCtx cid { c.adv with run := .stopped })

end Sys2Proof.Machine
end

