-- ==== Sys2Proof/Machine/Pager.lean ====
section
/-! DEFINITION. The pager's instructions: PLACE, ARM, DRAIN, RECFG with its event, BANKCFG, PLANE (R219 to R222, R227 to R230, R316,
R330 to R335). -/

namespace Sys2Proof.Machine

/-! ## Sections (R219, R224) -/

/-- Whether a TASK waybill of the context runs the section. -/
def taskRuns (s : State) (cid k : Nat) : Bool :=
  (s.cluster (ctxCluster cid)).wbs.any (fun w => w.cid == cid && w.task && w.sec == k && w.phase == .running)
/-- Whether a section is armed or running. -/
def secBusy (s : State) (cid k : Nat) : Bool :=
  let x := (s.ctx cid).sec k
  (x.armed && !x.planes.isEmpty) || taskRuns s cid k

/-- A section armed (R222, R316): its closed sources are noted, its planes begin, the caches of its clusters are invalidated. -/
def armSection (s : State) (cid k : Nat) (task : Bool) : State :=
  let x := (s.ctx cid).sec k
  let closed := x.planes.any (fun pl => match s.plane? pl with
    | some p => p.units.any (closedSource p)
    | none => false)
  let s := s.modSec cid k (fun x => { x with armed := true, draining := task, drainNamed := false, trapped := false, closed := closed })
  let s := x.planes.foldl (fun s pl =>
    (invalidate s (planeCluster pl)).modPlane pl (fun p =>
      { p.touch (s.planeAc pl) with armed := true, draining := task })) s
  x.planes.foldl (fun s pl => wakeTile s (planeTile pl)) s

/-- The count check of ARM and of a TASK's start. -/
def mayArm (s : State) (cid k n : Nat) : Bool :=
  let l := ((s.ctx cid).sec k).planes.length
  !secBusy s cid k && l == n && decide (1 ≤ l ∧ l ≤ 2048)

/-- ARM (R222): a release at .PKG of the context's earlier accesses (R316). -/
def execSeqArm (xa xb : XReg) (s : State) : Ans :=
  anyLevel s (fun cid c =>
    let a := (c.getX xa).toNat
    if 256 ≤ a ∨ mayArm s cid a (c.getX xb).toNat = false then trapHere s cid causeBound (c.getX xa)
    else if ownAny s cid then s
    else finish (armSection s cid a false) cid)

/-- DRAIN (R227); a clock-gated tile of the section wakes. A second DRAIN does nothing, nor does one of a section that a TASK start
drains and that has a closed source. -/
def execSeqDrain (xa : XReg) (s : State) : Ans :=
  anyLevel s (fun cid c =>
    let a := (c.getX xa).toNat
    if 256 ≤ a then trapHere s cid causeBound (c.getX xa)
    else
      let x := c.sec a
      let s :=
        if x.planes.isEmpty || (x.draining && (x.drainNamed || x.closed)) then s
        else if secBusy s cid a then
          x.planes.foldl (fun s pl => (wakeTile s (planeTile pl)).modPlane pl (fun p => { p with draining := true, drainNamed := true }))
            (s.modSec cid a (fun x => { x with draining := true, drainNamed := true }))
        else x.planes.foldl freePlane s
      finish s cid)

/-! ## PLACE (R220, R221) -/

/-- The status word of PLACE. -/
def placeStatus (s : State) (pl : Nat) : Word :=
  let t := planeTile pl
  BitVec.ofNat 64 (pack [(63, 1, 1), (53, 10, faX s t), (43, 10, faY s t), (41, 2, pl % 4)])
def placeFail (e : PageErr) : Word :=
  BitVec.ofNat 64 (match e.2 with
    | some (el, sl) => pack [(15, 1, 1), (12, 3, el), (8, 4, sl), (0, 8, e.1)]
    | none => e.1)

/-- The fields of a placement descriptor. -/
structure PDesc where
  fix : Bool
  tx : Nat
  ty : Nat
  pl : Nat
  strict : Bool
  tq : Nat
  aq : Nat
  sec : Nat
  pix : Nat
deriving DecidableEq, Repr

def pdesc (d : Nat) : PDesc :=
  { fix := d.testBit 63, tx := bits d 53 10, ty := bits d 43 10, pl := bits d 41 2, strict := d.testBit 40, tq := bits d 35 5,
    aq := bits d 29 6, sec := bits d 16 8, pix := bits d 8 8 }
def pdescOk (d : Nat) : Bool :=
  let x := pdesc d
  bits d 24 5 == 0 && bits d 0 8 == 0 && decide (x.aq ≤ 32) && (x.fix || (x.tx == 0 && x.ty == 0 && x.pl == 0))

/-- Whether a page with a measurement is signed (R335), and whether a confidential virtual device admits it (R492). -/
def pageSigned (s : State) (m : BitVec 256) : Bool := s.hub.libs.any (fun e => e.1 == m)
def pageAdmitted (s : State) (vd : Nat) (m : BitVec 256) : Bool :=
  match s.vd? vd with
  | none => false
  | some v => !v.conf || s.hub.libs.any (fun e => e.1 == m && v.models.any (fun x => x.libs.contains e.2))
/-- UNSIGNED: a page that is not admitted, or one with RSEAL that is not signed (R197, R264, R492). -/
def unsignedErr (s : State) (vd : Nat) (g : Page) : Bool :=
  let m := measure g.bytes
  !pageAdmitted s vd m || (g.en 9 && g.f 9 11 1 == 1 && !pageSigned s m)

/-- The placed pages of a section. -/
def secPages (s : State) (cid k : Nat) : List (Nat × Plane) :=
  ((s.ctx cid).sec k).planes.filterMap (fun pl => (s.plane? pl).map (fun p => (pl, p)))

/-- The exits of a page that lead to a page index, as (port, entry, checked). -/
def exitsTo (g : Page) (pix : Nat) : List (Nat × Nat × Bool) :=
  g.routes.filterMap (fun r => if r.kind = kExit ∧ r.arg = pix then some (r.src, r.dst, r.chk) else none)
def hasEntry (g : Page) (k : Nat) (chk : Bool) : Bool :=
  g.routes.any (fun r => r.kind == kEntry && r.dst == k && r.chk == chk)
/-- The cross-page rules of R331 for a page with its index joining a section's pages. -/
def matchErr (l : List (Nat × Plane)) (g : Page) (pix : Nat) : Bool :=
  l.any (fun e => e.2.pix == pix) ||
  l.any (fun e => (exitsTo g e.2.pix).any (fun x => !hasEntry e.2.page x.2.1 x.2.2 || (e.2.chan x.2.1).fed.isSome) ||
    !noDup ((exitsTo g e.2.pix).map (fun x => x.2.1)) ||
    (exitsTo e.2.page pix).any (fun x => !hasEntry g x.2.1 x.2.2)) ||
  !noDup (l.flatMap (fun e => (exitsTo e.2.page pix).map (fun x => x.2.1)))

/-- Entries of a route that are not free when it is resolved (R24): those that tokens of an earlier region stand in or are on their way to,
and those whose credit is on its way. -/
def routeTaken (s : State) (a port b c : Nat) (q : Plane) : Nat :=
  ((q.chan c).q.filter (fun x => x.plain && !x.inj)).length +
  (s.net.filter (fun k => match k.body with
    | .token d ch fp fo t => d == b && ch == c && fp == a && fo == port && !t.mrk
    | .credit fp fo d ch => d == b && ch == c && fp == a && fo == port
    | _ => false)).length
/-- The exits of plane a that lead to plane b's page resolved (R331). -/
def resolveExits (s : State) (a b : Nat) : State :=
  match s.plane? a, s.plane? b with
  | some p, some q =>
    (p.outs.filterMap (fun o => match o.2.dest with
      | .exit pix c _ => if pix = q.pix then some (o.1, c) else none
      | .loc _ => none)).foldl (fun s x =>
        let (port, c) := x
        let s := s.modPlane a (fun p => match tfind p.outs port with
          | some o => { p with outs := tset p.outs port { o with plane := some b, credit := ((q.chan c).depth : Int) - 1 - (routeTaken s a port b c q : Nat) } }
          | none => p)
        s.modPlane b (fun q => q.setChan c { q.chan c with fed := some (a, port) })) s
  | _, _ => s

/-- Pool entries and rows that a tile's placed planes hold (R31, R184). -/
def tilePool (s : State) (t : Nat) : Nat := sumBy (fun pl => match s.plane? pl with | some p => 32 * (p.tq + 1) | none => 0) (tilePlanes s t)
def tileRows (s : State) (t : Nat) : Nat := sumBy (fun pl => match s.plane? pl with | some p => p.aq | none => 0) (tilePlanes s t)
def quotaOk (s : State) (t : Nat) (g : Page) (tq aq : Nat) : Bool :=
  decide (poolNeed g ≤ 32 * (tq + 1)) && decide (tilePool s t + 32 * (tq + 1) ≤ 1024) && decide (tileRows s t + 16 * aq ≤ 512)
def poweredTile (s : State) (t : Nat) : Bool := s.powerOf t == .on || s.powerOf t == .clockGated
/-- A tile of the partition that may hold a page. -/
def tileOpen (s : State) (vd t : Nat) : Bool :=
  (tget s.hub.parts (vd / 16) 0).getLsbD (tileGranule t) && poweredTile s t && !s.hub.retiredTiles.contains t
/-- Whether a plane of the tile other than pl holds a matrix-mode page (R22, R170). -/
def mxTaken (s : State) (t pl : Nat) : Bool :=
  (tilePlanes s t).any (fun q => q != pl && (match s.plane? q with | some p => mxOn p.page.mxcfg | none => false))
def mxFree (s : State) (pl : Nat) (g : Page) : Bool := !mxOn g.mxcfg || !mxTaken s (planeTile pl) pl
/-- The planes a page may take where FIX = 0. -/
def freePlanes (s : State) (vd : Nat) (g : Page) (tq aq : Nat) : List Nat :=
  (List.range 8192).filter (fun pl =>
    let t := planeTile pl
    tileOpen s vd t && (s.plane? pl).isNone && mxFree s pl g && quotaOk s t g tq aq)

/-- FORBID to QUOTA for a named plane. -/
def fixErr (s : State) (vd : Nat) (d : PDesc) (g : Page) : PageErr ⊕ Nat :=
  match tileAt s d.tx d.ty with
  | none => .inl (stForbid, none)
  | some t =>
    if !tileOpen s vd t then .inl (stForbid, none)
    else if !mxFree s (4 * t + d.pl) g then .inl (stMxbusy, none)
    else if (s.plane? (4 * t + d.pl)).isSome then .inl (stNoplane, none)
    else if !quotaOk s t g d.tq d.aq then .inl (stQuota, none)
    else .inr (4 * t + d.pl)
/-- A plane for the page: the named one, or a free choice. -/
def choosePlane (s : State) (vd : Nat) (d : PDesc) (g : Page) : State × (PageErr ⊕ Nat) :=
  if d.fix then (s, fixErr s vd d g)
  else
    let l := freePlanes s vd g d.tq d.aq
    if l = [] then (s, .inl (stNoplane, none))
    else
      let (n, s) := s.draw
      (s, .inr (l.getD (Config.freePick n % l.length) 0))

/-- The checks of ENC to EXTENT (R221). -/
def pageErr (s : State) (vd : Nat) (l : List (Nat × Plane)) (g : Page) (d : PDesc) : Option PageErr :=
  match imageErr g d.aq with
  | some e => some e
  | none =>
    if unsignedErr s vd g then some (stUnsigned, none)
    else match imageRouteErr g d.pix with
      | some e => some e
      | none =>
        if matchErr l g d.pix then some (stRoute, none)
        else if extentErr g || (d.strict && l.any (fun e => strictClash g e.2.page)) then some (stExtent, none)
        else none

/-- A page put on a plane for a section of a context, its routes resolved. Its units act from the next ac on, so that none acts twice in
the ac in which an earlier page left the plane (R20, R26, R34). -/
def putPage (s : State) (cid sec pix tq aq : Nat) (g : Page) (pl : Nat) : State :=
  let x := (s.ctx cid).sec sec
  let others := x.planes
  let p := newPlane g (s.ctx cid).vdn cid sec pix tq aq (pageSigned s (measure g.bytes))
  let stands := (tilePlanes s (planeTile pl)).any (fun q => match s.plane? q with | some x => x.assay | none => false)
  let s := (wakeTile s (planeTile pl)).setPlane pl { p with assay := stands, firedAt := (List.range 20).map (fun u => (u, s.planeAc pl + 1)) }
  let s := s.modSec cid sec (fun y => if y.planes.isEmpty then { planes := [pl] } else { y with planes := y.planes ++ [pl] })
  others.foldl (fun s q => resolveExits (resolveExits s pl q) q pl) s

/-- The checks and effect of a placement, after the descriptor and the section. -/
def placePage (s : State) (cid : Nat) (d : PDesc) (g : Page) : State × Word :=
  let vd := (s.ctx cid).vdn
  match pageErr s vd (secPages s cid d.sec) g d with
  | some e => (s, placeFail e)
  | none => match choosePlane s vd d g with
    | (s, .inl e) => (s, placeFail e)
    | (s, .inr pl) => let t := putPage s cid d.sec d.pix d.tq d.aq g pl; (t, placeStatus t pl)

/-- PLACE (R221): an image that cannot be read gives PAGE and stalls nothing (log entry 19). DESIGN CHOICE (log entry 103): a reserved bit
of the descriptor gives the status BADDESC, not BOUND. -/
def execSeqPlace (xd xa xb : XReg) (s : State) : Ans :=
  atLevel super (.seqPlace xd xa xb) s (fun cid c =>
    let a := c.getX xa
    let d := pdesc (c.getX xb).toNat
    let done := fun (s : State) (w : Word) => s.modCtx cid (fun c => (c.setX xd w).adv)
    let fail := fun (s : State) (st : Nat) => done s (placeFail (st, none))
    let got := fun (s : State) (l : Bytes) =>
      if secBusy s cid d.sec then fail s stArmed
      else let (s, w) := placePage s cid d (parsePage l); done s w
    if a.toNat % 4096 ≠ 0 then trapHere s cid causeAlign a
    else if !pdescOk (c.getX xb).toNat then fail s stBadDesc
    else if c.pl = firm then (if firmBad s a.toNat 4096 then firmUe s cid a else got s (mreadBytes s.fmem a.toNat 4096))
    else if ctxHolds s cid a 4096 then s
    else match vread s (.ctx cid) c.vdn a 4096 with
      | (s, .pause) => s
      | (s, .ok l) => got s l
      | (s, .fault _ _) => fail s stPage
      | (s, .ue _) => fail s stPage)

/-! ## RECFG (R228) -/

/-- Pool entries of a plane with pending changes at their new depth. -/
def poolUsed (p : Plane) : Nat :=
  sumBy (fun e => (match e.2.recfg with | some (d, _) => d | none => e.2.depth) + (if e.2.entry then 256 else 0)) p.chans

/-- RECFG: an identical change that is pending is not issued again; the token of one to another depth stands next to the pending
one, so that both depths are taken at once and the later holds (log entry 67). -/
def execSeqRecfg (xd xa xb : XReg) (s : State) : Ans :=
  atLevel super (.seqRecfg xd xa xb) s (fun cid c =>
    let e := (c.getX xa).toNat
    let n := (c.getX xb).toNat
    let k := 8 * bits e 37 5 + bits e 34 3
    if bits e 0 34 ≠ 0 ∨ 19 < bits e 37 5 ∨ n < 2 ∨ 256 < n then finishX s cid xd 1
    else match tileAt s (bits e 54 10) (bits e 44 10) with
      | none => finishX s cid xd 3
      | some t =>
        let pl := 4 * t + bits e 42 2
        match s.plane? pl with
        | none => finishX s cid xd 3
        | some p =>
          if p.cid ≠ cid ∨ (tfind p.chans k).isNone = true then finishX s cid xd 3
          else
            let ch := p.chan k
            let wait := fun (s : State) => s.modCtx cid (fun c => { c with wait := .recfg xd pl k })
            let ahead := match ch.recfg with | some (_, k) => k | none => ch.q.length
            let q := p.setChan k { ch with recfg := some (n, ahead) }
            if ch.recfg = some (n, ahead) then wait s
            else if 32 * (p.tq + 1) < poolUsed q then finishX s cid xd 2
            else wait (s.setPlane pl q))

/-- A channel whose reconfiguration token is at the head takes its new depth; an exit that feeds it gains or loses the
difference in free entries. -/
def takeDepth (s : State) (pl k : Nat) : State :=
  match s.plane? pl with
  | none => s
  | some p =>
    let ch := p.chan k
    match ch.recfg with
    | some (d, 0) =>
      let s := s.setPlane pl (p.setChan k { ch with depth := d, recfg := none })
      match ch.fed with
      | some (q, port) =>
        drainOuts false (s.modPlane q (fun x => match tfind x.outs port with
          | some o => { x with outs := tset x.outs port { o with credit := o.credit + (d : Int) - (ch.depth : Int) } }
          | none => x)) q
      | none => s
    | _ => s

/-- RECFG_DEPTH_CHANGE (R228): the due changes of a context's planes, and the end of its RECFG. -/
def execRecfgDepthChange (cid : Nat) (s : State) : Ans :=
  let due := s.planes.flatMap (fun e => if e.2.cid = cid then
    e.2.chans.filterMap (fun x => match x.2.recfg with | some (_, 0) => some (e.1, x.1) | _ => none) else [])
  let s := due.foldl (fun s x => takeDepth s x.1 x.2) s
  match (s.ctx cid).wait with
  | .recfg xd pl k =>
    let open_ := match s.plane? pl with | some p => (p.chan k).recfg.isSome | none => false
    .next (if (open_ || (s.ctx cid).run != .running) = true then s else finishX s cid xd 0)
  | _ => .next s

/-! ## BANKCFG (R229) and PLANE (R230) -/

/-- Package offset of bank b of a cluster. -/
def bankOff (cluster b : Nat) : Nat := sramBase + (16 * cluster + b) * 2 ^ 18

/-- Whether the tables from one of a level down map some address of an extent to [lo, hi) of this package, for a read (fuel is
the level + 1). -/
def mapsTo (s : State) (vd : Nat) (v : Vd) (ext : Int × Int) (lo hi : Nat) : Nat → Nat → Nat → Bool
  | 0, _, _ => false
  | level + 1, table, va =>
    let size := 2 ^ (12 + 9 * level)
    inRanges v table 4096 && paHbm table 4096 &&
    (List.range 512).any (fun i =>
      let a := va + i * size
      overlaps ext ((a : Int), ((a + size : Nat) : Int)) &&
      (match devReadN s (table + 8 * i) 0 8 with
       | none => false
       | some e =>
         if !eV e || entryBad level e then false
         else if eLeaf e then
           let b := leafBase level e
           (leafCheck s vd v level e false false 0).isNone && b / 2 ^ 44 == s.posN && decide (b % 2 ^ 44 < hi ∧ lo < b % 2 ^ 44 + size) &&
             overlaps ext (((a + (lo - b % 2 ^ 44) : Nat) : Int), ((a + min size (hi - b % 2 ^ 44) : Nat) : Int))
         else mapsTo s vd v ext lo hi level (ePfn e * 4096) a))
/-- Whether a placed AGEN of any virtual device feeds from a bank (R229). -/
def feedsAgen (s : State) (cluster b : Nat) : Bool :=
  let lo := bankOff cluster b
  s.planes.any (fun e => match agenExtent e.2.page, s.vd? e.2.vd with
    | some x, some v => mapsTo s e.2.vd v x lo (lo + 2 ^ 18) 5 v.ptroot 0
    | _, _ => false)
/-- Whether an unretired waybill stages an extent in a bank. -/
def stagesIn (s : State) (cluster b : Nat) : Bool :=
  (s.cluster cluster).wbs.any (fun w => w.phase != .finished && w.exts.any (fun x => x.stage && x.bank == b))
/-- Whether an access of a bank is on its way. -/
def bankInUse (s : State) (cluster b : Nat) : Bool :=
  let lo := paOf s (bankOff cluster b)
  s.net.any (fun k => match k.sector? with | some x => decide (lo ≤ x ∧ x < lo + 2 ^ 18) | none => false)

/-- The bytes of a memory range replaced by free ones. -/
def mfree (m : Memory) (n lo : Nat) : Nat → Memory
  | 0 => m
  | k + 1 => mfree (mwrite m (lo + k) (Config.freeByte n (lo + k))) n lo k

/-- A bank's mode changed (R229): copies invalidated, FIFO emptied, SCRATCH contents undefined, its translations removed. -/
def setBankMode (s : State) (cluster b : Nat) (mode : BankMode) : State :=
  match (s.cluster cluster).banks[b]? with
  | none => s
  | some x =>
    if x.mode = mode then s.modCluster cluster (fun c =>
      { c with cache := if mode = .cache then [] else c.cache, banks := c.banks.set b { x with fifo := [] } })
    else
      let s := s.modCluster cluster (fun c => { c with cache := [], banks := c.banks.set b { x with mode := mode, fifo := [] } })
      let lo := bankOff cluster b
      let s := if x.mode = .scratch then
          let (n, s) := s.draw
          { s with mem := mfree s.mem n lo (2 ^ 18), bad := s.bad.filter (fun o => !(decide (lo ≤ o ∧ o < lo + 2 ^ 18))) }
        else s
      dropTlb s (fun t =>
        let base := leafBase t.level t.entry.toNat
        base / 2 ^ 44 == s.posN && decide (base % 2 ^ 44 < lo + 2 ^ 18 ∧ lo < base % 2 ^ 44 + leafBytes t.level))

/-- BANKCFG (R229): the bank first drains. -/
def execSeqBankcfg (xd : XReg) (bank : Fin 16) (mode : BitVec 2) (s : State) : Ans :=
  atLevel super (.seqBankcfg xd bank mode) s (fun cid c =>
    let cl := ctxCluster cid
    let b := bank.val
    let owner := match (s.cluster cl).banks[b]? with | some x => x.owner | none => none
    if mode = 3 then trapHere s cid causeIllegal (wordOf (.seqBankcfg xd bank mode))
    else if owner ≠ c.vd ∨ owner = none ∨ s.hub.retiredBanks.contains (16 * cl + b) = true then finishX s cid xd 2
    else if stagesIn s cl b || feedsAgen s cl b then finishX s cid xd 1
    else if bankInUse s cl b then s
    else finishX (setBankMode s cl b (if mode = 0 then .cache else if mode = 1 then .scratch else .fifo)) cid xd 0)

/-- PLANE (R230): the entry is in force from the next pass. -/
def execSeqPlane (xa : XReg) (e : Fin 16) (s : State) : Ans :=
  atLevel firm (.seqPlane xa e) s (fun cid c =>
    let v := c.getX xa
    if v.toNat / 2 ^ 34 ≠ 0 then trapHere s cid causeBound v
    else finish (s.modCluster (ctxCluster cid) (fun x => x.writeFrame (x.written.set e.val v))) cid)

end Sys2Proof.Machine
end

