-- ==== Sys2Proof/Machine/Cut.lean ====
section
/-! DEFINITION. Roll-back and assay (R52, R475, R479, R480), the caravan cut and RESUME (R56 to R58, R231 to R233, R463 to R467). -/

namespace Sys2Proof.Machine

/-! ## Roll-back (R52) -/

/-- REGION_ROLLBACK (R52, R475): a second roll-back before a knot commits starts an assay of the region's tile (R479). -/
def execRegionRollback (pl : Nat) (s : State) : Ans :=
  match s.plane? pl with
  | none => .next s
  | some p =>
    if !p.armed || p.assay then .next s
    else
      let s := rollbackLinked s pl
      .next (if 1 ≤ p.rollbacks then startAssay s (planeTile pl) pl 1 else s)

/-! ## Aborting a section (R233, R446, R480) -/

def cancelFids (s : State) (pl : Nat) : State :=
  match s.plane? pl with
  | none => s
  | some p =>
    let s := match p.fault with | some f => dropFid s p.vd f.fid | none => s
    let s := match p.wfault with | some f => dropFid s p.vd f.fid | none => s
    s.modPlane pl (fun p => { p with fault := none, wfault := none })

/-- A plane's uncommitted groups and tokens discarded, their sequence numbers with them, so that a RELEASE names the number behind
the last packet sent (R308); it is freed once what it has released is done. -/
def abortPlane (s : State) (pl : Nat) : State :=
  let s := match s.plane? pl with | some p => countDropped s p | none => s
  let s := cancelFids s pl
  let s := { s with net := s.net.filter (fun k => match k.body with
    | .load _ q _ _ _ _ => q != pl
    | .reply q _ _ _ _ _ => q != pl
    | _ => true) }
  tryRetire (s.modPlane pl (fun p =>
    { p with held := [], pend := [], reqs := [], agq := [], stream := [], loads := [], knot := none, armed := false,
             seqs := committedSeqs p.held p.seqs
             retiring := true, assay := false, suspect := none, outs := tmap (fun _ o => { o with q := [] }) p.outs })) pl

/-- Unretired TASK waybills of a section made to retire ABORTED once its planes are freed (R303, R318). -/
def abortWaybills (s : State) (cid k : Nat) : State :=
  let cl := ctxCluster cid
  let hit := fun (w : Waybill) => w.cid == cid && w.task && w.sec == k && w.phase != .finished
  let s := (s.cluster cl).wbs.foldl (fun s w => if hit w then (match w.fid with | some f => dropFid s w.vd f | none => s) else s) s
  s.modCluster cl (fun c => { c with wbs := c.wbs.map (fun w =>
    if hit w then { w with status := 2, phase := .running, fid := none, failed := false } else w) })

/-- A section aborted: its groups discarded, its planes freed as they settle, its waybills ABORTED. -/
def abortSection (s : State) (cid k : Nat) : State :=
  let l := ((s.ctx cid).sec k).planes
  let s := abortWaybills s cid k
  let s := s.modSec cid k (fun x => { x with away := false, cutting := false, inPlace := false })
  l.foldl abortPlane (taskEnds s cid k)

/-! ## Assay (R479, R480) -/

/-- The assay record of a tile for a virtual device. -/
def assayRecord (s : State) (tile vd cid trig : Nat) (r : AssayResult) : Bytes :=
  bytesLE 16 (pack [(120, 8, r.funit.toNat), (112, 8, r.index.toNat), (96, 16, r.faddr.toNat), (64, 2, r.lasting.toNat),
    (56, 8, 8), (52, 4, vd % 16), (49, 3, cid % 8), (46, 3, trig), (34, 10, faY s tile), (24, 10, faX s tile)])

/-- The virtual devices concerned: those of the implicated regions, and where the fault lasts those of every region of the tile,
each with an arming context. -/
def assayVds (s : State) (tile : Nat) (lasting : Bool) : List (Nat × Nat) :=
  let l := (tilePlanes s tile).filterMap (fun pl => match s.plane? pl with
    | some p => if lasting || p.suspect.isSome then some (p.vd, p.cid) else none
    | none => none)
  l.foldl (fun acc x => if acc.any (fun y => y.1 == x.1) then acc else acc ++ [x]) []

/-- ASSAY_COMPLETE (R480). The planes of aborted sections retire as RESUME with ABORT retires them, each once what it has released is done
(R303, R308). -/
def execAssayComplete (tile : Nat) (r : AssayResult) (s : State) : Ans :=
  let pls := (tilePlanes s tile).filter (fun pl => match s.plane? pl with | some p => p.assay | none => false)
  let bankOnly := r.funit == 3
  let vds := assayVds s tile (r.lasting && !bankOnly)
  let trig := (pls.findSome? (fun pl => (s.plane? pl).bind (fun p => p.suspect))).getD 0
  let rc := fun (x : Nat × Nat) => assayRecord s tile x.1 x.2 trig r
  if pls.isEmpty || vds.any (fun x => !canRaise s x.1 (rc x)) then .next s
  else
    let secs := (pls.filterMap (fun pl => (s.plane? pl).map (fun p => (p.cid, p.sec)))).eraseDups
    let s := vds.foldl (fun s x => setEvent (raise s x.1 (rc x)) x.2 4) s
    let s := addLog s 4 (if r.funit = 0 ∨ r.funit = 4 then r.index.toNat else 0) (faY s tile) (faX s tile) 0
    let cleared := pls.foldl (fun s pl => s.modPlane pl (fun p => { p with assay := false, suspect := none })) s
    if !r.lasting then .next cleared
    else if bankOnly then
      .next { cleared with hub := { cleared.hub with retiredBanks := cleared.hub.retiredBanks ++ [16 * tileCluster tile + r.index.toNat % 16] } }
    else
      let s := secs.foldl (fun s x => abortSection s x.1 x.2) cleared
      .next { s.setPower tile .gated with hub := { s.hub with retiredTiles := s.hub.retiredTiles ++ [tile] } }

/-! ## Markers (R56, R57, R463) -/

/-- Whether a marker will come on an input: from inside the region, or through a resolved exit of a region that still stands. -/
def needsMarker (s : State) (pl : Nat) (p : Plane) (k : Nat) : Bool :=
  let c := p.chan k
  if !c.entry then true
  else match c.fed with
    | none => false
    | some (q, port) => match s.plane? q with
      | none => false
      | some x => !x.retiring && (match tfind x.outs port with
        | some o => o.plane == some pl && o.dest == .exit p.pix k c.checked
        | none => false)

/-- A unit stopped: a stalled fault is cancelled, and one marker leaves on every output. -/
def stopUnit (s : State) (pl u : Nat) : State :=
  match s.plane? pl with
  | none => s
  | some p =>
    if p.stopped.contains u then s
    else
      let n := s.planeAc pl
      let drop := fun (s : State) (f : Option Fault5) => match f with | some x => dropFid s p.vd x.fid | none => s
      let mine := match p.fault with | some f => (u == 8 && f.src == 3) || (u == 9 && f.src != 3) | none => false
      let s := if mine then (drop s p.fault).modPlane pl (fun p => { p with fault := none }) else s
      let s := if u = 10 then (drop s p.wfault).modPlane pl (fun p => { p with wfault := none }) else s
      s.modPlane pl (fun p => (p.outputs u).foldl (fun p k => p.sendMarker k (n + 1)) { p with stopped := p.stopped ++ [u] })

/-- Markers injected at every source (R463). -/
def injectMarkers (s : State) (pl : Nat) : State :=
  match s.plane? pl with
  | none => s
  | some p => (p.units.filter (fun u => u == 8 || u == 10 || u == 18 || (p.inputs u).all (fun k => !needsMarker s pl p k))).foldl
      (fun s u => stopUnit s pl u) s

/-- MARKER_ARRIVAL (R56): the first marker on any input stops the unit; every input's marker is noted. -/
def execMarkerArrival (pl : Nat) (unit : Nat) (ch : Nat) (s : State) : Ans :=
  match s.plane? pl with
  | none => .next s
  | some p =>
    let k := 8 * unit + ch
    let n := s.planeAc pl
    if 8 ≤ ch ∨ p.marked.contains k = true ∨ p.assay = true ∨
        (p.chan k).q.any (fun x => !x.plain && decide (x.vis ≤ n)) = false then .next s
    else .next (stopUnit (s.modPlane pl (fun p => { p with marked := p.marked ++ [k] })) pl unit)

/-! ## The cut of a region (R57, R463) -/

/-- Whether every sector that the region's loads still wait for is one of the group in progress that has not been asked for (R56). -/
def loadsParked (p : Plane) : Bool :=
  p.loads.all (fun l => l.waiting.all (fun x => p.stream.any (fun a => match a with
    | .load i sec _ _ _ => i == l.id && sec == x
    | .store _ _ _ => false)))
/-- The release of a stopped region: open groups as committed, then markers through the exits. What is left of a group in progress is
translated again when the region goes on (R268). -/
def releaseRegion (s : State) (pl : Nat) : State :=
  match s.plane? pl with
  | none => s
  | some p =>
    if p.cutDone || p.retiring || p.assay || !p.units.all p.stopped.contains || !p.pend.all (fun w => w.done) || !loadsParked p then s
    else
      let s := commitGroup s pl true
      let s := s.modPlane pl (fun p =>
        { p with cutDone := true, pend := [], restream := !p.stream.isEmpty,
                 outs := tmap (fun _ o => match o.dest, o.plane with
                   | .exit _ _ _, some _ => { o with q := o.q ++ [markerTok] }
                   | _, _ => o) p.outs })
      drainOuts true s pl

/-- Places of replies to requests that the MIF has not taken, or is at. -/
def waitingPlaces (p : Plane) : List Nat := p.reqs.filterMap (fun r => r.port.map (fun _ => r.place)) ++ p.loads.map (·.place)
/-- Whether everything a released region waits for is done, but for its clasp contexts. -/
def regionQuiet (s : State) (pl : Nat) (p : Plane) : Bool :=
  p.cutDone && released s pl && loadsParked p && p.chans.all (fun e => (!needsMarker s pl p e.1 || p.marked.contains e.1) &&
    e.2.q.all (fun x => x.tok.isSome || (waitingPlaces p).contains x.id))
/-- Whether a region's cut is complete (R57, R463). -/
def regionDone (s : State) (pl : Nat) : Bool :=
  match s.plane? pl with
  | none => true
  | some p => !p.retiring && !p.assay && regionQuiet s pl p && p.seen.isEmpty && !releasing s pl

/-- One step of the cut of a region. -/
def cutRegion (s : State) (pl : Nat) : State :=
  let s := releaseRegion (injectMarkers s pl) pl
  match s.plane? pl with
  | none => s
  | some p => if regionQuiet s pl p && !p.seen.isEmpty then releaseStrands s pl else s

/-- The planes of sections, each section given with its context. -/
def secPlanes (s : State) (l : List (Nat × Nat)) : List Nat := l.flatMap (fun x => ((s.ctx x.1).sec x.2).planes)
def markSecs (s : State) (l : List (Nat × Nat)) (f : Section → Section) : State := l.foldl (fun s x => s.modSec x.1 x.2 f) s
/-- One step of the cut of several sections, and whether it is complete. -/
def cutStep (s : State) (l : List (Nat × Nat)) : State × Bool :=
  let t := (secPlanes s l).foldl cutRegion s
  (t, (secPlanes t l).all (regionDone t))
/-- The sections run again: markers and stops are gone (R233). -/
def runAgain (s : State) (l : List (Nat × Nat)) : State :=
  let t := markSecs s l (fun x => { x with cutting := false, inPlace := false })
  (secPlanes s l).foldl (fun s pl => (wakeTile s (planeTile pl)).modPlane pl (fun p =>
    { p.touch (s.planeAc pl) with stopped := [], marked := [], cutDone := false,
                                  chans := tmap (fun _ c => { c with q := c.q.filter Place.plain }) p.chans })) t

/-! ## The save area (R465, R466) -/

/-- The filled tokens of a channel, and the places still unfilled with their positions. -/
def chanSaved (c : Chan) : List Token := c.q.filterMap (fun x => match x.tok with | some t => if t.mrk then none else some t | none => none)
def chanHoles : Nat → List Place → List (Nat × Place)
  | _, [] => []
  | i, x :: r => match x.tok with
    | some t => chanHoles (if t.mrk then i else i + 1) r
    | none => (i, x) :: chanHoles (i + 1) r

/-- The bytes of a saved token. -/
def tokenBytes (t : Token) : Bytes :=
  let st := match t.stream with | some (a, b, _) => bytesLE 8 (a % 2 ^ 32 + b % 8 * 2 ^ 32) | none => zerosB 8
  bytesLE 32 (if t.seal then 0 else t.data.toNat) ++ bytesLE 2 t.tag.toNat ++ zerosB 6 ++ (if t.seal then st else zerosB 8) ++ zerosB 16
def chanBlock (k : Nat) (l : List Token) : Bytes :=
  bytesLE 32 (pack [(0, 8, k / 8), (8, 8, k % 8), (16, 16, l.length)]) ++ l.flatMap tokenBytes
/-- The page image as placed, each input with its depth. -/
def imageNow (p : Plane) : Bytes :=
  let ws := (routeWords p.page.bytes).map (fun w =>
    let r := routeOf w
    if w.testBit 31 ∧ r.kind ≠ kExit then w - r.arg * 8 + ((p.chan r.dst).depth - 1) % 256 * 8 else w)
  p.page.bytes.take 2304 ++ ws.flatMap (bytesLE 4) ++ p.page.bytes.drop 2816
def elemBytes (x : Elem) : Bytes :=
  (x.g.toList.flatMap (fun v => bytesLE 32 v.toNat)) ++ [x.p.setWidth 8] ++ [if x.halted then 1 else 0] ++ zerosB 30
def rowBytes (r : AccRow) : Bytes := bytesLE 128 r.data.toNat ++ bytesLE 2 r.oix.toNat ++ [if r.psn then 1 else 0] ++ zerosB 29
/-- The 4,096 bytes of operator state: a ticket that stands for it and free bytes (log entry 14), and the MASK table. -/
def opBytes (p : Plane) (ticket : Nat) : Bytes :=
  bytesLE 8 ticket ++ (List.range 3064).map (fun i => Config.freeByte ticket (8 + i)) ++ ((List.range 256).flatMap (fun i => bytesLE 4 (maskEntry p.ops.maskT i)))

/-- What the operator area of a plane stands for. Pages of a LINK chain that were read ahead are read again (R261). -/
def opSave (s : State) (p : Plane) : OpSave :=
  let x := (s.ctx p.cid).sec p.sec
  { ops := { p.ops with agen := { p.ops.agen with ahead := [] } }, reqs := p.reqs, agq := p.agq, stream := p.stream, loads := p.loads, held := p.held, widx := p.elems.map (·.widx), traps := p.elems.map (·.trapped),
    holes := p.chans.map (fun e => (e.1, chanHoles 0 e.2.q)), knot := p.knot, drained := p.drained, nextId := p.nextId,
    armed := p.armed, draining := x.draining, drainNamed := x.drainNamed }

/-- The record of a region (R465). -/
def regionRecord (s : State) (pl : Nat) (p : Plane) (inPlace : Bool) (ticket : Nat) : Bytes :=
  let t := planeTile pl
  let blocks := p.chans.filterMap (fun e => let l := chanSaved e.2; if l.isEmpty then none else some (chanBlock e.1 l))
  let tail := blocks.flatten
  let aq := p.aq / 16
  let rlen := 16704 + 2560 * aq + tail.length
  let word := pack [(54, 6, ctxCluster p.cid), (53, 1, inPlace.toNat), (50, 3, p.cid % 8), (49, 1, p.knot.isSome.toNat), (43, 6, aq),
    (38, 5, p.tq), (30, 8, p.pix), (22, 8, p.sec), (20, 2, pl % 4), (10, 10, faY s t), (0, 10, faX s t)]
  bytesLE 8 word ++ bytesLE 8 rlen ++ bytesLE 8 blocks.length ++ zerosB 40 ++ imageNow p ++
    (List.range 8).flatMap (fun e => elemBytes (p.elem e)) ++ opBytes p ticket ++
    (List.range p.aq).flatMap (fun r => rowBytes (p.row r)) ++ tail

/-- A ticket not yet given: a count, with the package's position so that none of another package is the same. -/
def newTicket (s : State) : Nat := 256 * (s.hub.opSaves.length + 1) + s.posN
/-- Every region's record, with the tickets of their operator states put into the hub's table. -/
def recordAll : List Nat → State → State × List Bytes
  | [], s => (s, [])
  | pl :: r, s =>
    match s.plane? pl with
    | none => recordAll r s
    | some p =>
      let inPlace := ((s.ctx p.cid).sec p.sec).inPlace
      let b := regionRecord s pl p inPlace (newTicket s)
      let s := { s with hub := { s.hub with opSaves := tset s.hub.opSaves (newTicket s) (opSave s p) } }
      match recordAll r s with
      | (s, l) => (s, b :: l)
/-- The save area of sections (R465). -/
def saveArea (s : State) (l : List (Nat × Nat)) : State × Bytes :=
  match recordAll (secPlanes s l) s with
  | (s, rs) => (s, bytesLE 64 (pack [(0, 16, 1), (16, 16, rs.length)]) ++ rs.flatten)

/-- Tokens a plane's channels hold, as a count. -/
def savedCount (p : Plane) : Int := p.chans.foldl (fun a e => a + ((chanSaved e.2).length : Nat)) 0
/-- The planes of saved sections freed: their tokens leave the balance, the sections stand in the save area (R463). -/
def carryAway (s : State) (l : List (Nat × Nat)) : State :=
  let pls := secPlanes s l
  let s := markSecs s l (fun x => { x with cutting := false, inPlace := false, away := true })
  pls.foldl (fun s pl => freePlane (s.modPlane pl (fun p => p.addBal (-(savedCount p)))) pl) s

/-! ## CUT (R231, R232) -/

/-- The fields of a section control record. -/
structure SecRec where
  kind : Nat
  rsv : Nat
  base : Nat
  len : Nat
  secs : List Nat
deriving DecidableEq, Repr
def secRec (l : Bytes) : SecRec :=
  { kind := numAt l 0 1, rsv := numAt l 1 7, base := numAt l 24 8, len := numAt l 16 8, secs := bitsSet 256 (numAt l 32 32) }

/-- Whether a page just translated has CONF set. -/
def pageConf (s : State) (unit vd : Nat) (va : Word) : Bool :=
  match tlbHit s unit vd va.toNat false false with
  | some t => eConf t.entry.toNat
  | none => false
/-- Write translations of every page that n bytes from an address touch, as (virtual page, physical page, key slot); in a
confidential virtual device each must have CONF (R467). Fuel bounds the pages. -/
def areaCheck (cluster vd : Nat) (conf : Bool) : Nat → State → Word → Nat → List (Nat × Nat × Nat) → State × VRes (List (Nat × Nat × Nat))
  | 0, s, _, _, acc => (s, .ok acc)
  | f + 1, s, va, n, acc =>
    if n = 0 then (s, .ok acc)
    else
      match translate s (tlbCluster cluster) vd va true false with
      | (s, .bad r) => (s, .fault r va)
      | (s, .ok pa kslot _ _) =>
        if conf && !pageConf s (tlbCluster cluster) vd va then (s, .ue va)
        else
          let k := min n (4096 - va.toNat % 4096)
          areaCheck cluster vd conf f s (va + BitVec.ofNat 64 k) (n - k) (acc ++ [(va.toNat / 4096, pa / 4096, kslot)])
def checkArea (s : State) (cluster vd base len : Nat) : State × VRes (List (Nat × Nat × Nat)) :=
  let conf := match s.vd? vd with | some v => v.conf | none => false
  areaCheck cluster vd conf (len / 4096 + 2) s (BitVec.ofNat 64 base) len []

/-- Bytes from a virtual address on as sector writes under translations already made; fuel bounds the sectors. -/
def planMapped (maps : List (Nat × Nat × Nat)) : Nat → Nat → Bytes → List Access
  | 0, _, _ => []
  | f + 1, va, l =>
    if l = [] then []
    else
      let lo := va % 32
      let k := min (32 - lo) l.length
      match maps.find? (fun m => m.1 == va / 4096) with
      | none => []
      | some (_, pg, ks) =>
        ⟨4096 * pg + va % 4096 - lo, BitVec.ofNat 256 (ofBytesLE (l.take k) * 2 ^ (8 * lo)), BitVec.ofNat 32 ((2 ^ k - 1) * 2 ^ lo),
          none, false, ks⟩ :: planMapped maps f (va + k) (l.drop k)

/-- A record or area of a context: into the firmware address space at FIRM (R208), else under translations already made, one sector in
each of its turns to come (R294). -/
def cutWrite (s : State) (cid : Nat) (maps : List (Nat × Nat × Nat)) (va : Nat) (l : Bytes) : State :=
  if (s.ctx cid).pl = firm then firmWrite s va l
  else s.modCtx cid (fun c => { c with puts := c.puts ++ planMapped maps (l.length / 32 + 2) va l })

def myself (cid : Nat) (l : List Nat) : List (Nat × Nat) := l.map (fun k => (cid, k))

/-- A CUT whose record and area can be written: markers start on their way and the context waits. It waits first for an assay. -/
def cutBegin (s : State) (cid : Nat) (xd : XReg) (a : Word) (r : SecRec) (maps : List (Nat × Nat × Nat)) : State :=
  let secs := myself cid r.secs
  let c := s.ctx cid
  if r.secs.any (fun k => !((c.sec k).armed && !(c.sec k).planes.isEmpty)) then finishX s cid xd 4
  else if (secPlanes s secs).any (fun pl => match s.plane? pl with | some p => p.assay | none => false) then s
  else
    (markSecs s secs (fun x => { x with cutting := true })).modCtx cid
      (fun c => { c with wait := .cut xd a r.secs r.base r.len maps })

/-- CUT (R232): the checks and every translation it needs ahead of anything that stops (R247); at FIRM record and area lie in the
firmware address space (R208). DESIGN CHOICE (log entry 100): the area is tested before the sections, so PAGE goes before NOSEC. -/
def execSeqCut (xd xa : XReg) (s : State) : Ans :=
  atLevel super (.seqCut xd xa) s (fun cid c =>
    let a := c.getX xa
    if a.toNat % 64 ≠ 0 then trapHere s cid causeAlign a
    else ctxBytes s cid a 64 (fun s l =>
      let r := secRec l
      if r.kind ≠ 0 ∨ r.rsv ≠ 0 ∨ r.base % 64 ≠ 0 then finishX s cid xd 1
      else if c.pl = firm then cutBegin s cid xd a r []
      else match checkArea s (ctxCluster cid) c.vdn r.base r.len with
        | (s, .fault e v) => ctxFaultS s cid v e faWrite (some (xd, 3))
        | (s, .ue _) => finishX s cid xd 3
        | (s, .pause) => s
        | (s, .ok maps) =>
          ctxAccessS s cid a faWrite (some (xd, 3)) (fun s pa kslot _ =>
            cutBegin s cid xd a r ((a.toNat / 4096, pa / 4096, kslot) :: maps))))

/-- A CUT whose regions are all complete: the area is written, or too small. The wait goes on with bit 0 of the record's address set until
the writes are done, with bit 1 for SHORT. -/
def cutEnd (s : State) (cid : Nat) (xd : XReg) (va : Word) (l : List Nat) (base len : Nat) (maps : List (Nat × Nat × Nat)) : State :=
  let (t, area) := saveArea s (myself cid l)
  let used := fun (s : State) => cutWrite s cid maps (va.toNat + 8) (bytesLE 8 area.length)
  let go := fun (s : State) (bit : Word) => s.modCtx cid (fun c => { c with wait := .cut xd (va ||| bit) l base len maps })
  if len < area.length then go (used s) 3 else go (used (cutWrite t cid maps base area)) 1
/-- The end of a CUT whose record and area are written: the planes are freed, or stand stopped in place. -/
def cutFinish (s : State) (cid : Nat) (xd : XReg) (va : Word) (l : List Nat) : State :=
  let secs := myself cid l
  if va.getLsbD 1 then finishX (markSecs s secs (fun x => { x with inPlace := true, cutting := false })) cid xd 2
  else finishX (carryAway s secs) cid xd 0

/-! ## RESUME (R233, R467) -/

/-- A region record read back: its word, quotas, image, elements, rows and channel tokens. -/
structure Region where
  word : Nat
  page : Page
  elems : List Elem
  rows : Tab AccRow
  ticket : Nat
  opArea : Bytes
  mask : Tab (BitVec 32)
  chans : List (Nat × List Token)
deriving DecidableEq, Repr
def Region.aq (r : Region) : Nat := bits r.word 43 6
def Region.tq (r : Region) : Nat := bits r.word 38 5
def Region.pix (r : Region) : Nat := bits r.word 30 8
def Region.sec (r : Region) : Nat := bits r.word 22 8
def Region.cid (r : Region) : Nat := 8 * bits r.word 54 6 + bits r.word 50 3
def Region.inPlace (r : Region) : Bool := r.word.testBit 53
def Region.kopen (r : Region) : Bool := r.word.testBit 49

def elemOf (l : Bytes) : Elem :=
  { g := Vector.ofFn (fun (i : Fin 32) => BitVec.ofNat 256 (numAt l (32 * i.val) 32)), p := BitVec.ofNat 8 (numAt l 1024 1),
    halted := (numAt l 1025 1).testBit 0 }
def rowOf (l : Bytes) : AccRow :=
  { data := BitVec.ofNat 1024 (numAt l 0 128), psn := (numAt l 130 1).testBit 0, oix := BitVec.ofNat 16 (numAt l 128 2) }
def tokenOf (l : Bytes) : Token :=
  let tag := BitVec.ofNat 16 (numAt l 32 2)
  { data := BitVec.ofNat 256 (numAt l 0 32), tag := tag,
    stream := if tag.getLsbD 7 then some (numAt l 40 4, bits (numAt l 44 1) 0 3, 0) else none }
/-- Whether the zero bytes of an element, a row and a token are zero (R10, R465, R466). -/
def elemOk (l : Bytes) : Bool := numAt l 1025 31 / 2 == 0
def rowOk (l : Bytes) : Bool := numAt l 130 30 / 2 == 0
def tokenOk (l : Bytes) : Bool :=
  let sealed := (numAt l 32 2).testBit 7
  numAt l 32 8 / 2 ^ 12 == 0 && numAt l 48 16 == 0 &&
  (if sealed then numAt l 0 32 == 0 && numAt l 40 8 / 2 ^ 35 == 0 else numAt l 40 8 == 0)
/-- Channel blocks from a record's tail; none where they do not fit. -/
def blocksOf : Nat → Bytes → Option (List (Nat × List Token))
  | 0, l => if l = [] then some [] else none
  | n + 1, l =>
    let k := numAt l 2 2
    if l.length < 32 + 64 * k ∨ 20 ≤ numAt l 0 1 ∨ 8 ≤ numAt l 1 1 ∨ numAt l 4 28 ≠ 0 ∨
        (List.range k).all (fun i => tokenOk (byteSlice l (32 + 64 * i) 64)) = false then none
    else (blocksOf n (l.drop (32 + 64 * k))).map (fun r =>
      (8 * numAt l 0 1 + numAt l 1 1, (List.range k).map (fun i => tokenOf (byteSlice l (32 + 64 * i) 64))) :: r)
/-- A region record parsed; none where it breaks R465. -/
def regionOf (l : Bytes) : Option Region :=
  let w := numAt l 0 8
  let aq := bits w 43 6
  let fixed := 16704 + 2560 * aq
  let zeros := (List.range 8).all (fun e => elemOk (byteSlice l (4160 + 1056 * e) 1056)) &&
    (List.range (16 * aq)).all (fun i => rowOk (byteSlice l (16704 + 160 * i) 160))
  if bits w 60 4 ≠ 0 ∨ 32 < aq ∨ numAt l 24 40 ≠ 0 ∨ l.length < fixed ∨ zeros = false then none
  else (blocksOf (numAt l 16 8) (l.drop fixed)).map (fun b =>
    { word := w, page := parsePage (byteSlice l 64 4096),
      elems := (List.range 8).map (fun e => elemOf (byteSlice l (4160 + 1056 * e) 1056)),
      rows := (List.range (16 * aq)).map (fun i => (i, rowOf (byteSlice l (16704 + 160 * i) 160))),
      ticket := numAt l 12608 8, opArea := byteSlice l 12608 3072
      mask := (List.range 256).map (fun i => (i, BitVec.ofNat 32 (numAt l (15680 + 4 * i) 4))), chans := b })

/-- Whether a record can be restored: its channels are routed. -/
def regionOk (r : Region) : Bool := r.chans.all (fun e => (r.page.entry e.1).isSome)
/-- The running state that the bytes of an operator area have in FORMAT 0x0001, whose layout the spec does not give: a free value
(log entry 14). -/
opaque operatorLayout : Bytes → Option OpSt
/-- What the operator area of a record stands for: the state of its ticket, or where software has made the area, what its bytes say. -/
def savedOps (s : State) (r : Region) : OpSave :=
  (tfind s.hub.opSaves r.ticket).getD
    { ops := (operatorLayout r.opArea).getD {}, reqs := [], agq := [], widx := [], traps := [], holes := [], knot := none, drained := [],
      nextId := 1, armed := true, draining := false, drainNamed := false }

/-- How an agent reads n bytes at an address: by a cluster's translation, or in the firmware address space (R208). -/
abbrev Reader : Type := State → Word → Nat → State × VRes Bytes
def vreader (w : Who) (vd : Nat) : Reader := fun s va n => vread s w vd va n
def fwReader : Reader := fun s va n => if firmBad s va.toNat n then (s, .ue va) else (s, .ok (mreadBytes s.fmem va.toNat n))

/-- The length of each record and the records of a save area; .ok none where the area is malformed. Fuel bounds the records. -/
def readRegions (rd : Reader) : Nat → State → Word → Nat → State × VRes (Option (List Region))
  | 0, s, _, _ => (s, .ok (some []))
  | n + 1, s, va, left =>
    if left < 24 then (s, .ok none)
    else match rd s va 24 with
      | (s, .fault e v) => (s, .fault e v)
      | (s, .ue v) => (s, .ue v)
      | (s, .pause) => (s, .pause)
      | (s, .ok h) =>
        let k := numAt h 8 8
        if left < k ∨ k % 32 ≠ 0 ∨ k < 16704 then (s, .ok none)
        else match rd s va k with
          | (s, .fault e v) => (s, .fault e v)
          | (s, .ue v) => (s, .ue v)
          | (s, .pause) => (s, .pause)
          | (s, .ok l) => match regionOf l with
            | none => (s, .ok none)
            | some r => match readRegions rd n s (va + BitVec.ofNat 64 k) (left - k) with
              | (s, .ok (some rs)) => (s, .ok (some (r :: rs)))
              | x => x
/-- A whole save area read. -/
def readArea (rd : Reader) (s : State) (base len : Nat) : State × VRes (Option (List Region)) :=
  if len < 64 then (s, .ok none)
  else match rd s (BitVec.ofNat 64 base) 64 with
    | (s, .fault e v) => (s, .fault e v)
    | (s, .ue v) => (s, .ue v)
    | (s, .pause) => (s, .pause)
    | (s, .ok h) =>
      if numAt h 0 2 ≠ 1 ∨ numAt h 4 60 ≠ 0 then (s, .ok none)
      else readRegions rd (numAt h 2 2) s (BitVec.ofNat 64 (base + 64)) (len - 64)

/-- A channel's places as they stood: the saved tokens, and the unfilled places at their positions. -/
def mergeHoles : Nat → Nat → List (Nat × Place) → List Place → List Place
  | 0, _, _, l => l
  | f + 1, i, h, l =>
    match h with
    | (j, x) :: r => if j = i then x :: mergeHoles f (i + 1) r l else
      (match l with
       | [] => x :: mergeHoles f (i + 1) r []
       | y :: m => y :: mergeHoles f (i + 1) h m)
    | [] => l

/-- A saved token's place: a sealed one takes the WPORT port that feeds its channel, which reads it again (R177); one between units
of the region is committed state (R463). -/
def savedPlace (p : Plane) (k : Nat) (entry : Bool) (t : Token) : Place :=
  let port := (p.outs.findSome? (fun o => if chanUnit o.1 = 10 ∧ o.2.dest = .loc k then some (o.1 % 8) else none)).getD 0
  { id := 0, tok := some { t with stream := t.stream.map (fun x => (x.1, x.2.1, port)) }, vis := 0, inj := t.rpl, keep := !entry
    reread := t.stream.isSome }

/-- A placed plane given the state of its record (R58, R464): it is the region's committed state too. -/
def restorePlane (s : State) (pl : Nat) (r : Region) : State :=
  let o := savedOps s r
  s.modPlane pl (fun p =>
    let elems := (List.range 8).map (fun e => { r.elems.getD e (p.elem e) with widx := o.widx.getD e {}, trapped := o.traps.getD e false })
    let ops := { o.ops with maskT := r.mask }
    let knot := if r.kopen then some (o.knot.getD { drain := false, taken := [], implicit := false }) else none
    let chans := p.chans.map (fun e =>
      let toks := ((r.chans.filter (fun b => b.1 == e.1)).flatMap (·.2)).map (savedPlace p e.1 e.2.entry)
      let holes := (tget o.holes e.1 []).map (fun h => (h.1, { h.2 with keep := !e.2.entry }))
      (e.1, { e.2 with q := mergeHoles (toks.length + holes.length + 1) 0 holes toks }))
    let n := sumBy (fun b => b.2.length) r.chans
    let us := p.units
    let mx := (p.page.mxcfg.getLsbD 0 && (blockOf p 10).testBit 0) || chans.any (fun e => e.2.q.any (fun x => x.reread))
    { p.touch (s.planeAc pl) with
      armed := o.armed, elems := elems, cElems := elems, ops := ops, cOps := ops, rows := r.rows, chans := chans
      reqs := o.reqs, agq := o.agq, stream := o.stream, loads := o.loads, held := o.held, restream := !o.stream.isEmpty, knot := knot, drained := o.drained, nextId := o.nextId
      cReqs := o.reqs, cAgq := o.agq, cStream := o.stream.filter StreamAcc.isStore, cKnot := knot, cDrained := o.drained
      draining := o.draining, drainNamed := o.drainNamed
      bal := (n : Int), refill := if mx then us.filter (· < 8) else []
      stopped := if r.inPlace then us else [], marked := if r.inPlace then chans.map (·.1) else [], cutDone := r.inPlace })

/-- The tokens restored into an entry count against its producer's credit. -/
def chargeEntries (s : State) (pl : Nat) : State :=
  match s.plane? pl with
  | none => s
  | some p => p.chans.foldl (fun s e => match e.2.fed with
      | some (q, port) =>
        let n : Int := ((e.2.q.filter (fun x => !x.inj)).length : Nat)
        s.modPlane q (fun x => match tfind x.outs port with
          | some o => { x with outs := tset x.outs port { o with credit := o.credit - n } }
          | none => x)
      | none => s) s

/-- What a restoration can fail of. -/
inductive RFail where
  | bad | noPlane
deriving DecidableEq, Repr

/-- One region's page placed for a context; the answer names the plane. DESIGN CHOICE (log entry 79): an image that
fails a check of PLACE makes the area malformed, status 1; R233 names no status for it. -/
def placeOne (cid : Nat) (r : Region) (s : State) : State × (RFail ⊕ Nat) :=
  let d : PDesc := { fix := false, tx := 0, ty := 0, pl := 0, strict := false, tq := r.tq, aq := r.aq, sec := r.sec, pix := r.pix }
  let vd := (s.ctx cid).vdn
  if !regionOk r || (pageErr s vd (secPages s cid r.sec) r.page d).isSome then (s, .inl .bad)
  else match choosePlane s vd d r.page with
    | (s, .inl _) => (s, .inl .noPlane)
    | (s, .inr pl) => (putPage s cid r.sec r.pix r.tq r.aq r.page pl, .inr pl)
/-- The regions placed one by one, for the contexts that own names; the answer lists the planes. -/
def placeRegions (own : Region → Nat) : List Region → State → State × (RFail ⊕ List Nat)
  | [], s => (s, .inr [])
  | r :: rs, s =>
    match placeOne (own r) r s with
    | (s, .inl e) => (s, .inl e)
    | (s, .inr pl) =>
      match placeRegions own rs s with
      | (s, .inr l) => (s, .inr (pl :: l))
      | x => x

/-- Sections' flags before their pages are placed, and after: drains go on, regions marked INPLACE stand stopped. -/
def secFlags (old : Section) (s : State) (r : Region) : Section → Section := fun x =>
  let o := savedOps s r
  { x with armed := o.armed, away := false, trapped := old.trapped, closed := old.closed, draining := o.draining, drainNamed := o.drainNamed
           inPlace := x.inPlace || r.inPlace }

/-- Regions restored (R467): all or none. -/
def restoreAll (s : State) (own : Region → Nat) (rs : List Region) : State × Option RFail :=
  match placeRegions own rs s with
  | (_, .inl e) => (s, some e)
  | (t, .inr pls) =>
    let both := rs.zip pls
    let t := both.foldl (fun t x => restorePlane t x.2 x.1) t
    let t := pls.foldl chargeEntries t
    let closes := fun (x : Section) => x.planes.any (fun pl => match t.plane? pl with
      | some p => p.units.any (closedSource p)
      | none => false)
    let t := rs.foldl (fun t r =>
      let old := (s.ctx (own r)).sec r.sec
      t.modSec (own r) r.sec (fun x => let y := secFlags old t r x; { y with closed := y.closed || closes y })) t
    (pls.foldl (fun t pl => invalidate t (planeCluster pl)) t, none)

/-- RESTORE: the selected sections must hold no page and stand in the area (log entry 20). Data that fail their check give the status PAGE
and the record of R212. -/
def resumeRestore (s : State) (cid : Nat) (xd : XReg) (r : SecRec) : State :=
  let c := s.ctx cid
  match readArea (if c.pl = firm then fwReader else vreader (.ctx cid) c.vdn) s r.base r.len with
  | (s, .pause) => s
  | (s, .fault e v) => ctxFaultS s cid v e faRead (some (xd, 3))
  | (s, .ue v) =>
    let rc := seqFaultRec s (ctxCluster cid) c.vdn cid v 0 true true false 0 faRead
    if c.pl = firm then firmUe s cid v
    else if canRaise s c.vdn rc then finishX (raise s c.vdn rc) cid xd 3
    else s
  | (s, .ok none) => finishX s cid xd 1
  | (s, .ok (some l)) =>
    let l := l.filter (fun x => r.secs.contains x.sec)
    if r.secs.any (fun k => !(c.sec k).planes.isEmpty || !l.any (fun x => x.sec == k)) then finishX s cid xd 4
    else match restoreAll s (fun _ => cid) l with
      | (s, some .bad) => finishX s cid xd 1
      | (s, some .noPlane) => finishX s cid xd 5
      | (s, none) => finishX s cid xd 0

/-- CONTINUE: every halted element of the sections evaluates its guards again (R54); a trap resumed so is remembered (R226). -/
def continueSec (s : State) (cid k : Nat) : State :=
  let pls := ((s.ctx cid).sec k).planes
  let trap := pls.any (fun pl => match s.plane? pl with | some p => p.elems.any (fun x => x.halted && x.trapped) | none => false)
  pls.foldl (fun s pl =>
    (wakeTile s (planeTile pl)).modPlane pl (fun p =>
      let go := fun (x : Elem) => { x with halted := false, trapped := false }
      { p with elems := p.elems.map go, cElems := p.cElems.map go, kElems := tmap (fun _ x => go x) p.kElems }))
    (s.modSec cid k (fun x => { x with trapped := x.trapped || trap }))

/-- The end of a RESUME with ABORT: its planes have been freed. -/
def abortEnd (s : State) (cid : Nat) (xd : XReg) (l : List Nat) : State :=
  let s := (secPlanes s (myself cid l)).foldl tryRetire s
  if (secPlanes s (myself cid l)).isEmpty then
    finishX (markSecs s (myself cid l) (fun _ => {})) cid xd 0
  else s.modCtx cid (fun c => { c with wait := .abort xd l })

/-- RESUME (R233): the record's KIND says what it does. -/
def resume (xd xa : XReg) (i : Instr) (s : State) : Ans :=
  atLevel super i s (fun cid c =>
    let a := c.getX xa
    if a.toNat % 64 ≠ 0 then trapHere s cid causeAlign a
    else ctxBytes s cid a 64 (fun s l =>
      let r := secRec l
      let all := fun (ok : Section → Bool) (f : State → Nat → State) =>
        if r.secs.any (fun k => !ok (c.sec k)) then finishX s cid xd 4 else finishX (r.secs.foldl f s) cid xd 0
      if r.rsv ≠ 0 ∨ r.kind = 0 ∨ 4 < r.kind ∨ (r.kind = 1 ∧ r.base % 64 ≠ 0) then finishX s cid xd 1
      else if r.kind = 1 then resumeRestore s cid xd r
      else if r.kind = 2 then all (fun x => x.armed && !x.planes.isEmpty) (fun s k => continueSec s cid k)
      else if r.kind = 3 then
        (if r.secs.any (fun k => !(((c.sec k).armed && !(c.sec k).planes.isEmpty) || (c.sec k).away)) then finishX s cid xd 4
         else abortEnd (r.secs.foldl (fun s k => abortSection s cid k) s) cid xd r.secs)
      else all (fun x => x.inPlace) (fun s k => runAgain s [(cid, k)])))

/-- RESUME_RESTORE (R233). -/
def execResumeRestore (xd xa : XReg) (s : State) : Ans := resume xd xa (.resumeRestore xd xa) s
/-- RESUME_RELEASE (R233). -/
def execResumeRelease (xd xa : XReg) (s : State) : Ans := resume xd xa (.resumeRelease xd xa) s
/-- RESUME_CONTINUE (R233). -/
def execResumeContinue (xd xa : XReg) (s : State) : Ans := resume xd xa (.resumeContinue xd xa) s
/-- RESUME_ABORT (R233). -/
def execResumeAbort (xd xa : XReg) (s : State) : Ans := resume xd xa (.resumeAbort xd xa) s

/-- The turn of a context that waits in a CUT or an abort. -/
def ctxProgress (s : State) (cid : Nat) : State :=
  match (s.ctx cid).wait with
  | .cut xd va l base len maps =>
    if va.getLsbD 0 then cutFinish s cid xd va l
    else (match cutStep s (myself cid l) with
     | (s, true) => cutEnd s cid xd va l base len maps
     | (s, false) => s)
  | .abort xd l => abortEnd s cid xd l
  | _ => s

end Sys2Proof.Machine
end

