-- ==== Sys2Proof/Machine/Dispatcher.lean ====
section
/-! DEFINITION. The dispatcher's waybills and copy engine (R223 to R226, R319, R522), the frame table and evictions of the cluster
cache (R297, R461). -/

namespace Sys2Proof.Machine

/-! ## The record (R223, R225) -/

def extentOf (w : Nat) : Extent :=
  { base := bits w 64 64, len := bits w 32 32, rd := w.testBit 30, wr := w.testBit 31, stage := w.testBit 29, bank := bits w 25 4,
    off := bits w 12 13 }
/-- An extent's form: aligned, a direction, and a stage that stays in its bank. -/
def extentOk (w : Nat) : Bool :=
  let e := extentOf w
  e.base % 32 == 0 && e.len != 0 && e.len % 32 == 0 && (e.rd || e.wr) && bits w 0 12 == 0 &&
  (if e.stage then decide (32 * e.off + e.len ≤ 2 ^ 18) else e.bank == 0 && e.off == 0)
def wbExtents (l : Bytes) : List Nat := (List.range (min 8 (numAt l 4 1))).map (fun i => numAt l (64 + 16 * i) 16)
/-- BADREC of R225, but for the banks' modes. -/
def wbForm (l : Bytes) : Bool :=
  let es := (wbExtents l).map extentOf
  let kind := numAt l 0 1
  numAt l 1 2 == 0 && numAt l 5 3 == 0 && numAt l 32 32 == 0 && decide (numAt l 4 1 ≤ 8) && (wbExtents l).all extentOk &&
  numAt l 24 8 % 8 == 0 && (kind == 1 || (kind == 2 && numAt l 3 1 == 0 && numAt l 8 8 == 0 &&
    (match es with
     | [a, b] => a.rd && !a.wr && b.wr && !b.rd && a.len == b.len && !a.stage && !b.stage
     | _ => false)))
def stageBankOk (s : State) (cl : Nat) (e : Extent) : Bool :=
  !e.stage || (match (s.cluster cl).banks[e.bank]? with | some x => x.mode == .scratch | none => false)

/-- Accepted waybills that have not retired. -/
def wbOpen (c : Cluster) : Nat := (c.wbs.filter (fun w => w.phase != .finished)).length
def badStatus (code : Nat) : Nat := 2 ^ 63 + code

/-- A record accepted or rejected (R225): a STAGE bank that is not in SCRATCH mode, a STAGE overrun and a COPY that breaks its form are
BADREC, for which R225 names no code (log entry 75). -/
def acceptRecord (cid : Nat) (xd : XReg) (s : State) (l : Bytes) : State :=
  let cl := ctxCluster cid
  let c := s.ctx cid
  let es := (wbExtents l).map extentOf
  if !wbForm l || !es.all (stageBankOk s cl) then finishX s cid xd (badStatus 1)
  else if !es.all (fun e => insideVd e.base (e.base + e.len)) then finishX s cid xd (badStatus 3)
  else
    let w : Waybill := { num := c.wbNext, cid := cid, vd := c.vdn, task := numAt l 0 1 == 1, sec := numAt l 3 1, arg := numAt l 8 8,
                         stampA := numAt l 24 8, stampV := BitVec.ofNat 64 (numAt l 16 8), exts := es }
    let s := s.modCluster cl (fun x => { x with wbs := x.wbs ++ [w] })
    finishX (s.modCtx cid (fun c => { c with wbNext := c.wbNext + 1 })) cid xd w.num

/-- The waybill at an address accepted; with no room the context waits. -/
def submit (s : State) (cid : Nat) (xd : XReg) (va : Word) : State :=
  let c := s.ctx cid
  if 64 ≤ wbOpen (s.cluster (ctxCluster cid)) then s.setCtx cid { c with wait := .wbill xd va }
  else if c.pl = firm then (if firmBad s va.toNat 192 then firmUe s cid va else acceptRecord cid xd s (mreadBytes s.fmem va.toNat 192))
  else if ctxHolds s cid va 192 then s
  else match vread s (.ctx cid) c.vdn va 192 with
    | (s, .pause) => s
    | (s, .ok l) => acceptRecord cid xd s l
    | (s, .fault r a) => ctxFaultS s cid a r faRead (some (xd, badStatus 2))
    | (s, .ue a) => ctxUe s cid a faRead

/-- WBILL (R225). -/
def execSeqWbill (xd xa : XReg) (s : State) : Ans :=
  anyLevel s (fun cid c =>
    let a := c.getX xa
    if a.toNat % 64 ≠ 0 then trapHere s cid causeAlign a else submit s cid xd a)
/-- WBILL_ROOM (R225). -/
def execWbillRoom (cid : Nat) (s : State) : Ans :=
  match (s.ctx cid).wait with
  | .wbill xd va => .next (if (s.ctx cid).run = .running then submit s cid xd va else s)
  | _ => .next s

/-! ## WAITW (R226) -/

/-- What WAITW of a number finds: a status, or nothing yet. -/
def waitwStatus (c : Ctx) (n : Nat) : Option Nat :=
  if n = 0 ∨ c.wbNext ≤ n ∨ n + 4096 < c.wbNext then some 3 else tfind c.wbDone n
/-- WAITW answered: RETIRED, TRAPPED and ABORTED are an acquire (R318). -/
def waitwEnd (s : State) (cid : Nat) (xd : XReg) (st : Nat) : State :=
  finishX (if st ≤ 2 then invalidate s (ctxCluster cid) else s) cid xd st

/-- WAITW (R226). -/
def execSeqWaitw (xd xa : XReg) (s : State) : Ans :=
  anyLevel s (fun cid c =>
    let n := (c.getX xa).toNat
    match waitwStatus c n with
    | some st => waitwEnd s cid xd st
    | none => s.setCtx cid { c with wait := .waitw xd n })
/-- WAITW_COMPLETE (R226). -/
def execWaitwComplete (cid : Nat) (s : State) : Ans :=
  let c := s.ctx cid
  match c.wait with
  | .waitw xd n => match waitwStatus c n with
    | some st => .next (if c.run = .running then waitwEnd s cid xd st else s)
    | none => .next s
  | _ => .next s

/-! ## Starting (R224) -/

def extOverlap (a b : Extent) : Bool := (a.wr || b.wr) && decide (a.base < b.base + b.len ∧ b.base < a.base + a.len)
/-- Whether every earlier waybill that waybill k depends on has retired. -/
def depsRetired (c : Cluster) (k : Nat) (w : Waybill) : Bool :=
  (c.wbs.take k).all (fun v => v.phase == .finished || v.vd != w.vd || !w.exts.any (fun a => v.exts.any (extOverlap a)))
/-- The dispatcher acts on no waybill of a stopped virtual device (R469). -/
def wbLive (s : State) (w : Waybill) : Bool := match s.vd? w.vd with | some v => v.stop.isNone | none => false
def setWb (s : State) (cl k : Nat) (f : Waybill → Waybill) : State :=
  s.modCluster cl (fun c => { c with wbs := c.wbs.modify k f })
def hasStageIn (w : Waybill) : Bool := w.task && w.exts.any (fun e => e.stage && e.rd)

/-- Whether every sector of the phase is copied. -/
def Waybill.copied (w : Waybill) : Bool := w.todo.isEmpty && w.cur.isNone
/-- A TASK whose dependencies and stages are done arms its section, or is REFUSED. -/
def startTask (s : State) (cl k : Nat) (w : Waybill) : State :=
  if mayArm s w.cid w.sec w.arg then
    if ownAny s w.cid then s
    else setWb (armSection (invalidate s cl) w.cid w.sec true) cl k (fun w => { w with phase := .running })
  else setWb s cl k (fun w => { w with status := 4, phase := .stageOut })

/-- WAYBILL_START (R224); its cluster's cache is invalidated (R317). -/
def execWaybillStart (cluster : Nat) (k : Nat) (s : State) : Ans :=
  let c := s.cluster cluster
  match c.wbs[k]? with
  | none => .next s
  | some w =>
    if !wbLive s w || !depsRetired c k w then .next s
    else match w.phase with
      | .waiting =>
        if !w.task then .next (setWb (invalidate s cluster) cluster k (fun w => { w with phase := .copying, todo := [(0, 0, ((w.exts.head?).map (fun e => e.len / 32)).getD 0)] }))
        else if hasStageIn w then .next (setWb (invalidate s cluster) cluster k (fun w => { w with phase := .stageIn, todo := w.stages false }))
        else .next (startTask s cluster k w)
      | .stageIn =>
        .next (if w.copied then startTask s cluster k w else s)
      | _ => .next s

/-! ## The copy engine (R522) -/

/-- One side of a sector copy: a virtual address, or an offset of this package. -/
inductive CopySide where
  | va (a : Word) | bank (off : Nat)
deriving DecidableEq, Repr

/-- The n-th of the sectors to be copied taken out. -/
def takeTodo : Nat → List (Nat × Nat × Nat) → Option ((Nat × Nat) × List (Nat × Nat × Nat))
  | _, [] => none
  | n, (e, i, c) :: r =>
    if n < c then some ((e, i + n), ((e, i, n) :: (e, i + n + 1, c - n - 1) :: r).filter (fun x => x.2.2 != 0))
    else (takeTodo (n - c) r).map (fun x => (x.1, (e, i, c) :: x.2))
/-- The next sector chosen; they are copied in no fixed order (R294). -/
def chooseSector (s : State) (w : Waybill) : State × Waybill :=
  let total := sumBy (fun x => x.2.2) w.todo
  if w.cur.isSome then (s, w)
  else
    let (n, s) := if total ≤ 1 then (0, s) else (let (n, s) := s.draw; (Config.freePick n % total, s))
    match takeTodo n w.todo with
    | some (c, r) => (s, { w with cur := some c, todo := r })
    | none => (s, w)
/-- Source and destination of the sector being copied. -/
def nextCopy (cl : Nat) (w : Waybill) : Option (CopySide × CopySide) :=
  match w.cur with
  | none => none
  | some (e, i) =>
    match w.phase, w.exts[e]?, w.exts[e + 1]? with
    | .copying, some a, some b => some (.va (BitVec.ofNat 64 (a.base + 32 * i)), .va (BitVec.ofNat 64 (b.base + 32 * i)))
    | .stageIn, some a, _ => some (.va (BitVec.ofNat 64 (a.base + 32 * i)), .bank (bankOff cl a.bank + 32 * (a.off + i)))
    | .stageOut, some a, _ => some (.bank (bankOff cl a.bank + 32 * (a.off + i)), .va (BitVec.ofNat 64 (a.base + 32 * i)))
    | _, _, _ => none
/-- The sector is done with. -/
def copyNext (w : Waybill) : Waybill := { w with cur := none, failed := false }

/-- A final fault's effect on a waybill: a copy-back leaves out the sector, another copy ends; no stamp is written. -/
def copyFailed (w : Waybill) : Waybill :=
  if w.phase = .stageOut then { copyNext w with status := 2, stamp := false }
  else { copyNext w with status := 2, stamp := false, phase := .stageOut, todo := [] }

/-- A side of a copy as a physical address with key slot and policy, or a fault. -/
def copyPlace (s : State) (cl vd : Nat) (write : Bool) : CopySide → State × (Nat × Nat × Nat ⊕ (Nat × Word))
  | .bank o => (s, .inl (paOf s o, 0, 0))
  | .va a =>
    match translateFor s (tlbCluster cl) vd a write false true with
    | (s, .ok pa k cp _) => (s, .inl (pa, k, cp))
    | (s, .bad r) => (s, .inr (r, a))

/-- A fault of the copy engine: a stall with its FID, or a final record and its effect; none where the record must wait. -/
def copyFault (s : State) (cl k : Nat) (w : Waybill) (reason : Nat) (va : Word) (acc : Nat) (fail : Waybill → Waybill) :
    Option State :=
  if stalls reason then
    let (fid, t) := takeFid s w.vd (.copy cl w.num)
    let rc := seqFaultRec s cl w.vd w.cid va fid false false true reason acc
    if canRaise s w.vd rc then some (raise (setWb t cl k (fun _ => { w with fid := some fid })) w.vd rc) else none
  else
    let rc := seqFaultRec s cl w.vd w.cid va 0 true false true reason acc
    if canRaise s w.vd rc then some (setWb (raise s w.vd rc) cl k (fun _ => fail w)) else none

/-- A sector written in the poisoned-data encoding by a cluster's copy engine; its cluster keeps no copy of it (R522). -/
def copyPoison (s : State) (cl vd pa : Nat) : State :=
  match localOff s pa with
  | some o => (poisonSector (countHbm s vd 10 pa) o).modCluster cl (fun c => { c with cache := tdel c.cache pa })
  | none => s.emit (.poison pa)
/-- One sector copied. -/
def copySector (s : State) (cl k : Nat) (w : Waybill) (src dst : CopySide) : Option State :=
  match copyPlace s cl w.vd false src with
  | (s, .inr (r, a)) => copyFault s cl k w r a faRead copyFailed
  | (s, .inl (pa, ks, cp)) =>
    match copyPlace s cl w.vd true dst with
    | (s, .inr (r, a)) => copyFault s cl k w r a faWrite copyFailed
    | (s, .inl (qa, kd, _)) =>
      if fifoFull s qa then none
      else match reaches s (.copy cl) pa cp with
      | (_, false) => none
      | (s, true) => match loadSector s (.copy cl) w.vd pa ks cp with
        | (s, _, true) => some (setWb (copyPoison s cl w.vd qa) cl k (fun _ => copyNext w))
        | (s, v, false) =>
          some (setWb (performAll s (.copy cl) w.vd [⟨qa, v, BitVec.ofNat 32 fullMask, none, false, kd⟩]) cl k (fun _ => copyNext w))

/-- COPY_SECTOR (R522). -/
def execCopySector (cluster : Nat) (k : Nat) (s : State) : Ans :=
  match (s.cluster cluster).wbs[k]? with
  | none => .next s
  | some w =>
    if !wbLive s w || w.fid.isSome then .next s
    else
      let (s, w) := chooseSector s w
      match nextCopy cluster w with
      | none => .next s
      | some (src, dst) =>
        if w.failed then .next (setWb s cluster k (fun _ => copyFailed w))
        else match copySector s cluster k w src dst with
          | some s => .next s
          | none => .next (setWb s cluster k (fun _ => w))

/-! ## Retirement (R224, R319) -/

/-- Whether a waybill's work is done: a TASK leaves phase running when its section's last plane goes. -/
def wbDue (w : Waybill) : Bool := (w.phase == .copying || w.phase == .stageOut) && w.copied

/-- A retired waybill's stamp: written, delayed by a stalling fault, or not written; then the waybill leaves the list. -/
def stampWb (s : State) (cl k : Nat) (w : Waybill) : State :=
  let gone := fun (s : State) => s.modCluster cl (fun c => { c with wbs := c.wbs.eraseIdx k })
  if !w.stamp || w.stampA == 0 || w.failed then gone s
  else if w.fid.isSome then s
  else match translate s (tlbCluster cl) w.vd (BitVec.ofNat 64 w.stampA) true false with
    | (s, .bad r) =>
      (match copyFault s cl k w r (BitVec.ofNat 64 w.stampA) faWrite (fun w => { w with stamp := false }) with
       | some s => s
       | none => s)
    | (s, .ok pa kslot _ _) => gone (performAll s (.copy cl) w.vd [subAccess pa 8 kslot w.stampV (some .pod) false])

/-- WAYBILL_RETIRE (R224): the status first, the stamp after it. -/
def execWaybillRetire (cluster : Nat) (k : Nat) (s : State) : Ans :=
  match (s.cluster cluster).wbs[k]? with
  | none => .next s
  | some w =>
    if !wbLive s w then .next s
    else if w.phase = .finished then .next (stampWb s cluster k w)
    else if !wbDue w || w.fid.isSome then .next s
    else
      let st := w.status
      let w := { w with phase := .finished, failed := false }
      let s := setWb s cluster k (fun _ => w)
      let s := if 2 ^ 64 ≤ w.num then s else s.modCtx w.cid (fun c =>
        { c with wbDone := (tset c.wbDone w.num st).filter (fun e => decide (c.wbNext ≤ e.1 + 4096)) })
      .next (stampWb s cluster k w)

/-! ## The frame table (R461) and the cluster cache (R297) -/

/-- The first entry from index i on with a duration. -/
def frameFrom (f : List Word) (i : Nat) : Option Nat := (List.range 16).find? (fun j => decide (i ≤ j) && bits (f.getD j 0).toNat 0 32 != 0)
/-- A cluster at its next entry; a new pass reads the table as written. -/
def frameNext (c : Cluster) : Cluster :=
  match frameFrom c.frame (c.idx + 1) with
  | some j => { c with idx := j, left := bits (c.frame.getD j 0).toNat 0 32 }
  | none => match frameFrom c.written 0 with
    | some j => { c with frame := c.written, idx := j, left := bits (c.written.getD j 0).toNat 0 32 }
    | none => { c with frame := c.written, idx := 0, left := 0 }
/-- FRAME_ENTRY_ADVANCE (R461). -/
def execFrameEntryAdvance (cluster : Nat) (s : State) : Ans :=
  .next (if cluster < 64 ∧ frameDue (s.cluster cluster) = true then s.modCluster cluster frameNext else s)

/-- CLUSTER_CACHE_EVICTION (R297): a copy leaves of itself. -/
def execClusterCacheEviction (cluster : Nat) (sector : Nat) (s : State) : Ans :=
  .next (s.modCluster cluster (fun c => { c with cache := tdel c.cache sector }))

end Sys2Proof.Machine
end

