-- ==== Sys2Proof/Machine/Hub.lean ====
section
/-! DEFINITION. Hypervisor commands that form and dissolve partitions and virtual devices, power tiles and set frame tables (R441 to
R443, R458, R461, R468, R477, R478, R480). -/

namespace Sys2Proof.Machine

/-! ## Command records (R442) -/

/-- A command record as firmware reads it; clean: every byte that R442 wants zero is zero. -/
structure Cmd where
  code : Nat
  a1 : Nat
  a2 : Nat
  a3 : Nat
  clean : Bool
deriving DecidableEq, Repr

/-- How a command ends: a status, with a value for RES where it returns one; or it goes on in a later turn. -/
inductive CmdEnd where
  | status (n : Nat)
  | res (n v : Nat)
  | more
deriving DecidableEq, Repr

def cDone : Nat := 1
def cBusy : Nat := 2
def cBadrec : Nat := 3
def cInuse : Nat := 4
def cNotfound : Nat := 5
def cAuth : Nat := 6
def cShort : Nat := 7

/-- An address of a HUB_HCMD write that firmware takes. -/
def cmdAddrOk (s : State) (pa : Nat) : Bool :=
  let o := pa % 2 ^ 44
  pa % 64 == 0 && pa / 2 ^ 44 == s.posN && isHbm o && lockState (lockOf s (o / unitBytes)) == 0 &&
    !(decide (s.hub.fused.rsvBase < o + 64 ∧ o < s.hub.fused.rsvBase + s.hub.fused.rsvBytes))
def cmdOf (l : Bytes) : Cmd :=
  { code := numAt l 0 1, a1 := numAt l 8 8, a2 := numAt l 16 8, a3 := numAt l 24 8,
    clean := numAt l 1 7 == 0 && numAt l 32 16 == 0 }

/-- The end of the command whose record stands at an address: its RES where it returns one, then its STATUS. -/
def endCmd (s : State) (pa n : Nat) (v : Option Nat) : State :=
  let s := { s with hub := { s.hub with cmd := none, cmdPart := [], cmds := s.hub.cmds.erase pa } }
  let s := match v with | some r => devWrite s (pa + 48) 0 (bytesLE 8 r) | none => s
  devWrite s (pa + 56) 0 (bytesLE 8 n)
/-- Whether the command of a record runs now: it is the one under way, or the first of those written while none is. -/
def cmdTurn (s : State) (pa : Nat) : Bool :=
  s.hub.cmd == some pa || (s.hub.cmd.isNone && (s.hub.cmds.isEmpty || s.hub.cmds.head? == some pa))
/-- A command of a code run by k; commands run one at a time in the order of the writes to HUB_HCMD, a bad address is only logged, a code
of no command is BADREC. -/
def runCmd (code pa : Nat) (s : State) (k : State → Cmd → State × CmdEnd) : Ans :=
  if !s.hub.up then .next s
  else if !cmdAddrOk s pa then .next (addLog s 8 0 0 0 0)
  else if !cmdTurn s pa then
    .next { s with hub := { s.hub with cmds := if s.hub.cmds.contains pa then s.hub.cmds else s.hub.cmds ++ [pa] } }
  else match devRead s pa 0 64 with
    | none => .next (endCmd s pa cBadrec none)
    | some l =>
      let c := cmdOf l
      if c.code ≠ code then (if c.code = 0 ∨ 0x10 < c.code then .next (endCmd s pa cBadrec none) else .next s)
      else if !c.clean then .next (endCmd s pa cBadrec none)
      else match k s c with
        | (t, .status n) => .next (endCmd t pa n none)
        | (t, .res n v) => .next (endCmd t pa n (some v))
        | (t, .more) => .next { t with hub := { t.hub with cmd := some pa, cmds := t.hub.cmds.erase pa } }

/-! ## Partitions (R441, R442, R477) -/

def partMask (s : State) (p : Nat) : BitVec 16 := tget s.hub.parts p 0
def partExists (s : State) (p : Nat) : Bool := (tfind s.hub.parts p).isSome
def granuleIn (m : BitVec 16) (g : Nat) : Bool := decide (g < 16) && m.getLsbD g
def tilesOf (m : BitVec 16) : List Nat := (List.range 2048).filter (fun t => granuleIn m (tileGranule t))
def clustersOf (m : BitVec 16) : List Nat := (List.range 64).filter (fun c => granuleIn m (clusterGranule c))
/-- The partition that holds a granule. -/
def partOf (s : State) (g : Nat) : Option Nat := (s.hub.parts.find? (fun e => granuleIn e.2 g)).map (·.1)
def vdsOf (s : State) (p : Nat) : List Nat := (s.hub.vds.filter (fun e => e.1 / 16 == p)).map (·.1)
def ctxsOf (s : State) (v : Nat) : List Nat := (s.ctxs.filter (fun e => e.2.vd == some v)).map (·.1)

/-- PCREATE (R442). -/
def execPcreate (pa : Nat) (s : State) : Ans :=
  runCmd 1 pa s (fun s c =>
    let m := BitVec.ofNat 16 c.a1
    if 2 ^ 16 ≤ c.a1 ∨ c.a1 = 0 ∨ c.a2 ≠ 0 ∨ c.a3 ≠ 0 then (s, .status cBadrec)
    else if s.hub.parts.any (fun e => e.2 &&& m != 0) then (s, .status cInuse)
    else
      let low := ((List.range 16).find? (fun g => m.getLsbD g)).getD 0
      ({ s with hub := { s.hub with parts := tset s.hub.parts low m } }, .status cDone))

/-- The tile of a clasp context's source, where it is one of this package. -/
def claspTile (s : State) (key : Nat) : Option Nat := tileAt s (key / 64 % 1024) (key / 65536)
/-- An agent of the partition's tiles and clusters. -/
def agentIn (m : BitVec 16) : Agent → Bool
  | .plane pl => granuleIn m (tileGranule (planeTile pl))
  | .ctx c => granuleIn m (clusterGranule (ctxCluster c))
  | .copy c => granuleIn m (clusterGranule c)
  | .hub | .companion => false

/-- A context stopped with nothing of its own left. -/
def Ctx.cleared (c : Ctx) : Ctx :=
  { c with run := .stopped, wait := .none, mon := none, monFired := false, secs := [], unack := [], seen := [], seqs := [], bal := 0, part := [],
           puts := [] }
/-- A cluster after a partition reset: its banks' owners stand, its cache and dispatcher are empty; the frame entry in force stays so for
the rest of the ac, and the table as after a cold reset is read from then on (R20, R461). -/
def Cluster.cleared (c : Cluster) : Cluster :=
  { c with banks := c.banks.map (fun b => { b with mode := .cache, fifo := [] }), cache := [], wbs := []
           frame := c.frame.take (c.idx + 1) ++ List.replicate (15 - c.idx) 0, written := frameReset, left := min c.left 1 }
/-- Every MMA firing that is pending on a partition's planes counted, for the reset drops them (R507). -/
def countAll (s : State) (pls : List (Nat × Plane)) : State := pls.foldl (fun s e => countDropped s e.2) s

/-- A partition reset (R477, R478): memory stands, but for lines that cannot be trusted, which read as poisoned; and every context, section and waybill of the partition ends (log entry
21). -/
def partitionReset (s : State) (p : Nat) : State :=
  let m := partMask s p
  let inTile := fun (t : Nat) => granuleIn m (tileGranule t)
  let inClus := fun (c : Nat) => granuleIn m (clusterGranule c)
  let sramGone := fun (o : Nat) => isSram o && inClus (sramBank o / 16)
  let (n, s) := s.draw
  let hbmIn := fun (o : Nat) => isHbm o && granuleIn m (o / granBytes)
  let lost := (Config.untrusted n).filter (fun o => hbmIn o && o % 32 == 0 && (tget s.l2 (sliceOf o) []).contains (o / 128))
  let scratch := (clustersOf m).flatMap (fun c => (List.range 16).filterMap (fun b =>
    match (s.cluster c).banks[b]? with | some x => if x.mode = .scratch then some (bankOff c b) else none | none => none))
  let s := takeBackAll (addLog (countAll s (s.planes.filter (fun e => inTile (planeTile e.1)))) 3 p 0 0 0) hbmIn
  { s with
    l2 := s.l2.filter (fun e => !granuleIn m (e.1 / 4))
    soft := s.soft.filter (fun o => !sramGone o)
    mem := scratch.foldl (fun mem lo => mfree mem n lo (2 ^ 18)) s.mem
    bad := ((s.bad ++ lost).filter (fun o => !sramGone o)).eraseDups
    planes := s.planes.filter (fun e => !inTile (planeTile e.1))
    power := tmap (fun t x => if inTile t ∧ x = .clockGated then .on else x) s.power
    ctxs := tmap (fun cid c => if inClus (ctxCluster cid) then c.cleared else c) s.ctxs
    clusters := tmap (fun k c => if inClus k then c.cleared else c) s.clusters
    net := s.net.filter (fun x => !agentIn m x.src)
    dies := tmap (fun _ d => { d with clasp := d.clasp.filter (fun e => match claspTile s e.1 with | some t => !inTile t | none => true) }) s.dies
    hub := { s.hub with
      fwq := s.hub.fwq.filter (fun r => !inClus (ctxCluster r.cid))
      svcPart := if s.hub.fwq.head?.any (fun r => inClus (ctxCluster r.cid)) then [] else s.hub.svcPart
      svcPuts := if s.hub.fwq.head?.any (fun r => inClus (ctxCluster r.cid)) then [] else s.hub.svcPuts
      svcEnd := if s.hub.fwq.head?.any (fun r => inClus (ctxCluster r.cid)) then none else s.hub.svcEnd
      tlb := s.hub.tlb.filter (fun t => t.vd / 16 != p)
      vds := tmap (fun v x => if v / 16 = p then { x with rst := x.rst + 1, fids := [], stop := none, stopped := false,
                                                          shoots := x.shoots.map (fun y => { y with planes := [], pkts := [] }), migTodo := none } else x) s.hub.vds } }

/-- PRESET (R442). -/
def execPreset (pa : Nat) (s : State) : Ans :=
  runCmd 2 pa s (fun s c =>
    if 16 ≤ c.a1 ∨ c.a2 ≠ 0 ∨ c.a3 ≠ 0 then (s, .status cBadrec)
    else if !partExists s c.a1 then (s, .status cNotfound)
    else (partitionReset s c.a1, .status cDone))

/-- PARTITION_RESET (R475, R477). -/
def execPartitionReset (part : Nat) (s : State) : Ans := .next (if partExists s part then partitionReset s part else s)

/-- A granule's memory, SRAM and locks cleared. -/
def clearGranule (s : State) (g : Nat) : State :=
  let lo := g * granBytes
  let hi := lo + granBytes
  let cs := (List.range 64).filter (fun c => clusterGranule c == g)
  let gone := fun (o : Nat) => decide (lo ≤ o ∧ o < hi) || (isSram o && cs.contains (sramBank o / 16))
  let s := takeBackAll s gone
  { s with
    mem := s.mem.filter (fun e => !gone e.1), bad := s.bad.filter (fun o => !gone o), soft := s.soft.filter (fun o => !gone o)
    l2 := s.l2.filter (fun e => e.1 / 4 != g)
    clusters := s.clusters.filter (fun e => !cs.contains e.1)
    hub := { s.hub with locks := s.hub.locks.filter (fun e => !(decide (lo ≤ e.1 * unitBytes ∧ e.1 * unitBytes < hi))) } }

/-- PDESTROY (R442): memory zero, tiles power-gated, granules free, installed handlers gone (R506). -/
def execPdestroy (pa : Nat) (s : State) : Ans :=
  runCmd 3 pa s (fun s c =>
    if 16 ≤ c.a1 ∨ c.a2 ≠ 0 ∨ c.a3 ≠ 0 then (s, .status cBadrec)
    else if !partExists s c.a1 then (s, .status cNotfound)
    else if !(vdsOf s c.a1).isEmpty then (s, .status cBusy)
    else
      let m := partMask s c.a1
      let s := (List.range 16).foldl (fun s g => if m.getLsbD g then clearGranule s g else s) s
      let s := { s with
        planes := s.planes.filter (fun e => !granuleIn m (tileGranule (planeTile e.1)))
        power := s.power.filter (fun e => !granuleIn m (tileGranule e.1))
        hub := { s.hub with parts := tdel s.hub.parts c.a1, handlers := s.hub.handlers.filter (fun e => e.1 / 16 != c.a1) } }
      (s, .status cDone))

/-! ## Virtual devices (R443) -/

/-- The units of a range that lie in this package, wherever its base is, are in granules of a partition and outside hub-reserved memory
(R438). -/
def rangeOk (s : State) (m : BitVec 16) (r : Nat × Nat) : Bool :=
  let unit := 2 ^ 44 / unitBytes
  let first := max r.1 (s.posN * unit)
  let last := min (r.1 + r.2) ((s.posN + 1) * unit)
  decide (last ≤ first) ||
  (let lo := first % unit * unitBytes
   let hi := lo + (last - first) * unitBytes
   let f := s.hub.fused
   decide (hi ≤ hbmBytes) && !(decide (f.rsvBase < hi ∧ lo < f.rsvBase + f.rsvBytes)) && (List.range 16).all (fun g => !(decide (lo < (g + 1) * granBytes ∧ g * granBytes < hi)) || m.getLsbD g))

/-- A descriptor's virtual device (R443). -/
def vdOf (l : Bytes) : Vd :=
  let d := ofBytesLE l
  { ranges := (List.range 8).filterMap (fun i => let x := numAt l (64 + 8 * i) 8
                if x % 2 ^ 32 = 0 then none else some (x / 2 ^ 32, x % 2 ^ 32)),
    ptroot := bits d 448 64, fqbase := bits d 384 64, dlbase := bits d 320 64, ksbase := bits d 308 12, kscnt := bits d 296 12,
    pqshare := bits d 280 16, fqlog2 := bits d 276 4, conf := d.testBit 275, notify := d.testBit 274, nvec := bits d 264 10 }
def descOk (s : State) (p : Nat) (l : Bytes) (v : Vd) : Bool :=
  bits (ofBytesLE l) 0 264 == 0 && v.ranges.all (rangeOk s (partMask s p)) && v.ptroot % 4096 == 0 && v.fqbase % 128 == 0 &&
  decide (v.fqlog2 ≤ 12) && inRanges v v.ptroot 4096 && inRanges v v.fqbase 128 && decide (v.ksbase + v.kscnt ≤ 4096) &&
  decide (v.pqshare + sumBy (fun e => if e.1 / 16 = p then e.2.pqshare else 0) s.hub.vds ≤ 65536)

/-- VDCREATE (R442, R443, R454). -/
def execVdcreate (pa : Nat) (s : State) : Ans :=
  runCmd 4 pa s (fun s c =>
    let p := bits c.a1 0 4
    let k := 16 * p + bits c.a1 4 4
    if 256 ≤ c.a1 ∨ c.a3 ≠ 0 then (s, .status cBadrec)
    else if !partExists s p then (s, .status cNotfound)
    else if (s.vd? k).isSome then (s, .status cInuse)
    else if c.a2 % 128 ≠ 0 then (s, .status cBadrec)
    else match devRead s c.a2 0 128 with
      | none => (s, .status cBadrec)
      | some l =>
        let v := vdOf l
        if descOk s p l v then (devWrite (s.setVd k v) v.fqbase 0 (zerosB 128), .status cDone) else (s, .status cBadrec))

/-- A running or waiting context stopped for good; a wait ends without effect (R446, R247). -/
def stopCtx (s : State) (cid : Nat) : State :=
  let c := s.ctx cid
  let s := match c.wait with | .stall fid _ _ => dropFid s c.vdn fid | _ => s
  let mine := s.hub.fwq.head?.any (fun (r : FwReq) => r.cid == cid)
  let s := { s with hub := { s.hub with
    fwq := s.hub.fwq.filter (fun r => r.cid != cid), svcPart := if mine then [] else s.hub.svcPart
    svcPuts := if mine then [] else s.hub.svcPuts, svcEnd := if mine then none else s.hub.svcEnd } }
  s.modCtx cid (fun c => { c with run := .stopped, wait := .none, mon := none, monFired := false, part := [] })

/-- RELEASE sent for every clasp context that a context's strands hold (R308). -/
def releaseCtxStrands (s : State) (cid : Nat) : State :=
  let c := s.ctx cid
  c.seen.foldl (fun s e =>
    let die := e.1 % 1024
    let at_ := if die / 4 = s.posN then s.ac (die % 4) + 1 else 0
    toNet s ⟨.ctx cid, c.vdn, die, at_, .release (ctxSix cid (e.1 / 1024)) (tget c.seqs e.1 0), []⟩)
    (s.modCtx cid (fun c => { c with seen := [] }))

/-- Whether a context's strands hold no packet and no clasp context any more (R308). -/
def ctxStrandsDone (s : State) (cid : Nat) : Bool :=
  (s.ctx cid).unack.isEmpty && (s.ctx cid).seen.isEmpty &&
    !s.net.any (fun k => k.src == .ctx cid && (match k.body with | .release _ _ | .strandOpen _ _ => true | _ => false))

/-- KILL of a context (R446): every section aborted, its clasp contexts released. -/
def killCtx (s : State) (cid : Nat) : State :=
  let s := stopCtx s cid
  let secs := ((s.ctx cid).secs.filter (fun e => !e.2.planes.isEmpty || e.2.away || taskRuns s cid e.1)).map (·.1)
  releaseCtxStrands (secs.foldl (fun s k => abortSection s cid k) s) cid

/-- Whether a context stands at an instruction boundary, or in a wait that a stop may interrupt (R247). -/
def mayStop (c : Ctx) : Bool := c.run != .running || (c.wait.open && c.puts.isEmpty)
/-- The lock word of a unit owned by a virtual device (R438). -/
def lockWord (state vd : Nat) : BitVec 16 := BitVec.ofNat 16 (pack [(0, 2, state), (2, 4, vd / 16), (6, 4, vd % 16)])
def unitOf (pa : Nat) : Nat := pa % 2 ^ 44 / unitBytes
/-- Units locked or unlocked; translations of their frames are dropped (log entry 26), which a later shoot-down still waits for (R453). -/
def setLocks (s : State) (units : List Nat) (w : Option (BitVec 16)) : State :=
  let locks := units.foldl (fun t u => match w with | some x => tset t u x | none => tdel t u) s.hub.locks
  let hit := fun (t : TlbEntry) =>
    let b := leafBase t.level t.entry.toNat
    decide (t.unit < 4096) && b / 2 ^ 44 == s.posN && units.any (fun u => decide (b % 2 ^ 44 < (u + 1) * unitBytes ∧ u * unitBytes < b % 2 ^ 44 + leafBytes t.level))
  let s := dropTlb s hit
  { s with hub := { s.hub with locks := locks } }
/-- Cluster copies of units' sectors dropped. -/
def dropUnits (s : State) (units : List Nat) : State :=
  { s with clusters := tmap (fun _ c => { c with cache := c.cache.filter (fun e =>
      !(e.1 / 2 ^ 44 == s.posN && units.contains (unitOf e.1))) }) s.clusters }
/-- Units written zero: a write of each of their sectors (R217, R323, R519). -/
def zeroUnits (s : State) (units : List Nat) : State :=
  let inUnits := fun (o : Nat) => units.contains (unitOf o)
  let s := takeBackAll (dropUnits s units) inUnits
  let hit := fun (m : Option Nat) => match m with | some x => x / 2 ^ 44 == s.posN && inUnits x | none => false
  let s := { s with ctxs := tmap (fun _ c => if hit c.mon then { c with monFired := true } else c) s.ctxs }
  units.foldl (fun s u =>
    { s with mem := mzero s.mem (u * unitBytes) ((u + 1) * unitBytes), bad := s.bad.filter (fun o => unitOf o != u)
             soft := s.soft.filter (fun o => unitOf o != u), tags := s.tags.filter (fun e => unitOf (512 * e.1) != u) }) s
/-- Units that a virtual device holds locked confidential. -/
def confUnits (s : State) (v : Nat) : List Nat := (s.hub.locks.filter (fun e => e.2 == lockWord 1 v)).map (·.1)

/-- Planes of a virtual device whose contexts are no longer assigned to it aborted with their waybills. -/
def abortStrays (s : State) (v : Nat) : State :=
  (s.planes.filter (fun e => e.2.vd == v && !e.2.retiring && !(ctxsOf s v).contains e.2.cid)).foldl
    (fun s e => abortPlane (abortWaybills s e.2.cid e.2.sec) e.1) s

/-- VDDESTROY (R442): each context is killed at its instruction boundary (R446), and the rest waits for the last plane; the confidential
units are zeroed and unlocked ahead of the slots of their keys (R485). -/
def execVddestroy (pa : Nat) (s : State) : Ans :=
  runCmd 5 pa s (fun s c =>
    let v := 16 * bits c.a1 0 4 + bits c.a1 4 4
    if 256 ≤ c.a1 ∨ c.a2 ≠ 0 ∨ c.a3 ≠ 0 then (s, .status cBadrec)
    else if !partExists s (v / 16) || (s.vd? v).isNone then (s, .status cNotfound)
    else
      let s := abortStrays ((ctxsOf s v).foldl (fun s c => if mayStop (s.ctx c) then killCtx s c else s) s) v
      if (ctxsOf s v).any (fun c => (s.ctx c).run == .running) || s.planes.any (fun e => e.2.vd == v) then (s, .more)
      else
      let us := confUnits s v
      let s := setLocks (zeroUnits s us) us none
      let banks := s.clusters.flatMap (fun e => (List.range 16).filterMap (fun b =>
        match e.2.banks[b]? with | some x => if x.owner = some v then some (e.1, b) else none | none => none))
      let s := banks.foldl (fun s x =>
        (setBankMode s x.1 x.2 .cache).modCluster x.1 (fun y => { y with banks := y.banks.modify x.2 (fun z => { z with owner := none }) })) s
      let s := { s with
        ctxs := tmap (fun _ x => if x.vd = some v then { x with vd := none } else x) s.ctxs
        clusters := tmap (fun _ x => { x with wbs := x.wbs.filter (fun w => w.vd != v) }) s.clusters
        dies := tmap (fun _ d => { d with pq := d.pq.filter (fun e => e.vd != v) }) s.dies
        hub := { s.hub with
          vds := tdel s.hub.vds v, tlb := s.hub.tlb.filter (fun t => t.vd != v), tlbGone := s.hub.tlbGone.filter (fun t => t.vd != v)
          slots := tmap (fun _ x => if x.vd = v ∧ (x.kind = .vdkey ∨ x.kind = .evict) then {} else x) s.hub.slots } }
      (s, .status cDone))

/-! ## Contexts, banks, tiles and frame tables -/

/-- The partition and the virtual device that a cluster and a number name; none: NOTFOUND. -/
def clusterVd (s : State) (cl vd : Nat) : Option Nat :=
  match partOf s (clusterGranule cl) with
  | none => none
  | some p => if (s.vd? (16 * p + vd)).isSome then some (16 * p + vd) else none

/-- CTXASSIGN (R442). -/
def execCtxassign (pa : Nat) (s : State) : Ans :=
  runCmd 6 pa s (fun s c =>
    let cl := bits c.a1 0 6
    let l := (bitsSet 8 (bits c.a1 6 8)).map (fun i => 8 * cl + i)
    if 2 ^ 19 ≤ c.a1 ∨ c.a2 ≠ 0 ∨ c.a3 ≠ 0 then (s, .status cBadrec)
    else match clusterVd s cl (bits c.a1 14 4) with
      | none => (s, .status cNotfound)
      | some v =>
        if l.any (fun i => (s.ctx i).run != .stopped) then (s, .status cBusy)
        else if c.a1.testBit 18 then
          (l.foldl (fun s i => if (s.ctx i).vd = some v then s.modCtx i (fun x => { x with vd := none }) else s) s, .status cDone)
        else (l.foldl (fun s i => s.modCtx i (fun x => { x with vd := some v })) s, .status cDone))

/-- BANKASSIGN (R442, R229); for a retired bank the spec names a status without its number, a free value (R480, log entry 22). -/
def execBankassign (pa : Nat) (s : State) : Ans :=
  runCmd 7 pa s (fun s c =>
    let cl := bits c.a1 0 6
    let l := bitsSet 16 (bits c.a1 6 16)
    if 2 ^ 27 ≤ c.a1 ∨ c.a2 ≠ 0 ∨ c.a3 ≠ 0 then (s, .status cBadrec)
    else match clusterVd s cl (bits c.a1 22 4) with
      | none => (s, .status cNotfound)
      | some v =>
        if l.any (fun b => s.hub.retiredBanks.contains (16 * cl + b)) then
          (let (n, s) := s.draw; (s, .status (Config.freeBits 64 n).toNat))
        else if l.any (fun b => stagesIn s cl b || feedsAgen s cl b) then (s, .status cBusy)
        else if l.any (bankInUse s cl) then (s, .more)
        else
          let own := fun (x : Bank) => if c.a1.testBit 26 then (if x.owner = some v then none else x.owner) else some v
          (l.foldl (fun s b => match (s.cluster cl).banks[b]? with
            | none => s
            | some x =>
              if own x = x.owner then s
              else (setBankMode s cl b .cache).modCluster cl (fun y => { y with banks := y.banks.modify b (fun z => { z with owner := own x }) })) s,
            .status cDone))

/-- TPOWER (R442, R458): DONE is written by TPOWER_DONE. -/
def execTpower (pa : Nat) (s : State) : Ans :=
  runCmd 8 pa s (fun s c =>
    let on := bits c.a1 20 2 == 0
    if 2 ^ 22 ≤ c.a1 ∨ c.a2 ≠ 0 ∨ c.a3 ≠ 0 then (s, .status cBadrec)
    else match tileAt s (bits c.a1 0 10) (bits c.a1 10 10) with
      | none => (s, .status cNotfound)
      | some t =>
        if (partOf s (tileGranule t)).isNone || s.hub.retiredTiles.contains t then (s, .status cNotfound)
        else if bits c.a1 20 2 ≠ 0 ∧ bits c.a1 20 2 ≠ 2 then (s, .status cBadrec)
        else if s.hub.cmd = some pa then (s, .more)
        else if !on && !(tilePlanes s t).isEmpty then (s, .status cBusy)
        else match s.powerOf t, on with
          | .gated, true => (s.setPower t (.up pa), .more)
          | .gated, false => (s, .status cDone)
          | .on, true | .clockGated, true => (wakeTile s t, .status cDone)
          | .on, false | .clockGated, false => (s.setPower t (.down pa), .more)
          | _, _ => (s, .more))

/-- After a trip the package is cool again once every junction reads below 95 degrees at one time (R517). -/
def coolDown (s : State) : State :=
  if s.hub.hot.isEmpty then s
  else
    let (n, s) := s.draw
    if (List.range 5).all (fun d => decide ((Config.junction n (Fin.ofNat 5 d)).toNat < 95)) then { s with hub := { s.hub with hot := [] } } else s

/-- TPOWER_DONE (R458): the tile has reached its state; no tile returns while a junction is hot (R517). -/
def execTpowerDone (tile : Nat) (s : State) : Ans :=
  let done := fun (s : State) (pa : Nat) => endCmd s pa cDone none
  match s.powerOf tile with
  | .up pa =>
    let s := coolDown s
    .next (if s.hub.hot.isEmpty then done (s.setPower tile .on) pa else s)
  | .down pa => .next (done { s with power := tdel s.power tile } pa)
  | _ => .next s

/-- FRAMESET (R468): the whole table as written, in force from the next pass. -/
def execFrameset (pa : Nat) (s : State) : Ans :=
  runCmd 0x10 pa s (fun s c =>
    let cl := bits c.a1 0 6
    if 64 ≤ c.a1 ∨ c.a3 ≠ 0 then (s, .status cBadrec)
    else if (partOf s (clusterGranule cl)).isNone then (s, .status cNotfound)
    else if c.a2 % 128 ≠ 0 then (s, .status cBadrec)
    else match devRead s c.a2 0 128 with
      | none => (s, .status cBadrec)
      | some l =>
        let f := (List.range 16).map (fun i => BitVec.ofNat 64 (numAt l (8 * i) 8))
        if f.any (fun e => e.toNat / 2 ^ 34 != 0) then (s, .status cBadrec)
        else (s.modCluster cl (fun x => x.writeFrame f), .status cDone))

end Sys2Proof.Machine
end

