-- ==== Sys2Proof/Machine/Control.lean ====
section
/-! DEFINITION. The control page of a virtual device: context records (R444 to R446), fault answers (R267, R456), shoot-downs (R453)
and held fault records (R454). -/

namespace Sys2Proof.Machine

/-! ## Context records (R445, R446) -/

def kStarted : Nat := 1
def kBusy : Nat := 2
def kNotown : Nat := 3
def kBadrec : Nat := 4
def kKilled : Nat := 5

/-- A context record's location that firmware may use: unlocked memory in the virtual device's ranges, in whichever package they lie. -/
def recordPlace (s : State) (v : Vd) (pa : Nat) : Bool :=
  inRanges v pa 32 && (frameLocks s pa 32).all (fun l => lockState l == 0) && paHbm pa 32
def recordOk (w : Nat) : Bool := bits w 16 48 == 0 && bits w 2 5 == 0 && numBit w
where
  numBit (w : Nat) : Bool := bits w 0 2 == 1 || bits w 0 2 == 2
/-- STATUS written as a release. -/
def putStatus (s : State) (pa n : Nat) : State := devWrite s (pa + 24) 0 (bytesLE 8 n)

/-- A record's bytes; free ones where another package holds it (log entry 4), none where a sector fails its check. -/
def readRecord (s : State) (pa : Nat) : State × Option Bytes :=
  if pa / 2 ^ 44 = s.posN then (s, devRead s pa 0 32)
  else let (s, n) := devReadF s pa 0 32; (s, some (bytesLE 32 n))
/-- A record enters the queue of the writes to VDC_CSTART, and leaves it once the device has acted on it. -/
def enterStart (s : State) (vd pa : Nat) : State := s.modVd vd (fun v => if v.cstarts.contains pa then v else { v with cstarts := v.cstarts ++ [pa] })
def leaveStart (s : State) (vd pa : Nat) : State := s.modVd vd (fun v => { v with cstarts := v.cstarts.erase pa })

/-- A record of an operation, first in the queue, handed to k with its context: k's status ends it, without one it waits. A record that
cannot be used gets BADREC or NOTOWN, and one of another operation is not this event's. -/
def ctxRecord (op vd pa : Nat) (s : State) (k : State → Nat → Nat → Nat → State × Option Nat) : Ans :=
  match s.vd? vd with
  | none => .next s
  | some v =>
    let done := fun (s : State) (n : Nat) => putStatus (leaveStart s vd pa) pa n
    if !recordPlace s v pa then .next (leaveStart s vd pa)
    else if !v.cstarts.isEmpty && v.cstarts.head? != some pa then .next (enterStart s vd pa)
    else match readRecord (enterStart s vd pa) pa with
      | (s, none) => .next (done s kBadrec)
      | (s, some l) =>
        let w := numAt l 0 8
        let pc := numAt l 8 8
        let cid := 8 * bits w 10 6 + bits w 7 3
        if pa % 32 ≠ 0 ∨ recordOk w = false ∨ (bits w 0 2 = 1 ∧ pc % 64 ≠ 0) then .next (done s kBadrec)
        else if bits w 0 2 ≠ op then .next s
        else if (s.ctx cid).vd ≠ some vd then .next (done s kNotown)
        else match k s cid pc (numAt l 16 8) with
          | (s, some n) => .next (done s n)
          | (s, none) => .next s

/-- The waybills of a context that stand when it starts: their numbers are those of its earlier life, for which released adaptations go on
waiting (R379). -/
def renumber (s : State) (cid : Nat) : State :=
  let old := fun (n : Nat) => n + 2 ^ 64
  let s := s.modCluster (ctxCluster cid) (fun c => { c with wbs := c.wbs.map (fun w => if w.cid = cid then { w with num := old w.num } else w) })
  let adapter := fun (x : Adapter) => { x with waits := x.waits.map (fun k => if k.1 = cid then (cid, old k.2) else k) }
  { s with hub := { s.hub with vds := tmap (fun _ v =>
      { v with models := v.models.map (fun m => { m with adapters := tmap (fun _ x => adapter x) m.adapters }) }) s.hub.vds } }
/-- A context started (R446): registers, levels, counts and numbering anew; its sections and its balance stand. What clasps still answer to
the strands it had is gone. -/
def startCtx (s : State) (cid pc arg : Nat) : State :=
  let s := renumber s cid
  let s := { s with net := s.net.filter (fun k => k.src != Agent.ctx cid || (match k.body with | .ack _ _ _ | .retry _ _ _ _ => false | _ => true)) }
  s.modCtx cid (fun c =>
    { ctxInit cid with vd := c.vd, run := .running, pc := BitVec.ofNat 64 pc, x := (Vector.replicate 32 0).set 2 (BitVec.ofNat 64 arg),
                       bal := c.bal, secs := c.secs })

/-- CONTEXT_START (R446). Its strands' numbers begin anew (R304): DESIGN CHOICE (log entry 106): it is acted on once the packets that the
context sent before are acknowledged and its clasp contexts are released. -/
def execContextStart (vd : Nat) (pa : Nat) (s : State) : Ans :=
  ctxRecord 1 vd pa s (fun s cid pc arg =>
    if (s.ctx cid).run ≠ .stopped then (s, some kBusy)
    else if ctxStrandsDone s cid then (startCtx s cid pc arg, some kStarted)
    else (if (s.ctx cid).unack.isEmpty then releaseCtxStrands s cid else s, none))

/-- CONTEXT_KILL (R446). -/
def execContextKill (vd : Nat) (pa : Nat) (s : State) : Ans :=
  ctxRecord 2 vd pa s (fun s cid _ _ => if mayStop (s.ctx cid) then (killCtx s cid, some kKilled) else (s, none))

/-! ## Fault answers (R267, R456, R522) -/

/-- The waybill of a cluster that an FID of a virtual device stalls. -/
def answerWb (s : State) (cl vd fid : Nat) (failed : Bool) : State :=
  s.modCluster cl (fun c => { c with wbs := c.wbs.map (fun w =>
    if w.vd = vd ∧ w.fid = some fid then { w with fid := none, failed := failed } else w) })

/-- FAULT_RESOLVE (R267, R456): the request is translated again, the instruction executed again. -/
def execFaultResolve (vd : Nat) (fid : Nat) (s : State) : Ans :=
  match (s.vd? vd).bind (fun v => tfind v.fids fid) with
  | none => .next s
  | some o =>
    let s := dropFid s vd fid
    .next (match o with
      | .plane pl => s.modPlane pl (fun p => { p with fault := p.fault.map (fun f => if f.fid = fid then { f with retry := true } else f) })
      | .wport pl => s.modPlane pl (fun p => { p with wfault := p.wfault.filter (fun f => f.fid != fid) })
      | .ctx cid => s.modCtx cid (fun c => match c.wait with
          | .stall f _ _ => if f = fid then { c with wait := .none } else c
          | _ => c)
      | .copy cl _ => answerWb s cl vd fid false)

/-- FAULT_FAIL (R267, R456): the fault is final. -/
def execFaultFail (vd : Nat) (fid : Nat) (s : State) : Ans :=
  match (s.vd? vd).bind (fun v => tfind v.fids fid) with
  | none => .next s
  | some o =>
    let s := dropFid s vd fid
    let mark := fun (f : Option Fault5) => f.map (fun (x : Fault5) => if x.fid = fid then { x with failed := true } else x)
    .next (match o with
      | .plane pl => s.modPlane pl (fun p => { p with fault := mark p.fault })
      | .wport pl => s.modPlane pl (fun p => { p with wfault := mark p.wfault })
      | .ctx cid =>
        (match (s.ctx cid).wait with
         | .stall f va soft =>
           if f ≠ fid then s
           else (match soft with
             | some (xd, st) => finishX s cid xd st
             | none => takeTrap s cid causePage false va (s.ctx cid).pc)
         | _ => s)
      | .copy cl _ => answerWb s cl vd fid true)

/-! ## Shoot-downs (R453) -/

/-- Whether a TLB entry maps an address of [lo, hi). -/
def tlbIn (t : TlbEntry) (lo hi : Nat) : Bool :=
  decide (t.vpn * leafBytes t.level < hi ∧ lo < (t.vpn + 1) * leafBytes t.level)
def inFrames (fr : List (Nat × Nat)) (pa : Nat) : Bool := fr.any (fun f => decide (f.1 ≤ pa ∧ pa < f.1 + f.2))
/-- A sector access of a stream under way that lies in some frames. -/
def accIn (fr : List (Nat × Nat)) : StreamAcc → Bool
  | .load _ sec _ _ _ => inFrames fr sec
  | .store a _ _ => inFrames fr a.sector
/-- Whether a plane's stream under way uses frames; one that a restoration has put back is translated again first. -/
def streamIn (fr : List (Nat × Nat)) (p : Plane) : Bool := !p.restream && p.stream.any (accIn fr)
/-- How often a plane must commit before no effect in some frames is held. -/
def commitsDue (fr : List (Nat × Nat)) (p : Plane) : Nat :=
  let fx := fun (h : Held) => match h.fx with | .fx f _ => inFrames fr f.pa | _ => false
  if p.held.any (fun h => h.late && fx h) || (afterKnot p 9 && streamIn fr p) then 2
  else if p.held.any fx || streamIn fr p then 1
  else 0
/-- Effects of a virtual device in some frames that are sent and not yet performed. -/
def sentFx (s : State) (vd : Nat) (fr : List (Nat × Nat)) : List Packet :=
  let l := s.net ++ s.planes.flatMap (fun e => e.2.unack) ++ s.ctxs.flatMap (fun e => e.2.unack)
  l.filter (fun k => k.vd == vd && (match k.sector? with | some x => inFrames fr x | none => false))
/-- A request's elements translated ahead of its fault, up to the first whose address lies in a range: the others are translated
again. -/
def dropGot (lo hi : Nat) (f : Fault5) : Fault5 := { f with got := f.got.takeWhile (fun g => !(decide (lo ≤ g.1.toNat ∧ g.1.toNat < hi))) }
/-- Whether a CUT or a stop under way uses a translation of a range (R232, R469). -/
def mapsIn (lo hi : Nat) (maps : List (Nat × Nat × Nat)) : Bool := maps.any (fun m => decide (m.1 * 4096 < hi ∧ lo < (m.1 + 1) * 4096))
def cutUses (lo hi : Nat) (c : Ctx) : Bool :=
  match c.wait with
  | .cut _ _ _ _ _ maps => mapsIn lo hi maps
  | _ => false

/-- A shoot-down of [lo, hi) begun (R453): the entries of the range removed, and what they translated noted. -/
def beginShoot (s : State) (vd lo hi : Nat) (own : Bool) : State :=
  let hit := fun (t : TlbEntry) => t.vd == vd && tlbIn t lo hi
  let fr := ((s.hub.tlb ++ s.hub.tlbGone).filter (fun t => hit t && decide (t.unit < 4096))).map (fun t => (leafBase t.level t.entry.toNat, leafBytes t.level))
  let planes := s.planes.flatMap (fun e => if e.2.vd = vd then List.replicate (commitsDue fr e.2) e.1 else [])
  let pkts := sentFx s vd fr
  let s := s.modVd vd (fun v => { v with shoots := v.shoots ++ [⟨lo, hi, fr, planes, pkts, own⟩] })
  { s with
    planes := tmap (fun _ p => if p.vd = vd then { p with fault := p.fault.map (dropGot lo hi) } else p) s.planes
    hub := { s.hub with tlb := s.hub.tlb.filter (fun t => !hit t), tlbGone := s.hub.tlbGone.filter (fun t => !hit t) } }

/-- SHOOTDOWN_REQUEST (R453): a malformed request is ignored. -/
def execShootdownRequest (vd : Nat) (w : BitVec 64) (s : State) : Ans :=
  match s.vd? vd with
  | none => .next s
  | some _ =>
    let sz := bits w.toNat 6 6
    if bits w.toNat 0 6 ≠ 0 ∨ ¬ ((12 ≤ sz ∧ sz ≤ 57) ∨ sz = 63) then .next s
    else
      let lo := if sz = 63 then 0 else w.toNat / 2 ^ sz * 2 ^ sz
      let hi := if sz = 63 then 2 ^ 64 else lo + 2 ^ sz
      .next (beginShoot (s.modVd vd (fun v => { v with sdReq := v.sdReq + 1 })) vd lo hi false)

/-- Whether no translation under an entry that a shoot-down removed remains in use. -/
def shootDone (s : State) (vd : Nat) (x : Shoot) : Bool :=
  let sent := sentFx s vd x.frames
  x.planes.isEmpty && !s.planes.any (fun e => e.2.vd == vd && streamIn x.frames e.2) &&
  x.pkts.all (fun k => !sent.contains k) &&
  (match s.vd? vd with | some v => !mapsIn x.lo x.hi v.stopMaps | none => true) && !s.ctxs.any (fun e => e.2.vd == some vd && (cutUses x.lo x.hi e.2 || e.2.puts.any (fun a => inFrames x.frames a.sector))) &&
  !(s.hub.cmdPuts ++ s.hub.svcPuts).any (fun a => inFrames x.frames a.sector)

/-- SHOOTDOWN_COMPLETE (R453): in the order of the requests. -/
def execShootdownComplete (vd : Nat) (s : State) : Ans :=
  match s.vd? vd with
  | none => .next s
  | some v => match v.shoots with
    | [] => .next s
    | x :: r =>
      .next (if shootDone s vd x then s.setVd vd { v with sdDone := v.sdDone + (if x.own then 0 else 1), shoots := r } else s)

/-- FAULT_RECORD_HELD_WRITE (R454): the oldest held record, once the queue has room for it. -/
def execFaultRecordHeldWrite (vd : Nat) (s : State) : Ans :=
  match s.vd? vd with
  | none => .next s
  | some v => match v.fqHeld with
    | [] => .next s
    | rc :: r => .next (if recSlots rc ≤ fqFree s v then fqWrite s vd { v with fqHeld := r } rc else s)

end Sys2Proof.Machine
end

