-- ==== Sys2Proof/Machine/Preempt.lean ====
section
/-! DEFINITION. Pre-empting, migrating and checkpointing (R468 to R474, R486). -/

namespace Sys2Proof.Machine

/-! ## Stopping and starting a virtual device (R469, R470) -/

/-- The cluster through whose translation firmware reaches a virtual device's addresses. -/
def vdCluster (s : State) (v : Nat) : Nat := ((clustersOf (partMask s (v / 16))).head?).getD 0
/-- Sections with pages, of every context of a virtual device. -/
def vdSecs (s : State) (v : Nat) : List (Nat × Nat) :=
  (ctxsOf s v).flatMap (fun c => ((s.ctx c).secs.filter (fun e => !e.2.planes.isEmpty)).map (fun e => (c, e.1)))

/-- Firmware stops a context at its boundary (R249): a wait ends without effect, the monitor is saved disarmed. -/
def fwStop (s : State) (cid : Nat) : State :=
  let c := s.ctx cid
  if c.run ≠ .running ∨ mayStop c = false then s
  else
    let s := match c.wait with | .stall fid _ _ => dropFid s c.vdn fid | _ => s
    s.modCtx cid (fun c => { c with run := .fwStopped, wait := .none, mon := none, monFired := false, part := [] })
def fwGo (s : State) (v : Nat) : State :=
  (ctxsOf s v).foldl (fun s cid => s.modCtx cid (fun c => if c.run = .fwStopped then { c with run := .running } else c)) s

/-- A stop given up: its regions and contexts run again. -/
def undoStop (s : State) (v : Nat) : State :=
  let secs := (vdSecs s v).filter (fun x => ((s.ctx x.1).sec x.2).cutting)
  (fwGo (runAgain s secs) v).modVd v (fun x => { x with stop := none, stopMaps := [] })

/-- One step of a stop under way (R469): the contexts stop, the regions are cut, and the area is written, one sector in a turn (R294). -/
def stopStep (s : State) (v base len : Nat) : State × CmdEnd :=
  match s.hub.cmdPuts with
  | a :: r =>
    let s := performAll { s with hub := { s.hub with cmdPuts := r } } .hub v [a]
    if r = [] then (s.modVd v (fun x => { x with stopped := true, stopMaps := [] }), .status cDone) else (s, .more)
  | [] =>
  let s := (ctxsOf s v).foldl fwStop s
  if (ctxsOf s v).any (fun c => (s.ctx c).run == .running) then (s, .more)
  else
    let secs := vdSecs s v
    let s := markSecs s (secs.filter (fun x => !((s.ctx x.1).sec x.2).inPlace)) (fun x => { x with cutting := true })
    if (secPlanes s secs).any (fun pl => match s.plane? pl with | some p => p.assay | none => false) then (s, .more)
    else match cutStep s secs with
      | (s, false) => (s, .more)
      | (s, true) =>
        let (t, area) := saveArea s secs
        if len < area.length then (undoStop s v, .res cShort area.length)
        else
          let maps := match s.vd? v with | some x => x.stopMaps | none => []
          let t := carryAway t secs
          ({ t with hub := { t.hub with cmdPuts := planMapped maps (area.length / 32 + 2) base area } }, .more)

/-- A stop asked for: its checks, then its first step; a stop of this command under way goes on. -/
def stopVd (s : State) (pa v base len : Nat) : State × CmdEnd :=
  match s.vd? v with
  | none => (s, .status cNotfound)
  | some x =>
    if s.hub.cmd = some pa then stopStep s v base len
    else if x.stop.isSome then (s, .status cBusy)
    else if base % 64 ≠ 0 then (s, .status cBadrec)
    else match checkArea s (vdCluster s v) v base len with
      | (s, .ok maps) => stopStep (s.modVd v (fun x => { x with stop := some (base, len), stopMaps := maps })) v base len
      | _ => (s, .status cBadrec)

/-- The virtual device that A1 names. -/
def cmdVd (c : Cmd) : Nat := 16 * bits c.a1 0 4 + bits c.a1 4 4
def vdKnown (s : State) (v : Nat) : Bool := partExists s (v / 16) && (s.vd? v).isSome

/-- VDSTOP (R469). -/
def execVdstop (pa : Nat) (s : State) : Ans :=
  runCmd 9 pa s (fun s c =>
    if 256 ≤ c.a1 then (s, .status cBadrec)
    else if !vdKnown s (cmdVd c) then (s, .status cNotfound)
    else stopVd s pa (cmdVd c) c.a2 c.a3)

/-- VDSTART (R470): each region goes back to the context its word names; with too few planes the answer is BUSY (log entry
23). -/
def execVdstart (pa : Nat) (s : State) : Ans :=
  runCmd 0x0A pa s (fun s c =>
    let v := cmdVd c
    if 256 ≤ c.a1 ∨ c.a2 ≠ 0 ∨ c.a3 ≠ 0 then (s, .status cBadrec)
    else if !vdKnown s v then (s, .status cNotfound)
    else match s.vd? v with
      | none => (s, .status cNotfound)
      | some x => match x.stop, x.stopped with
        | some (base, len), true =>
          (match readArea (vreader (.cmd (vdCluster s v)) v) s base len with
           | (t, .pause) => (t, .more)
           | (_, .ok (some rs)) =>
             if rs.any (fun r => (s.ctx r.cid).vd != some v) then (s, .status cBadrec)
             else match restoreAll s Region.cid rs with
               | (t, none) => ((fwGo t v).modVd v (fun x => { x with stop := none, stopped := false }), .status cDone)
               | (_, some .noPlane) => (s, .status cBusy)
               | (_, some .bad) => (s, .status cBadrec)
           | _ => (s, .status cBadrec))
        | _, _ => (s, .status cBusy))

/-! ## Leaves of an address space (R471, R472) -/

/-- A present leaf: level, virtual address, the entry's physical address, the entry. -/
structure Leaf where
  level : Nat
  va : Nat
  ea : Nat
  e : Nat
deriving DecidableEq, Repr
/-- The present leaves under a table of a level (fuel is the level + 1); the entries of a table in another package are free values. -/
def leavesFrom (s : State) (v : Vd) : Nat → Nat → Nat → List Leaf
  | 0, _, _ => []
  | level + 1, table, va =>
    if !inRanges v table 4096 || !paHbm table 4096 then []
    else (List.range 512).flatMap (fun i =>
      let ea := table + 8 * i
      let a := va + i * 2 ^ (12 + 9 * level)
      let e := peek s ea
      if !eV e || entryBad level e then []
      else if eLeaf e then [⟨level, a, ea, e⟩]
      else leavesFrom s v level (ePfn e * 4096) a)
def leaves (s : State) (v : Vd) : List Leaf := leavesFrom s v 5 v.ptroot 0

/-- A leaf's entry rewritten. -/
def setLeaf (s : State) (l : Leaf) (e : Nat) : State := devWrite s l.ea 0 (bytesLE 8 e)
def clearBit (n i : Nat) : Nat := if n.testBit i then n - 2 ^ i else n

/-! ## Migration (R472, R473, R486) -/

/-- n sectors from an address on as firmware reads them through a slot, with the offsets of those that fail their check. -/
def readPage (pa kslot : Nat) : Nat → State → State × Bytes × List Nat
  | 0, s => (s, [], [])
  | n + 1, s =>
    match readPage pa kslot n s with
    | (s, l, bad) => match plainSector s .hub 0 (pa + 32 * n) kslot with
      | (s, v, ue) => (s, l ++ bytesLE 32 v.toNat, if ue then bad ++ [32 * n] else bad)
/-- A page's bytes written through a slot, the sectors that failed their check in the poisoned-data encoding. -/
def writePage (s : State) (pa kslot : Nat) (l : Bytes) (bad : List Nat) : State :=
  bad.foldl (fun s o => match localOff s (pa + o) with
    | some x => poisonSector s x
    | none => s.emit (.poison (pa + o))) (devWrite s pa kslot l)

/-- The integrity tags of an operand-only leaf's frame written (R484). -/
def tagLeaf (s : State) (m : Leaf) : State :=
  match localOff s (leafBase m.level m.e) with
  | some o => writeTags s o (eKslot m.e) (leafBytes m.level / 512)
  | none => s
/-- A page's bytes written to the leaf of a virtual device at its address and of its size, with that leaf's integrity tags (R472). -/
def takePage (s : State) (v : Vd) (level va : Nat) (l : Bytes) (bad : List Nat) : State :=
  match (leaves s v).find? (fun m => m.level == level && m.va == va) with
  | some m =>
    let s := writePage s (leafBase m.level m.e) (eKslot m.e) l bad
    if eOpo m.e then tagLeaf s m else s
  | none => s
/-- A page carried to the destination: within this package by copying, to another as an outgoing page. -/
def carryPage (s : State) (vd : Nat) (dest : Nat × Nat) (l : Leaf) : State :=
  match readPage (leafBase l.level l.e) (eKslot l.e) (leafBytes l.level / 32) s with
  | (s, b, bad) =>
    if dest.1 = s.posN then
      match s.vd? dest.2 with
      | none => s
      | some w => takePage s w l.level l.va b bad
    else s.emit (.migPage vd l.va l.level b bad)

/-- The dirty log of a virtual device (R471): what it holds from DL_HEAD to DL_TAIL, DL_TAIL, and whether OVF is set. -/
def dirtyLog (s : State) (v : Vd) : List Nat × Nat × Bool :=
  if v.dlbase = 0 then ([], 0, true)
  else
    let tail := peek s v.dlbase
    let head := peek s (v.dlbase + 8)
    let nent := peek s (v.dlbase + 24)
    ((List.range (min nent ((tail + 2 ^ 64 - head) % 2 ^ 64))).map (fun i => peek s (v.dlbase + 64 + 8 * ((head + i) % nent))), tail,
      (peek s (v.dlbase + 16)).testBit 0)
/-- Whether entries of the log name a leaf. -/
def loggedIn (ents : List Nat) (l : Leaf) : Bool := ents.any (fun e => e % 4 == l.level && e / 4096 * 4096 == leafBase l.level l.e)
/-- A pass begun (R472): of the pages logged since the last pass, or of every dirty leaf where the log overflowed, D is cleared and
each is shot down; the log up to its end is consumed. -/
def passBegin (s : State) (vd : Nat) (v : Vd) : State :=
  let (ents, tail, ovf) := dirtyLog s v
  let hit := (leaves s v).filter (fun l => if ovf then eD l.e else loggedIn ents l)
  let s := s.draw.2
  let s := hit.foldl (fun s l => beginShoot (setLeaf s l (clearBit l.e 6)) vd l.va (l.va + leafBytes l.level) true) s
  let s := if v.dlbase = 0 then s else devWrite s (v.dlbase + 8) 0 (bytesLE 8 tail)
  s.modVd vd (fun x => { x with migTodo := some (hit.map (fun l => (l.level, l.va))) })
/-- OVF cleared behind a pass that has copied every dirty leaf; it stays where a page has been written since and not logged (R472: no
write is left uncopied). -/
def clearOvf (s : State) (v : Vd) : State :=
  let (ents, _, ovf) := dirtyLog s v
  let missed := (leaves s v).any (fun l => eD l.e && !loggedIn ents l)
  if v.dlbase = 0 ∨ ovf = false ∨ missed = true then s.draw.2
  else devWrite s.draw.2 (v.dlbase + 16) 0 (bytesLE 8 (clearBit (peek s (v.dlbase + 16)) 0))
/-- Whether a migration's own shoot-downs are still pending. -/
def ownShoots (v : Vd) : Bool := v.shoots.any (fun x => x.own)
/-- The leaves of a pass copied once their shoot-downs are complete; none while they are not. The count comes with the state. -/
def passEnd (s : State) (vd : Nat) (v : Vd) (dest : Nat × Nat) : Option (State × Nat) :=
  if ownShoots v then none
  else
    let todo := v.migTodo.getD []
    let l := (leaves s v).filter (fun l => todo.contains (l.level, l.va))
    some ((clearOvf (l.foldl (fun s l => carryPage s vd dest l) s) v).modVd vd (fun x => { x with migTodo := none }), todo.length)

/-- The firmware measurements a policy record allows (R488). -/
def policyFws (l : Bytes) : List (BitVec 256) :=
  (List.range (l.getD 3 0).toNat).map (fun i => BitVec.ofNat 256 (ofBytesLE ((l.drop (80 + 32 * i)).take 32)))
/-- The pod policy in force (R511). -/
def podPolicy (s : State) : List (BitVec 256) := s.hub.policy.getD [s.hub.fwm]
/-- Whether a slot may pass to a destination with a firmware measurement (R486). -/
def slotPasses (s : State) (x : KeySlot) (fwm : BitVec 256) : Bool :=
  match x.kind with
  | .operand | .session => (policyFws x.policy).contains fwm && !(x.policy.getD 5 0).getLsbD 0
  | .vdkey | .evict => (podPolicy s).contains fwm
  | .free | .open => true

def kindCode : SlotKind → Nat
  | .vdkey => 1 | .operand => 2 | .session => 3 | .evict => 4 | .free => 0 | .open => 0
/-- Bytes 0 to 575 of a slot transfer record (R486). -/
def slotHead (n : Nat) (x : KeySlot) (retiring : Bool) : Bytes :=
  let ses := x.kind = .session
  bytesLE 2 n ++ bytesLE 1 (kindCode x.kind) ++ bytesLE 1 ((if x.kind = .vdkey ∧ x.conf then 1 else 0) + (if retiring then 2 else 0)) ++
    bytesLE 4 (if ses then x.sid else 0) ++ bytesLE 8 (if ses ∨ x.kind = .evict then x.ctr else 0) ++
    bytesLE 8 (if ses then x.rp else 0) ++ bytesLE 8 (if ses then x.rbase else 0) ++ bytesLE 8 (if ses then x.rlen else 0) ++ zerosB 24 ++
    (if ses ∨ x.kind = .operand then (x.policy ++ zerosB 512).take 512 else zerosB 512)
/-- A slot transfer record wrapped to a destination's modulus under a seed. -/
def slotRecord (n : Nat) (x : KeySlot) (retiring : Bool) (modulus : Nat) (seed : Bytes) : Bytes :=
  let h := slotHead n x retiring
  h ++ bytesLE 384 (oaepEncrypt modulus 65537 h seed (bytesLE 32 x.key.toNat)) ++ zerosB 64

/-- The slots a virtual device may name that are not FREE. -/
def heldSlots (s : State) (v : Vd) : List (Nat × KeySlot) :=
  s.hub.slots.filter (fun e => e.1 != 0 && decide (v.ksbase ≤ e.1 ∧ e.1 < v.ksbase + v.kscnt) && e.2.kind != .free)
/-- Whether a slot holds the weights of a RETIRING model or of one of its adaptations (R486, R496). -/
def slotRetiring (v : Vd) (n : Nat) : Bool :=
  v.models.any (fun m => m.retiring && (m.slot == n || m.adapters.any (fun e => bits e.2.entry.toNat 0 12 == n)))
/-- The transfer records of slots, one behind the other. -/
def slotRecords (modulus : Nat) (v : Vd) : List (Nat × KeySlot) → State → State × Bytes
  | [], s => (s, [])
  | (n, x) :: r, s =>
    let (k, s) := s.draw
    let (s, l) := slotRecords modulus v r s
    (s, slotRecord n x (slotRetiring v n) modulus (bytesLE 32 (Config.freeBits 256 k).toNat) ++ l)
def sendSlots (modulus : Nat) (v : Vd) (l : List (Nat × KeySlot)) (s : State) : State :=
  if l = [] then s
  else
    let (s, b) := slotRecords modulus v l s
    s.emit (.slotRecord b)

/-- Dirty logging begins, and the whole space is shot down (R472 step 2). -/
def startLogging (s : State) (vd : Nat) (v : Vd) : State :=
  beginShoot ((leaves s v).foldl (fun s l => setLeaf s l (clearBit (l.e ||| 128) 6)) s) vd 0 (2 ^ 64) true

/-- MIGBEGIN (R472, R486): the pages are copied once the shoot-down is complete. Another package's measurement, modulus and free slots
are free values (log entry 24). -/
def execMigbegin (pa : Nat) (s : State) : Ans :=
  runCmd 0x0B pa s (fun s c =>
    let vd := cmdVd c
    let pos := bits c.a2 0 4 + 16 * bits c.a2 4 4
    let dvd := 16 * bits c.a2 8 4 + bits c.a2 12 4
    if 256 ≤ c.a1 ∨ 2 ^ 16 ≤ c.a2 ∨ c.a3 ≠ 0 then (s, .status cBadrec)
    else if !vdKnown s vd then (s, .status cNotfound)
    else match s.vd? vd with
      | none => (s, .status cNotfound)
      | some v =>
        if s.hub.cmd = some pa then
          (if ownShoots v then (s, .more) else ((leaves s v).foldl (fun t l => carryPage t vd (pos, dvd) l) s, .status cDone))
        else
          let held := heldSlots s v
          let here := pos == s.posN
          let (n, t) := s.draw
          let fwm := if here then s.hub.fwm else Config.freeBits 256 n
          let taken := if here then !held.isEmpty else Config.freePick n % 2 == 1
          let attested := here || Config.freePick (n + 1) % 2 == 0
          if here && !vdKnown s dvd then (s, .status cNotfound)
          else if !attested || held.any (fun e => !slotPasses s e.2 fwm) then (t, .status cAuth)
          else if taken && !held.isEmpty then (t, .status cInuse)
          else
            let t := sendSlots (Config.freeBits 3072 n).toNat v held t
            ((startLogging t vd v).modVd vd (fun x => { x with migDest := some (pos, dvd) }), .more))

/-- MIGPASS (R472). -/
def execMigpass (pa : Nat) (s : State) : Ans :=
  runCmd 0x0C pa s (fun s c =>
    let vd := cmdVd c
    if 256 ≤ c.a1 ∨ c.a2 ≠ 0 ∨ c.a3 ≠ 0 then (s, .status cBadrec)
    else if !vdKnown s vd then (s, .status cNotfound)
    else match s.vd? vd with
      | none => (s, .status cNotfound)
      | some v => match v.migDest with
        | none => (s, .status cBusy)
        | some d =>
          if s.hub.cmd = some pa then (match passEnd s vd v d with
            | some (s, n) => (s, .res cDone n)
            | none => (s, .more))
          else (passBegin s vd v, .more))

/-- The state that MIGFINAL transfers (R473). -/
def migState (s : State) (vd : Nat) (v : Vd) : MigState :=
  { ctxs := (ctxsOf s vd).map (fun c => (c, s.ctx c))
    waybills := s.clusters.flatMap (fun e => (e.2.wbs.filter (fun w => w.vd == vd)).map (fun w => (e.1, w)))
    pq := s.dies.flatMap (fun e => (e.2.pq.filter (fun q => q.vd == vd)).map (fun q => (e.1, q)))
    evicted := v.evicted, models := v.models, stop := v.stop, opSaves := s.hub.opSaves }
/-- Whether the strands of a virtual device's contexts hold no packet and no clasp context any more (R308). -/
def strandsDone (s : State) (vd : Nat) : Bool := (ctxsOf s vd).all (ctxStrandsDone s)
/-- One step of the end of a migration whose source is stopped: strands released, the last pass, the transfer. -/
def finalStep (s : State) (vd : Nat) (d : Nat × Nat) : State × CmdEnd :=
  match s.vd? vd with
  | none => (s, .status cNotfound)
  | some v =>
    if v.migTodo.isNone then (passBegin s vd v, .more)
    else
      let idle := (ctxsOf s vd).all (fun c => (s.ctx c).unack.isEmpty)
      let s := if idle then (ctxsOf s vd).foldl releaseCtxStrands s else s
      if !strandsDone s vd then (s, .more)
      else match passEnd s vd v d with
        | none => (s, .more)
        | some (s, k) =>
          let m := migState s vd v
          (if d.1 = s.posN then { s with hub := { s.hub with inbox := s.hub.inbox ++ [m] } } else s.emit (.migState m), .res cDone k)

/-- MIGFINAL (R473): a stop, the last pages, then the state; the source stays stopped. -/
def execMigfinal (pa : Nat) (s : State) : Ans :=
  runCmd 0x0D pa s (fun s c =>
    let vd := cmdVd c
    if 256 ≤ c.a1 then (s, .status cBadrec)
    else if !vdKnown s vd then (s, .status cNotfound)
    else match (s.vd? vd).bind (fun v => v.migDest) with
      | none => (s, .status cBusy)
      | some d =>
        let stopped := match s.vd? vd with | some v => v.stopped | none => false
        if s.hub.cmd = some pa ∧ stopped = true then finalStep s vd d
        else match stopVd s pa vd c.a2 c.a3 with
          | (s, .status n) => if n = cDone then finalStep s vd d else (s, .status n)
          | x => x)

/-! ## The destination's side -/

/-- Whether the fields of a transfer record that its KIND wants zero are zero (R486). -/
def transferZeros (rc : Bytes) : Bool :=
  let kind := numAt rc 2 1
  let flags := numAt rc 3 1
  let ses := kind == 3
  decide (1 ≤ kind ∧ kind ≤ 4) && decide (flags < 4) && (kind == 1 || flags % 2 == 0) && (kind == 2 || flags / 2 == 0) &&
  (ses || (numAt rc 4 4 == 0 && numAt rc 16 24 == 0)) && (ses || kind == 4 || numAt rc 8 8 == 0) && numAt rc 40 24 == 0 &&
  (ses || kind == 2 || numAt rc 64 512 == 0) && numAt rc 960 64 == 0
/-- A transfer record's slot (R486), or the status with which it is refused. -/
def transferSlot (s : State) (vd : Nat) (v : Vd) (rc : Bytes) : (Nat × KeySlot) ⊕ Nat :=
  let n := numAt rc 0 2
  let kind := match numAt rc 2 1 with
    | 1 => SlotKind.vdkey | 2 => .operand | 3 => .session | 4 => .evict | _ => .free
  if rc.length ≠ 1024 ∨ transferZeros rc = false then .inr cBadrec
  else if n = 0 ∨ ¬ (v.ksbase ≤ n ∧ n < v.ksbase + v.kscnt) ∨ (s.slot n).kind ≠ .free then .inr cInuse
  else match oaepDecrypt s.hub.fused.wrapN s.hub.fused.wrapD (rc.take 576) (numAt rc 576 384) with
    | none => .inr cAuth
    | some k => .inl (n, { kind := kind, key := BitVec.ofNat 256 (ofBytesLE k), vd := vd, conf := (numAt rc 3 1).testBit 0,
                           policy := if kind = .operand ∨ kind = .session then byteSlice rc 64 512 else [],
                           ctr := numAt rc 8 8, rp := numAt rc 16 8, sid := numAt rc 4 4, rbase := numAt rc 24 8, rlen := numAt rc 32 8 })
/-- The slots of n records, each placed ahead of the next; the status of the first that is refused. -/
def transferAll (vd : Nat) (v : Vd) : Nat → Bytes → State → State ⊕ Nat
  | 0, _, s => .inl s
  | n + 1, l, s => match transferSlot s vd v (l.take 1024) with
    | .inl (k, x) => transferAll vd v n (l.drop 1024) (s.setSlot k x)
    | .inr e => .inr e

/-- SLOT_TRANSFER_RECORD (R486): the slots of a migration's records placed at their numbers, all or none. -/
def execSlotTransferRecord (vd : Nat) (rc : List (BitVec 8)) (s : State) : Ans :=
  match s.vd? vd with
  | none => .next s
  | some v =>
    match transferAll vd v ((rc.length + 1023) / 1024) rc s with
    | .inl t => .next (t.emit (.mgmt (BitVec.ofNat 8 cDone) []))
    | .inr e => .next (s.emit (.mgmt (BitVec.ofNat 8 e) []))

/-- Units of this package under the present leaves of a virtual device whose entries pass a test. -/
def leafUnits (s : State) (v : Vd) (ok : Nat → Bool) : List Nat :=
  ((leaves s v).filter (fun l => ok l.e && leafBase l.level l.e / 2 ^ 44 == s.posN)).flatMap (fun l =>
    let o := leafBase l.level l.e % 2 ^ 44
    (List.range ((unitBytes - 1 + leafBytes l.level + o % unitBytes) / unitBytes)).map (fun i => o / unitBytes + i)) |>.eraseDups
/-- The open units among some locked for a virtual device. -/
def lockOpen (s : State) (units : List Nat) (state vd : Nat) : State :=
  setLocks s (units.filter (fun u => lockState (lockOf s u) == 0)) (some (lockWord state vd))
/-- A model as it stands at a destination: its units are those under the operand-only leaves that name its slot, an adaptation's
likewise (R472, R496). -/
def modelHere (s : State) (v : Vd) (m : Model) : Model :=
  let us := fun (slot : Nat) => leafUnits s v (fun e => eOpo e && eKslot e == slot)
  { m with units := us m.slot, adapters := tmap (fun _ a => { a with units := us (bits a.entry.toNat 0 12) }) m.adapters }

/-- The n-th state that another package's MIGFINAL has sent, a free one (log entry 24). -/
opaque arrivedState : Nat → Option MigState
/-- The k-th state that has come: of those that this package's own MIGFINAL has sent, or behind them another package's. -/
def nextState (s : State) (k : Nat) : State × Option MigState :=
  match s.hub.inbox[k]? with
  | some m => ({ s with hub := { s.hub with inbox := s.hub.inbox.eraseIdx k } }, some m)
  | none => let (n, s) := s.draw; (s, arrivedState n)

/-- MIGRATION_STATE_TRANSFER (R472, R473): the k-th state that has come taken for a virtual device, with the pages that came with it: its contexts with the same cluster
and number stand stopped by firmware, strand counts at 0; VDSTART restores it. The units under operand-only and confidential leaves are
locked as these leaves want them (log entry 24). -/
def execMigrationStateTransfer (vd : Nat) (k : Nat) (s : State) : Ans :=
  match s.vd? vd with
  | none => .next s
  | some v => match nextState s k with
    | (s, none) => .next s
    | (s, some m) =>
      let s := { s with hub := { s.hub with
        opSaves := m.opSaves.foldl (fun t e => if (tfind t e.1).isSome then t else tset t e.1 e.2) s.hub.opSaves } }
      let s := m.pages.foldl (fun s x => takePage s v x.1 x.2.1 x.2.2.1 x.2.2.2) s
      let s := (m.ctxs.filter (fun e => (s.ctx e.1).vd == some vd)).foldl (fun s e =>
        s.setCtx e.1 { e.2 with vd := some vd, seqs := [], seen := [], unack := [] }) s
      let s := m.waybills.foldl (fun s e => s.modCluster e.1 (fun c => { c with wbs := c.wbs ++ [{ e.2 with vd := vd, fid := none }] })) s
      let s := m.pq.foldl (fun s e =>
        let d := s.die e.1
        s.setDie e.1 { d with pq := d.pq ++ [{ e.2 with vd := vd, order := d.pushes }], pushes := d.pushes + 1 }) s
      let s := lockOpen (lockOpen s (leafUnits s v eOpo) 2 vd) (leafUnits s v eConf) 1 vd
      .next (s.draw.2.setVd vd { v with evicted := m.evicted, models := m.models.map (modelHere s v), stop := m.stop, stopped := true })

/-! ## Checkpoints (R474) -/

def ckptKind (c : Cmd) : Nat := bits c.a1 0 1
def ckptFormOk (c : Cmd) : Bool :=
  decide (c.a1 < 2) && c.a3 == 0 && (if c.a1 = 0 then c.a2 % 4096 == 0 else decide (c.a2 < 256))
def allStopped (s : State) : Bool := s.hub.vds.all (fun e => e.2.stopped)

/-- The first n sectors of HBM4 as stored, ciphertext under slot 0's key, written to a memory from an address on. -/
def ckptImage (s : State) (a : Nat) : Nat → Memory → Memory
  | 0, m => m
  | n + 1, m => mwriteBytes (ckptImage s a n m) (a + 32 * n)
      (xtsUnit true (s.slot 0).key (paOf s (32 * n) / 32) (mreadBytes s.mem (32 * n) 32))
/-- The first n sectors of an image in companion memory read back under a key of slot 0. -/
def ckptBack (s : State) (key : BitVec 256) (a : Nat) : Nat → Memory → Memory
  | 0, m => m
  | n + 1, m => mwriteBytes (ckptBack s key a n m) (32 * n)
      (xtsUnit false key (paOf s (32 * n) / 32) (mreadBytes s.cmem (a + 32 * n) 32))
/-- Sectors of HBM4. -/
def hbmSectors : Nat := hbmBytes / 32
/-- What firmware puts into hub-reserved memory before the copy: the SCRATCH banks, the wrapped key slots, the tags and its own state, in a
layout of its own, free bytes behind the number by which it knows them again (R474, log entry 25). -/
def ckptReserve (s : State) (n i : Nat) : State :=
  let f := s.hub.fused
  let inRsv := fun (o : Nat) => decide (f.rsvBase < o + 32 ∧ o < f.rsvBase + f.rsvBytes)
  { s with mem := mwriteN (mfree s.mem n f.rsvBase f.rsvBytes) f.rsvBase 8 (i + 1)
           bad := s.bad.filter (fun o => !inRsv o), soft := s.soft.filter (fun o => !inRsv o) }
/-- The image at an address of companion memory, wherever it was written first, as one that this package wrapped: device memory under its
slot 0, where hub-reserved memory holds the number of what firmware saved in it. -/
def findImage (s : State) (a : Nat) : List Checkpoint → Nat → Option (Checkpoint × Memory)
  | [], _ => none
  | y :: r, i =>
    let m := ckptBack s (tget y.slots 0 {}).key a hbmSectors y.mem
    if mreadN m s.hub.fused.rsvBase 8 = i + 1 then some (y, m) else findImage s a r (i + 1)
/-- The image that a peer holds: what this package has sent somewhere, as it was sent or altered since, or none of this package's; all
free choices. -/
def peerImage (s : State) : State × Option (Checkpoint × Memory) :=
  let (n, s) := s.draw
  let (k, s) := s.draw
  let l := s.hub.ckpt
  (s, if Config.freePick n % 3 = 0 then none
      else (l[Config.freePick k % l.length]?).map (fun y => (y, if Config.freePick n % 3 = 1 then y.mem else mfree y.mem n 0 hbmBytes)))
/-- HBM4 copied to a checkpoint's target. -/
def ckptCopy (s : State) (kind addr : Nat) : State :=
  if kind = 0 then { s with cmem := ckptImage s addr hbmSectors s.cmem } else s.emit (.checkpoint addr (ckptImage s 0 hbmSectors []))

/-- CHKPT (R474): what firmware saves goes into hub-reserved memory, then HBM4 as stored to the target (log entry 25). -/
def execChkpt (pa : Nat) (s : State) : Ans :=
  runCmd 0x0E pa s (fun s c =>
    if !ckptFormOk c then (s, .status cBadrec)
    else if !allStopped s then (s, .status cBusy)
    else if s.hub.slots.any (fun e => (e.2.kind == .operand || e.2.kind == .session) && (e.2.policy.getD 5 0).getLsbD 1) then
      (s, .status cAuth)
    else
      let (n, s) := s.draw
      let s := ckptReserve s n s.hub.ckpt.length
      let h := s.hub
      let x : Checkpoint :=
        { kind := ckptKind c, addr := c.a2, mem := s.mem, bad := s.bad, tags := s.tags, parts := h.parts, vds := h.vds, locks := h.locks, slots := h.slots,
          libs := h.libs, handlers := h.handlers, opSaves := h.opSaves, ctxs := s.ctxs, clusters := s.clusters,
          pqs := s.dies.flatMap (fun e => e.2.pq.map (fun q => (e.1, q))) }
      ({ ckptCopy s x.kind x.addr with hub := { h with ckpt := h.ckpt ++ [x] } }, .status cDone))

/-- CHKLOAD (R474): an image that this package did not wrap gives AUTH. A placed plane, a packet, a translation or a request to firmware is
none of an image. -/
def execChkload (pa : Nat) (s : State) : Ans :=
  runCmd 0x0F pa s (fun s c =>
    if !ckptFormOk c then (s, .status cBadrec)
    else if !allStopped s then (s, .status cBusy)
    else match (if ckptKind c = 0 then (s, findImage s c.a2 s.hub.ckpt 0) else peerImage s) with
      | (_, none) => (s, .status cAuth)
      | (s, some (x, mem)) =>
        let s := takeBackAll s isHbm
        let cl := tmap (fun _ (y : Cluster) => { y with cache := [], frame := y.written }) x.clusters
        let dies := (List.range 4).foldl (fun t d =>
          let pq := (x.pqs.filter (fun e => e.1 == d)).map (·.2)
          tset t d { tget t d {} with pq := pq, pushes := (pq.map (fun e => e.order + 1)).foldl max (tget t d {}).pushes }) s.dies
        ({ s with
          mem := mem, bad := x.bad, soft := [], l2 := [], tags := x.tags, planes := [], net := [], ctxs := x.ctxs, clusters := cl, dies := dies
          hub := { s.hub with parts := x.parts, vds := x.vds, locks := x.locks, slots := x.slots, libs := x.libs, handlers := x.handlers,
                              opSaves := x.opSaves, tlb := [], tlbGone := [], fwq := [], svcPart := [], svcPuts := [], svcEnd := none } }, .status cDone))

end Sys2Proof.Machine
end

