-- ==== Sys2Proof/Machine/Services.lean ====
section
/-! DEFINITION. What the firmware services share (R375, R483 to R489): requests and their answers, memory as firmware reads and
writes it, locks, sealed key records, admission sets; and the services on KV pages, hallmarks and key slots (R374 to R377, R485,
R493, R506, R508). -/

namespace Sys2Proof.Machine

def vDone : Nat := 0
def vBusy : Nat := 1
def vBadDesc : Nat := 2
def vPage : Nat := 3
def vKey : Nat := 4
def vTagFail : Nat := 5
def vStale : Nat := 6
def vFull : Nat := 7
def vOpOnly : Nat := 8
def vAuth : Nat := 9
def vPolicy : Nat := 10
def vTaken : Nat := 11
def vInuse : Nat := 12

/-! ## Requests (R245, R483) -/

/-- What a service answers in place of a status while it still reads: its request stays at the head, and it goes on in a later turn, one
sector in each (R294). -/
def vMore : Nat := 2 ^ 64
/-- A service run for the request at the head of the queue: k is given the context, its virtual device and the block's address, and
answers with a status or with vMore. What it writes goes out one sector in each of the later turns, and its answer behind the last
(R294). -/
def service (num : Nat) (s : State) (k : State → Nat → Nat → Vd → Word → State × Nat) : Ans :=
  match s.hub.fwq with
  | [] => .next s
  | r :: rest =>
    if r.svc ≠ num then .next s
    else
      let u := { s with hub := { s.hub with fwq := rest } }
      let vd := (u.ctx r.cid).vdn
      match u.vd? vd with
      | none => .next u
      | some v => match s.hub.svcEnd, s.hub.svcPuts with
        | some _, a :: l => .next (performAll { s with hub := { s.hub with svcPuts := l } } .hub vd [a])
        | some st, [] => .next (finishX { u with hub := { u.hub with svcEnd := none } } r.cid r.xd st)
        | none, _ => match k u r.cid vd v r.arg with
          | (t, st) =>
            .next (if st = vMore then { t with hub := { t.hub with fwq := s.hub.fwq } }
              else if t.hub.svcPuts = [] then finishX { t with hub := { t.hub with svcPart := [] } } r.cid r.xd st
              else { t with hub := { t.hub with fwq := s.hub.fwq, svcPart := [], svcEnd := some st } })

/-- Bytes read at their homes for a service, by the translations of its context's cluster. -/
def hread (s : State) (cid vd : Nat) (va n : Nat) : State × VRes Bytes := vread s (.svc (ctxCluster cid)) vd (BitVec.ofNat 64 va) n

/-- Bytes read for a service; what cannot be read answers PAGE. -/
def withBytes (s : State) (cid vd va n : Nat) (k : State → Bytes → State × Nat) : State × Nat :=
  match hread s cid vd va n with
  | (s, .ok l) => k s l
  | (s, .pause) => (s, vMore)
  | (s, _) => (s, vPage)
/-- The request block (R483). -/
def withBlock (s : State) (cid vd : Nat) (a : Word) (n : Nat) (k : State → Bytes → State × Nat) : State × Nat :=
  if a.toNat % 64 ≠ 0 then (s, vBadDesc) else withBytes s cid vd a.toNat n k
/-- Output bytes: k is given the state and what orders the stores that write them; what cannot be written answers PAGE. Nothing is changed
by the test (R375): the D bits of the pages written are set with the order. -/
def withOut (s : State) (cid vd va : Nat) (l : Bytes) (k : State → (State → State) → State × Nat) : State × Nat :=
  let plan := fun t => vplan t (ctxCluster cid) vd (BitVec.ofNat 64 va) l
  match plan s with
  | (_, .ok w) => k s (fun t => match plan t with
    | (t, .ok w) => { t with hub := { t.hub with svcPuts := w } }
    | _ => { t with hub := { t.hub with svcPuts := w } })
  | _ => (s, vPage)

/-! ## Waybills, pages and locks -/

def openWbs (s : State) (vd : Nat) : List Waybill :=
  s.clusters.flatMap (fun e => e.2.wbs.filter (fun w => w.vd == vd && w.phase != .finished))
/-- Whether an unretired waybill has an extent that meets [lo, hi); with wr, one that writes. -/
def wbMeets (s : State) (vd lo hi : Nat) (wr : Bool) : Bool :=
  (openWbs s vd).any (fun w => w.exts.any (fun e => (!wr || e.wr) && decide (e.base < hi ∧ lo < e.base + e.len)))

/-- The present leaf that maps an address, without the checks of R451 on it. -/
def rawLeafFrom (s : State) (v : Vd) (va : Nat) : Nat → Nat → Option (Nat × Nat)
  | 0, _ => none
  | level + 1, table =>
    if !inRanges v table 4096 || !paHbm table 4096 then none
    else
      let e := peek s (table + 8 * bits va (12 + 9 * level) 9)
      if !eV e || entryBad level e then none
      else if eLeaf e then some (level, e)
      else rawLeafFrom s v va level (ePfn e * 4096)
def rawLeaf (s : State) (v : Vd) (va : Nat) : Option (Nat × Nat) := if 2 ^ 57 ≤ va then none else rawLeafFrom s v va 5 v.ptroot
/-- The frame address and entry of the page that holds an address. -/
def rawPage (s : State) (v : Vd) (va : Nat) : Option (Nat × Nat) :=
  (rawLeaf s v va).map (fun x => (leafBase x.1 x.2 + va % leafBytes x.1 / 4096 * 4096, x.2))
/-- The pages that n bytes from an address touch. -/
def pagesOf (va n : Nat) : List Nat := (List.range ((4095 + n + va % 4096) / 4096)).map (fun i => va / 4096 * 4096 + 4096 * i)
/-- Their frames and entries; none where one is not present. -/
def rawPages (s : State) (v : Vd) (va n : Nat) : Option (List (Nat × Nat)) := (pagesOf va n).mapM (rawPage s v)
def ownUnit (s : State) (v : Vd) (pa : Nat) : Bool := pa / 2 ^ 44 == s.posN && paHbm pa 4096 && inRanges v pa 4096
def unitOpen (s : State) (u : Nat) : Bool := lockState (lockOf s u) == 0
/-- Whether a memory range lies on pages whose frames pass a test. -/
def framesAll (s : State) (v : Vd) (va n : Nat) (ok : Nat → Nat → Bool) : Bool :=
  match rawPages s v va n with
  | some l => l.all (fun x => ownUnit s v x.1 && ok x.1 x.2)
  | none => false
/-- Whether an extent of an unretired waybill touches units. -/
def wbTouches (s : State) (vd : Nat) (v : Vd) (units : List Nat) : Bool :=
  (openWbs s vd).any (fun w => w.exts.any (fun e => (pagesOf e.base e.len).any (fun a => match rawPage s v a with
    | some x => ownUnit s v x.1 && units.contains (unitOf x.1)
    | none => false)))

def slotInRange (v : Vd) (n : Nat) : Bool := decide (v.ksbase ≤ n ∧ n < v.ksbase + v.kscnt) && n != 0
def slotFree (s : State) (v : Vd) (n : Nat) : Bool := slotInRange v n && (s.slot n).kind == .free
/-- A random key drawn. -/
def drawKey (s : State) : BitVec 256 × State := let (n, s) := s.draw; (Config.freeBits 256 n, s)

/-! ## Key slots (R485) -/

/-- VDKEY. -/
def execVdkey (s : State) : Ans :=
  service 0x8005 s (fun s cid vd v a =>
    withBlock s cid vd a 16 (fun s l =>
      let n := numAt l 0 8
      let conf := numAt l 8 8
      if 2 ≤ conf then (s, vBadDesc)
      else if !slotFree s v n then (s, vKey)
      else if conf = 1 ∧ v.conf = false then (s, vPolicy)
      else
        let (k, s) := drawKey s
        (s.setSlot n { kind := .vdkey, key := k, vd := vd, conf := conf == 1 }, vDone)))

/-- EVKEY. -/
def execEvkey (s : State) : Ans :=
  service 0x8009 s (fun s cid vd v a =>
    withBlock s cid vd a 8 (fun s l =>
      let n := numAt l 0 8
      if !slotFree s v n then (s, vKey)
      else
        let (k, s) := drawKey s
        (s.setSlot n { kind := .evict, key := k, vd := vd }, vDone)))

/-- The units that a block of CONFLOCK or CONFFREE names. -/
def blockUnits (l : Bytes) : List Nat := (List.range (numAt l 8 8)).map (fun i => unitOf (numAt l 0 8) + i)
def unitsInVd (s : State) (v : Vd) (l : Bytes) : Bool :=
  decide (numAt l 0 8 < 2 ^ 52) && numAt l 0 8 / 2 ^ 44 == s.posN &&
  decide (numAt l 0 8 % 2 ^ 44 + numAt l 8 8 * unitBytes ≤ hbmBytes) && inRanges v (numAt l 0 8) (numAt l 8 8 * unitBytes)

/-- CONFLOCK. -/
def execConflock (s : State) : Ans :=
  service 0x8006 s (fun s cid vd v a =>
    withBlock s cid vd a 16 (fun s l =>
      let us := blockUnits l
      if numAt l 0 8 % unitBytes ≠ 0 then (s, vBadDesc)
      else if !unitsInVd s v l then (s, vPage)
      else if !us.all (unitOpen s) then (s, vInuse)
      else if wbTouches s vd v us then (s, vBusy)
      else (setLocks (zeroUnits s us) us (some (lockWord 1 vd)), vDone)))

/-- CONFFREE. -/
def execConffree (s : State) : Ans :=
  service 0x8008 s (fun s cid vd v a =>
    withBlock s cid vd a 24 (fun s l =>
      let us := blockUnits l
      let n := numAt l 16 8
      let x := s.slot n
      if numAt l 0 8 % unitBytes ≠ 0 then (s, vBadDesc)
      else if !unitsInVd s v l then (s, vPage)
      else if !us.all (fun u => lockOf s u == (lockWord 1 vd).toNat) then (s, vInuse)
      else if n ≠ 0 ∧ (slotInRange v n && x.kind == .vdkey && x.vd == vd) = false then (s, vKey)
      else if wbTouches s vd v us then (s, vBusy)
      else
        let s := setLocks (zeroUnits s us) us none
        (if n = 0 then s else s.setSlot n {}, vDone)))

/-! ## KV pages (R374 to R377) -/

def kvBytes : Nat := 32768
/-- The nonce of an eviction: 16 zero bits, VD, ESLOT, CTR from the top. -/
def evictNonce (vd slot ctr : Nat) : Bytes := bytesLE 12 (vd % 16 * 2 ^ 76 + slot % 4096 * 2 ^ 64 + ctr % 2 ^ 64)
/-- Trailer bytes 16 to 31 (R374). -/
def evictAad (vd slot ctr : Nat) : Bytes := bytesLE 16 (pack [(0, 64, ctr), (64, 12, slot), (76, 4, vd)])

/-- The descriptor's checks up to KEY: DEVVA, COMPA and ESLOT are given to k. -/
def withKv (s : State) (cid vd : Nat) (v : Vd) (a : Word) (k : State → Nat → Nat → Nat → State × Nat) : State × Nat :=
  withBlock s cid vd a 64 (fun s l =>
    let dev := numAt l 0 8
    let comp := numAt l 8 8
    let slot := bits (numAt l 16 2) 0 12
    let x := s.slot slot
    if numAt l 16 48 / 2 ^ 12 ≠ 0 ∨ dev % kvBytes ≠ 0 ∨ comp % 64 ≠ 0 then (s, vBadDesc)
    else match rawPages s v dev kvBytes with
      | none => (s, vPage)
      | some ps =>
        if !(slotInRange v slot && x.kind == .evict && x.vd == vd) then (s, vKey)
        else if ps.any (fun p => eOpo p.2) then (s, vOpOnly)
        else k s dev comp slot)

/-- KVEVICT (R376). -/
def execKvevict (s : State) : Ans :=
  service 0x0120 s (fun s cid vd v a =>
    withKv s cid vd v a (fun s dev comp slot =>
      if wbMeets s vd dev (dev + kvBytes) true then (s, vBusy)
      else if 1048576 ≤ v.evicted.length then (s, vFull)
      else withBytes s cid vd dev kvBytes (fun s l =>
        let x := s.slot slot
        let nonce := evictNonce vd slot x.ctr
        let c := gcmCrypt x.key nonce l
        let aad := evictAad vd slot x.ctr
        let blob := c ++ gcmTag x.key nonce aad c ++ aad ++ zerosB 32
        let s := s.setSlot slot { x with ctr := x.ctr + 1 }
        let s := s.modVd vd (fun v => { v with evicted := v.evicted ++ [(slot, x.ctr)] })
        ({ s with cmem := mwriteBytes s.cmem comp blob }, vDone))))

/-- KVPROMOTE (R377). -/
def execKvpromote (s : State) : Ans :=
  service 0x0121 s (fun s cid vd v a =>
    withKv s cid vd v a (fun s dev comp slot =>
      if wbMeets s vd dev (dev + kvBytes) false then (s, vBusy)
      else
        let blob := mreadBytes s.cmem comp 32832
        let c := blob.take kvBytes
        let ctr := numAt blob (kvBytes + 16) 8
        let x := s.slot slot
        if bits (numAt blob (kvBytes + 24) 8) 16 48 ≠ 0 ∨ numAt blob (kvBytes + 32) 32 ≠ 0 then (s, vBadDesc)
        else if v.evicted.contains (slot, ctr) = false ∨ bits (numAt blob (kvBytes + 24) 2) 12 4 ≠ vd % 16 then (s, vStale)
        else
          let nonce := evictNonce vd slot ctr
          if gcmTag x.key nonce (byteSlice blob (kvBytes + 16) 16) c ≠ byteSlice blob kvBytes 16 then (addLog s 7 0 0 0 0, vTagFail)
          else withOut s cid vd dev (gcmCrypt x.key nonce c) (fun s put =>
            ((put s).modVd vd (fun v => { v with evicted := v.evicted.erase (slot, ctr) }), vDone))))

/-! ## Hallmarks (R490, R492, R493, R507, R508) -/

/-- The libraries of a virtual device's admission set. -/
def admission (v : Vd) : List (BitVec 256) := (v.models.flatMap (fun m => m.libs)).eraseDups
def insertBy (x : BitVec 256) : List (BitVec 256) → List (BitVec 256)
  | [] => [x]
  | y :: r => if x.toNat ≤ y.toNat then x :: y :: r else y :: insertBy x r
def sorted (l : List (BitVec 256)) : List (BitVec 256) := l.foldl (fun a x => insertBy x a) []
def digestBytes (d : BitVec 256) : Bytes := bytesLE 32 d.toNat
def admitBytes (v : Vd) : Bytes := if (admission v).isEmpty then zerosB 32 else sha256 ((sorted (admission v)).flatMap digestBytes)

/-- The body of a hallmark (R493). -/
def hallmarkBody (s : State) (vd : Nat) (v : Vd) (kind : Nat) (nonce : Bytes) : Bytes :=
  let f := s.hub.fused
  bytesLE 2 1 ++ bytesLE 6 kind ++ bytesLE 8 s.hub.hctr.toNat ++ nonce ++ sha256 (bytesLE 384 f.signN) ++ sha256 (bytesLE 384 f.wrapN) ++
    digestBytes s.hub.fwm ++ bytesLE 2 s.hub.svn.toNat ++ bytesLE 1 s.hub.pos.toNat ++ bytesLE 1 (vd / 16) ++ bytesLE 1 (vd % 16) ++
    bytesLE 3 v.conf.toNat ++ admitBytes v ++ zerosB 32 ++
    (if kind = 2 then v.usage.flatMap (fun w => bytesLE 8 w.toNat) else zerosB 88) ++ zerosB 208

/-- A hallmark of a kind written into the buffer that a block names. -/
def hallmark (kind : Nat) (s : State) (cid vd : Nat) (v : Vd) (a : Word) : State × Nat :=
  withBlock s cid vd a 40 (fun s l =>
    let buf := numAt l 32 8
    if buf % 64 ≠ 0 then (s, vBadDesc)
    else
      let body := hallmarkBody s vd v kind (l.take 32)
      let (n, s) := s.draw
      let sig := pssSign s.hub.fused.signN s.hub.fused.signD (bytesLE 32 (Config.freeBits 256 n).toNat) body
      withOut s cid vd buf (body ++ bytesLE 384 sig ++ zerosB 128) (fun s put =>
        (put { s with hub := { s.hub with hctr := s.hub.hctr + 1 } }, vDone)))

/-- HALLMARK (R493). -/
def execHallmark (s : State) : Ans := service 0x0100 s (hallmark 1)
/-- USAGE (R508). -/
def execUsage (s : State) : Ans := service 0x0140 s (hallmark 2)

/-! ## Installed handlers (R506) -/

/-- HINSTALL. -/
def execHinstall (s : State) : Ans :=
  service 0x8007 s (fun s cid vd _ a =>
    withBlock s cid vd a 16 (fun s l =>
      let i := numAt l 8 8
      let n := s.hub.fused.handlerBytes
      if 16 ≤ i then (s, vBadDesc)
      else withBytes s cid vd (numAt l 0 8) (n + 384) (fun s img =>
        let d := digest (img.take n)
        let key := 16 * (vd / 16) + i
        if !pssVerify s.hub.fused.handlerN (img.take n) (numAt img n 384) then (s, vAuth)
        else match tfind s.hub.handlers key with
          | some e => (s, if e = d then vDone else vInuse)
          | none => ({ s with hub := { s.hub with handlers := tset s.hub.handlers key d } }, vDone))))

end Sys2Proof.Machine
end

