-- ==== Sys2Proof/Machine/Models.lean ====
section
/-! DEFINITION. Firmware services on libraries, models, sessions and adaptation contracts (R487 to R505, R379). -/

namespace Sys2Proof.Machine

/-! ## Sealed key records (R487 to R489) -/

def policyKind (l : Bytes) : Nat := numAt l 2 1
def kModel : Nat := 1
def kAdapt : Nat := 2
def kSession : Nat := 3
def digestAt (l : Bytes) (o : Nat) : BitVec 256 := BitVec.ofNat 256 (numAt l o 32)

/-- The reserved bytes, counts and KIND of a policy record (R488). -/
def policyOk (l : Bytes) : Bool :=
  let kind := policyKind l
  let nfw := numAt l 3 1
  let nlib := numAt l 4 1
  numAt l 0 2 == 1 && decide (1 ≤ kind ∧ kind ≤ 3) && decide (1 ≤ nfw ∧ nfw ≤ 4) &&
  (if kind = kAdapt then nlib == 0 else decide (1 ≤ nlib ∧ nlib ≤ 8)) && decide (numAt l 5 1 < 4) &&
  (if kind = kAdapt then decide (numAt l 6 2 ≤ 255) else numAt l 6 4 == 0) && numAt l 10 6 == 0 &&
  (kind != kModel || numAt l 48 32 == 0) && numAt l (80 + 32 * nfw) (32 * (4 - nfw)) == 0 &&
  numAt l (208 + 32 * nlib) (32 * (8 - nlib)) == 0 && (kind != kSession || numAt l 464 32 == 0) && numAt l 496 16 == 0

/-- The checks of R489 up to the service's own; k is given the policy record and the unwrapped key. -/
def withRecord (s : State) (cid vd : Nat) (v : Vd) (va : Nat) (k : State → Bytes → BitVec 256 → State × Nat) : State × Nat :=
  if va % 64 ≠ 0 then (s, vBadDesc)
  else withBytes s cid vd va 1792 (fun s l =>
    let pol := l.take 512
    if !policyOk pol || numAt l 896 4 != 65537 || numAt l 900 124 != 0 then (s, vBadDesc)
    else if digestAt pol 16 ≠ digest (byteSlice l 512 384) || !pssVerify (numAt l 512 384) (l.take 1024) (numAt l 1024 384) then
      (s, vAuth)
    else if (policyFws pol).contains s.hub.fwm = false ∨ v.conf = false then (s, vPolicy)
    else match oaepDecrypt s.hub.fused.wrapN s.hub.fused.wrapD pol (numAt l 1408 384) with
      | none => (s, vAuth)
      | some key => k s pol (BitVec.ofNat 256 (ofBytesLE key)))

/-! ## Libraries (R339, R340, R490, R491) -/

/-- The signer table (R490): the Bexsol library key and the owners of the models loaded. -/
def signers (s : State) : List (BitVec 256) :=
  s.hub.fused.libKey :: s.hub.vds.flatMap (fun e => e.2.models.map (fun m => m.owner))

/-- The fields of a library header. -/
structure LibHead where
  npage : Nat
  pgoff : Nat
  seqoff : Nat
  seqlen : Nat
  sigoff : Nat
deriving DecidableEq, Repr
def libHead (l : Bytes) : LibHead := ⟨numAt l 2 2, numAt l 16 8, numAt l 24 8, numAt l 32 8, numAt l 40 8⟩
/-- A NAME field: ASCII, then zeros. -/
def nameOk (l : Bytes) : Bool := (l.dropWhile (fun b => b != 0)).all (· == 0) && l.all (fun b => decide (b.toNat < 128))
/-- The layout of R339, as far as the header tells. -/
def libHeadOk (l : Bytes) : Bool :=
  let h := libHead l
  nameOk (byteSlice l 48 32) &&
  numAt l 0 2 == 1 && numAt l 4 4 == 0 && numAt l 80 176 == 0 && decide (h.npage ≤ 4096) && h.pgoff % 4096 == 0 && h.seqoff % 64 == 0 &&
  h.sigoff % 64 == 0 && decide (256 + 32 * h.npage ≤ h.pgoff ∧ h.pgoff + 4096 * h.npage ≤ h.seqoff ∧ h.seqoff + h.seqlen ≤ h.sigoff)
/-- The form of a signature block (R340); all zero is the form of an unsigned library. -/
def sigFormOk (b : Bytes) : Bool :=
  ofBytesLE b == 0 || (numAt b 384 4 == 65537 && numAt b 388 60 == 0 && numAt b 832 192 == 0)

/-- LIBLOAD (R491). -/
def execLibload (s : State) : Ans :=
  service 0x8000 s (fun s cid vd _ a =>
    withBlock s cid vd a 8 (fun s blk =>
      let va := numAt blk 0 8
      if va % 4096 ≠ 0 then (s, vBadDesc)
      else withBytes s cid vd va 256 (fun s hd =>
        let h := libHead hd
        if !libHeadOk hd then (s, vBadDesc)
        else withBytes s cid vd va (h.sigoff + 1024) (fun s l =>
          let body := l.take h.sigoff
          let sig := l.drop h.sigoff
          let pages := (List.range h.npage).map (fun i => byteSlice l (h.pgoff + 4096 * i) 4096)
          let ms := (List.range h.npage).map (fun i => digestAt l (256 + 32 * i))
          let lib := digest body
          if !sigFormOk sig then (s, vBadDesc)
          else if (signers s).contains (digest (sig.take 384)) = false || !pssVerify (numAt sig 0 384) body (numAt sig 448 384) then
            (s, vAuth)
          else if ms ≠ pages.map measure then (s, vAuth)
          else if s.hub.libs.any (fun e => e.2 == lib) then (s, vDone)
          else if 65536 < s.hub.libs.length + h.npage then (s, vFull)
          else withOut s cid vd (a.toNat + 8) (digestBytes lib) (fun s put =>
            (put { s with hub := { s.hub with libs := s.hub.libs ++ ms.map (fun m => (m, lib)) } }, vDone))))))

/-! ## Weight packages (R494, R495) -/

/-- What the block of R495 names. -/
structure Install where
  pkg : Nat
  n : Nat
  dest : Nat
  slot : Nat
deriving DecidableEq, Repr
def installOf (l : Bytes) : Install := ⟨numAt l 8 8, numAt l 16 8, numAt l 24 8, numAt l 32 8⟩

/-- A chunk's plaintext under the model data key, where its tag holds (R494). -/
def openChunk (key : BitVec 256) (i : Nat) (c : Bytes) : Option Bytes :=
  let nonce := bytesLE 12 i
  let ct := c.take 65536
  if gcmTag key nonce [] ct = c.drop 65536 then some (gcmCrypt key nonce ct) else none
/-- Every chunk's plaintext; none where a tag fails. -/
def openPackage (key : BitVec 256) (n : Nat) (l : Bytes) : Option (List Bytes) :=
  (List.range n).mapM (fun i => openChunk key i (byteSlice l (65552 * i) 65552))

/-- Bytes written through a slot at the frames of a list of pages of this package, each with its integrity tags (R484). -/
def putPages (slot : Nat) : List (Nat × Nat) → State → Bytes → State
  | [], s, _ => s
  | p :: r, s, l => putPages slot r (writeTags (devWrite s p.1 slot (l.take 4096)) (p.1 % 2 ^ 44) slot 8) (l.drop 4096)

/-- The checks and the installation of R495; book records the installed weights and their units in a state whose slot and locks are
set. -/
def installWeights (s : State) (cid vd : Nat) (v : Vd) (x : Install) (pol : Bytes) (key : BitVec 256) (libs : List (BitVec 256))
    (book : State → List Nat → State) : State × Nat :=
  withBytes s cid vd x.pkg (65552 * x.n) (fun s l =>
    if digest l ≠ digestAt pol 464 then (s, vPolicy)
    else if !slotFree s v x.slot then (s, vKey)
    else match rawPages s v x.dest (65536 * x.n) with
      | none => (s, vPage)
      | some ps =>
        let us := (ps.map (fun p => unitOf p.1)).eraseDups
        let bound := s.hub.slots.filter (fun e => e.2.kind == .session && e.2.vd == vd)
        if !ps.all (fun p => ownUnit s v p.1 && eOpo p.2 && eKslot p.2 == x.slot) then (s, vPage)
        else if !us.all (unitOpen s) then (s, vInuse)
        else if wbTouches s vd v us then (s, vBusy)
        else if bound.any (fun e => libs.any (fun d => !(policyLibs e.2.policy).contains d)) then (s, vPolicy)
        else
          let (k, s) := drawKey s
          let t := (setLocks (dropUnits s us) us (some (lockWord 2 vd))).setSlot x.slot { kind := .operand, key := k, vd := vd, policy := pol }
          match openPackage key x.n l with
          | none => (zeroUnits s us, vTagFail)
          | some cs => (book (putPages x.slot ps t cs.flatten) us, vDone))

/-- The model of a base measurement in a virtual device. -/
def modelOf (v : Vd) (base : BitVec 256) : Option Model := v.models.find? (fun m => m.base == base)
def setModel (v : Vd) (base : BitVec 256) (f : Model → Model) : Vd := { v with models := v.models.map (fun m => if m.base = base then f m else m) }

/-- MODELLOAD (R495). -/
def execModelload (s : State) : Ans :=
  service 0x8001 s (fun s cid vd v a =>
    withBlock s cid vd a 40 (fun s l =>
      let x := installOf l
      if x.dest % unitBytes ≠ 0 then (s, vBadDesc)
      else withRecord s cid vd v (numAt l 0 8) (fun s pol key =>
        if policyKind pol ≠ kModel then (s, vPolicy)
        else
          let base := digest pol
          let m := fun (us : List Nat) => (⟨base, digestAt pol 16, policyLibs pol, x.slot, us, false, []⟩ : Model)
          withOut s cid vd (a.toNat + 40) (digestBytes base) (fun s put =>
            match installWeights s cid vd v x pol key (policyLibs pol)
              (fun s us => s.modVd vd (fun v => { v with models := v.models ++ [m us] })) with
            | (s, n) => (if n = vDone then put s else s, n)))))

/-- A slot and units of installed weights freed (R496). -/
def freeWeights (s : State) (slot : Nat) (us : List Nat) : State := setLocks (zeroUnits (s.setSlot slot {}) us) us none
def Adapter.slot (x : Adapter) : Nat := bits x.entry.toNat 0 12
/-- Every model of a base: R495 refuses no second load of one. -/
def modelsOf (v : Vd) (base : BitVec 256) : List Model := v.models.filter (fun m => m.base == base)
/-- The models of a base freed with the adaptations claimed on them (R496). -/
def freeBase (s : State) (vd : Nat) (v : Vd) (base : BitVec 256) : State :=
  ((modelsOf v base).foldl (fun s m => freeWeights (m.adapters.foldl (fun s e => freeWeights s e.2.slot e.2.units) s) m.slot m.units) s).modVd vd
    (fun v => { v with models := v.models.filter (fun x => x.base != base) })

/-- Whether a session bound to a base is open. -/
def sessionOn (s : State) (vd : Nat) (base : BitVec 256) : Bool :=
  s.hub.slots.any (fun e => e.2.kind == .session && e.2.vd == vd && digestAt e.2.policy 48 == base)
/-- Units of the models of a base and of their adaptations. -/
def baseUnits (v : Vd) (base : BitVec 256) : List Nat :=
  (modelsOf v base).flatMap (fun m => m.units ++ m.adapters.flatMap (fun e => e.2.units))
/-- R496 applied to a base: its models freed, or marked RETIRING. -/
def retireBase (s : State) (vd : Nat) (v : Vd) (base : BitVec 256) : State :=
  if sessionOn s vd base || wbTouches s vd v (baseUnits v base) then
    s.modVd vd (fun v => setModel v base (fun m => { m with retiring := true }))
  else freeBase s vd v base

/-- MODELFREE (R496). -/
def execModelfree (s : State) : Ans :=
  service 0x8002 s (fun s cid vd v a =>
    withBlock s cid vd a 32 (fun s l =>
      match modelOf v (digestAt l 0) with
      | none => (s, vPolicy)
      | some m => (retireBase s vd v m.base, vDone)))

/-! ## Sessions (R497 to R502) -/

/-- A request nonce (R497). -/
def requestNonce (x : KeySlot) : Bytes := bytesLE 12 (x.sid * 2 ^ 64 + 2 ^ 63 + x.ctr % 2 ^ 63)
/-- The additional data of a request or reply. -/
def sessionAad (nonce : Bytes) (n : Nat) : Bytes := nonce ++ bytesLE 4 n
def isSession (s : State) (v : Vd) (vd n : Nat) : Bool := slotInRange v n && (s.slot n).kind == .session && (s.slot n).vd == vd
/-- A usage counter advanced (R507). -/
def addUsage (s : State) (vd i n : Nat) : State :=
  s.modVd vd (fun v => { v with usage := v.usage.set i (v.usage.getD i 0 + BitVec.ofNat 64 n) })

/-- SESSOPEN (R498). -/
def execSessopen (s : State) : Ans :=
  service 0x0110 s (fun s cid vd v a =>
    withBlock s cid vd a 32 (fun s l =>
      let n := numAt l 8 8
      let rb := numAt l 16 8
      let rl := numAt l 24 8
      if rb % 32 ≠ 0 ∨ rl % 32 ≠ 0 ∨ 2 ^ 26 < rl then (s, vBadDesc)
      else withRecord s cid vd v (numAt l 0 8) (fun s pol key =>
        let live := match modelOf v (digestAt pol 48) with | some m => !m.retiring | none => false
        if policyKind pol ≠ kSession ∨ live = false ∨ (admission v).any (fun d => !(policyLibs pol).contains d) then (s, vPolicy)
        else if !slotFree s v n then (s, vKey)
        else if !framesAll s v rb rl (fun pa e => unitOpen s (unitOf pa) && !eOpo e && !eConf e) then (s, vPage)
        else if 2 ^ 32 ≤ s.hub.sidNext then (s, vFull)
        else
          let sid := s.hub.sidNext
          withOut s cid vd (a.toNat + 40) (bytesLE 8 sid) (fun s put =>
            let s := { s with hub := { s.hub with sidNext := sid + 1 } }
            (put (s.setSlot n { kind := .session, key := key, vd := vd, policy := pol, sid := sid, rbase := rb, rlen := rl }), vDone)))))

/-- REQOPEN (R499). -/
def execReqopen (s : State) : Ans :=
  service 0x0111 s (fun s cid vd v a =>
    withBlock s cid vd a 40 (fun s l =>
      let n := numAt l 0 8
      let blob := numAt l 8 8
      let len := numAt l 16 8
      let dest := numAt l 24 8
      let x := s.slot n
      if 2 ^ 20 < len then (s, vBadDesc)
      else if !isSession s v vd n then (s, vKey)
      else if numAt l 32 8 ≠ x.ctr then (s, vStale)
      else if !framesAll s v blob (len + 16) (fun pa _ => unitOpen s (unitOf pa)) ||
              !framesAll s v dest len (fun pa _ => lockOf s (unitOf pa) == (lockWord 1 vd).toNat) then (s, vPage)
      else withBytes s cid vd blob (len + 16) (fun s b =>
        let c := b.take len
        let nonce := requestNonce x
        if gcmTag x.key nonce (sessionAad nonce len) c ≠ b.drop len then (s, vTagFail)
        else withOut s cid vd dest (gcmCrypt x.key nonce c) (fun s put =>
          (addUsage ((put s).setSlot n { x with ctr := x.ctr + 1 }) vd 0 len, vDone)))))

/-- Whether a placed region of a virtual device seals its stores under a slot (R501). -/
def sealsUnder (s : State) (vd n : Nat) : Bool :=
  s.planes.any (fun e => e.2.vd == vd && e.2.page.en 9 && e.2.page.f 9 11 1 == 1 && e.2.page.f 9 192 12 == n)

/-- REPLYSEAL (R501). -/
def execReplyseal (s : State) : Ans :=
  service 0x0112 s (fun s cid vd v a =>
    withBlock s cid vd a 16 (fun s l =>
      let n := numAt l 0 8
      let len := numAt l 8 8
      let x := s.slot n
      if len % 32 ≠ 0 then (s, vBadDesc)
      else if !isSession s v vd n then (s, vKey)
      else if x.rlen < len then (s, vBadDesc)
      else if sealsUnder s vd n then (s, vBusy)
      else withBytes s cid vd x.rbase len (fun s c =>
        let nonce := replyNonce x
        withOut s cid vd (a.toNat + 16) (gcmTag x.key nonce (sessionAad nonce len) c ++ bytesLE 8 x.rp) (fun s put =>
          (addUsage ((put s).setSlot n { x with rp := x.rp + 1 }) vd 1 len, vDone)))))

/-- SESSCLOSE (R502): with its last session a RETIRING model is freed (R496, R513). -/
def execSessclose (s : State) : Ans :=
  service 0x0113 s (fun s cid vd v a =>
    withBlock s cid vd a 8 (fun s l =>
      let n := numAt l 0 8
      if !isSession s v vd n then (s, vKey)
      else if sealsUnder s vd n then (s, vBusy)
      else
        let base := digestAt (s.slot n).policy 48
        let s := s.setSlot n {}
        match modelOf v base with
        | some m => (if m.retiring && !sessionOn s vd base then freeBase s vd v base else s, vDone)
        | none => (s, vDone)))

/-! ## Adaptation contracts (R503 to R505) -/

/-- The entry of a claimed slot (R503). -/
def adapterEntry (st expert slot : Nat) : Word := BitVec.ofNat 64 (pack [(62, 2, st), (32, 16, expert), (0, 12, slot)])
def Adapter.st (x : Adapter) : Nat := bits x.entry.toNat 62 2
def Adapter.expert (x : Adapter) : Nat := bits x.entry.toNat 32 16

/-- ADAPTCLAIM (R504). -/
def execAdaptclaim (s : State) : Ans :=
  service 0x8003 s (fun s cid vd v a =>
    withBlock s cid vd a 40 (fun s l =>
      let x := installOf l
      if x.dest % unitBytes ≠ 0 then (s, vBadDesc)
      else withRecord s cid vd v (numAt l 0 8) (fun s pol key =>
        let owner := digestAt pol 16
        let contract := digest pol
        let slot := numAt pol 6 2
        let expert := numAt pol 8 2
        let base := digestAt pol 48
        match (if policyKind pol = kAdapt then modelOf v base else none) with
        | none => (s, vPolicy)
        | some m =>
          if m.retiring then (s, vPolicy)
          else match tfind m.adapters slot with
            | some y => (s, if y.st = 1 ∧ y.contract = contract ∧ y.owner = owner then vDone else vTaken)
            | none =>
              if expert ≠ 65535 ∧ m.adapters.any (fun e => e.2.st == 1 && e.2.expert == expert && e.2.owner != owner) then (s, vTaken)
              else installWeights s cid vd v x pol key [] (fun s us => s.modVd vd (fun v => setModel v base (fun m =>
                { m with adapters := tset m.adapters slot { entry := adapterEntry 1 expert x.slot, owner := owner, contract := contract, units := us } }))))))

/-- Whether a waybill is not yet retired (R379). -/
def wbUnretired (s : State) (vd : Nat) (k : Nat × Nat) : Bool := (openWbs s vd).any (fun w => w.cid == k.1 && w.num == k.2)
/-- Released adapter slots of a model freed once the waybills that ran at the release have retired. -/
def reapModel (s : State) (vd : Nat) (m : Model) : State :=
  m.adapters.foldl (fun s e =>
    if e.2.st = 2 ∧ e.2.waits.any (wbUnretired s vd) = false then
      (freeWeights s e.2.slot e.2.units).modVd vd (fun v => setModel v m.base (fun m => { m with adapters := tdel m.adapters e.1 }))
    else s) s
/-- A RETIRING model that no session keeps, only a waybill when it was marked, freed once no waybill's extent touches it (log entry 45). -/
def reapBase (s : State) (vd : Nat) (m : Model) : State :=
  match s.vd? vd with
  | none => s
  | some v =>
    if m.retiring && (modelOf v m.base).isSome && !sessionOn s vd m.base && !wbTouches s vd v (baseUnits v m.base) then freeBase s vd v m.base else s
/-- Every released adapter slot and every RETIRING model that is due freed. -/
def reapAdapters (s : State) : State :=
  s.hub.vds.foldl (fun s e => e.2.models.foldl (fun s m => reapBase (reapModel s e.1 m) e.1 m) s) s

/-- ADAPTFREE (R504). -/
def execAdaptfree (s : State) : Ans :=
  service 0x8004 s (fun s cid vd v a =>
    withBlock s cid vd a 40 (fun s l =>
      let base := digestAt l 0
      let slot := numAt l 32 8
      if 256 ≤ slot then (s, vBadDesc)
      else match modelOf v base with
        | none => (s, vPolicy)
        | some m => match tfind m.adapters slot with
          | none => (s, vPolicy)
          | some y =>
            if y.st = 2 then (s, vDone)
            else
              let y := { y with entry := adapterEntry 2 y.expert y.slot, waits := (openWbs s vd).map (fun w => (w.cid, w.num)) }
              (reapAdapters (s.modVd vd (fun v => setModel v base (fun m => { m with adapters := tset m.adapters slot y }))), vDone)))

/-- ADPTABLE (R505). -/
def execAdptable (s : State) : Ans :=
  service 0x0130 s (fun s cid vd v a =>
    withBlock s cid vd a 40 (fun s l =>
      let buf := numAt l 32 8
      if buf % 64 ≠ 0 then (s, vBadDesc)
      else match modelOf v (digestAt l 0) with
        | none => (s, vPolicy)
        | some m =>
          let tab := (List.range 256).flatMap (fun i => bytesLE 8 (match tfind m.adapters i with | some y => y.entry.toNat | none => 0))
          withOut s cid vd buf tab (fun s put => (put s, vDone))))

end Sys2Proof.Machine
end

