-- ==== Sys2Proof/Machine/World.lean ====
section
/-! DEFINITION. The package as a whole and the world around it: bring-up (R434, R482, R509), the companion's accesses (R435, R438),
board links (R459, R509 to R511), temperatures (R517) and the management interface (R515, R516, R518). -/

namespace Sys2Proof.Machine

/-! ## Board links -/

def lDown : Nat := 0
def lTrain : Nat := 1
def lAuth : Nat := 2
def lUp : Nat := 3
def lFailed : Nat := 4

def State.link (s : State) (i : Nat) : Link := s.hub.links.getD i {}
/-- A link changed; a new ST is logged (R515). -/
def setLink (s : State) (i : Nat) (x : Link) : State :=
  let old := (s.link i).st
  let s := { s with hub := { s.hub with links := s.hub.links.set i x } }
  if x.st = old then s else addLog s 5 i 0 0 x.st
/-- The position expected at the other end of a link (R509). -/
def expectedPeer (pos : BitVec 8) (i : Nat) : BitVec 8 :=
  let x := pos.toNat % 16
  let y := pos.toNat / 16
  let at_ := fun (a b : Nat) => BitVec.ofNat 8 (a % 16 + 16 * (b % 16))
  match i / 4 with
  | 0 => at_ x (y + 15)
  | 1 => at_ (x + 1) y
  | 2 => at_ x (y + 1)
  | _ => at_ (x + 15) y
/-- Training begun on a link: it stays DOWN with no position set or where its cable leads nowhere, which is a free choice. -/
def trainLink (s : State) (i : Nat) : State :=
  let (n, s) := s.draw
  let st := if s.hub.posSet && Config.freePick n % 2 == 0 then lTrain else lDown
  setLink s i { s.link i with st := st, peer := 0, fails := 0, policy := podPolicy s }
def linkBusy (x : Link) : Bool := x.st == lTrain || x.st == lAuth
/-- The hub page opens once no link trains (R434 steps 4 and 5). -/
def openHub (s : State) : State := if !s.hub.booted || s.hub.links.any linkBusy then s else { s with hub := { s.hub with up := true } }
/-- Whether bring-up has passed step 3 (R434). -/
def axanoUp (s : State) : Bool := s.hub.booted && (s.hub.up || s.hub.links.any linkBusy)
/-- What only firmware does is not done where the boot ROM has accepted no image (R434, R482). -/
def firmwareDoes (s : State) (a : Ans) : Ans := if s.hub.booted then a else .next s

/-- LINK_TRAINED (R510). -/
def execLinkTrained (link : Fin 16) (s : State) : Ans :=
  let x := s.link link.val
  firmwareDoes s (.next (if x.st = lTrain then setLink s link.val { x with st := lAuth } else s))

/-- LINK_AUTH_DONE (R510). -/
def execLinkAuthDone (link : Fin 16) (peer : LinkPeer) (s : State) : Ans :=
  let x := s.link link.val
  let ok := peer.chainOk && x.policy.contains peer.fwm && peer.pos == expectedPeer s.hub.pos link.val
  firmwareDoes s (.next (if x.st = lAuth then
      openHub (setLink s link.val (if ok then { x with st := lUp, peer := peer.pos } else { x with st := lFailed }))
    else s))

/-- LINK_TAG_FAIL (R511): whether it is a failure of the group that failed last is a free choice. -/
def execLinkTagFail (link : Fin 16) (s : State) : Ans :=
  let x := s.link link.val
  if x.st ≠ lUp then .next s
  else
    let (n, s) := s.draw
    let fails := if Config.freePick n % 2 = 0 then x.fails + 1 else 1
    .next (setLink s link.val { x with errs := min (x.errs + 1) (2 ^ 32 - 1), fails := fails, st := if 3 ≤ fails then lFailed else lUp })

/-- LINK_DOWN (R459). -/
def execLinkDown (link : Fin 16) (s : State) : Ans :=
  let x := s.link link.val
  .next (if x.st = lUp then setLink s link.val { x with st := lDown, peer := 0 } else s)

/-! ## Bring-up -/

/-- Units that RETCLEAR named, re-tested (R516): one is re-admitted if its tests pass; each logged. Banks are 2048 + their number. -/
def retest (passed : List Nat) (s : State) : State :=
  let s := s.hub.retclear.foldl (fun s k =>
    let t := if k < 2048 then k else clusterTile ((k - 2048) / 16)
    addLog s 4 0 (if k < 2048 then faY s t else 0) (if k < 2048 then faX s t else 0) 0) s
  let h := s.hub
  let back := fun (k : Nat) => h.retclear.contains k && passed.contains k
  { s with hub := { h with
      retiredTiles := h.retiredTiles.filter (fun t => !back t)
      retiredBanks := h.retiredBanks.filter (fun b => !back (2048 + b))
      retclear := [] } }

/-- The boot ROM's test of an image (R482): its key's modulus has the fused digest, its signature verifies, its SVN is no less than the
fused minimum. -/
def imageAccepted (s : State) (img : BootImage) : Bool :=
  let u := s.hub.fused
  digest (bytesLE 384 img.modulus) == u.fwKey && pssVerify img.modulus img.bytes img.sig && decide (u.minSvn ≤ img.svn)

/-- COLD_RESET (R434): with no image accepted the hub page never opens (R482). What the key store, the board controller and the world
keep stays: position, policy, HCTR, the event log, retired units, checkpoint images, companion memory, what has gone out. -/
def execColdReset (img : BootImage) (s : State) : Ans :=
  let h := s.hub
  let (n, s) := s.draw
  let ok := imageAccepted s img
  let s := { s with
    cur := {}, mem := [], bad := [], soft := [], l2 := [], dir := [], fbad := [], tags := [], net := [], power := [], planes := [], ctxs := [], clusters := [], dies := []
    hub := { Hub.reset with
      fused := h.fused, up := false, booted := ok, fwm := if ok then digest img.bytes else 0, svn := if ok then img.svn else 0,
      pos := h.posNext.getD 0, posSet := h.posNext.isSome, posNext := h.posNext,
      policy := h.policy, slots := [(0, { kind := .open, key := Config.freeBits 256 n })], log := h.log, logCtr := h.logCtr, hctr := h.hctr,
      retiredTiles := h.retiredTiles, retiredBanks := h.retiredBanks, retclear := h.retclear, ckpt := h.ckpt } }
  .next (if ok then openHub ((List.range 16).foldl trainLink (retest img.passed s)) else s)

/-! ## The companion (R435, R438) -/

def unitLocked (s : State) (off : Nat) : Bool := lockState (lockOf s (off / unitBytes)) != 0
/-- The bytes of an access of len bytes at off that lie within its first sector: what one turn performs (R294). -/
def pieceLen (off len : Nat) : Nat := min (32 - off % 32) len
/-- The event of a piece of k bytes at off, with len to go: one entry for a run of locked units, at its last piece (log entry 68). -/
def logLocked (s : State) (off k len : Nat) : State :=
  if unitLocked s off && (len == k || !unitLocked s (off + k)) then addLog s 2 0 0 0 0 else s
def Turn.companion : Turn → Bool
  | .event (.companionRead _ _) | .event (.companionWrite _ _) => true
  | _ => false
/-- A turn put ahead of the next access of the companion, behind all others. -/
def putAhead (x : Turn) : List Turn → List Turn
  | [] => [x]
  | t :: r => if t.companion then x :: t :: r else t :: putAhead x r
/-- What is left of a companion access after a piece, a turn of its own: accesses of other agents may come between (R294), none of the
companion's (R323). -/
def thenRest (left : Nat) (i : Instr) (s : State) : State :=
  if left = 0 then s else { s with agenda := putAhead (.event i) s.agenda }
/-- A piece of a companion write performed at the home (R323); the companion's own copy of the line stands. -/
def companionPut (s : State) (off : Nat) (l : Bytes) : State :=
  let lo := off % 32
  homeWrite s (off - lo) ((2 ^ l.length - 1) * 2 ^ lo) (ofBytesLE l * 2 ^ (8 * lo)) 0

/-- COMPANION_READ: all ones from a locked unit; free bytes from a sector that fails its check. The directory tracks the line (R435). -/
def execCompanionRead (off len : Nat) (s : State) : Ans :=
  if !axanoUp s then .next s
  else if hbmBytes < off + len then .fault (.noMemory off)
  else
    let k := pieceLen off len
    let o := off / 32 * 32
    let (n, s) := s.draw
    let (t, out) :=
      if unitLocked s off then (s, List.replicate k 0xFF)
      else
        let t := correct (touchLine s o) o
        ({ t with dir := (t.dir ++ [off / 128]).eraseDups },
          if s.bad.contains o then (List.range k).map (fun i => Config.freeByte n (off + i)) else mreadBytes s.mem off k)
    .next (thenRest (len - k) (.companionRead (off + k) (len - k)) ((logLocked t off k len).emit (.companionData out)))

/-- COMPANION_WRITE: performed at the home (R323); discarded for a locked unit. -/
def execCompanionWrite (off : Nat) (data : List (BitVec 8)) (s : State) : Ans :=
  if !axanoUp s then .next s
  else if hbmBytes < off + data.length then .fault (.noMemory off)
  else
    let k := pieceLen off data.length
    let t := if unitLocked s off || k == 0 then s else companionPut s off (data.take k)
    .next (thenRest (data.length - k) (.companionWrite (off + k) (data.drop k)) (logLocked t off k data.length))

/-! ## Temperature (R517) -/

/-- THERMAL_ALARM. -/
def execThermalAlarm (_die : Fin 5) (temp : BitVec 8) (s : State) : Ans :=
  firmwareDoes s <| .next (if 105 < temp.toNat then addLog s 6 0 0 0 temp.toNat else s)

/-- THERMAL_TRIP: every partition reset, every tile power-gated until the junctions have cooled. A tile on its way up stays gated, and the
TPOWER that asked for it ends with BUSY, having changed nothing (log entry 52); one on its way down goes on. -/
def execThermalTrip (die : Fin 5) (temp : BitVec 8) (s : State) : Ans :=
  if temp.toNat < 115 then .next s
  else
    let s := (s.hub.parts.map (·.1)).foldl partitionReset s
    let s := s.power.foldl (fun s e => match e.2 with | .up pa => endCmd s pa cBusy none | _ => s) s
    let goes := fun (x : Power) => match x with | .down _ => true | _ => false
    .next { s with power := s.power.filter (fun e => goes e.2), hub := { s.hub with hot := (die.val :: s.hub.hot).eraseDups } }

/-! ## Management messages (R518) -/

/-- The answer to a management message, which firmware gives. -/
def answer (s : State) (status : Nat) (data : Bytes) : Ans := .next (s.emit (.mgmt (BitVec.ofNat 8 status) data))
def mDone : Nat := 0
def mBusy : Nat := 1
def mMalformed : Nat := 2

/-- The request that the bytes of a management message make; none where they are malformed: an unknown command, or data of another
length or count than the table gives. -/
def messageInstr : Bytes → Option Instr
  | [] => none
  | c :: d =>
    match c.toNat with
    | 1 => if d.length = 1 then some (.posset (d.getD 0 0)) else none
    | 2 =>
      let n := (d.getD 0 0).toNat
      if 1 ≤ n ∧ n ≤ 4 ∧ d.length = 1 + 32 * n then
        some (.podpol ((List.range n).map (fun i => BitVec.ofNat 256 (numAt d (1 + 32 * i) 32))))
      else none
    | 3 => if d.length = 2 then some (.lnktrain (BitVec.ofNat 16 (numAt d 0 2))) else none
    | 4 => if d.length = 4 then some (.evread (BitVec.ofNat 32 (numAt d 0 4))) else none
    | 5 =>
      if d.length = 7 ∧ numAt d 0 1 ≤ 1 then
        some (.retclear (numAt d 0 1 == 1) (BitVec.ofNat 16 (numAt d 1 2)) (BitVec.ofNat 16 (numAt d 3 2)) (BitVec.ofNat 16 (numAt d 5 2)))
      else none
    | 6 => if d.length = 0 then some .temprd else none
    | _ => none
/-- What becomes of a message of the board controller: ended, a request to run, or SPDM attestation. -/
inductive Heard where
  | ended (s : State)
  | run (s : State) (i : Instr)
  | spdm (s : State) (req : Bytes)
deriving DecidableEq, Repr
/-- A message by its MCTP type: 0x05 SPDM, 0x7F a management message. DESIGN CHOICE (log entry 53): no rule says when the hub is busy,
which is a free choice. -/
def hearMessage (s : State) (ty : Nat) (l : Bytes) : Heard :=
  if !s.hub.booted then .ended s
  else if ty = 0x05 then .spdm s l
  else if ty ≠ 0x7F then .ended s
  else
    let (n, s) := s.draw
    if Config.freePick n % 2 = 1 then .ended (s.emit (.mgmt (BitVec.ofNat 8 mBusy) []))
    else match messageInstr l with
      | some i => .run s i
      | none => .ended (s.emit (.mgmt (BitVec.ofNat 8 mMalformed) []))

/-- POSSET (R509): it holds from the next cold reset. -/
def execPosset (pos : BitVec 8) (s : State) : Ans := firmwareDoes s <| answer { s with hub := { s.hub with posNext := some pos } } mDone []

/-- PODPOL (R511). -/
def execPodpol (fwms : List (BitVec 256)) (s : State) : Ans :=
  firmwareDoes s <| if fwms = [] ∨ 4 < fwms.length then answer s mMalformed []
  else answer { s with hub := { s.hub with policy := some fwms } } mDone []

/-- LNKTRAIN (R510). -/
def execLnktrain (mask : BitVec 16) (s : State) : Ans := firmwareDoes s <| answer ((bitsSet 16 mask.toNat).foldl trainLink s) mDone []

/-- EVREAD (R515). -/
def execEvread (ctr : BitVec 32) (s : State) : Ans :=
  let l := (s.hub.log.filter (fun e => decide (ctr.toNat ≤ bits e.toNat 64 32))).take 16
  firmwareDoes s <| answer s mDone (l.flatMap (fun e => bytesLE 16 e.toNat))

/-- RETCLEAR (R516): the bank is one of the cluster of the tile named. -/
def execRetclear (bank : Bool) (tx ty b : BitVec 16) (s : State) : Ans :=
  firmwareDoes s <| match tileAt s tx.toNat ty.toNat with
  | none => answer s mMalformed []
  | some t =>
    let i := 16 * tileCluster t + b.toNat
    let known := if bank then decide (b.toNat < 16) && s.hub.retiredBanks.contains i else s.hub.retiredTiles.contains t
    let k := if bank then 2048 + i else t
    if known then answer { s with hub := { s.hub with retclear := (s.hub.retclear ++ [k]).eraseDups } } mDone []
    else answer s mMalformed []

/-- TEMPRD (R518). -/
def execTemprd (s : State) : Ans :=
  let (n, t) := s.draw
  firmwareDoes s <| answer t mDone ((List.range 5).map (fun d => Config.junction n (Fin.ofNat 5 d)))

/-- SPDM_ATTESTATION (R518): the hub's answer, whose bytes DSP0275 governs, is a free value. -/
def execSpdmAttestation (req : List (BitVec 8)) (s : State) : Ans :=
  let (n, t) := s.draw
  firmwareDoes s (.next (t.emit (.spdm (Config.spdmAnswer n req))))

end Sys2Proof.Machine
end

