-- ==== Sys2Proof/Machine/Dispatch.lean ====
section
/-! DEFINITION. One arm per row of the opcode table: each calls the one meaning of its row. -/

namespace Sys2Proof.Machine

/-- The meaning of an instruction or event in a state. -/
def exec (i : Instr) (s : State) : Host.Outcome State Fault Refusal :=
  match i with
  | .elemNop f => Sys2Proof.Machine.execElemNop f s
  | .elemPass f => Sys2Proof.Machine.execElemPass f s
  | .elemNullt f => Sys2Proof.Machine.execElemNullt f s
  | .elemTags f m => Sys2Proof.Machine.execElemTags f m s
  | .elemPtst f => Sys2Proof.Machine.execElemPtst f s
  | .elemPsn f => Sys2Proof.Machine.execElemPsn f s
  | .elemTrapi f => Sys2Proof.Machine.execElemTrapi f s
  | .elemHalt f => Sys2Proof.Machine.execElemHalt f s
  | .elemAdd f t => Sys2Proof.Machine.execElemAdd f t s
  | .elemSub f t => Sys2Proof.Machine.execElemSub f t s
  | .elemMul f t => Sys2Proof.Machine.execElemMul f t s
  | .elemMulh f t => Sys2Proof.Machine.execElemMulh f t s
  | .elemMad f t => Sys2Proof.Machine.execElemMad f t s
  | .elemMin f t => Sys2Proof.Machine.execElemMin f t s
  | .elemMax f t => Sys2Proof.Machine.execElemMax f t s
  | .elemAbs f t => Sys2Proof.Machine.execElemAbs f t s
  | .elemAnd f => Sys2Proof.Machine.execElemAnd f s
  | .elemOr f => Sys2Proof.Machine.execElemOr f s
  | .elemXor f => Sys2Proof.Machine.execElemXor f s
  | .elemAndn f => Sys2Proof.Machine.execElemAndn f s
  | .elemShl f t => Sys2Proof.Machine.execElemShl f t s
  | .elemShr f t => Sys2Proof.Machine.execElemShr f t s
  | .elemSar f t => Sys2Proof.Machine.execElemSar f t s
  | .elemRot f t => Sys2Proof.Machine.execElemRot f t s
  | .elemClz f t => Sys2Proof.Machine.execElemClz f t s
  | .elemPopc f t => Sys2Proof.Machine.execElemPopc f t s
  | .elemClmul f t => Sys2Proof.Machine.execElemClmul f t s
  | .elemSel f t => Sys2Proof.Machine.execElemSel f t s
  | .elemMov f => Sys2Proof.Machine.execElemMov f s
  | .elemShuf f t => Sys2Proof.Machine.execElemShuf f t s
  | .elemBcast f t => Sys2Proof.Machine.execElemBcast f t s
  | .elemCmp f c t => Sys2Proof.Machine.execElemCmp f c t s
  | .elemLred f o t => Sys2Proof.Machine.execElemLred f o t s
  | .elemScan f o t => Sys2Proof.Machine.execElemScan f o t s
  | .elemFadd f t r np => Sys2Proof.Machine.execElemFadd f t r np s
  | .elemFsub f t r np => Sys2Proof.Machine.execElemFsub f t r np s
  | .elemFmul f t r np => Sys2Proof.Machine.execElemFmul f t r np s
  | .elemFfma f t r np => Sys2Proof.Machine.execElemFfma f t r np s
  | .elemFmin f t np => Sys2Proof.Machine.execElemFmin f t np s
  | .elemFmax f t np => Sys2Proof.Machine.execElemFmax f t np s
  | .elemFcmp f c t np => Sys2Proof.Machine.execElemFcmp f c t np s
  | .elemFdiv f t r np => Sys2Proof.Machine.execElemFdiv f t r np s
  | .elemFsqrt f t r np => Sys2Proof.Machine.execElemFsqrt f t r np s
  | .elemFrcp f t np => Sys2Proof.Machine.execElemFrcp f t np s
  | .elemFrsq f t np => Sys2Proof.Machine.execElemFrsq f t np s
  | .elemFexp2 f t np => Sys2Proof.Machine.execElemFexp2 f t np s
  | .elemFlog2 f t np => Sys2Proof.Machine.execElemFlog2 f t np s
  | .elemCvt f td ts r sat => Sys2Proof.Machine.execElemCvt f td ts r sat s
  | .elemPack f td ts r sat => Sys2Proof.Machine.execElemPack f td ts r sat s
  | .elemUnpk f td ts => Sys2Proof.Machine.execElemUnpk f td ts s
  | .elemLd f sh => Sys2Proof.Machine.execElemLd f sh s
  | .elemSt f sh => Sys2Proof.Machine.execElemSt f sh s
  | .elemLda f sc => Sys2Proof.Machine.execElemLda f sc s
  | .elemStl f sc => Sys2Proof.Machine.execElemStl f sc s
  | .elemAmo f h => Sys2Proof.Machine.execElemAmo f h s
  | .elemVamo f wide => Sys2Proof.Machine.execElemVamo f wide s
  | .elemCst f sc => Sys2Proof.Machine.execElemCst f sc s
  | .elemLdst f => Sys2Proof.Machine.execElemLdst f s
  | .elemLdcb f => Sys2Proof.Machine.execElemLdcb f s
  | .elemSwapw f => Sys2Proof.Machine.execElemSwapw f s
  | .elemMma f zs tor => Sys2Proof.Machine.execElemMma f zs tor s
  | .elemAcca f t => Sys2Proof.Machine.execElemAcca f t s
  | .elemAccd f t => Sys2Proof.Machine.execElemAccd f t s
  | .elemAccz f => Sys2Proof.Machine.execElemAccz f s
  | .elemAccs f => Sys2Proof.Machine.execElemAccs f s
  | .elemAccl f => Sys2Proof.Machine.execElemAccl f s
  | .pipelinedResult pl k => Sys2Proof.Machine.execPipelinedResult pl k s
  | .accOperation pl k => Sys2Proof.Machine.execAccOperation pl k s
  | .tokenArrive k => Sys2Proof.Machine.execTokenArrive k s
  | .tileWake tile => Sys2Proof.Machine.execTileWake tile s
  | .knotTake pl unit => Sys2Proof.Machine.execKnotTake pl unit s
  | .backEdgeKnotDiscard pl unit ch => Sys2Proof.Machine.execBackEdgeKnotDiscard pl unit ch s
  | .knotCommit pl => Sys2Proof.Machine.execKnotCommit pl s
  | .implicitKnot pl => Sys2Proof.Machine.execImplicitKnot pl s
  | .drainTake pl unit => Sys2Proof.Machine.execDrainTake pl unit s
  | .lateTokenDiscard pl unit ch => Sys2Proof.Machine.execLateTokenDiscard pl unit ch s
  | .openSourceDrain pl unit => Sys2Proof.Machine.execOpenSourceDrain pl unit s
  | .regionRollback pl => Sys2Proof.Machine.execRegionRollback pl s
  | .weightRefill pl elem => Sys2Proof.Machine.execWeightRefill pl elem s
  | .assayComplete tile r => Sys2Proof.Machine.execAssayComplete tile r s
  | .markerArrival pl unit ch => Sys2Proof.Machine.execMarkerArrival pl unit ch s
  | .idleReport pl => Sys2Proof.Machine.execIdleReport pl s
  | .agenStep pl => Sys2Proof.Machine.execAgenStep pl s
  | .mifRequestTake pl => Sys2Proof.Machine.execMifRequestTake pl s
  | .mifStreamAccess pl => Sys2Proof.Machine.execMifStreamAccess pl s
  | .memoryReply k => Sys2Proof.Machine.execMemoryReply k s
  | .wportToken pl => Sys2Proof.Machine.execWportToken pl s
  | .steerStep pl => Sys2Proof.Machine.execSteerStep pl s
  | .mergeStep pl => Sys2Proof.Machine.execMergeStep pl s
  | .scaleStep pl => Sys2Proof.Machine.execScaleStep pl s
  | .bflyStep pl => Sys2Proof.Machine.execBflyStep pl s
  | .convStep pl => Sys2Proof.Machine.execConvStep pl s
  | .redStep pl => Sys2Proof.Machine.execRedStep pl s
  | .maskReload pl => Sys2Proof.Machine.execMaskReload pl s
  | .maskQuery pl => Sys2Proof.Machine.execMaskQuery pl s
  | .rngToken pl => Sys2Proof.Machine.execRngToken pl s
  | .checkPair pl pair => Sys2Proof.Machine.execCheckPair pl pair s
  | .homeLoad k => Sys2Proof.Machine.execHomeLoad k s
  | .homeWrite k => Sys2Proof.Machine.execHomeWrite k s
  | .handlerApply k => Sys2Proof.Machine.execHandlerApply k s
  | .vamoApply k => Sys2Proof.Machine.execVamoApply k s
  | .claspOpen k => Sys2Proof.Machine.execClaspOpen k s
  | .claspPacket k => Sys2Proof.Machine.execClaspPacket k s
  | .claspRelease k => Sys2Proof.Machine.execClaspRelease k s
  | .strandAck k => Sys2Proof.Machine.execStrandAck k s
  | .strandRetry k => Sys2Proof.Machine.execStrandRetry k s
  | .badPacketDiscard link flit => Sys2Proof.Machine.execBadPacketDiscard link flit s
  | .frameEntryAdvance cluster => Sys2Proof.Machine.execFrameEntryAdvance cluster s
  | .waybillStart cluster k => Sys2Proof.Machine.execWaybillStart cluster k s
  | .copySector cluster k => Sys2Proof.Machine.execCopySector cluster k s
  | .waybillRetire cluster k => Sys2Proof.Machine.execWaybillRetire cluster k s
  | .seqAdd xd xa xb => Sys2Proof.Machine.execSeqAdd xd xa xb s
  | .seqSub xd xa xb => Sys2Proof.Machine.execSeqSub xd xa xb s
  | .seqMul xd xa xb => Sys2Proof.Machine.execSeqMul xd xa xb s
  | .seqMulh xd xa xb n => Sys2Proof.Machine.execSeqMulh xd xa xb n s
  | .seqDiv xd xa xb n => Sys2Proof.Machine.execSeqDiv xd xa xb n s
  | .seqRem xd xa xb n => Sys2Proof.Machine.execSeqRem xd xa xb n s
  | .seqAnd xd xa xb => Sys2Proof.Machine.execSeqAnd xd xa xb s
  | .seqOr xd xa xb => Sys2Proof.Machine.execSeqOr xd xa xb s
  | .seqXor xd xa xb => Sys2Proof.Machine.execSeqXor xd xa xb s
  | .seqShl xd xa xb => Sys2Proof.Machine.execSeqShl xd xa xb s
  | .seqShr xd xa xb => Sys2Proof.Machine.execSeqShr xd xa xb s
  | .seqSar xd xa xb => Sys2Proof.Machine.execSeqSar xd xa xb s
  | .seqMin xd xa xb n => Sys2Proof.Machine.execSeqMin xd xa xb n s
  | .seqMax xd xa xb n => Sys2Proof.Machine.execSeqMax xd xa xb n s
  | .seqClz xd xa => Sys2Proof.Machine.execSeqClz xd xa s
  | .seqPopc xd xa => Sys2Proof.Machine.execSeqPopc xd xa s
  | .seqAddi xd xa imm => Sys2Proof.Machine.execSeqAddi xd xa imm s
  | .seqAndi xd xa imm => Sys2Proof.Machine.execSeqAndi xd xa imm s
  | .seqOri xd xa imm => Sys2Proof.Machine.execSeqOri xd xa imm s
  | .seqXori xd xa imm => Sys2Proof.Machine.execSeqXori xd xa imm s
  | .seqShli xd xa sh => Sys2Proof.Machine.execSeqShli xd xa sh s
  | .seqShri xd xa sh => Sys2Proof.Machine.execSeqShri xd xa sh s
  | .seqSari xd xa sh => Sys2Proof.Machine.execSeqSari xd xa sh s
  | .seqLi xd imm => Sys2Proof.Machine.execSeqLi xd imm s
  | .seqLih xd xa imm => Sys2Proof.Machine.execSeqLih xd xa imm s
  | .seqBeq xa xb off => Sys2Proof.Machine.execSeqBeq xa xb off s
  | .seqBne xa xb off => Sys2Proof.Machine.execSeqBne xa xb off s
  | .seqBlt xa xb off => Sys2Proof.Machine.execSeqBlt xa xb off s
  | .seqBge xa xb off => Sys2Proof.Machine.execSeqBge xa xb off s
  | .seqBltn xa xb off => Sys2Proof.Machine.execSeqBltn xa xb off s
  | .seqBgen xa xb off => Sys2Proof.Machine.execSeqBgen xa xb off s
  | .seqJ off => Sys2Proof.Machine.execSeqJ off s
  | .seqJal xd off => Sys2Proof.Machine.execSeqJal xd off s
  | .seqJi xa off => Sys2Proof.Machine.execSeqJi xa off s
  | .seqJali xd xa off => Sys2Proof.Machine.execSeqJali xd xa off s
  | .seqLd xd xa sz n disp => Sys2Proof.Machine.execSeqLd xd xa sz n disp s
  | .seqSt xa xb sz disp => Sys2Proof.Machine.execSeqSt xa xb sz disp s
  | .seqLda xd xa sz n sc disp => Sys2Proof.Machine.execSeqLda xd xa sz n sc disp s
  | .seqStl xa xb sz sc disp => Sys2Proof.Machine.execSeqStl xa xb sz sc disp s
  | .seqAmo xd xa xb sz sc o h disp => Sys2Proof.Machine.execSeqAmo xd xa xb sz sc o h disp s
  | .seqAtomicResult k => Sys2Proof.Machine.execSeqAtomicResult k s
  | .seqFence sc o => Sys2Proof.Machine.execSeqFence sc o s
  | .seqMon xa disp => Sys2Proof.Machine.execSeqMon xa disp s
  | .seqMwait xd xb => Sys2Proof.Machine.execSeqMwait xd xb s
  | .mwaitWake cid => Sys2Proof.Machine.execMwaitWake cid s
  | .mwaitLimit cid => Sys2Proof.Machine.execMwaitLimit cid s
  | .seqPlace xd xa xb => Sys2Proof.Machine.execSeqPlace xd xa xb s
  | .seqArm xa xb => Sys2Proof.Machine.execSeqArm xa xb s
  | .seqWbill xd xa => Sys2Proof.Machine.execSeqWbill xd xa s
  | .wbillRoom cid => Sys2Proof.Machine.execWbillRoom cid s
  | .seqWaitw xd xa => Sys2Proof.Machine.execSeqWaitw xd xa s
  | .waitwComplete cid => Sys2Proof.Machine.execWaitwComplete cid s
  | .seqDrain xa => Sys2Proof.Machine.execSeqDrain xa s
  | .seqRecfg xd xa xb => Sys2Proof.Machine.execSeqRecfg xd xa xb s
  | .recfgDepthChange cid => Sys2Proof.Machine.execRecfgDepthChange cid s
  | .seqBankcfg xd bank mode => Sys2Proof.Machine.execSeqBankcfg xd bank mode s
  | .seqPlane xa e => Sys2Proof.Machine.execSeqPlane xa e s
  | .seqCut xd xa => Sys2Proof.Machine.execSeqCut xd xa s
  | .resumeRestore xd xa => Sys2Proof.Machine.execResumeRestore xd xa s
  | .resumeRelease xd xa => Sys2Proof.Machine.execResumeRelease xd xa s
  | .resumeContinue xd xa => Sys2Proof.Machine.execResumeContinue xd xa s
  | .resumeAbort xd xa => Sys2Proof.Machine.execResumeAbort xd xa s
  | .seqSopen xd xa k => Sys2Proof.Machine.execSeqSopen xd xa k s
  | .seqSclose xa xb k => Sys2Proof.Machine.execSeqSclose xa xb k s
  | .seqSbar k => Sys2Proof.Machine.execSeqSbar k s
  | .sbarComplete cid => Sys2Proof.Machine.execSbarComplete cid s
  | .seqPqpush xa xb => Sys2Proof.Machine.execSeqPqpush xa xb s
  | .seqPqpop xd xc => Sys2Proof.Machine.execSeqPqpop xd xc s
  | .seqPqpopW1 xd xc => Sys2Proof.Machine.execSeqPqpopW1 xd xc s
  | .seqExpect xa xb => Sys2Proof.Machine.execSeqExpect xa xb s
  | .seqAmsend xd xa xb h fl => Sys2Proof.Machine.execSeqAmsend xd xa xb h fl s
  | .seqBar xa sc => Sys2Proof.Machine.execSeqBar xa sc s
  | .barComplete cid => Sys2Proof.Machine.execBarComplete cid s
  | .seqTrap code => Sys2Proof.Machine.execSeqTrap code s
  | .eventEntry cid => Sys2Proof.Machine.execEventEntry cid s
  | .seqEret => Sys2Proof.Machine.execSeqEret s
  | .seqCsrrd xd csr => Sys2Proof.Machine.execSeqCsrrd xd csr s
  | .seqCsrwr xa csr => Sys2Proof.Machine.execSeqCsrwr xa csr s
  | .threadSwitch xa => Sys2Proof.Machine.execThreadSwitch xa s
  | .seqFwcall xd xa svc => Sys2Proof.Machine.execSeqFwcall xd xa svc s
  | .seqHalt => Sys2Proof.Machine.execSeqHalt s
  | .pcreate pa => Sys2Proof.Machine.execPcreate pa s
  | .preset pa => Sys2Proof.Machine.execPreset pa s
  | .pdestroy pa => Sys2Proof.Machine.execPdestroy pa s
  | .vdcreate pa => Sys2Proof.Machine.execVdcreate pa s
  | .vddestroy pa => Sys2Proof.Machine.execVddestroy pa s
  | .ctxassign pa => Sys2Proof.Machine.execCtxassign pa s
  | .bankassign pa => Sys2Proof.Machine.execBankassign pa s
  | .tpower pa => Sys2Proof.Machine.execTpower pa s
  | .tpowerDone tile => Sys2Proof.Machine.execTpowerDone tile s
  | .vdstop pa => Sys2Proof.Machine.execVdstop pa s
  | .vdstart pa => Sys2Proof.Machine.execVdstart pa s
  | .migbegin pa => Sys2Proof.Machine.execMigbegin pa s
  | .migpass pa => Sys2Proof.Machine.execMigpass pa s
  | .migfinal pa => Sys2Proof.Machine.execMigfinal pa s
  | .chkpt pa => Sys2Proof.Machine.execChkpt pa s
  | .chkload pa => Sys2Proof.Machine.execChkload pa s
  | .frameset pa => Sys2Proof.Machine.execFrameset pa s
  | .contextStart vd pa => Sys2Proof.Machine.execContextStart vd pa s
  | .contextKill vd pa => Sys2Proof.Machine.execContextKill vd pa s
  | .faultResolve vd fid => Sys2Proof.Machine.execFaultResolve vd fid s
  | .faultFail vd fid => Sys2Proof.Machine.execFaultFail vd fid s
  | .shootdownRequest vd w => Sys2Proof.Machine.execShootdownRequest vd w s
  | .shootdownComplete vd => Sys2Proof.Machine.execShootdownComplete vd s
  | .faultRecordHeldWrite vd => Sys2Proof.Machine.execFaultRecordHeldWrite vd s
  | .coldReset img => Sys2Proof.Machine.execColdReset img s
  | .partitionReset part => Sys2Proof.Machine.execPartitionReset part s
  | .thermalAlarm die temp => Sys2Proof.Machine.execThermalAlarm die temp s
  | .thermalTrip die temp => Sys2Proof.Machine.execThermalTrip die temp s
  | .linkTrained link => Sys2Proof.Machine.execLinkTrained link s
  | .linkAuthDone link peer => Sys2Proof.Machine.execLinkAuthDone link peer s
  | .linkTagFail link => Sys2Proof.Machine.execLinkTagFail link s
  | .companionRead off len => Sys2Proof.Machine.execCompanionRead off len s
  | .companionWrite off data => Sys2Proof.Machine.execCompanionWrite off data s
  | .posset pos => Sys2Proof.Machine.execPosset pos s
  | .podpol fwms => Sys2Proof.Machine.execPodpol fwms s
  | .lnktrain mask => Sys2Proof.Machine.execLnktrain mask s
  | .evread ctr => Sys2Proof.Machine.execEvread ctr s
  | .retclear bank tx ty b => Sys2Proof.Machine.execRetclear bank tx ty b s
  | .temprd => Sys2Proof.Machine.execTemprd s
  | .kvevict => Sys2Proof.Machine.execKvevict s
  | .kvpromote => Sys2Proof.Machine.execKvpromote s
  | .hallmark => Sys2Proof.Machine.execHallmark s
  | .sessopen => Sys2Proof.Machine.execSessopen s
  | .reqopen => Sys2Proof.Machine.execReqopen s
  | .replyseal => Sys2Proof.Machine.execReplyseal s
  | .sessclose => Sys2Proof.Machine.execSessclose s
  | .adptable => Sys2Proof.Machine.execAdptable s
  | .usage => Sys2Proof.Machine.execUsage s
  | .libload => Sys2Proof.Machine.execLibload s
  | .modelload => Sys2Proof.Machine.execModelload s
  | .modelfree => Sys2Proof.Machine.execModelfree s
  | .adaptclaim => Sys2Proof.Machine.execAdaptclaim s
  | .adaptfree => Sys2Proof.Machine.execAdaptfree s
  | .vdkey => Sys2Proof.Machine.execVdkey s
  | .conflock => Sys2Proof.Machine.execConflock s
  | .conffree => Sys2Proof.Machine.execConffree s
  | .evkey => Sys2Proof.Machine.execEvkey s
  | .hinstall => Sys2Proof.Machine.execHinstall s
  | .creditReturn k => Sys2Proof.Machine.execCreditReturn k s
  | .clusterCacheEviction cluster sector => Sys2Proof.Machine.execClusterCacheEviction cluster sector s
  | .spdmAttestation req => Sys2Proof.Machine.execSpdmAttestation req s
  | .slotTransferRecord vd rec => Sys2Proof.Machine.execSlotTransferRecord vd rec s
  | .migrationStateTransfer vd k => Sys2Proof.Machine.execMigrationStateTransfer vd k s
  | .linkDown link => Sys2Proof.Machine.execLinkDown link s

end Sys2Proof.Machine
end

