-- ==== Sys2Proof/Machine/Clock.lean ====
section
/-! DEFINITION. One ac of a die (R20, R27, R34, R36, R60, R461): what must have happened in it, and its end. -/

namespace Sys2Proof.Machine

def diePlanes (s : State) (d : Nat) : List (Nat × Plane) := s.planes.filter (fun e => planeDie e.1 == d)
def dieClusters (d : Nat) : List Nat := (List.range 16).map (fun i => 16 * d + i)

/-- Whether an element of the active plane must still fire in this ac (R34, R37), or a unit take a knot (R44). -/
def mustFire (s : State) (pl : Nat) (p : Plane) (n : Nat) : Bool :=
  isActive s pl && ((List.range 8).any (fun e => unitFree p e n && !mustJoin p e && (readySlot p e n).isSome) ||
    p.units.any (fun u => mustTake p u n))
/-- Whether a unit of a plane is still to stop for a marker that stands present (R56). -/
def mustStop (p : Plane) (n : Nat) : Bool := p.armed && !p.assay && p.units.any (fun u => markerDue p u n)
/-- What keeps an ac from ending: a result that falls due, a marker to stop for, a frame entry that has run out, an element that is
ready. -/
def acBlocked (s : State) (d : Nat) : Bool :=
  let n := s.ac d
  (diePlanes s d).any (fun e => e.2.pend.any (fun w => !w.done && decide (w.due ≤ n)) || mustStop e.2 n || mustFire s e.1 e.2 n) ||
  (dieClusters d).any (fun c => frameDue (s.cluster c))

/-- Whether a plane waits for something of its own outside its channels (R60). DESIGN CHOICE (log entry 94): a request or a group that
waits for room in the commit buffer counts as an outstanding memory request. -/
def awaits (s : State) (pl : Nat) (p : Plane) : Bool :=
  !p.loads.isEmpty || !p.reqs.isEmpty || !p.stream.isEmpty || p.fault.isSome || p.wfault.isSome ||
  s.net.any (fun x => match x.body with
    | .token _ _ f _ _ => f == pl
    | .result (.chan q _ _ _) _ _ _ _ _ => q == pl
    | .fx _ _ => x.src == .plane pl
    | _ => false)
/-- The idle count at the end of ac n (R60). -/
def countIdle (s : State) (pl n : Nat) : State :=
  match s.plane? pl with
  | none => s
  | some p =>
    if isActive s pl && p.lastAct != n + 1 && !awaits s pl p then s.setPlane pl { p with idle := min (p.idle + 1) 4096 } else s

/-- A plane at the end of ac n: finished work dropped, tokens that may leave sent, retirement. -/
def endPlane (n : Nat) (s : State) (pl : Nat) : State :=
  let s := s.modPlane pl (fun p => checkedOut { p with pend := p.pend.filter (fun w => !w.done) } n)
  let s := countIdle (drainWake s pl) pl n
  tryRetire s pl

/-- The frame time of a cluster goes by. -/
def endFrame (s : State) (c : Nat) : State := s.modCluster c (fun x => { x with left := x.left - 1 })

/-- STUCK records of a die's contexts that are still to be written (R61). -/
def stuckDues (s : State) (d : Nat) : State :=
  (s.ctxs.filter (fun e => e.2.stuckDue && clusterDie (ctxCluster e.1) == d)).foldl (fun s e => reportStuck s e.1) s

/-- The end of an ac of die d; nothing where the ac cannot end yet. -/
def tick (s : State) (d : Nat) : State :=
  if acBlocked s d then s
  else
    let n := s.ac d
    let s := ((diePlanes s d).map (·.1)).foldl (endPlane n) s
    let s := (dieClusters d).foldl endFrame (reapAdapters s)
    let s := flushRemote s.net.length (stuckDues s d)
    let x := s.die d
    s.setDie d { x with ac := x.ac + 1 }

/-- An ac of every die; a frame entry that has run out gives way first. -/
def passAc (s : State) : State :=
  let due := (List.range 64).filter (fun c => frameDue (s.cluster c))
  let s := due.foldl (fun s c => s.modCluster c frameNext) s
  (List.range 4).foldl tick s

end Sys2Proof.Machine
end

