-- ==== Sys2Proof/Machine/Fetch.lean ====
section
/-! DEFINITION. How an element finds the slot to fire (R34, R37) and a context the word to execute (R82, R206, R208, R212), and how
a word is placed where the next turn takes it. -/

namespace Sys2Proof.Machine

/-- A turn's outcome before an instruction runs: over already, or a word to run with its executor set. -/
inductive Fetched where
  | ended (s : State)
  | word (s : State) (w : Nat)
deriving DecidableEq, Repr

/-- The slot that an element of a tile fires now: of the active plane, the lowest ready one, but none in an ac in which it
takes a knot (R44). -/
def fetchSlot (s : State) (tile e : Nat) : Fetched :=
  let pl := 4 * tile + activePlane (s.cluster (tileCluster tile))
  match s.plane? pl with
  | none => .ended s
  | some p =>
    let n := s.planeAc pl
    if isActive s pl && decide (e < 8) && unitFree p e n && !mustJoin p e && !mustTake p e n then
      match readySlot p e n with
      | some j => .word { s with cur := { plane := pl, elem := e, slot := j, cid := 0 } } (p.page.slots.getD (16 * e + j) 0)
      | none => .ended s
    else .ended s

/-- A context's word at an address of its virtual device. No block is kept: each position is translated and read anew as it comes to be
executed, the spec not saying which of the two a context does (R82; log entry 69). -/
def fetchVirtual (s : State) (cid : Nat) (c : Ctx) : Fetched :=
  match translate s (tlbCluster (ctxCluster cid)) c.vdn c.pc false false with
  | (s, .bad r) => .ended (ctxFault s cid c.pc r faFetch)
  | (s, .ok pa kslot cp _) => match reaches s (.ctx cid) (pa / 32 * 32) cp with
    | (s, false) => .ended s
    | (s, true) => match loadSector s (.ctx cid) c.vdn (pa / 32 * 32) kslot cp with
      | (s, _, true) => .ended (ctxUe s cid c.pc faFetch)
      | (s, v, false) => .word s (bits v.toNat (8 * (pa % 32)) 64)

/-- The instructions that a cluster's sequencer has issued in its die's present ac. -/
def issuedNow (s : State) (cl : Nat) : Nat :=
  let x := (s.cluster cl).issue
  if x.1 = s.ac (clusterDie cl) + 1 then x.2 else 0
/-- One more instruction issued, for a context, in the present ac. -/
def markIssue (s : State) (cid : Nat) : State :=
  let cl := ctxCluster cid
  s.modCluster cl (fun c => { c with last := cid % 8, issue := (s.ac (clusterDie cl) + 1, issuedNow s cl + 1) })
/-- Whether a context is ready to issue: it runs, waits for nothing, has written what its last instruction writes, and enters no event
first (R199, R206, R247). -/
def ctxReady (c : Ctx) : Bool := c.run == .running && c.wait == .none && c.puts.isEmpty && (eventDue c).isNone
/-- The context of a cluster that issues next: the first ready one in round-robin order behind the one that issued last (R199). -/
def nextIssuer (s : State) (cl : Nat) : Option Nat :=
  ((List.range 8).map (fun i => 8 * cl + ((s.cluster cl).last + 1 + i) % 8)).find? (fun cid => ctxReady (s.ctx cid))

/-- The word that a context executes now: none for one that does not run or waits, that is not its sequencer's next issuer, or whose
sequencer has issued an instruction in each of the two lc of the present ac (R26, R199; log entry 98); a pending event is taken first; a
CUT or an ABORT in progress goes on, and so do the writes of a record or an area, one sector in a turn (R294). -/
def fetchSeq (s : State) (cid : Nat) : Fetched :=
  let s := { s with cur := { plane := 0, elem := 0, slot := 0, cid := cid } }
  let c := s.ctx cid
  if c.run ≠ .running then .ended s
  else match c.puts with
  | a :: r => .ended (performAll (s.setCtx cid { c with puts := r }) (.ctx cid) c.vdn [a])
  | [] =>
  if (eventDue c).isSome && c.wait.open then .ended (enterEvent s cid)
  else match c.wait with
    | .none =>
      if 2 ≤ issuedNow s (ctxCluster cid) ∨ nextIssuer s (ctxCluster cid) ≠ some cid then .ended s
      else
        let s := markIssue s cid
        if c.pl = firm then (if firmBad s c.pc.toNat 8 then .ended (firmUe s cid c.pc) else .word s (mreadN s.fmem c.pc.toNat 8))
        else fetchVirtual s cid c
    | .cut _ _ _ _ _ _ | .abort _ _ => .ended (ctxProgress s cid)
    | _ => .ended s

/-- An event of the device or the world has no word. -/
def isEvent (i : Instr) : Bool := encode i == .event

/-! ## Placing a word -/

/-- A one-slot plane that fires its word at once: a data token at the head of each channel, a destination for each output. -/
def slotPlane (w : Nat) : Plane :=
  let utag := bits w 85 4
  let elems := (List.range 8).map (fun _ => ({ g := Vector.replicate 32 0, p := BitVec.ofNat 8 (bits w 100 8), halted := false } : Elem))
  let full : Chan := { depth := 4, q := [{ id := 0, tok := some (dataTok 0 false (BitVec.ofNat 4 utag)), vis := 0 }] }
  { vd := 0, cid := 0, sec := 0, pix := 0, tq := 32, aq := 512, signed := false,
    page := ⟨[], [w], [], List.replicate 12 0, List.replicate 16 0, 0, 0⟩, armed := true, elems := elems, mx := List.replicate 8 mxZero,
    chans := (List.range 8).map (fun i => (i, full)) ++ (List.range 8).map (fun i => (8 + i, { depth := 4 })),
    outs := (List.range 8).map (fun i => (i, { dest := .loc (8 + i) })), ops := {}, cElems := elems, cOps := {} }

/-- A slot word in slot 0 of element 0 of a plane that fires it next. -/
def withSlot (s : State) (w : Nat) : State :=
  { s with agenda := [.element 0 0], planes := tset s.planes 0 (slotPlane w), power := tset s.power 0 .on,
           clusters := tset s.clusters 0 Cluster.reset }

/-- A sequencer word in the firmware address space where context 0 of cluster 0, running at FIRM, fetches next. -/
def withSeqWord (s : State) (w : Nat) : State :=
  let c := s.ctx 0
  { s with agenda := [.context 0], fmem := mwriteN s.fmem c.pc.toNat 8 w,
           fbad := s.fbad.filter (fun x => !decide (x < c.pc.toNat + 8 ∧ c.pc.toNat < x + 32)),
           ctxs := tset s.ctxs 0 { c with run := .running, wait := .none, pl := firm, part := [], puts := [] },
           clusters := tset s.clusters 0 { s.cluster 0 with last := 7, issue := (0, 0) } }

/-- The word of an instruction of nbits bits placed where the next step takes it. -/
def placeWord (s : State) (nbits w : Nat) : State := if nbits = 128 then withSlot s (w % 2 ^ 128) else withSeqWord s (w % 2 ^ 64)

end Sys2Proof.Machine
end

