-- ==== Sys2Proof/Machine/Step.lean ====
section
/-! DEFINITION. The step of the package: the next turn of the agenda (log entry 1). -/

namespace Sys2Proof.Machine

/-- One turn. A sequencer word that is no instruction raises ILLEGAL (R81). -/
def runTurn (t : Turn) (s : State) : Host.Outcome State Fault Refusal :=
  match t with
  | .tick d => .next (tick s d)
  | .element tile e =>
    (match fetchSlot s tile e with
     | .ended s => .next s
     | .word s w => match decodeElem w with
       | some i => exec i s
       | none => .next s)
  | .context cid =>
    (match fetchSeq s cid with
     | .ended s => .next s
     | .word s w => match decodeSeq w with
       | some i => exec i s
       | none => .next (trapHere s cid causeIllegal (BitVec.ofNat 64 w)))
  | .event i => if isEvent i then exec i s else .next s
  | .message ty l =>
    (match hearMessage s ty l with
     | .ended s => .next s
     | .run s i => exec i s
     | .spdm s l => execSpdmAttestation l s)

/-- The step: the turn at the head of the agenda; with none, an ac passes on every die. -/
def step (s : State) : Host.Outcome State Fault Refusal :=
  match s.agenda with
  | [] => .next (passAc s)
  | t :: r => runTurn t { s with agenda := r }

/-- The state with an instruction's word where the next step fetches it. -/
def State.withFetchWord (s : State) (nbits w : Nat) : State := placeWord s nbits w

end Sys2Proof.Machine
end

