-- ==== Sys2Proof/Laws/Encoding.lean ====
section
/-! SUPPORT. What the slices of an encoded word are: the fields it was put together from (R68, R80). -/

-- One theorem at a time: many at once take a stack each, and the text as a whole then passes its memory limit.
set_option Elab.async false

namespace Sys2Proof.Laws

open Sys2Proof

theorem Sel.code_lt (x : Sel) : x.code < 2 ^ 6 := by
  cases x with
  | g r => have := r.isLt; simp [Sel.code]; omega
  | head c => have := c.isLt; simp [Sel.code]; omega
  | k i => have := i.isLt; simp [Sel.code]; omega
  | _ => decide
theorem selOf_code (x : Sel) : selOf x.code = some x := by
  cases x with
  | g r => simp [Sel.code, selOf]
  | head c => have := c.isLt; simp [Sel.code, selOf]
  | k i =>
    have h := i.isLt
    have h1 : ¬ (48 + i.val < 32) := by omega
    have h2 : ¬ (48 + i.val - 32 < 8) := by omega
    have h3 : ¬ (48 + i.val = 40) := by omega
    have h4 : ¬ (48 + i.val = 41) := by omega
    have h5 : ¬ (48 + i.val = 42) := by omega
    have h6 : ¬ (48 + i.val = 43) := by omega
    have h7 : ¬ (48 + i.val = 44) := by omega
    have h8 : ¬ (48 + i.val < 48) := by omega
    simp [Sel.code, selOf, h1, h2, h3, h4, h5, h6, h7]
  | _ => rfl
theorem dstCode_lt (d : Option (Fin 32)) : dstCode d < 2 ^ 6 := by
  cases d with
  | none => decide
  | some r => have := r.isLt; simp [dstCode]; omega
theorem dstOf_code (d : Option (Fin 32)) : dstOf (dstCode d) = some d := by
  cases d with
  | none => rfl
  | some r => have := r.isLt; simp [dstOf, dstCode]
theorem presCode_lt (p : Option (Fin 8)) : presCode p < 2 ^ 4 := by
  cases p with
  | none => decide
  | some r => have := r.isLt; simp [presCode]; omega
theorem presOf_code (p : Option (Fin 8)) : presOf (presCode p) = p := by
  cases p with
  | none => rfl
  | some r => have := r.isLt; simp [presOf, presCode, fin8, Fin.ext_iff, Fin.ofNat]
theorem fin8_val (x : Fin 8) : fin8 x.val = x := by simp [fin8]

/-- A number put together from fields, each a width and a value, the least significant first. -/
def horner : List (Nat × Nat) → Nat
  | [] => 0
  | (n, v) :: r => v + 2 ^ n * horner r

theorem bits_horner_here (n v : Nat) (r : List (Nat × Nat)) (h : v < 2 ^ n) : bits (horner ((n, v) :: r)) 0 n = v := by
  simp [bits, horner, Nat.mod_eq_of_lt h]
theorem bits_horner_later (n v lo m : Nat) (r : List (Nat × Nat)) (h : v < 2 ^ n) (hl : n ≤ lo) :
    bits (horner ((n, v) :: r)) lo m = bits (horner r) (lo - n) m := by
  obtain ⟨k, rfl⟩ := Nat.le.dest hl
  have hp : 0 < 2 ^ n := Nat.two_pow_pos n
  simp only [bits, horner, Nat.pow_add, ← Nat.div_div_eq_div_mul, Nat.add_mul_div_left _ _ hp, Nat.div_eq_of_lt h,
    Nat.zero_add, Nat.add_sub_cancel_left]
/-- A number put together from fields that fit is below two to the sum of their widths. -/
theorem horner_lt : (l : List (Nat × Nat)) → (∀ x ∈ l, x.2 < 2 ^ x.1) → horner l < 2 ^ (l.map (·.1)).sum
  | [], _ => by simp [horner]
  | (n, v) :: r, h => by
    have ih := horner_lt r (fun x hx => h x (List.mem_cons_of_mem _ hx))
    have hv : v < 2 ^ n := h (n, v) List.mem_cons_self
    simp only [horner, List.map_cons, List.sum_cons, Nat.pow_add]
    calc v + 2 ^ n * horner r < 2 ^ n * 1 + 2 ^ n * horner r := by omega
      _ = 2 ^ n * (horner r + 1) := by rw [← Nat.mul_add, Nat.add_comm]
      _ ≤ 2 ^ n * 2 ^ (r.map (·.1)).sum := Nat.mul_le_mul_left _ ih

/-- A slot word's fields, the least significant first (R68). -/
def slotFields (f : EFields) (op v : Nat) : List (Nat × Nat) :=
  [(16, f.imm.toNat), (1, 0), (4, presCode f.pres), (8, f.psetv.toNat), (8, f.psetm.toNat), (4, f.otag.toNat),
   (8, f.omask.toNat), (6, dstCode f.dst), (8, f.deq.toNat), (6, f.opc.code), (6, f.opb.code), (6, f.opa.code),
   (4, f.tmask.toNat), (4, f.tval.toNat), (3, f.tch.val), (8, f.inrdy.toNat), (8, f.pval.toNat), (8, f.pmask.toNat), (4, v),
   (8, op)]
theorem word_horner (f : EFields) (op v : Nat) : f.word op v = horner (slotFields f op v) := by
  simp only [EFields.word, slotFields, horner]
  generalize f.imm.toNat = a1; generalize presCode f.pres = a2; generalize f.psetv.toNat = a3; generalize f.psetm.toNat = a4
  generalize f.otag.toNat = a5; generalize f.omask.toNat = a6; generalize dstCode f.dst = a7; generalize f.deq.toNat = a8
  generalize f.opc.code = a9; generalize f.opb.code = a10; generalize f.opa.code = a11; generalize f.tmask.toNat = a12
  generalize f.tval.toNat = a13; generalize f.tch.val = a14; generalize f.inrdy.toNat = a15; generalize f.pval.toNat = a16
  generalize f.pmask.toNat = a17
  omega

theorem slot_fits (f : EFields) (op v : Nat) (ho : op < 2 ^ 8) (hv : v < 2 ^ 4) : ∀ x ∈ slotFields f op v, x.2 < 2 ^ x.1 := by
  simp only [slotFields, List.forall_mem_cons]
  exact ⟨f.imm.isLt, by decide, presCode_lt _, f.psetv.isLt, f.psetm.isLt, f.otag.isLt, f.omask.isLt, dstCode_lt _, f.deq.isLt,
    Sel.code_lt _, Sel.code_lt _, Sel.code_lt _, f.tmask.isLt, f.tval.isLt, f.tch.isLt, f.inrdy.isLt, f.pval.isLt, f.pmask.isLt,
    hv, ho, by simp⟩
theorem slot_width (f : EFields) (op v : Nat) : ((slotFields f op v).map (·.1)).sum = 128 := by
  simp only [slotFields, List.map_cons, List.map_nil, List.sum_cons, List.sum_nil, Nat.reduceAdd]
theorem word_lt (f : EFields) (op v : Nat) (ho : op < 2 ^ 8) (hv : v < 2 ^ 4) : f.word op v < 2 ^ 128 := by
  have h := horner_lt _ (slot_fits f op v ho hv)
  rwa [slot_width, ← word_horner] at h

/-- The slices of a slot word (R68). -/
theorem slot_bits (f : EFields) (op v : Nat) (ho : op < 2 ^ 8) (hv : v < 2 ^ 4) :
    bits (f.word op v) 75 6 = f.opa.code ∧
    bits (f.word op v) 69 6 = f.opb.code ∧
    bits (f.word op v) 63 6 = f.opc.code ∧
    bits (f.word op v) 49 6 = dstCode f.dst ∧
    bits (f.word op v) 16 1 = 0 ∧
    bits (f.word op v) 108 8 = f.pmask.toNat ∧
    bits (f.word op v) 100 8 = f.pval.toNat ∧
    bits (f.word op v) 92 8 = f.inrdy.toNat ∧
    bits (f.word op v) 89 3 = f.tch.val ∧
    bits (f.word op v) 85 4 = f.tval.toNat ∧
    bits (f.word op v) 81 4 = f.tmask.toNat ∧
    bits (f.word op v) 55 8 = f.deq.toNat ∧
    bits (f.word op v) 41 8 = f.omask.toNat ∧
    bits (f.word op v) 37 4 = f.otag.toNat ∧
    bits (f.word op v) 29 8 = f.psetm.toNat ∧
    bits (f.word op v) 21 8 = f.psetv.toNat ∧
    bits (f.word op v) 17 4 = presCode f.pres ∧
    bits (f.word op v) 0 16 = f.imm.toNat ∧
    bits (f.word op v) 116 4 = v ∧
    bits (f.word op v) 120 8 = op := by
  have h1 := f.imm.isLt; have h2 := presCode_lt f.pres; have h3 := f.psetv.isLt; have h4 := f.psetm.isLt
  have h5 := f.otag.isLt; have h6 := f.omask.isLt; have h7 := dstCode_lt f.dst; have h8 := f.deq.isLt
  have h9 := Sel.code_lt f.opc; have h10 := Sel.code_lt f.opb; have h11 := Sel.code_lt f.opa
  have h12 := f.tmask.isLt; have h13 := f.tval.isLt; have h14 : f.tch.val < 2 ^ 3 := f.tch.isLt; have h15 := f.inrdy.isLt
  have h16 := f.pval.isLt; have h17 := f.pmask.isLt
  have h0 : (0 : Nat) < 2 ^ 1 := by decide
  rw [word_horner]
  simp only [slotFields, bits_horner_later, bits_horner_here, h0, h1, h2, h3, h4, h5, h6, h7, h8, h9, h10, h11, h12, h13, h14,
    h15, h16, h17, ho, hv, Nat.reduceLeDiff, Nat.reduceSub, and_self]


theorem ofNat_of {n : Nat} {k : Nat} {x : BitVec n} (h : k = x.toNat) : BitVec.ofNat n k = x := by rw [h]; simp
/-- A number with the slices of given fields has those fields (R68). -/
theorem fieldsOf_of_bits (f : EFields) (w : Nat) (e1 : bits w 75 6 = f.opa.code) (e2 : bits w 69 6 = f.opb.code) (e3 : bits w 63 6 = f.opc.code)
  (e4 : bits w 49 6 = dstCode f.dst) (e5 : bits w 16 1 = 0) (e6 : bits w 108 8 = f.pmask.toNat) (e7 : bits w 100 8 = f.pval.toNat)
 (e8 : bits w 92 8 = f.inrdy.toNat) (e9 : bits w 89 3 = f.tch.val) (e10: bits w 85 4 = f.tval.toNat) (e11: bits w 81 4 = f.tmask.toNat) (e12 : bits w 55 8 = f.deq.toNat) (e13 : bits w 41 8 = f.omask.toNat) (e14: bits w 37 4 = f.otag.toNat) (e15 : bits w 29 8 = f.psetm.toNat) (e16 : bits w 21 8 = f.psetv.toNat) (e17 : bits w 17 4 = presCode f.pres) (e18 : bits w 0 16 = f.imm.toNat) : fieldsOf w = some f := by
  have m1 : selOf (bits w 75 6) = some f.opa := by rw [e1, selOf_code]
  have m2 : selOf (bits w 69 6) = some f.opb := by rw [e2, selOf_code]
  have m3 : selOf (bits w 63 6) = some f.opc := by rw [e3, selOf_code]
  have m4 : dstOf (bits w 49 6) = some f.dst := by rw [e4, dstOf_code]
  have m5 : presOf (bits w 17 4) = f.pres := by rw [e17, presOf_code]
  have m6 : fin8 (bits w 89 3) = f.tch := by rw [e9, fin8_val]
  unfold fieldsOf
  rw [m1, m2, m3, m4]
  dsimp only
  rw [if_pos e5, m5, m6, ofNat_of e6, ofNat_of e7, ofNat_of e8, ofNat_of e10, ofNat_of e11, ofNat_of e12, ofNat_of e13, ofNat_of e14,
   ofNat_of e15, ofNat_of e16, ofNat_of e18]

/-- The fields, the opcode and the variant of a slot word are read back (R68). -/
theorem fieldsOf_word (f : EFields) (op v : Nat) (ho : op < 2 ^ 8) (hv : v < 2 ^ 4) :
    fieldsOf (f.word op v) = some f ∧ bits (f.word op v) 120 8 = op ∧ bits (f.word op v) 116 4 = v := by
  obtain ⟨e1, e2, e3, e4, e5, e6, e7, e8, e9, e10, e11, e12, e13, e14, e15, e16, e17, e18, e19, e20⟩ := slot_bits f op v ho hv
  exact ⟨fieldsOf_of_bits f _ e1 e2 e3 e4 e5 e6 e7 e8 e9 e10 e11 e12 e13 e14 e15 e16 e17 e18, e20, e19⟩

/-! ## Sequencer words (R80) -/

/-- The fields of a word of formats A, B, M and F, the least significant first. -/
def fieldsA (op : Nat) (xd xa xb : XReg) (n : Bool) : List (Nat × Nat) :=
  [(40, 0), (1, n.toNat), (5, xb.val), (5, xa.val), (5, xd.val), (8, op)]
def fieldsB (op : Nat) (xd xa xb : XReg) (off : BitVec 24) : List (Nat × Nat) :=
  [(24, off.toNat), (17, 0), (5, xb.val), (5, xa.val), (5, xd.val), (8, op)]
def fieldsM (op : Nat) (xd xa xb : XReg) (sz sc o : Nat) (n : Bool) (fn : Nat) (disp : BitVec 24) : List (Nat × Nat) :=
  [(24, disp.toNat), (3, 0), (5, fn), (1, n.toNat), (2, o), (3, sc), (3, sz), (5, xb.val), (5, xa.val), (5, xd.val), (8, op)]
def fieldsF (op : Nat) (xd xa xb xc : XReg) (sc : Nat) (w : Bool) (imm : Nat) : List (Nat × Nat) :=
  [(32, imm), (1, w.toNat), (3, sc), (5, xc.val), (5, xb.val), (5, xa.val), (5, xd.val), (8, op)]
theorem wA_horner (op : Nat) (xd xa xb : XReg) (n : Bool) : wA op xd xa xb n = horner (fieldsA op xd xa xb n) := by
  simp only [wA, fieldsA, horner]; omega
theorem wB_horner (op : Nat) (xd xa xb : XReg) (off : BitVec 24) : wB op xd xa xb off = horner (fieldsB op xd xa xb off) := by
  simp only [wB, fieldsB, horner]; omega
theorem wM_horner (op : Nat) (xd xa xb : XReg) (sz sc o : Nat) (n : Bool) (fn : Nat) (disp : BitVec 24) :
    wM op xd xa xb sz sc o n fn disp = horner (fieldsM op xd xa xb sz sc o n fn disp) := by
  simp only [wM, fieldsM, horner]; omega
theorem wF_horner (op : Nat) (xd xa xb xc : XReg) (sc : Nat) (w : Bool) (imm : Nat) :
    wF op xd xa xb xc sc w imm = horner (fieldsF op xd xa xb xc sc w imm) := by
  simp only [wF, fieldsF, horner]; omega
theorem toNat_lt (b : Bool) : b.toNat < 2 ^ 1 := by cases b <;> decide
theorem xreg_lt (x : XReg) : x.val < 2 ^ 5 := x.isLt
theorem xreg_val (x : XReg) : xreg x.val = x := by simp [xreg]

/-- The slices of a word of format A. -/
theorem wA_bits (op : Nat) (xd xa xb : XReg) (n : Bool) (ho : op < 2 ^ 8) :
    bits (wA op xd xa xb n) 56 8 = op ∧ bits (wA op xd xa xb n) 51 5 = xd.val ∧ bits (wA op xd xa xb n) 46 5 = xa.val ∧
    bits (wA op xd xa xb n) 41 5 = xb.val ∧ bits (wA op xd xa xb n) 40 1 = n.toNat ∧ bits (wA op xd xa xb n) 0 40 = 0 := by
  have hd := xreg_lt xd; have ha := xreg_lt xa; have hb := xreg_lt xb; have hn := toNat_lt n
  have h0 : (0 : Nat) < 2 ^ 40 := by decide
  rw [wA_horner]
  simp only [fieldsA, bits_horner_later, bits_horner_here, h0, hd, ha, hb, hn, ho, Nat.reduceLeDiff, Nat.reduceSub, and_self]
/-- The slices of a word of format I, with a 32-bit immediate. -/
theorem wI_bits (op : Nat) (xd xa : XReg) (imm : Nat) (ho : op < 2 ^ 8) (hi : imm < 2 ^ 32) :
    bits (wI op xd xa imm) 56 8 = op ∧ bits (wI op xd xa imm) 51 5 = xd.val ∧ bits (wI op xd xa imm) 46 5 = xa.val ∧
    bits (wI op xd xa imm) 32 14 = 0 ∧ bits (wI op xd xa imm) 0 32 = imm := by
  have hd := xreg_lt xd; have ha := xreg_lt xa
  have h0 : (0 : Nat) < 2 ^ 14 := by decide
  have h : wI op xd xa imm = horner [(32, imm), (14, 0), (5, xa.val), (5, xd.val), (8, op)] := by simp only [wI, horner]; omega
  rw [h]
  simp only [bits_horner_later, bits_horner_here, h0, hd, ha, hi, ho, Nat.reduceLeDiff, Nat.reduceSub, and_self]
/-- The same with a shift count. -/
theorem wI_shift (op : Nat) (xd xa : XReg) (sh : Fin 64) :
    bits (wI op xd xa sh.val) 0 6 = sh.val ∧ bits (wI op xd xa sh.val) 6 40 = 0 := by
  have hs : sh.val < 2 ^ 6 := sh.isLt
  have h0 : (0 : Nat) < 2 ^ 40 := by decide
  have h : wI op xd xa sh.val = horner [(6, sh.val), (40, 0), (5, xa.val), (5, xd.val), (8, op)] := by simp only [wI, horner]; omega
  rw [h]
  simp only [bits_horner_later, bits_horner_here, h0, hs, Nat.reduceLeDiff, Nat.reduceSub, and_self]
/-- The same without an operand register. -/
theorem wI_noReg (op : Nat) (xd : XReg) (imm : Nat) (hi : imm < 2 ^ 32) : bits (wI op xd 0 imm) 32 19 = 0 := by
  have h0 : (0 : Nat) < 2 ^ 19 := by decide
  have h : wI op xd 0 imm = horner [(32, imm), (19, 0), (5, xd.val), (8, op)] := by simp only [wI, horner]; omega
  rw [h]
  simp only [bits_horner_later, bits_horner_here, h0, hi, Nat.reduceLeDiff, Nat.reduceSub]
/-- A word of format A without second operand has no bit below its operand register. -/
theorem wA_noReg (op : Nat) (xd xa : XReg) : bits (wA op xd xa 0 false) 0 46 = 0 := by
  have h0 : (0 : Nat) < 2 ^ 46 := by decide
  have h : wA op xd xa 0 false = horner [(46, 0), (5, xa.val), (5, xd.val), (8, op)] := by
    simp only [wA, horner, Bool.toNat_false]; omega
  rw [h]
  simp only [bits_horner_here, h0]
/-- The slices of a word of format B. -/
theorem wB_bits (op : Nat) (xd xa xb : XReg) (off : BitVec 24) (ho : op < 2 ^ 8) :
    bits (wB op xd xa xb off) 56 8 = op ∧ bits (wB op xd xa xb off) 51 5 = xd.val ∧ bits (wB op xd xa xb off) 46 5 = xa.val ∧
    bits (wB op xd xa xb off) 41 5 = xb.val ∧ bits (wB op xd xa xb off) 24 17 = 0 ∧ bits (wB op xd xa xb off) 0 24 = off.toNat := by
  have hd := xreg_lt xd; have ha := xreg_lt xa; have hb := xreg_lt xb; have hn := off.isLt
  have h0 : (0 : Nat) < 2 ^ 17 := by decide
  rw [wB_horner]
  simp only [fieldsB, bits_horner_later, bits_horner_here, h0, hd, ha, hb, hn, ho, Nat.reduceLeDiff, Nat.reduceSub, and_self]
/-- The slices of a word of format M. -/
theorem wM_bits (op : Nat) (xd xa xb : XReg) (sz sc o : Nat) (n : Bool) (fn : Nat) (disp : BitVec 24) (ho : op < 2 ^ 8)
    (hz : sz < 2 ^ 3) (hs : sc < 2 ^ 3) (hq : o < 2 ^ 2) (hf : fn < 2 ^ 5) :
    bits (wM op xd xa xb sz sc o n fn disp) 56 8 = op ∧ bits (wM op xd xa xb sz sc o n fn disp) 51 5 = xd.val ∧
    bits (wM op xd xa xb sz sc o n fn disp) 46 5 = xa.val ∧ bits (wM op xd xa xb sz sc o n fn disp) 41 5 = xb.val ∧
    bits (wM op xd xa xb sz sc o n fn disp) 38 3 = sz ∧ bits (wM op xd xa xb sz sc o n fn disp) 35 3 = sc ∧
    bits (wM op xd xa xb sz sc o n fn disp) 33 2 = o ∧ bits (wM op xd xa xb sz sc o n fn disp) 32 1 = n.toNat ∧
    bits (wM op xd xa xb sz sc o n fn disp) 27 5 = fn ∧ bits (wM op xd xa xb sz sc o n fn disp) 24 3 = 0 ∧
    bits (wM op xd xa xb sz sc o n fn disp) 0 24 = disp.toNat := by
  have hd := xreg_lt xd; have ha := xreg_lt xa; have hb := xreg_lt xb; have hn := toNat_lt n; have hp := disp.isLt
  have h0 : (0 : Nat) < 2 ^ 3 := by decide
  rw [wM_horner]
  simp only [fieldsM, bits_horner_later, bits_horner_here, h0, hd, ha, hb, hn, hp, hz, hs, hq, hf, ho, Nat.reduceLeDiff,
    Nat.reduceSub, and_self]
/-- The slices of a word of format F. -/
theorem wF_bits (op : Nat) (xd xa xb xc : XReg) (sc : Nat) (w : Bool) (imm : Nat) (ho : op < 2 ^ 8) (hs : sc < 2 ^ 3)
    (hi : imm < 2 ^ 32) :
    bits (wF op xd xa xb xc sc w imm) 56 8 = op ∧ bits (wF op xd xa xb xc sc w imm) 51 5 = xd.val ∧
    bits (wF op xd xa xb xc sc w imm) 46 5 = xa.val ∧ bits (wF op xd xa xb xc sc w imm) 41 5 = xb.val ∧
    bits (wF op xd xa xb xc sc w imm) 36 5 = xc.val ∧ bits (wF op xd xa xb xc sc w imm) 33 3 = sc ∧
    bits (wF op xd xa xb xc sc w imm) 32 1 = w.toNat ∧ bits (wF op xd xa xb xc sc w imm) 0 32 = imm := by
  have hd := xreg_lt xd; have ha := xreg_lt xa; have hb := xreg_lt xb; have hn := toNat_lt w; have hc := xreg_lt xc
  rw [wF_horner]
  simp only [fieldsF, bits_horner_later, bits_horner_here, hd, ha, hb, hc, hn, hs, hi, ho, Nat.reduceLeDiff, Nat.reduceSub, and_self]

/-- A word of format M with its middle fields zero is one of format B; with its displacement zero too, one of format A. -/
theorem wM_plain (op : Nat) (xd xa xb : XReg) (p : BitVec 24) : wM op xd xa xb 0 0 0 false 0 p = wB op xd xa xb p := by
  simp only [wM, wB, Bool.toNat_false]; omega
theorem add_zeros (a b p : Nat) : a + b + 0 = a + b + 0 * p := by rw [Nat.zero_mul]
theorem wB_zero (op : Nat) (xd xa xb : XReg) : wB op xd xa xb 0 = wA op xd xa xb false := by
  have h : (0 : BitVec 24).toNat = 0 := rfl
  rw [wB, wA, Bool.toNat_false, h] <;> exact add_zeros _ _ _
theorem wM_zero (op : Nat) (xd xa xb : XReg) : wM op xd xa xb 0 0 0 false 0 0 = wA op xd xa xb false := by
  rw [wM_plain, wB_zero]
theorem wA_low (op : Nat) (xd xa xb : XReg) : bits (wA op xd xa xb false) 0 41 = 0 := by
  have h0 : (0 : Nat) < 2 ^ 41 := by decide
  have h : wA op xd xa xb false = horner [(41, 0), (5, xb.val), (5, xa.val), (5, xd.val), (8, op)] := by
    simp only [wA, horner, Bool.toNat_false]; omega
  rw [h]
  simp only [bits_horner_here, h0]

/-- Words of the four formats fit 64 bits. -/
theorem wA_lt (op : Nat) (xd xa xb : XReg) (n : Bool) (ho : op < 2 ^ 8) : wA op xd xa xb n < 2 ^ 64 := by
  have hd := xreg_lt xd; have ha := xreg_lt xa; have hb := xreg_lt xb; have hn := toNat_lt n
  unfold wA; omega
theorem wI_lt (op : Nat) (xd xa : XReg) (imm : Nat) (ho : op < 2 ^ 8) (hi : imm < 2 ^ 32) : wI op xd xa imm < 2 ^ 64 := by
  have hd := xreg_lt xd; have ha := xreg_lt xa
  unfold wI; omega
theorem wB_lt (op : Nat) (xd xa xb : XReg) (off : BitVec 24) (ho : op < 2 ^ 8) : wB op xd xa xb off < 2 ^ 64 := by
  have hd := xreg_lt xd; have ha := xreg_lt xa; have hb := xreg_lt xb; have hn := off.isLt
  unfold wB; omega
theorem wM_lt (op : Nat) (xd xa xb : XReg) (sz sc o : Nat) (n : Bool) (fn : Nat) (disp : BitVec 24) (ho : op < 2 ^ 8)
    (hz : sz < 2 ^ 3) (hs : sc < 2 ^ 3) (hq : o < 2 ^ 2) (hf : fn < 2 ^ 5) : wM op xd xa xb sz sc o n fn disp < 2 ^ 64 := by
  have hd := xreg_lt xd; have ha := xreg_lt xa; have hb := xreg_lt xb; have hn := toNat_lt n; have hp := disp.isLt
  unfold wM; omega
theorem wF_lt (op : Nat) (xd xa xb xc : XReg) (sc : Nat) (w : Bool) (imm : Nat) (ho : op < 2 ^ 8) (hs : sc < 2 ^ 3)
    (hi : imm < 2 ^ 32) : wF op xd xa xb xc sc w imm < 2 ^ 64 := by
  have hd := xreg_lt xd; have ha := xreg_lt xa; have hb := xreg_lt xb; have hn := toNat_lt w; have hc := xreg_lt xc
  unfold wF; omega

theorem fits_slot (w : Nat) (h : w < 2 ^ 128) : (Code.slot w).fits = true := by
  rw [Code.fits.eq_def]; exact decide_eq_true h
theorem fits_seq (w : Nat) (h : w < 2 ^ 64) : (Code.seq w).fits = true := by
  rw [Code.fits.eq_def]; exact decide_eq_true h

theorem decode_slot {i : Instr} {f : EFields} {op v w : Nat} (e1 : fieldsOf w = some f) (e2 : bits w 120 8 = op)
    (e3 : bits w 116 4 = v) (h3 : elemOf f op v = some i) (hw : i.wf = true) : decode (.slot w) = some i := by
  have h : decode (.slot w) = decodeElem w := rfl
  rw [h, decodeElem, e1]
  dsimp only
  rw [e2, e3, h3, Option.filter, if_pos hw]

/-- A slot word is read back as the instruction whose opcode, variant and fields it was made from. -/
theorem elem_round {i : Instr} {f : EFields} {op v : Nat} (h1 : i.opVar = some (op, v)) (h2 : i.fields? = some f)
    (h3 : elemOf f op v = some i) (hw : i.wf = true) (ho : op < 2 ^ 8) (hv : v < 2 ^ 4) (ha : i.asWord = some i) :
    decode (encode i) = i.asWord ∧ (encode i).fits = true := by
  have he : encode i = .slot (f.word op v) := by simp only [encode, encodeElem, h1, h2]
  have hl := word_lt f op v ho hv
  obtain ⟨e1, e2, e3⟩ := fieldsOf_word f op v ho hv
  revert e1 e2 e3 hl he
  generalize f.word op v = w
  intro he hl e1 e2 e3
  rw [he, ha]
  exact ⟨decode_slot e1 e2 e3 h3 hw, fits_slot w hl⟩

/-- The instruction that a sequencer word's slices name, before the checks of WellFormed. -/
def rawSeq (w : Nat) : Option Instr :=
  if bits w 56 8 < 0x60 then seqIntOf w else if bits w 56 8 < 0x80 then seqMemOf w else seqFabOf w

/-- A sequencer word is read back as what its slices name, when that is well-formed. -/
theorem seq_round {i j : Instr} {w : Nat} (h1 : encode i = .seq w) (h2 : rawSeq w = some j) (hw : j.wf = true)
    (ha : i.asWord = some j) (hl : w < 2 ^ 64) : decode (encode i) = i.asWord ∧ (encode i).fits = true := by
  rw [h1, ha]
  have h : decode (.seq w) = (rawSeq w).filter Instr.wf := rfl
  refine ⟨?_, fits_seq w hl⟩
  rw [h, h2, Option.filter, if_pos hw]

end Sys2Proof.Laws
end

