-- ==== Sys2Proof/Laws/PerInstr.lean ====
section
/-! SUPPORT. The agreement of decoder and encoder, instruction by instruction (R68, R80): what the words of a well-formed
instruction decode to, and that they fit their format. -/

-- One theorem at a time: many at once take a stack each, and the text as a whole then passes its memory limit.
set_option Elab.async false

namespace Sys2Proof.Laws

/-- The words of a well-formed instruction fit their format and decode to the instruction; RESUME's one word decodes to its
first row, and an event has no word. -/
def Encoding.Statement (i : Instr) : Prop := i.wf = true → decode (encode i) = i.asWord ∧ (encode i).fits = true

/-! ## What each format's word is read as -/

theorem raw_A {op : Nat} {d a b : XReg} {n : Bool} {i : Instr} (h : op < 0x60)
    (hi : ∀ w, bits w 56 8 = op → bits w 51 5 = d.val → bits w 46 5 = a.val → bits w 41 5 = b.val → bits w 40 1 = n.toNat →
      bits w 0 40 = 0 → seqIntOf w = some i) : rawSeq (wA op d a b n) = some i := by
  obtain ⟨e1, e2, e3, e4, e5, e6⟩ := wA_bits op d a b n (by omega)
  unfold rawSeq
  rw [e1, if_pos h]
  exact hi _ e1 e2 e3 e4 e5 e6
theorem raw_A2 {op : Nat} {d a : XReg} {i : Instr} (h : op < 0x60)
    (hi : ∀ w, bits w 56 8 = op → bits w 51 5 = d.val → bits w 46 5 = a.val → bits w 0 46 = 0 → seqIntOf w = some i) :
    rawSeq (wA op d a 0 false) = some i := by
  obtain ⟨e1, e2, e3, -⟩ := wA_bits op d a 0 false (by omega)
  have e4 := wA_noReg op d a
  unfold rawSeq
  rw [e1, if_pos h]
  exact hi _ e1 e2 e3 e4
theorem raw_I {op : Nat} {d a : XReg} {imm : BitVec 32} {i : Instr} (h : op < 0x60)
    (hi : ∀ w, bits w 56 8 = op → bits w 51 5 = d.val → bits w 46 5 = a.val → bits w 32 14 = 0 → bits w 0 32 = imm.toNat →
      seqIntOf w = some i) : rawSeq (wI op d a imm.toNat) = some i := by
  obtain ⟨e1, e2, e3, e4, e5⟩ := wI_bits op d a imm.toNat (by omega) imm.isLt
  unfold rawSeq
  rw [e1, if_pos h]
  exact hi _ e1 e2 e3 e4 e5
theorem raw_L {op : Nat} {d : XReg} {imm : BitVec 32} {i : Instr} (h : op < 0x60)
    (hi : ∀ w, bits w 56 8 = op → bits w 51 5 = d.val → bits w 32 19 = 0 → bits w 0 32 = imm.toNat → seqIntOf w = some i) :
    rawSeq (wI op d 0 imm.toNat) = some i := by
  obtain ⟨e1, e2, -, -, e5⟩ := wI_bits op d 0 imm.toNat (by omega) imm.isLt
  have e4 := wI_noReg op d imm.toNat imm.isLt
  unfold rawSeq
  rw [e1, if_pos h]
  exact hi _ e1 e2 e4 e5
theorem raw_S {op : Nat} {d a : XReg} {sh : Fin 64} {i : Instr} (h : op < 0x60)
    (hi : ∀ w, bits w 56 8 = op → bits w 51 5 = d.val → bits w 46 5 = a.val → bits w 0 6 = sh.val → bits w 6 40 = 0 →
      seqIntOf w = some i) : rawSeq (wI op d a sh.val) = some i := by
  have hs := sh.isLt
  obtain ⟨e1, e2, e3, -⟩ := wI_bits op d a sh.val (by omega) (by omega)
  obtain ⟨e4, e5⟩ := wI_shift op d a sh
  unfold rawSeq
  rw [e1, if_pos h]
  exact hi _ e1 e2 e3 e4 e5
theorem raw_B {op : Nat} {d a b : XReg} {off : BitVec 24} {i : Instr} (h0 : ¬ op < 0x60) (h : op < 0x80)
    (hi : ∀ w, bits w 56 8 = op → bits w 51 5 = d.val → bits w 46 5 = a.val → bits w 41 5 = b.val → bits w 24 17 = 0 →
      bits w 0 24 = off.toNat → seqMemOf w = some i) : rawSeq (wB op d a b off) = some i := by
  obtain ⟨e1, e2, e3, e4, e5, e6⟩ := wB_bits op d a b off (by omega)
  unfold rawSeq
  rw [e1, if_neg h0, if_pos h]
  exact hi _ e1 e2 e3 e4 e5 e6
theorem raw_M {op : Nat} {d a b : XReg} {sz sc o fn : Nat} {n : Bool} {disp : BitVec 24} {i : Instr} (h0 : ¬ op < 0x60)
    (h : op < 0x80) (hz : sz < 2 ^ 3) (hs : sc < 2 ^ 3) (hq : o < 2 ^ 2) (hf : fn < 2 ^ 5)
    (hi : ∀ w, bits w 56 8 = op → bits w 51 5 = d.val → bits w 46 5 = a.val → bits w 41 5 = b.val → bits w 38 3 = sz →
      bits w 35 3 = sc → bits w 33 2 = o → bits w 32 1 = n.toNat → bits w 27 5 = fn → bits w 24 3 = 0 →
      bits w 0 24 = disp.toNat → seqMemOf w = some i) : rawSeq (wM op d a b sz sc o n fn disp) = some i := by
  obtain ⟨e1, e2, e3, e4, e5, e6, e7, e8, e9, e10, e11⟩ := wM_bits op d a b sz sc o n fn disp (by omega) hz hs hq hf
  unfold rawSeq
  rw [e1, if_neg h0, if_pos h]
  exact hi _ e1 e2 e3 e4 e5 e6 e7 e8 e9 e10 e11
theorem raw_F {op : Nat} {d a b c : XReg} {sc imm : Nat} {x : Bool} {i : Instr} (h0 : ¬ op < 0x80) (h : op < 2 ^ 8)
    (hs : sc < 2 ^ 3) (hm : imm < 2 ^ 32)
    (hi : ∀ w, bits w 56 8 = op → bits w 51 5 = d.val → bits w 46 5 = a.val → bits w 41 5 = b.val → bits w 36 5 = c.val →
      bits w 33 3 = sc → bits w 32 1 = x.toNat → bits w 0 32 = imm → seqFabOf w = some i) :
    rawSeq (wF op d a b c sc x imm) = some i := by
  obtain ⟨e1, e2, e3, e4, e5, e6, e7, e8⟩ := wF_bits op d a b c sc x imm h hs hm
  have h1 : ¬ op < 0x60 := by omega
  unfold rawSeq
  rw [e1, if_neg h1, if_neg h0]
  exact hi _ e1 e2 e3 e4 e5 e6 e7 e8

theorem raw_W {op : Nat} {d a b : XReg} {i : Instr} (h0 : ¬ op < 0x60) (h : op < 0x80)
    (hi : ∀ w, bits w 56 8 = op → bits w 51 5 = d.val → bits w 46 5 = a.val → bits w 41 5 = b.val → bits w 0 41 = 0 →
      seqMemOf w = some i) : rawSeq (wA op d a b false) = some i := by
  obtain ⟨e1, e2, e3, e4, -⟩ := wA_bits op d a b false (by omega)
  have e5 := wA_low op d a b
  unfold rawSeq
  rw [e1, if_neg h0, if_pos h]
  exact hi _ e1 e2 e3 e4 e5
theorem amo_of (f : EFields) (h : Fin 16) : elemOf f 0x84 h.val = some (.elemAmo f h) := by
  have e : Fin.ofNat 16 h.val = h := by simp
  have g : elemOf f 0x84 h.val = some (.elemAmo f (Fin.ofNat 16 h.val)) := rfl
  rw [g, e]

theorem csr_ne {xa : XReg} {csr : BitVec 12} (hw : (Instr.seqCsrwr xa csr).wf = true) : ¬ csr.toNat = 8 := by
  intro h
  have e : csr = 0x008 := BitVec.eq_of_toNat_eq h
  rw [e] at hw
  exact absurd hw (by decide : ¬ (Instr.seqCsrwr 0 0x008).seqOk = true)
theorem bank_fields (b : Fin 16) (m : BitVec 2) :
    b.val + 16 * m.toNat < 64 ∧ Fin.ofNat 16 (b.val + 16 * m.toNat) = b ∧ BitVec.ofNat 2 ((b.val + 16 * m.toNat) / 16) = m := by
  have hb := b.isLt; have hm : m.toNat < 4 := m.isLt
  refine ⟨by omega, Fin.ext (by simp [Fin.ofNat]), BitVec.eq_of_toNat_eq ?_⟩
  rw [BitVec.toNat_ofNat]; omega
theorem send_fields (h f : BitVec 8) :
    h.toNat + 256 * f.toNat < 65536 ∧ BitVec.ofNat 8 (h.toNat + 256 * f.toNat) = h ∧
    BitVec.ofNat 8 ((h.toNat + 256 * f.toNat) / 256) = f := by
  have hh : h.toNat < 256 := h.isLt; have hf : f.toNat < 256 := f.isLt
  refine ⟨by omega, BitVec.eq_of_toNat_eq ?_, BitVec.eq_of_toNat_eq ?_⟩ <;> rw [BitVec.toNat_ofNat] <;> omega

theorem szOf_code (z : Sz) : szOf z.code = some z := by cases z <;> rfl
theorem Sz.code_lt (z : Sz) : z.code < 2 ^ 3 := by cases z <;> decide
theorem scopeOf_code (z : Scope) : scopeOf z.code = some z := by cases z <;> rfl
theorem Scope.code_lt (z : Scope) : z.code < 2 ^ 3 := by cases z <;> decide
theorem ordOf_code (z : Ord) : ordOf z.code = z := by cases z <;> rfl
theorem Ord.code_lt (z : Ord) : z.code < 2 ^ 2 := by cases z <;> decide
theorem fin32_lt (h : Fin 32) : h.val < 2 ^ 5 := h.isLt
theorem Ty.code_lt (t : Ty) : t.code < 16 := by cases t <;> decide
theorem tyOf_code (t : Ty) : tyOf t.code = some t := by cases t <;> rfl
theorem cvt_types (f : EFields) (td ts : Ty) (h : f.imm.toNat = cvtImm td ts) :
    tyOf (bits f.imm.toNat 4 4) = some td ∧ tyOf (bits f.imm.toNat 0 4) = some ts := by
  have h1 := Ty.code_lt td; have h2 := Ty.code_lt ts
  have e1 : bits f.imm.toNat 4 4 = td.code := by rw [h]; unfold bits cvtImm; omega
  have e2 : bits f.imm.toNat 0 4 = ts.code := by rw [h]; unfold bits cvtImm; omega
  rw [e1, e2, tyOf_code, tyOf_code]; exact ⟨rfl, rfl⟩

/-! ## One lemma per instruction -/

theorem Encoding.elemNop (f : EFields) : Encoding.Statement (.elemNop f) :=
  fun hw => elem_round rfl rfl rfl hw (by decide) (by decide) rfl
theorem Encoding.elemPass (f : EFields) : Encoding.Statement (.elemPass f) :=
  fun hw => elem_round rfl rfl rfl hw (by decide) (by decide) rfl
theorem Encoding.elemNullt (f : EFields) : Encoding.Statement (.elemNullt f) :=
  fun hw => elem_round rfl rfl rfl hw (by decide) (by decide) rfl
theorem Encoding.elemTags (f : EFields) (m : TagMode) : Encoding.Statement (.elemTags f m) :=
  fun hw => elem_round rfl rfl (by cases m <;> rfl) hw (by decide) (by cases m <;> decide) rfl
theorem Encoding.elemPtst (f : EFields) : Encoding.Statement (.elemPtst f) :=
  fun hw => elem_round rfl rfl rfl hw (by decide) (by decide) rfl
theorem Encoding.elemPsn (f : EFields) : Encoding.Statement (.elemPsn f) :=
  fun hw => elem_round rfl rfl rfl hw (by decide) (by decide) rfl
theorem Encoding.elemTrapi (f : EFields) : Encoding.Statement (.elemTrapi f) :=
  fun hw => elem_round rfl rfl rfl hw (by decide) (by decide) rfl
theorem Encoding.elemHalt (f : EFields) : Encoding.Statement (.elemHalt f) :=
  fun hw => elem_round rfl rfl rfl hw (by decide) (by decide) rfl
theorem Encoding.elemAdd (f : EFields) (t : IntTy) : Encoding.Statement (.elemAdd f t) :=
  fun hw => elem_round rfl rfl (by cases t <;> rfl) hw (by decide) (by cases t <;> decide) rfl
theorem Encoding.elemSub (f : EFields) (t : IntTy) : Encoding.Statement (.elemSub f t) :=
  fun hw => elem_round rfl rfl (by cases t <;> rfl) hw (by decide) (by cases t <;> decide) rfl
theorem Encoding.elemMul (f : EFields) (t : IntTy) : Encoding.Statement (.elemMul f t) :=
  fun hw => elem_round rfl rfl (by cases t <;> rfl) hw (by decide) (by cases t <;> decide) rfl
theorem Encoding.elemMulh (f : EFields) (t : IntTy) : Encoding.Statement (.elemMulh f t) :=
  fun hw => elem_round rfl rfl (by cases t <;> rfl) hw (by decide) (by cases t <;> decide) rfl
theorem Encoding.elemMad (f : EFields) (t : IntTy) : Encoding.Statement (.elemMad f t) :=
  fun hw => elem_round rfl rfl (by cases t <;> rfl) hw (by decide) (by cases t <;> decide) rfl
theorem Encoding.elemMin (f : EFields) (t : IntTy) : Encoding.Statement (.elemMin f t) :=
  fun hw => elem_round rfl rfl (by cases t <;> rfl) hw (by decide) (by cases t <;> decide) rfl
theorem Encoding.elemMax (f : EFields) (t : IntTy) : Encoding.Statement (.elemMax f t) :=
  fun hw => elem_round rfl rfl (by cases t <;> rfl) hw (by decide) (by cases t <;> decide) rfl
theorem Encoding.elemAbs (f : EFields) (t : IntTy) : Encoding.Statement (.elemAbs f t) :=
  fun hw => elem_round rfl rfl (by cases t <;> rfl) hw (by decide) (by cases t <;> decide) rfl
theorem Encoding.elemAnd (f : EFields) : Encoding.Statement (.elemAnd f) :=
  fun hw => elem_round rfl rfl rfl hw (by decide) (by decide) rfl
theorem Encoding.elemOr (f : EFields) : Encoding.Statement (.elemOr f) :=
  fun hw => elem_round rfl rfl rfl hw (by decide) (by decide) rfl
theorem Encoding.elemXor (f : EFields) : Encoding.Statement (.elemXor f) :=
  fun hw => elem_round rfl rfl rfl hw (by decide) (by decide) rfl
theorem Encoding.elemAndn (f : EFields) : Encoding.Statement (.elemAndn f) :=
  fun hw => elem_round rfl rfl rfl hw (by decide) (by decide) rfl
theorem Encoding.elemShl (f : EFields) (t : IntTy) : Encoding.Statement (.elemShl f t) :=
  fun hw => elem_round rfl rfl (by cases t <;> rfl) hw (by decide) (by cases t <;> decide) rfl
theorem Encoding.elemShr (f : EFields) (t : IntTy) : Encoding.Statement (.elemShr f t) :=
  fun hw => elem_round rfl rfl (by cases t <;> rfl) hw (by decide) (by cases t <;> decide) rfl
theorem Encoding.elemSar (f : EFields) (t : IntTy) : Encoding.Statement (.elemSar f t) :=
  fun hw => elem_round rfl rfl (by cases t <;> rfl) hw (by decide) (by cases t <;> decide) rfl
theorem Encoding.elemRot (f : EFields) (t : IntTy) : Encoding.Statement (.elemRot f t) :=
  fun hw => elem_round rfl rfl (by cases t <;> rfl) hw (by decide) (by cases t <;> decide) rfl
theorem Encoding.elemClz (f : EFields) (t : IntTy) : Encoding.Statement (.elemClz f t) :=
  fun hw => elem_round rfl rfl (by cases t <;> rfl) hw (by decide) (by cases t <;> decide) rfl
theorem Encoding.elemPopc (f : EFields) (t : IntTy) : Encoding.Statement (.elemPopc f t) :=
  fun hw => elem_round rfl rfl (by cases t <;> rfl) hw (by decide) (by cases t <;> decide) rfl
theorem Encoding.elemClmul (f : EFields) (t : NatTy) : Encoding.Statement (.elemClmul f t) :=
  fun hw => elem_round rfl rfl (by cases t <;> rfl) hw (by decide) (by cases t <;> decide) rfl
theorem Encoding.elemSel (f : EFields) (t : NatTy) : Encoding.Statement (.elemSel f t) :=
  fun hw => elem_round rfl rfl (by cases t <;> rfl) hw (by decide) (by cases t <;> decide) rfl
theorem Encoding.elemMov (f : EFields) : Encoding.Statement (.elemMov f) :=
  fun hw => elem_round rfl rfl rfl hw (by decide) (by decide) rfl
theorem Encoding.elemShuf (f : EFields) (t : NatTy) : Encoding.Statement (.elemShuf f t) :=
  fun hw => elem_round rfl rfl (by cases t <;> rfl) hw (by decide) (by cases t <;> decide) rfl
theorem Encoding.elemBcast (f : EFields) (t : NatTy) : Encoding.Statement (.elemBcast f t) :=
  fun hw => elem_round rfl rfl (by cases t <;> rfl) hw (by decide) (by cases t <;> decide) rfl
theorem Encoding.elemCmp (f : EFields) (c : Cond) (t : IntTy) : Encoding.Statement (.elemCmp f c t) :=
  fun hw => elem_round rfl rfl (by cases c <;> cases t <;> rfl) hw (by cases c <;> decide) (by cases t <;> decide) rfl
theorem Encoding.elemLred (f : EFields) (o : RedOp) (t : Ty) : Encoding.Statement (.elemLred f o t) :=
  fun hw => elem_round rfl rfl (by cases o <;> cases t <;> rfl) hw (by cases o <;> decide) (by cases t <;> decide) rfl
theorem Encoding.elemScan (f : EFields) (o : RedOp) (t : Ty) : Encoding.Statement (.elemScan f o t) :=
  fun hw => elem_round rfl rfl (by cases o <;> cases t <;> rfl) hw (by cases o <;> decide) (by cases t <;> decide) rfl
theorem Encoding.elemFadd (f : EFields) (t : FltTy) (r : Rnd) (np : Bool) :
    Encoding.Statement (.elemFadd f t r np) :=
  fun hw => elem_round rfl rfl (by cases t <;> cases r <;> cases np <;> rfl) hw (by cases t <;> decide) (by cases r <;> cases np <;> decide) rfl
theorem Encoding.elemFsub (f : EFields) (t : FltTy) (r : Rnd) (np : Bool) :
    Encoding.Statement (.elemFsub f t r np) :=
  fun hw => elem_round rfl rfl (by cases t <;> cases r <;> cases np <;> rfl) hw (by cases t <;> decide) (by cases r <;> cases np <;> decide) rfl
theorem Encoding.elemFmul (f : EFields) (t : FltTy) (r : Rnd) (np : Bool) :
    Encoding.Statement (.elemFmul f t r np) :=
  fun hw => elem_round rfl rfl (by cases t <;> cases r <;> cases np <;> rfl) hw (by cases t <;> decide) (by cases r <;> cases np <;> decide) rfl
theorem Encoding.elemFfma (f : EFields) (t : FltTy) (r : Rnd) (np : Bool) :
    Encoding.Statement (.elemFfma f t r np) :=
  fun hw => elem_round rfl rfl (by cases t <;> cases r <;> cases np <;> rfl) hw (by cases t <;> decide) (by cases r <;> cases np <;> decide) rfl
theorem Encoding.elemFmin (f : EFields) (t : FltTy) (np : Bool) : Encoding.Statement (.elemFmin f t np) :=
  fun hw => elem_round rfl rfl (by cases t <;> cases np <;> rfl) hw (by cases t <;> decide) (by cases np <;> decide) rfl
theorem Encoding.elemFmax (f : EFields) (t : FltTy) (np : Bool) : Encoding.Statement (.elemFmax f t np) :=
  fun hw => elem_round rfl rfl (by cases t <;> cases np <;> rfl) hw (by cases t <;> decide) (by cases np <;> decide) rfl
theorem Encoding.elemFcmp (f : EFields) (c : FCond) (t : FltTy) (np : Bool) :
    Encoding.Statement (.elemFcmp f c t np) :=
  fun hw => elem_round rfl rfl (by cases c <;> cases t <;> cases np <;> rfl) hw (by cases t <;> decide) (by cases c <;> cases np <;> decide) rfl
theorem Encoding.elemFdiv (f : EFields) (t : FltTy) (r : Rnd) (np : Bool) :
    Encoding.Statement (.elemFdiv f t r np) :=
  fun hw => elem_round rfl rfl (by cases t <;> cases r <;> cases np <;> rfl) hw (by cases t <;> decide) (by cases r <;> cases np <;> decide) rfl
theorem Encoding.elemFsqrt (f : EFields) (t : FltTy) (r : Rnd) (np : Bool) :
    Encoding.Statement (.elemFsqrt f t r np) :=
  fun hw => elem_round rfl rfl (by cases t <;> cases r <;> cases np <;> rfl) hw (by cases t <;> decide) (by cases r <;> cases np <;> decide) rfl
theorem Encoding.elemFrcp (f : EFields) (t : FltTy) (np : Bool) : Encoding.Statement (.elemFrcp f t np) :=
  fun hw => elem_round rfl rfl (by cases t <;> cases np <;> rfl) hw (by cases t <;> decide) (by cases np <;> decide) rfl
theorem Encoding.elemFrsq (f : EFields) (t : FltTy) (np : Bool) : Encoding.Statement (.elemFrsq f t np) :=
  fun hw => elem_round rfl rfl (by cases t <;> cases np <;> rfl) hw (by cases t <;> decide) (by cases np <;> decide) rfl
theorem Encoding.elemFexp2 (f : EFields) (t : FltTy) (np : Bool) : Encoding.Statement (.elemFexp2 f t np) :=
  fun hw => elem_round rfl rfl (by cases t <;> cases np <;> rfl) hw (by cases t <;> decide) (by cases np <;> decide) rfl
theorem Encoding.elemFlog2 (f : EFields) (t : FltTy) (np : Bool) : Encoding.Statement (.elemFlog2 f t np) :=
  fun hw => elem_round rfl rfl (by cases t <;> cases np <;> rfl) hw (by cases t <;> decide) (by cases np <;> decide) rfl
theorem Encoding.elemCvt (f : EFields) (td : Ty) (ts : Ty) (r : Rnd) (sat : Bool) :
    Encoding.Statement (.elemCvt f td ts r sat) := by
  intro hw
  have hi : f.imm.toNat = cvtImm td ts := by
    by_cases h : f.imm.toNat = cvtImm td ts
    · exact h
    · simp [Instr.wf, Instr.use, Instr.fields?, EFields.useOk, immReadOk, ImmRule.ok, h] at hw
  obtain ⟨h1, h2⟩ := cvt_types f td ts hi
  refine elem_round rfl rfl ?_ hw (by decide) (by cases r <;> cases sat <;> decide) rfl
  cases r <;> cases sat <;> simp [elemOf, controlOf, Rnd.code, h1, h2, rndOf]
theorem Encoding.elemPack (f : EFields) (td : Ty) (ts : Ty) (r : Rnd) (sat : Bool) :
    Encoding.Statement (.elemPack f td ts r sat) := by
  intro hw
  have hi : f.imm.toNat = cvtImm td ts := by
    by_cases h : f.imm.toNat = cvtImm td ts
    · exact h
    · simp [Instr.wf, Instr.use, Instr.fields?, EFields.useOk, immReadOk, ImmRule.ok, h] at hw
  obtain ⟨h1, h2⟩ := cvt_types f td ts hi
  refine elem_round rfl rfl ?_ hw (by decide) (by cases r <;> cases sat <;> decide) rfl
  cases r <;> cases sat <;> simp [elemOf, controlOf, Rnd.code, h1, h2, rndOf]
theorem Encoding.elemUnpk (f : EFields) (td : Ty) (ts : Ty) : Encoding.Statement (.elemUnpk f td ts) := by
  intro hw
  have hi : f.imm.toNat = cvtImm td ts := by
    by_cases h : f.imm.toNat = cvtImm td ts
    · exact h
    · simp [Instr.wf, Instr.use, Instr.fields?, EFields.useOk, immReadOk, ImmRule.ok, h] at hw
  obtain ⟨h1, h2⟩ := cvt_types f td ts hi
  refine elem_round rfl rfl ?_ hw (by decide) (by decide) rfl
  simp [elemOf, controlOf, h1, h2]
theorem Encoding.elemLd (f : EFields) (sh : Shape) : Encoding.Statement (.elemLd f sh) :=
  fun hw => elem_round rfl rfl (by cases sh <;> rfl) hw (by decide) (by cases sh <;> decide) rfl
theorem Encoding.elemSt (f : EFields) (sh : Shape) : Encoding.Statement (.elemSt f sh) :=
  fun hw => elem_round rfl rfl (by cases sh <;> rfl) hw (by decide) (by cases sh <;> decide) rfl
theorem Encoding.elemLda (f : EFields) (sc : Scope) : Encoding.Statement (.elemLda f sc) :=
  fun hw => elem_round rfl rfl (by cases sc <;> rfl) hw (by decide) (by cases sc <;> decide) rfl
theorem Encoding.elemStl (f : EFields) (sc : Scope) : Encoding.Statement (.elemStl f sc) :=
  fun hw => elem_round rfl rfl (by cases sc <;> rfl) hw (by decide) (by cases sc <;> decide) rfl
theorem Encoding.elemAmo (f : EFields) (h : Fin 16) : Encoding.Statement (.elemAmo f h) :=
  fun hw => elem_round rfl rfl (amo_of f h) hw (by decide) h.isLt rfl
theorem Encoding.elemVamo (f : EFields) (wide : Bool) : Encoding.Statement (.elemVamo f wide) :=
  fun hw => elem_round rfl rfl (by cases wide <;> rfl) hw (by decide) (by cases wide <;> decide) rfl
theorem Encoding.elemCst (f : EFields) (sc : Scope) : Encoding.Statement (.elemCst f sc) :=
  fun hw => elem_round rfl rfl (by cases sc <;> rfl) hw (by decide) (by cases sc <;> decide) rfl
theorem Encoding.elemLdst (f : EFields) : Encoding.Statement (.elemLdst f) :=
  fun hw => elem_round rfl rfl rfl hw (by decide) (by decide) rfl
theorem Encoding.elemLdcb (f : EFields) : Encoding.Statement (.elemLdcb f) :=
  fun hw => elem_round rfl rfl rfl hw (by decide) (by decide) rfl
theorem Encoding.elemSwapw (f : EFields) : Encoding.Statement (.elemSwapw f) :=
  fun hw => elem_round rfl rfl rfl hw (by decide) (by decide) rfl
theorem Encoding.elemMma (f : EFields) (zs : Bool) (tor : Bool) : Encoding.Statement (.elemMma f zs tor) :=
  fun hw => elem_round rfl rfl (by cases zs <;> cases tor <;> rfl) hw (by decide) (by cases zs <;> cases tor <;> decide) rfl
theorem Encoding.elemAcca (f : EFields) (t : AccTy) : Encoding.Statement (.elemAcca f t) :=
  fun hw => elem_round rfl rfl (by cases t <;> rfl) hw (by decide) (by cases t <;> decide) rfl
theorem Encoding.elemAccd (f : EFields) (t : Ty) : Encoding.Statement (.elemAccd f t) :=
  fun hw => elem_round rfl rfl (by cases t <;> rfl) hw (by decide) (by cases t <;> decide) rfl
theorem Encoding.elemAccz (f : EFields) : Encoding.Statement (.elemAccz f) :=
  fun hw => elem_round rfl rfl rfl hw (by decide) (by decide) rfl
theorem Encoding.elemAccs (f : EFields) : Encoding.Statement (.elemAccs f) :=
  fun hw => elem_round rfl rfl rfl hw (by decide) (by decide) rfl
theorem Encoding.elemAccl (f : EFields) : Encoding.Statement (.elemAccl f) :=
  fun hw => elem_round rfl rfl rfl hw (by decide) (by decide) rfl
theorem Encoding.pipelinedResult (pl : Nat) (k : Nat) : Encoding.Statement (.pipelinedResult pl k) :=
  fun _ => ⟨rfl, rfl⟩
theorem Encoding.accOperation (pl : Nat) (k : Nat) : Encoding.Statement (.accOperation pl k) :=
  fun _ => ⟨rfl, rfl⟩
theorem Encoding.tokenArrive (k : Nat) : Encoding.Statement (.tokenArrive k) :=
  fun _ => ⟨rfl, rfl⟩
theorem Encoding.tileWake (tile : Nat) : Encoding.Statement (.tileWake tile) :=
  fun _ => ⟨rfl, rfl⟩
theorem Encoding.knotTake (pl : Nat) (unit : Nat) : Encoding.Statement (.knotTake pl unit) :=
  fun _ => ⟨rfl, rfl⟩
theorem Encoding.backEdgeKnotDiscard (pl : Nat) (unit : Nat) (ch : Nat) :
    Encoding.Statement (.backEdgeKnotDiscard pl unit ch) :=
  fun _ => ⟨rfl, rfl⟩
theorem Encoding.knotCommit (pl : Nat) : Encoding.Statement (.knotCommit pl) :=
  fun _ => ⟨rfl, rfl⟩
theorem Encoding.implicitKnot (pl : Nat) : Encoding.Statement (.implicitKnot pl) :=
  fun _ => ⟨rfl, rfl⟩
theorem Encoding.drainTake (pl : Nat) (unit : Nat) : Encoding.Statement (.drainTake pl unit) :=
  fun _ => ⟨rfl, rfl⟩
theorem Encoding.lateTokenDiscard (pl : Nat) (unit : Nat) (ch : Nat) :
    Encoding.Statement (.lateTokenDiscard pl unit ch) :=
  fun _ => ⟨rfl, rfl⟩
theorem Encoding.openSourceDrain (pl : Nat) (unit : Nat) : Encoding.Statement (.openSourceDrain pl unit) :=
  fun _ => ⟨rfl, rfl⟩
theorem Encoding.regionRollback (pl : Nat) : Encoding.Statement (.regionRollback pl) :=
  fun _ => ⟨rfl, rfl⟩
theorem Encoding.weightRefill (pl : Nat) (elem : Nat) : Encoding.Statement (.weightRefill pl elem) :=
  fun _ => ⟨rfl, rfl⟩
theorem Encoding.assayComplete (tile : Nat) (r : AssayResult) : Encoding.Statement (.assayComplete tile r) :=
  fun _ => ⟨rfl, rfl⟩
theorem Encoding.markerArrival (pl : Nat) (unit : Nat) (ch : Nat) :
    Encoding.Statement (.markerArrival pl unit ch) :=
  fun _ => ⟨rfl, rfl⟩
theorem Encoding.idleReport (pl : Nat) : Encoding.Statement (.idleReport pl) :=
  fun _ => ⟨rfl, rfl⟩
theorem Encoding.agenStep (pl : Nat) : Encoding.Statement (.agenStep pl) :=
  fun _ => ⟨rfl, rfl⟩
theorem Encoding.mifRequestTake (pl : Nat) : Encoding.Statement (.mifRequestTake pl) :=
  fun _ => ⟨rfl, rfl⟩
theorem Encoding.mifStreamAccess (pl : Nat) : Encoding.Statement (.mifStreamAccess pl) :=
  fun _ => ⟨rfl, rfl⟩
theorem Encoding.memoryReply (k : Nat) : Encoding.Statement (.memoryReply k) :=
  fun _ => ⟨rfl, rfl⟩
theorem Encoding.wportToken (pl : Nat) : Encoding.Statement (.wportToken pl) :=
  fun _ => ⟨rfl, rfl⟩
theorem Encoding.steerStep (pl : Nat) : Encoding.Statement (.steerStep pl) :=
  fun _ => ⟨rfl, rfl⟩
theorem Encoding.mergeStep (pl : Nat) : Encoding.Statement (.mergeStep pl) :=
  fun _ => ⟨rfl, rfl⟩
theorem Encoding.scaleStep (pl : Nat) : Encoding.Statement (.scaleStep pl) :=
  fun _ => ⟨rfl, rfl⟩
theorem Encoding.bflyStep (pl : Nat) : Encoding.Statement (.bflyStep pl) :=
  fun _ => ⟨rfl, rfl⟩
theorem Encoding.convStep (pl : Nat) : Encoding.Statement (.convStep pl) :=
  fun _ => ⟨rfl, rfl⟩
theorem Encoding.redStep (pl : Nat) : Encoding.Statement (.redStep pl) :=
  fun _ => ⟨rfl, rfl⟩
theorem Encoding.maskReload (pl : Nat) : Encoding.Statement (.maskReload pl) :=
  fun _ => ⟨rfl, rfl⟩
theorem Encoding.maskQuery (pl : Nat) : Encoding.Statement (.maskQuery pl) :=
  fun _ => ⟨rfl, rfl⟩
theorem Encoding.rngToken (pl : Nat) : Encoding.Statement (.rngToken pl) :=
  fun _ => ⟨rfl, rfl⟩
theorem Encoding.checkPair (pl : Nat) (pair : Nat) : Encoding.Statement (.checkPair pl pair) :=
  fun _ => ⟨rfl, rfl⟩
theorem Encoding.homeLoad (k : Nat) : Encoding.Statement (.homeLoad k) :=
  fun _ => ⟨rfl, rfl⟩
theorem Encoding.homeWrite (k : Nat) : Encoding.Statement (.homeWrite k) :=
  fun _ => ⟨rfl, rfl⟩
theorem Encoding.handlerApply (k : Nat) : Encoding.Statement (.handlerApply k) :=
  fun _ => ⟨rfl, rfl⟩
theorem Encoding.vamoApply (k : Nat) : Encoding.Statement (.vamoApply k) :=
  fun _ => ⟨rfl, rfl⟩
theorem Encoding.claspOpen (k : Nat) : Encoding.Statement (.claspOpen k) :=
  fun _ => ⟨rfl, rfl⟩
theorem Encoding.claspPacket (k : Nat) : Encoding.Statement (.claspPacket k) :=
  fun _ => ⟨rfl, rfl⟩
theorem Encoding.claspRelease (k : Nat) : Encoding.Statement (.claspRelease k) :=
  fun _ => ⟨rfl, rfl⟩
theorem Encoding.strandAck (k : Nat) : Encoding.Statement (.strandAck k) :=
  fun _ => ⟨rfl, rfl⟩
theorem Encoding.strandRetry (k : Nat) : Encoding.Statement (.strandRetry k) :=
  fun _ => ⟨rfl, rfl⟩
theorem Encoding.badPacketDiscard (link : Fin 16) (flit : BitVec 256) :
    Encoding.Statement (.badPacketDiscard link flit) :=
  fun _ => ⟨rfl, rfl⟩
theorem Encoding.frameEntryAdvance (cluster : Nat) : Encoding.Statement (.frameEntryAdvance cluster) :=
  fun _ => ⟨rfl, rfl⟩
theorem Encoding.waybillStart (cluster : Nat) (k : Nat) : Encoding.Statement (.waybillStart cluster k) :=
  fun _ => ⟨rfl, rfl⟩
theorem Encoding.copySector (cluster : Nat) (k : Nat) : Encoding.Statement (.copySector cluster k) :=
  fun _ => ⟨rfl, rfl⟩
theorem Encoding.waybillRetire (cluster : Nat) (k : Nat) : Encoding.Statement (.waybillRetire cluster k) :=
  fun _ => ⟨rfl, rfl⟩
theorem Encoding.seqAdd (xd : XReg) (xa : XReg) (xb : XReg) : Encoding.Statement (.seqAdd xd xa xb) :=
  fun hw => seq_round rfl (raw_A (by decide) (fun w e1 e2 e3 e4 e5 e6 => by simp [seqIntOf, e1, e2, e3, e4, e5, e6, xreg_val])) hw rfl (wA_lt _ _ _ _ _ (by decide))
theorem Encoding.seqSub (xd : XReg) (xa : XReg) (xb : XReg) : Encoding.Statement (.seqSub xd xa xb) :=
  fun hw => seq_round rfl (raw_A (by decide) (fun w e1 e2 e3 e4 e5 e6 => by simp [seqIntOf, e1, e2, e3, e4, e5, e6, xreg_val])) hw rfl (wA_lt _ _ _ _ _ (by decide))
theorem Encoding.seqMul (xd : XReg) (xa : XReg) (xb : XReg) : Encoding.Statement (.seqMul xd xa xb) :=
  fun hw => seq_round rfl (raw_A (by decide) (fun w e1 e2 e3 e4 e5 e6 => by simp [seqIntOf, e1, e2, e3, e4, e5, e6, xreg_val])) hw rfl (wA_lt _ _ _ _ _ (by decide))
theorem Encoding.seqMulh (xd : XReg) (xa : XReg) (xb : XReg) (n : Bool) :
    Encoding.Statement (.seqMulh xd xa xb n) :=
  fun hw => seq_round rfl (raw_A (by decide) (fun w e1 e2 e3 e4 e5 e6 => by cases n <;> simp [seqIntOf, e1, e2, e3, e4, e5, e6, xreg_val])) hw rfl (wA_lt _ _ _ _ _ (by decide))
theorem Encoding.seqDiv (xd : XReg) (xa : XReg) (xb : XReg) (n : Bool) :
    Encoding.Statement (.seqDiv xd xa xb n) :=
  fun hw => seq_round rfl (raw_A (by decide) (fun w e1 e2 e3 e4 e5 e6 => by cases n <;> simp [seqIntOf, e1, e2, e3, e4, e5, e6, xreg_val])) hw rfl (wA_lt _ _ _ _ _ (by decide))
theorem Encoding.seqRem (xd : XReg) (xa : XReg) (xb : XReg) (n : Bool) :
    Encoding.Statement (.seqRem xd xa xb n) :=
  fun hw => seq_round rfl (raw_A (by decide) (fun w e1 e2 e3 e4 e5 e6 => by cases n <;> simp [seqIntOf, e1, e2, e3, e4, e5, e6, xreg_val])) hw rfl (wA_lt _ _ _ _ _ (by decide))
theorem Encoding.seqAnd (xd : XReg) (xa : XReg) (xb : XReg) : Encoding.Statement (.seqAnd xd xa xb) :=
  fun hw => seq_round rfl (raw_A (by decide) (fun w e1 e2 e3 e4 e5 e6 => by simp [seqIntOf, e1, e2, e3, e4, e5, e6, xreg_val])) hw rfl (wA_lt _ _ _ _ _ (by decide))
theorem Encoding.seqOr (xd : XReg) (xa : XReg) (xb : XReg) : Encoding.Statement (.seqOr xd xa xb) :=
  fun hw => seq_round rfl (raw_A (by decide) (fun w e1 e2 e3 e4 e5 e6 => by simp [seqIntOf, e1, e2, e3, e4, e5, e6, xreg_val])) hw rfl (wA_lt _ _ _ _ _ (by decide))
theorem Encoding.seqXor (xd : XReg) (xa : XReg) (xb : XReg) : Encoding.Statement (.seqXor xd xa xb) :=
  fun hw => seq_round rfl (raw_A (by decide) (fun w e1 e2 e3 e4 e5 e6 => by simp [seqIntOf, e1, e2, e3, e4, e5, e6, xreg_val])) hw rfl (wA_lt _ _ _ _ _ (by decide))
theorem Encoding.seqShl (xd : XReg) (xa : XReg) (xb : XReg) : Encoding.Statement (.seqShl xd xa xb) :=
  fun hw => seq_round rfl (raw_A (by decide) (fun w e1 e2 e3 e4 e5 e6 => by simp [seqIntOf, e1, e2, e3, e4, e5, e6, xreg_val])) hw rfl (wA_lt _ _ _ _ _ (by decide))
theorem Encoding.seqShr (xd : XReg) (xa : XReg) (xb : XReg) : Encoding.Statement (.seqShr xd xa xb) :=
  fun hw => seq_round rfl (raw_A (by decide) (fun w e1 e2 e3 e4 e5 e6 => by simp [seqIntOf, e1, e2, e3, e4, e5, e6, xreg_val])) hw rfl (wA_lt _ _ _ _ _ (by decide))
theorem Encoding.seqSar (xd : XReg) (xa : XReg) (xb : XReg) : Encoding.Statement (.seqSar xd xa xb) :=
  fun hw => seq_round rfl (raw_A (by decide) (fun w e1 e2 e3 e4 e5 e6 => by simp [seqIntOf, e1, e2, e3, e4, e5, e6, xreg_val])) hw rfl (wA_lt _ _ _ _ _ (by decide))
theorem Encoding.seqMin (xd : XReg) (xa : XReg) (xb : XReg) (n : Bool) :
    Encoding.Statement (.seqMin xd xa xb n) :=
  fun hw => seq_round rfl (raw_A (by decide) (fun w e1 e2 e3 e4 e5 e6 => by cases n <;> simp [seqIntOf, e1, e2, e3, e4, e5, e6, xreg_val])) hw rfl (wA_lt _ _ _ _ _ (by decide))
theorem Encoding.seqMax (xd : XReg) (xa : XReg) (xb : XReg) (n : Bool) :
    Encoding.Statement (.seqMax xd xa xb n) :=
  fun hw => seq_round rfl (raw_A (by decide) (fun w e1 e2 e3 e4 e5 e6 => by cases n <;> simp [seqIntOf, e1, e2, e3, e4, e5, e6, xreg_val])) hw rfl (wA_lt _ _ _ _ _ (by decide))
theorem Encoding.seqClz (xd : XReg) (xa : XReg) : Encoding.Statement (.seqClz xd xa) :=
  fun hw => seq_round rfl (raw_A2 (by decide) (fun w e1 e2 e3 e4 => by simp [seqIntOf, e1, e2, e3, e4, xreg_val])) hw rfl (wA_lt _ _ _ _ _ (by decide))
theorem Encoding.seqPopc (xd : XReg) (xa : XReg) : Encoding.Statement (.seqPopc xd xa) :=
  fun hw => seq_round rfl (raw_A2 (by decide) (fun w e1 e2 e3 e4 => by simp [seqIntOf, e1, e2, e3, e4, xreg_val])) hw rfl (wA_lt _ _ _ _ _ (by decide))
theorem Encoding.seqAddi (xd : XReg) (xa : XReg) (imm : BitVec 32) : Encoding.Statement (.seqAddi xd xa imm) :=
  fun hw => seq_round rfl (raw_I (by decide) (fun w e1 e2 e3 e4 e5 => by simp [seqIntOf, e1, e2, e3, e4, e5, xreg_val])) hw rfl (wI_lt _ _ _ _ (by decide) (BitVec.isLt _))
theorem Encoding.seqAndi (xd : XReg) (xa : XReg) (imm : BitVec 32) : Encoding.Statement (.seqAndi xd xa imm) :=
  fun hw => seq_round rfl (raw_I (by decide) (fun w e1 e2 e3 e4 e5 => by simp [seqIntOf, e1, e2, e3, e4, e5, xreg_val])) hw rfl (wI_lt _ _ _ _ (by decide) (BitVec.isLt _))
theorem Encoding.seqOri (xd : XReg) (xa : XReg) (imm : BitVec 32) : Encoding.Statement (.seqOri xd xa imm) :=
  fun hw => seq_round rfl (raw_I (by decide) (fun w e1 e2 e3 e4 e5 => by simp [seqIntOf, e1, e2, e3, e4, e5, xreg_val])) hw rfl (wI_lt _ _ _ _ (by decide) (BitVec.isLt _))
theorem Encoding.seqXori (xd : XReg) (xa : XReg) (imm : BitVec 32) : Encoding.Statement (.seqXori xd xa imm) :=
  fun hw => seq_round rfl (raw_I (by decide) (fun w e1 e2 e3 e4 e5 => by simp [seqIntOf, e1, e2, e3, e4, e5, xreg_val])) hw rfl (wI_lt _ _ _ _ (by decide) (BitVec.isLt _))
theorem Encoding.seqShli (xd : XReg) (xa : XReg) (sh : Fin 64) : Encoding.Statement (.seqShli xd xa sh) :=
  fun hw => seq_round rfl (raw_S (by decide) (fun w e1 e2 e3 e4 e5 => by simp [seqIntOf, e1, e2, e3, e4, e5, xreg_val])) hw rfl (wI_lt _ _ _ _ (by decide) (by have := sh.isLt; omega))
theorem Encoding.seqShri (xd : XReg) (xa : XReg) (sh : Fin 64) : Encoding.Statement (.seqShri xd xa sh) :=
  fun hw => seq_round rfl (raw_S (by decide) (fun w e1 e2 e3 e4 e5 => by simp [seqIntOf, e1, e2, e3, e4, e5, xreg_val])) hw rfl (wI_lt _ _ _ _ (by decide) (by have := sh.isLt; omega))
theorem Encoding.seqSari (xd : XReg) (xa : XReg) (sh : Fin 64) : Encoding.Statement (.seqSari xd xa sh) :=
  fun hw => seq_round rfl (raw_S (by decide) (fun w e1 e2 e3 e4 e5 => by simp [seqIntOf, e1, e2, e3, e4, e5, xreg_val])) hw rfl (wI_lt _ _ _ _ (by decide) (by have := sh.isLt; omega))
theorem Encoding.seqLi (xd : XReg) (imm : BitVec 32) : Encoding.Statement (.seqLi xd imm) :=
  fun hw => seq_round rfl (raw_L (by decide) (fun w e1 e2 e3 e4 => by simp [seqIntOf, e1, e2, e3, e4, xreg_val])) hw rfl (wI_lt _ _ _ _ (by decide) (BitVec.isLt _))
theorem Encoding.seqLih (xd : XReg) (xa : XReg) (imm : BitVec 32) : Encoding.Statement (.seqLih xd xa imm) :=
  fun hw => seq_round rfl (raw_I (by decide) (fun w e1 e2 e3 e4 e5 => by simp [seqIntOf, e1, e2, e3, e4, e5, xreg_val])) hw rfl (wI_lt _ _ _ _ (by decide) (BitVec.isLt _))
theorem Encoding.seqBeq (xa : XReg) (xb : XReg) (off : BitVec 24) : Encoding.Statement (.seqBeq xa xb off) :=
  fun hw => seq_round rfl (raw_B (by decide) (by decide) (fun w e1 e2 e3 e4 e5 e6 => by simp [seqMemOf, e1, e2, e3, e4, e5, e6, xreg_val])) hw rfl (wB_lt _ _ _ _ _ (by decide))
theorem Encoding.seqBne (xa : XReg) (xb : XReg) (off : BitVec 24) : Encoding.Statement (.seqBne xa xb off) :=
  fun hw => seq_round rfl (raw_B (by decide) (by decide) (fun w e1 e2 e3 e4 e5 e6 => by simp [seqMemOf, e1, e2, e3, e4, e5, e6, xreg_val])) hw rfl (wB_lt _ _ _ _ _ (by decide))
theorem Encoding.seqBlt (xa : XReg) (xb : XReg) (off : BitVec 24) : Encoding.Statement (.seqBlt xa xb off) :=
  fun hw => seq_round rfl (raw_B (by decide) (by decide) (fun w e1 e2 e3 e4 e5 e6 => by simp [seqMemOf, e1, e2, e3, e4, e5, e6, xreg_val])) hw rfl (wB_lt _ _ _ _ _ (by decide))
theorem Encoding.seqBge (xa : XReg) (xb : XReg) (off : BitVec 24) : Encoding.Statement (.seqBge xa xb off) :=
  fun hw => seq_round rfl (raw_B (by decide) (by decide) (fun w e1 e2 e3 e4 e5 e6 => by simp [seqMemOf, e1, e2, e3, e4, e5, e6, xreg_val])) hw rfl (wB_lt _ _ _ _ _ (by decide))
theorem Encoding.seqBltn (xa : XReg) (xb : XReg) (off : BitVec 24) : Encoding.Statement (.seqBltn xa xb off) :=
  fun hw => seq_round rfl (raw_B (by decide) (by decide) (fun w e1 e2 e3 e4 e5 e6 => by simp [seqMemOf, e1, e2, e3, e4, e5, e6, xreg_val])) hw rfl (wB_lt _ _ _ _ _ (by decide))
theorem Encoding.seqBgen (xa : XReg) (xb : XReg) (off : BitVec 24) : Encoding.Statement (.seqBgen xa xb off) :=
  fun hw => seq_round rfl (raw_B (by decide) (by decide) (fun w e1 e2 e3 e4 e5 e6 => by simp [seqMemOf, e1, e2, e3, e4, e5, e6, xreg_val])) hw rfl (wB_lt _ _ _ _ _ (by decide))
theorem Encoding.seqJ (off : BitVec 24) : Encoding.Statement (.seqJ off) :=
  fun hw => seq_round rfl (raw_B (by decide) (by decide) (fun w e1 e2 e3 e4 e5 e6 => by simp [seqMemOf, e1, e2, e3, e4, e5, e6, xreg_val])) hw rfl (wB_lt _ _ _ _ _ (by decide))
theorem Encoding.seqJal (xd : XReg) (off : BitVec 24) : Encoding.Statement (.seqJal xd off) :=
  fun hw => seq_round rfl (raw_B (by decide) (by decide) (fun w e1 e2 e3 e4 e5 e6 => by simp [seqMemOf, e1, e2, e3, e4, e5, e6, xreg_val])) hw rfl (wB_lt _ _ _ _ _ (by decide))
theorem Encoding.seqJi (xa : XReg) (off : BitVec 24) : Encoding.Statement (.seqJi xa off) :=
  fun hw => seq_round rfl (raw_B (by decide) (by decide) (fun w e1 e2 e3 e4 e5 e6 => by simp [seqMemOf, e1, e2, e3, e4, e5, e6, xreg_val])) hw rfl (wB_lt _ _ _ _ _ (by decide))
theorem Encoding.seqJali (xd : XReg) (xa : XReg) (off : BitVec 24) : Encoding.Statement (.seqJali xd xa off) :=
  fun hw => seq_round rfl (raw_B (by decide) (by decide) (fun w e1 e2 e3 e4 e5 e6 => by simp [seqMemOf, e1, e2, e3, e4, e5, e6, xreg_val])) hw rfl (wB_lt _ _ _ _ _ (by decide))
theorem Encoding.seqLd (xd : XReg) (xa : XReg) (sz : Sz) (n : Bool) (disp : BitVec 24) :
    Encoding.Statement (.seqLd xd xa sz n disp) :=
  fun hw => seq_round rfl (raw_M (by decide) (by decide) (by first | exact Sz.code_lt _ | decide) (by first | exact Scope.code_lt _ | decide) (by first | exact Ord.code_lt _ | decide) (by first | exact fin32_lt _ | decide) (fun w e1 e2 e3 e4 e5 e6 e7 e8 e9 e10 e11 => by
    cases n <;> simp [seqMemOf, e1, e2, e3, e4, e5, e6, e7, e8, e9, e10, e11, xreg_val, szOf_code, scopeOf_code, ordOf_code])) hw rfl (wM_lt _ _ _ _ _ _ _ _ _ _ (by decide) (by first | exact Sz.code_lt _ | decide) (by first | exact Scope.code_lt _ | decide) (by first | exact Ord.code_lt _ | decide) (by first | exact fin32_lt _ | decide))
theorem Encoding.seqSt (xa : XReg) (xb : XReg) (sz : Sz) (disp : BitVec 24) :
    Encoding.Statement (.seqSt xa xb sz disp) :=
  fun hw => seq_round rfl (raw_M (by decide) (by decide) (by first | exact Sz.code_lt _ | decide) (by first | exact Scope.code_lt _ | decide) (by first | exact Ord.code_lt _ | decide) (by first | exact fin32_lt _ | decide) (fun w e1 e2 e3 e4 e5 e6 e7 e8 e9 e10 e11 => by
    simp [seqMemOf, e1, e2, e3, e4, e5, e6, e7, e8, e9, e10, e11, xreg_val, szOf_code, scopeOf_code, ordOf_code])) hw rfl (wM_lt _ _ _ _ _ _ _ _ _ _ (by decide) (by first | exact Sz.code_lt _ | decide) (by first | exact Scope.code_lt _ | decide) (by first | exact Ord.code_lt _ | decide) (by first | exact fin32_lt _ | decide))
theorem Encoding.seqLda (xd : XReg) (xa : XReg) (sz : Sz) (n : Bool) (sc : Scope) (disp : BitVec 24) :
    Encoding.Statement (.seqLda xd xa sz n sc disp) :=
  fun hw => seq_round rfl (raw_M (by decide) (by decide) (by first | exact Sz.code_lt _ | decide) (by first | exact Scope.code_lt _ | decide) (by first | exact Ord.code_lt _ | decide) (by first | exact fin32_lt _ | decide) (fun w e1 e2 e3 e4 e5 e6 e7 e8 e9 e10 e11 => by
    cases n <;> simp [seqMemOf, e1, e2, e3, e4, e5, e6, e7, e8, e9, e10, e11, xreg_val, szOf_code, scopeOf_code, ordOf_code])) hw rfl (wM_lt _ _ _ _ _ _ _ _ _ _ (by decide) (by first | exact Sz.code_lt _ | decide) (by first | exact Scope.code_lt _ | decide) (by first | exact Ord.code_lt _ | decide) (by first | exact fin32_lt _ | decide))
theorem Encoding.seqStl (xa : XReg) (xb : XReg) (sz : Sz) (sc : Scope) (disp : BitVec 24) :
    Encoding.Statement (.seqStl xa xb sz sc disp) :=
  fun hw => seq_round rfl (raw_M (by decide) (by decide) (by first | exact Sz.code_lt _ | decide) (by first | exact Scope.code_lt _ | decide) (by first | exact Ord.code_lt _ | decide) (by first | exact fin32_lt _ | decide) (fun w e1 e2 e3 e4 e5 e6 e7 e8 e9 e10 e11 => by
    simp [seqMemOf, e1, e2, e3, e4, e5, e6, e7, e8, e9, e10, e11, xreg_val, szOf_code, scopeOf_code, ordOf_code])) hw rfl (wM_lt _ _ _ _ _ _ _ _ _ _ (by decide) (by first | exact Sz.code_lt _ | decide) (by first | exact Scope.code_lt _ | decide) (by first | exact Ord.code_lt _ | decide) (by first | exact fin32_lt _ | decide))
theorem Encoding.seqAmo (xd : XReg) (xa : XReg) (xb : XReg) (sz : Sz) (sc : Scope) (o : Ord) (h : Fin 32) (disp : BitVec 24) :
    Encoding.Statement (.seqAmo xd xa xb sz sc o h disp) :=
  fun hw => seq_round rfl (raw_M (by decide) (by decide) (by first | exact Sz.code_lt _ | decide) (by first | exact Scope.code_lt _ | decide) (by first | exact Ord.code_lt _ | decide) (by first | exact fin32_lt _ | decide) (fun w e1 e2 e3 e4 e5 e6 e7 e8 e9 e10 e11 => by
    simp [seqMemOf, e1, e2, e3, e4, e5, e6, e7, e8, e9, e10, e11, xreg_val, szOf_code, scopeOf_code, ordOf_code])) hw rfl (wM_lt _ _ _ _ _ _ _ _ _ _ (by decide) (by first | exact Sz.code_lt _ | decide) (by first | exact Scope.code_lt _ | decide) (by first | exact Ord.code_lt _ | decide) (by first | exact fin32_lt _ | decide))
theorem Encoding.seqAtomicResult (k : Nat) : Encoding.Statement (.seqAtomicResult k) :=
  fun _ => ⟨rfl, rfl⟩
theorem Encoding.seqFence (sc : Scope) (o : Ord) : Encoding.Statement (.seqFence sc o) :=
  fun hw => seq_round rfl (raw_M (by decide) (by decide) (by first | exact Sz.code_lt _ | decide) (by first | exact Scope.code_lt _ | decide) (by first | exact Ord.code_lt _ | decide) (by first | exact fin32_lt _ | decide) (fun w e1 e2 e3 e4 e5 e6 e7 e8 e9 e10 e11 => by
    simp [seqMemOf, e1, e2, e3, e4, e5, e6, e7, e8, e9, e10, e11, xreg_val, szOf_code, scopeOf_code, ordOf_code])) hw rfl (wM_lt _ _ _ _ _ _ _ _ _ _ (by decide) (by first | exact Sz.code_lt _ | decide) (by first | exact Scope.code_lt _ | decide) (by first | exact Ord.code_lt _ | decide) (by first | exact fin32_lt _ | decide))
theorem Encoding.seqMon (xa : XReg) (disp : BitVec 24) : Encoding.Statement (.seqMon xa disp) :=
  fun hw => seq_round (w := wB 0x76 0 xa 0 disp) (congrArg Code.seq (wM_plain 0x76 0 xa 0 disp))
    (raw_B (by decide) (by decide) (fun w e1 e2 e3 e4 e5 e6 => by simp [seqMemOf, e1, e2, e3, e4, e5, e6, xreg_val])) hw rfl
    (wB_lt _ _ _ _ _ (by decide))
theorem Encoding.seqMwait (xd : XReg) (xb : XReg) : Encoding.Statement (.seqMwait xd xb) :=
  fun hw => seq_round (w := wA 0x77 xd 0 xb false) (congrArg Code.seq (wM_zero 0x77 xd 0 xb))
    (raw_W (by decide) (by decide) (fun w e1 e2 e3 e4 e5 => by simp [seqMemOf, e1, e2, e3, e4, e5, xreg_val])) hw rfl
    (wA_lt _ _ _ _ _ (by decide))
theorem Encoding.mwaitWake (cid : Nat) : Encoding.Statement (.mwaitWake cid) :=
  fun _ => ⟨rfl, rfl⟩
theorem Encoding.mwaitLimit (cid : Nat) : Encoding.Statement (.mwaitLimit cid) :=
  fun _ => ⟨rfl, rfl⟩
theorem Encoding.seqPlace (xd : XReg) (xa : XReg) (xb : XReg) : Encoding.Statement (.seqPlace xd xa xb) :=
  fun hw => seq_round rfl (raw_F (by decide) (by decide) (by first | exact Scope.code_lt _ | decide) (by decide) (fun w e1 e2 e3 e4 e5 e6 e7 e8 => by
    simp [seqFabOf, e1, e2, e3, e4, e5, e6, e7, e8, xreg_val, szOf_code, scopeOf_code, ordOf_code])) hw rfl (wF_lt _ _ _ _ _ _ _ _ (by decide) (by first | exact Scope.code_lt _ | decide) (by decide))
theorem Encoding.seqArm (xa : XReg) (xb : XReg) : Encoding.Statement (.seqArm xa xb) :=
  fun hw => seq_round rfl (raw_F (by decide) (by decide) (by first | exact Scope.code_lt _ | decide) (by decide) (fun w e1 e2 e3 e4 e5 e6 e7 e8 => by
    simp [seqFabOf, e1, e2, e3, e4, e5, e6, e7, e8, xreg_val, szOf_code, scopeOf_code, ordOf_code])) hw rfl (wF_lt _ _ _ _ _ _ _ _ (by decide) (by first | exact Scope.code_lt _ | decide) (by decide))
theorem Encoding.seqWbill (xd : XReg) (xa : XReg) : Encoding.Statement (.seqWbill xd xa) :=
  fun hw => seq_round rfl (raw_F (by decide) (by decide) (by first | exact Scope.code_lt _ | decide) (by decide) (fun w e1 e2 e3 e4 e5 e6 e7 e8 => by
    simp [seqFabOf, e1, e2, e3, e4, e5, e6, e7, e8, xreg_val, szOf_code, scopeOf_code, ordOf_code])) hw rfl (wF_lt _ _ _ _ _ _ _ _ (by decide) (by first | exact Scope.code_lt _ | decide) (by decide))
theorem Encoding.wbillRoom (cid : Nat) : Encoding.Statement (.wbillRoom cid) :=
  fun _ => ⟨rfl, rfl⟩
theorem Encoding.seqWaitw (xd : XReg) (xa : XReg) : Encoding.Statement (.seqWaitw xd xa) :=
  fun hw => seq_round rfl (raw_F (by decide) (by decide) (by first | exact Scope.code_lt _ | decide) (by decide) (fun w e1 e2 e3 e4 e5 e6 e7 e8 => by
    simp [seqFabOf, e1, e2, e3, e4, e5, e6, e7, e8, xreg_val, szOf_code, scopeOf_code, ordOf_code])) hw rfl (wF_lt _ _ _ _ _ _ _ _ (by decide) (by first | exact Scope.code_lt _ | decide) (by decide))
theorem Encoding.waitwComplete (cid : Nat) : Encoding.Statement (.waitwComplete cid) :=
  fun _ => ⟨rfl, rfl⟩
theorem Encoding.seqDrain (xa : XReg) : Encoding.Statement (.seqDrain xa) :=
  fun hw => seq_round rfl (raw_F (by decide) (by decide) (by first | exact Scope.code_lt _ | decide) (by decide) (fun w e1 e2 e3 e4 e5 e6 e7 e8 => by
    simp [seqFabOf, e1, e2, e3, e4, e5, e6, e7, e8, xreg_val, szOf_code, scopeOf_code, ordOf_code])) hw rfl (wF_lt _ _ _ _ _ _ _ _ (by decide) (by first | exact Scope.code_lt _ | decide) (by decide))
theorem Encoding.seqRecfg (xd : XReg) (xa : XReg) (xb : XReg) : Encoding.Statement (.seqRecfg xd xa xb) :=
  fun hw => seq_round rfl (raw_F (by decide) (by decide) (by first | exact Scope.code_lt _ | decide) (by decide) (fun w e1 e2 e3 e4 e5 e6 e7 e8 => by
    simp [seqFabOf, e1, e2, e3, e4, e5, e6, e7, e8, xreg_val, szOf_code, scopeOf_code, ordOf_code])) hw rfl (wF_lt _ _ _ _ _ _ _ _ (by decide) (by first | exact Scope.code_lt _ | decide) (by decide))
theorem Encoding.recfgDepthChange (cid : Nat) : Encoding.Statement (.recfgDepthChange cid) :=
  fun _ => ⟨rfl, rfl⟩
theorem Encoding.seqBankcfg (xd : XReg) (bank : Fin 16) (mode : BitVec 2) :
    Encoding.Statement (.seqBankcfg xd bank mode) :=
  fun hw => seq_round rfl (raw_F (by decide) (by decide) (by first | exact Scope.code_lt _ | decide) (by have := bank.isLt; have := mode.isLt; omega) (fun w e1 e2 e3 e4 e5 e6 e7 e8 => by
    obtain ⟨hl, hb, hm⟩ := bank_fields bank mode
    simp [seqFabOf, e1, e2, e3, e4, e5, e6, e7, e8, xreg_val, szOf_code, scopeOf_code, hl, hb, hm] <;> exact hb)) hw rfl (wF_lt _ _ _ _ _ _ _ _ (by decide) (by first | exact Scope.code_lt _ | decide) (by have := bank.isLt; have := mode.isLt; omega))
theorem Encoding.seqPlane (xa : XReg) (e : Fin 16) : Encoding.Statement (.seqPlane xa e) :=
  fun hw => seq_round rfl (raw_F (by decide) (by decide) (by first | exact Scope.code_lt _ | decide) (by omega) (fun w e1 e2 e3 e4 e5 e6 e7 e8 => by
    simp [seqFabOf, e1, e2, e3, e4, e5, e6, e7, e8, xreg_val, szOf_code, scopeOf_code, ordOf_code])) hw rfl (wF_lt _ _ _ _ _ _ _ _ (by decide) (by first | exact Scope.code_lt _ | decide) (by omega))
theorem Encoding.seqCut (xd : XReg) (xa : XReg) : Encoding.Statement (.seqCut xd xa) :=
  fun hw => seq_round rfl (raw_F (by decide) (by decide) (by first | exact Scope.code_lt _ | decide) (by decide) (fun w e1 e2 e3 e4 e5 e6 e7 e8 => by
    simp [seqFabOf, e1, e2, e3, e4, e5, e6, e7, e8, xreg_val, szOf_code, scopeOf_code, ordOf_code])) hw rfl (wF_lt _ _ _ _ _ _ _ _ (by decide) (by first | exact Scope.code_lt _ | decide) (by decide))
theorem Encoding.resumeRestore (xd : XReg) (xa : XReg) : Encoding.Statement (.resumeRestore xd xa) :=
  fun hw => seq_round rfl (raw_F (by decide) (by decide) (by first | exact Scope.code_lt _ | decide) (by decide) (fun w e1 e2 e3 e4 e5 e6 e7 e8 => by
    simp [seqFabOf, e1, e2, e3, e4, e5, e6, e7, e8, xreg_val, szOf_code, scopeOf_code, ordOf_code])) rfl rfl (wF_lt _ _ _ _ _ _ _ _ (by decide) (by first | exact Scope.code_lt _ | decide) (by decide))
theorem Encoding.resumeRelease (xd : XReg) (xa : XReg) : Encoding.Statement (.resumeRelease xd xa) :=
  fun hw => seq_round rfl (raw_F (by decide) (by decide) (by first | exact Scope.code_lt _ | decide) (by decide) (fun w e1 e2 e3 e4 e5 e6 e7 e8 => by
    simp [seqFabOf, e1, e2, e3, e4, e5, e6, e7, e8, xreg_val, szOf_code, scopeOf_code, ordOf_code])) rfl rfl (wF_lt _ _ _ _ _ _ _ _ (by decide) (by first | exact Scope.code_lt _ | decide) (by decide))
theorem Encoding.resumeContinue (xd : XReg) (xa : XReg) : Encoding.Statement (.resumeContinue xd xa) :=
  fun hw => seq_round rfl (raw_F (by decide) (by decide) (by first | exact Scope.code_lt _ | decide) (by decide) (fun w e1 e2 e3 e4 e5 e6 e7 e8 => by
    simp [seqFabOf, e1, e2, e3, e4, e5, e6, e7, e8, xreg_val, szOf_code, scopeOf_code, ordOf_code])) rfl rfl (wF_lt _ _ _ _ _ _ _ _ (by decide) (by first | exact Scope.code_lt _ | decide) (by decide))
theorem Encoding.resumeAbort (xd : XReg) (xa : XReg) : Encoding.Statement (.resumeAbort xd xa) :=
  fun hw => seq_round rfl (raw_F (by decide) (by decide) (by first | exact Scope.code_lt _ | decide) (by decide) (fun w e1 e2 e3 e4 e5 e6 e7 e8 => by
    simp [seqFabOf, e1, e2, e3, e4, e5, e6, e7, e8, xreg_val, szOf_code, scopeOf_code, ordOf_code])) rfl rfl (wF_lt _ _ _ _ _ _ _ _ (by decide) (by first | exact Scope.code_lt _ | decide) (by decide))
theorem Encoding.seqSopen (xd : XReg) (xa : XReg) (k : Fin 4) : Encoding.Statement (.seqSopen xd xa k) :=
  fun hw => seq_round rfl (raw_F (by decide) (by decide) (by first | exact Scope.code_lt _ | decide) (by omega) (fun w e1 e2 e3 e4 e5 e6 e7 e8 => by
    simp [seqFabOf, e1, e2, e3, e4, e5, e6, e7, e8, xreg_val, szOf_code, scopeOf_code, ordOf_code])) hw rfl (wF_lt _ _ _ _ _ _ _ _ (by decide) (by first | exact Scope.code_lt _ | decide) (by omega))
theorem Encoding.seqSclose (xa : XReg) (xb : XReg) (k : Fin 4) : Encoding.Statement (.seqSclose xa xb k) :=
  fun hw => seq_round rfl (raw_F (by decide) (by decide) (by first | exact Scope.code_lt _ | decide) (by omega) (fun w e1 e2 e3 e4 e5 e6 e7 e8 => by
    simp [seqFabOf, e1, e2, e3, e4, e5, e6, e7, e8, xreg_val, szOf_code, scopeOf_code, ordOf_code])) hw rfl (wF_lt _ _ _ _ _ _ _ _ (by decide) (by first | exact Scope.code_lt _ | decide) (by omega))
theorem Encoding.seqSbar (k : Fin 4) : Encoding.Statement (.seqSbar k) :=
  fun hw => seq_round rfl (raw_F (by decide) (by decide) (by first | exact Scope.code_lt _ | decide) (by omega) (fun w e1 e2 e3 e4 e5 e6 e7 e8 => by
    simp [seqFabOf, e1, e2, e3, e4, e5, e6, e7, e8, xreg_val, szOf_code, scopeOf_code, ordOf_code])) hw rfl (wF_lt _ _ _ _ _ _ _ _ (by decide) (by first | exact Scope.code_lt _ | decide) (by omega))
theorem Encoding.sbarComplete (cid : Nat) : Encoding.Statement (.sbarComplete cid) :=
  fun _ => ⟨rfl, rfl⟩
theorem Encoding.seqPqpush (xa : XReg) (xb : XReg) : Encoding.Statement (.seqPqpush xa xb) :=
  fun hw => seq_round rfl (raw_F (by decide) (by decide) (by first | exact Scope.code_lt _ | decide) (by decide) (fun w e1 e2 e3 e4 e5 e6 e7 e8 => by
    simp [seqFabOf, e1, e2, e3, e4, e5, e6, e7, e8, xreg_val, szOf_code, scopeOf_code, ordOf_code])) hw rfl (wF_lt _ _ _ _ _ _ _ _ (by decide) (by first | exact Scope.code_lt _ | decide) (by decide))
theorem Encoding.seqPqpop (xd : XReg) (xc : XReg) : Encoding.Statement (.seqPqpop xd xc) :=
  fun hw => seq_round rfl (raw_F (by decide) (by decide) (by first | exact Scope.code_lt _ | decide) (by decide) (fun w e1 e2 e3 e4 e5 e6 e7 e8 => by
    simp [seqFabOf, e1, e2, e3, e4, e5, e6, e7, e8, xreg_val, szOf_code, scopeOf_code, ordOf_code])) hw rfl (wF_lt _ _ _ _ _ _ _ _ (by decide) (by first | exact Scope.code_lt _ | decide) (by decide))
theorem Encoding.seqPqpopW1 (xd : XReg) (xc : XReg) : Encoding.Statement (.seqPqpopW1 xd xc) :=
  fun hw => seq_round rfl (raw_F (by decide) (by decide) (by first | exact Scope.code_lt _ | decide) (by decide) (fun w e1 e2 e3 e4 e5 e6 e7 e8 => by
    simp [seqFabOf, e1, e2, e3, e4, e5, e6, e7, e8, xreg_val, szOf_code, scopeOf_code, ordOf_code])) hw rfl (wF_lt _ _ _ _ _ _ _ _ (by decide) (by first | exact Scope.code_lt _ | decide) (by decide))
theorem Encoding.seqExpect (xa : XReg) (xb : XReg) : Encoding.Statement (.seqExpect xa xb) :=
  fun hw => seq_round rfl (raw_F (by decide) (by decide) (by first | exact Scope.code_lt _ | decide) (by decide) (fun w e1 e2 e3 e4 e5 e6 e7 e8 => by
    simp [seqFabOf, e1, e2, e3, e4, e5, e6, e7, e8, xreg_val, szOf_code, scopeOf_code, ordOf_code])) hw rfl (wF_lt _ _ _ _ _ _ _ _ (by decide) (by first | exact Scope.code_lt _ | decide) (by decide))
theorem Encoding.seqAmsend (xd : XReg) (xa : XReg) (xb : XReg) (h : BitVec 8) (fl : BitVec 8) :
    Encoding.Statement (.seqAmsend xd xa xb h fl) :=
  fun hw => seq_round rfl (raw_F (by decide) (by decide) (by first | exact Scope.code_lt _ | decide) (by have := h.isLt; have := fl.isLt; omega) (fun w e1 e2 e3 e4 e5 e6 e7 e8 => by
    obtain ⟨hl, hb, hm⟩ := send_fields h fl
    simp [seqFabOf, e1, e2, e3, e4, e5, e6, e7, e8, xreg_val, szOf_code, scopeOf_code, hl, hb, hm])) hw rfl (wF_lt _ _ _ _ _ _ _ _ (by decide) (by first | exact Scope.code_lt _ | decide) (by have := h.isLt; have := fl.isLt; omega))
theorem Encoding.seqBar (xa : XReg) (sc : Scope) : Encoding.Statement (.seqBar xa sc) :=
  fun hw => seq_round rfl (raw_F (by decide) (by decide) (by first | exact Scope.code_lt _ | decide) (by decide) (fun w e1 e2 e3 e4 e5 e6 e7 e8 => by
    simp [seqFabOf, e1, e2, e3, e4, e5, e6, e7, e8, xreg_val, szOf_code, scopeOf_code, ordOf_code])) hw rfl (wF_lt _ _ _ _ _ _ _ _ (by decide) (by first | exact Scope.code_lt _ | decide) (by decide))
theorem Encoding.barComplete (cid : Nat) : Encoding.Statement (.barComplete cid) :=
  fun _ => ⟨rfl, rfl⟩
theorem Encoding.seqTrap (code : BitVec 16) : Encoding.Statement (.seqTrap code) :=
  fun hw => seq_round rfl (raw_F (by decide) (by decide) (by first | exact Scope.code_lt _ | decide) (by have := code.isLt; omega) (fun w e1 e2 e3 e4 e5 e6 e7 e8 => by
    have hl : code.toNat < 65536 := code.isLt
    simp [seqFabOf, e1, e2, e3, e4, e5, e6, e7, e8, xreg_val, szOf_code, scopeOf_code, hl])) hw rfl (wF_lt _ _ _ _ _ _ _ _ (by decide) (by first | exact Scope.code_lt _ | decide) (by have := code.isLt; omega))
theorem Encoding.eventEntry (cid : Nat) : Encoding.Statement (.eventEntry cid) :=
  fun _ => ⟨rfl, rfl⟩
theorem Encoding.seqEret : Encoding.Statement .seqEret :=
  fun hw => seq_round rfl (raw_F (by decide) (by decide) (by first | exact Scope.code_lt _ | decide) (by decide) (fun w e1 e2 e3 e4 e5 e6 e7 e8 => by
    simp [seqFabOf, e1, e2, e3, e4, e5, e6, e7, e8, xreg_val, szOf_code, scopeOf_code, ordOf_code])) hw rfl (wF_lt _ _ _ _ _ _ _ _ (by decide) (by first | exact Scope.code_lt _ | decide) (by decide))
theorem Encoding.seqCsrrd (xd : XReg) (csr : BitVec 12) : Encoding.Statement (.seqCsrrd xd csr) :=
  fun hw => seq_round rfl (raw_F (by decide) (by decide) (by first | exact Scope.code_lt _ | decide) (by have := csr.isLt; omega) (fun w e1 e2 e3 e4 e5 e6 e7 e8 => by
    have hl : csr.toNat < 4096 := csr.isLt
    simp [seqFabOf, e1, e2, e3, e4, e5, e6, e7, e8, xreg_val, szOf_code, scopeOf_code, hl])) hw rfl (wF_lt _ _ _ _ _ _ _ _ (by decide) (by first | exact Scope.code_lt _ | decide) (by have := csr.isLt; omega))
theorem Encoding.seqCsrwr (xa : XReg) (csr : BitVec 12) : Encoding.Statement (.seqCsrwr xa csr) :=
  fun hw => seq_round rfl (raw_F (by decide) (by decide) (by first | exact Scope.code_lt _ | decide) (by have := csr.isLt; omega) (fun w e1 e2 e3 e4 e5 e6 e7 e8 => by
    have hl : csr.toNat < 4096 := csr.isLt
    have hn := csr_ne hw
    simp [seqFabOf, e1, e2, e3, e4, e5, e6, e7, e8, xreg_val, szOf_code, scopeOf_code, hl, hn])) hw rfl (wF_lt _ _ _ _ _ _ _ _ (by decide) (by first | exact Scope.code_lt _ | decide) (by have := csr.isLt; omega))
theorem Encoding.threadSwitch (xa : XReg) : Encoding.Statement (.threadSwitch xa) :=
  fun hw => seq_round rfl (raw_F (by decide) (by decide) (by first | exact Scope.code_lt _ | decide) (by decide) (fun w e1 e2 e3 e4 e5 e6 e7 e8 => by
    simp [seqFabOf, e1, e2, e3, e4, e5, e6, e7, e8, xreg_val, szOf_code, scopeOf_code, ordOf_code])) hw rfl (wF_lt _ _ _ _ _ _ _ _ (by decide) (by first | exact Scope.code_lt _ | decide) (by decide))
theorem Encoding.seqFwcall (xd : XReg) (xa : XReg) (svc : BitVec 16) :
    Encoding.Statement (.seqFwcall xd xa svc) :=
  fun hw => seq_round rfl (raw_F (by decide) (by decide) (by first | exact Scope.code_lt _ | decide) (by have := svc.isLt; omega) (fun w e1 e2 e3 e4 e5 e6 e7 e8 => by
    have hl : svc.toNat < 65536 := svc.isLt
    simp [seqFabOf, e1, e2, e3, e4, e5, e6, e7, e8, xreg_val, szOf_code, scopeOf_code, hl])) hw rfl (wF_lt _ _ _ _ _ _ _ _ (by decide) (by first | exact Scope.code_lt _ | decide) (by have := svc.isLt; omega))
theorem Encoding.seqHalt : Encoding.Statement .seqHalt :=
  fun hw => seq_round rfl (raw_F (by decide) (by decide) (by first | exact Scope.code_lt _ | decide) (by decide) (fun w e1 e2 e3 e4 e5 e6 e7 e8 => by
    simp [seqFabOf, e1, e2, e3, e4, e5, e6, e7, e8, xreg_val, szOf_code, scopeOf_code, ordOf_code])) hw rfl (wF_lt _ _ _ _ _ _ _ _ (by decide) (by first | exact Scope.code_lt _ | decide) (by decide))
theorem Encoding.pcreate (pa : Nat) : Encoding.Statement (.pcreate pa) :=
  fun _ => ⟨rfl, rfl⟩
theorem Encoding.preset (pa : Nat) : Encoding.Statement (.preset pa) :=
  fun _ => ⟨rfl, rfl⟩
theorem Encoding.pdestroy (pa : Nat) : Encoding.Statement (.pdestroy pa) :=
  fun _ => ⟨rfl, rfl⟩
theorem Encoding.vdcreate (pa : Nat) : Encoding.Statement (.vdcreate pa) :=
  fun _ => ⟨rfl, rfl⟩
theorem Encoding.vddestroy (pa : Nat) : Encoding.Statement (.vddestroy pa) :=
  fun _ => ⟨rfl, rfl⟩
theorem Encoding.ctxassign (pa : Nat) : Encoding.Statement (.ctxassign pa) :=
  fun _ => ⟨rfl, rfl⟩
theorem Encoding.bankassign (pa : Nat) : Encoding.Statement (.bankassign pa) :=
  fun _ => ⟨rfl, rfl⟩
theorem Encoding.tpower (pa : Nat) : Encoding.Statement (.tpower pa) :=
  fun _ => ⟨rfl, rfl⟩
theorem Encoding.tpowerDone (tile : Nat) : Encoding.Statement (.tpowerDone tile) :=
  fun _ => ⟨rfl, rfl⟩
theorem Encoding.vdstop (pa : Nat) : Encoding.Statement (.vdstop pa) :=
  fun _ => ⟨rfl, rfl⟩
theorem Encoding.vdstart (pa : Nat) : Encoding.Statement (.vdstart pa) :=
  fun _ => ⟨rfl, rfl⟩
theorem Encoding.migbegin (pa : Nat) : Encoding.Statement (.migbegin pa) :=
  fun _ => ⟨rfl, rfl⟩
theorem Encoding.migpass (pa : Nat) : Encoding.Statement (.migpass pa) :=
  fun _ => ⟨rfl, rfl⟩
theorem Encoding.migfinal (pa : Nat) : Encoding.Statement (.migfinal pa) :=
  fun _ => ⟨rfl, rfl⟩
theorem Encoding.chkpt (pa : Nat) : Encoding.Statement (.chkpt pa) :=
  fun _ => ⟨rfl, rfl⟩
theorem Encoding.chkload (pa : Nat) : Encoding.Statement (.chkload pa) :=
  fun _ => ⟨rfl, rfl⟩
theorem Encoding.frameset (pa : Nat) : Encoding.Statement (.frameset pa) :=
  fun _ => ⟨rfl, rfl⟩
theorem Encoding.contextStart (vd : Nat) (pa : Nat) : Encoding.Statement (.contextStart vd pa) :=
  fun _ => ⟨rfl, rfl⟩
theorem Encoding.contextKill (vd : Nat) (pa : Nat) : Encoding.Statement (.contextKill vd pa) :=
  fun _ => ⟨rfl, rfl⟩
theorem Encoding.faultResolve (vd : Nat) (fid : Nat) : Encoding.Statement (.faultResolve vd fid) :=
  fun _ => ⟨rfl, rfl⟩
theorem Encoding.faultFail (vd : Nat) (fid : Nat) : Encoding.Statement (.faultFail vd fid) :=
  fun _ => ⟨rfl, rfl⟩
theorem Encoding.shootdownRequest (vd : Nat) (w : BitVec 64) : Encoding.Statement (.shootdownRequest vd w) :=
  fun _ => ⟨rfl, rfl⟩
theorem Encoding.shootdownComplete (vd : Nat) : Encoding.Statement (.shootdownComplete vd) :=
  fun _ => ⟨rfl, rfl⟩
theorem Encoding.faultRecordHeldWrite (vd : Nat) : Encoding.Statement (.faultRecordHeldWrite vd) :=
  fun _ => ⟨rfl, rfl⟩
theorem Encoding.coldReset (img : BootImage) : Encoding.Statement (.coldReset img) :=
  fun _ => ⟨rfl, rfl⟩
theorem Encoding.partitionReset (part : Nat) : Encoding.Statement (.partitionReset part) :=
  fun _ => ⟨rfl, rfl⟩
theorem Encoding.thermalAlarm (die : Fin 5) (temp : BitVec 8) : Encoding.Statement (.thermalAlarm die temp) :=
  fun _ => ⟨rfl, rfl⟩
theorem Encoding.thermalTrip (die : Fin 5) (temp : BitVec 8) : Encoding.Statement (.thermalTrip die temp) :=
  fun _ => ⟨rfl, rfl⟩
theorem Encoding.linkTrained (link : Fin 16) : Encoding.Statement (.linkTrained link) :=
  fun _ => ⟨rfl, rfl⟩
theorem Encoding.linkAuthDone (link : Fin 16) (peer : LinkPeer) : Encoding.Statement (.linkAuthDone link peer) :=
  fun _ => ⟨rfl, rfl⟩
theorem Encoding.linkTagFail (link : Fin 16) : Encoding.Statement (.linkTagFail link) :=
  fun _ => ⟨rfl, rfl⟩
theorem Encoding.companionRead (off : Nat) (len : Nat) : Encoding.Statement (.companionRead off len) :=
  fun _ => ⟨rfl, rfl⟩
theorem Encoding.companionWrite (off : Nat) (data : List (BitVec 8)) :
    Encoding.Statement (.companionWrite off data) :=
  fun _ => ⟨rfl, rfl⟩
theorem Encoding.posset (pos : BitVec 8) : Encoding.Statement (.posset pos) :=
  fun _ => ⟨rfl, rfl⟩
theorem Encoding.podpol (fwms : List (BitVec 256)) : Encoding.Statement (.podpol fwms) :=
  fun _ => ⟨rfl, rfl⟩
theorem Encoding.lnktrain (mask : BitVec 16) : Encoding.Statement (.lnktrain mask) :=
  fun _ => ⟨rfl, rfl⟩
theorem Encoding.evread (ctr : BitVec 32) : Encoding.Statement (.evread ctr) :=
  fun _ => ⟨rfl, rfl⟩
theorem Encoding.retclear (bank : Bool) (tx : BitVec 16) (ty : BitVec 16) (b : BitVec 16) :
    Encoding.Statement (.retclear bank tx ty b) :=
  fun _ => ⟨rfl, rfl⟩
theorem Encoding.temprd : Encoding.Statement .temprd :=
  fun _ => ⟨rfl, rfl⟩
theorem Encoding.kvevict : Encoding.Statement .kvevict :=
  fun _ => ⟨rfl, rfl⟩
theorem Encoding.kvpromote : Encoding.Statement .kvpromote :=
  fun _ => ⟨rfl, rfl⟩
theorem Encoding.hallmark : Encoding.Statement .hallmark :=
  fun _ => ⟨rfl, rfl⟩
theorem Encoding.sessopen : Encoding.Statement .sessopen :=
  fun _ => ⟨rfl, rfl⟩
theorem Encoding.reqopen : Encoding.Statement .reqopen :=
  fun _ => ⟨rfl, rfl⟩
theorem Encoding.replyseal : Encoding.Statement .replyseal :=
  fun _ => ⟨rfl, rfl⟩
theorem Encoding.sessclose : Encoding.Statement .sessclose :=
  fun _ => ⟨rfl, rfl⟩
theorem Encoding.adptable : Encoding.Statement .adptable :=
  fun _ => ⟨rfl, rfl⟩
theorem Encoding.usage : Encoding.Statement .usage :=
  fun _ => ⟨rfl, rfl⟩
theorem Encoding.libload : Encoding.Statement .libload :=
  fun _ => ⟨rfl, rfl⟩
theorem Encoding.modelload : Encoding.Statement .modelload :=
  fun _ => ⟨rfl, rfl⟩
theorem Encoding.modelfree : Encoding.Statement .modelfree :=
  fun _ => ⟨rfl, rfl⟩
theorem Encoding.adaptclaim : Encoding.Statement .adaptclaim :=
  fun _ => ⟨rfl, rfl⟩
theorem Encoding.adaptfree : Encoding.Statement .adaptfree :=
  fun _ => ⟨rfl, rfl⟩
theorem Encoding.vdkey : Encoding.Statement .vdkey :=
  fun _ => ⟨rfl, rfl⟩
theorem Encoding.conflock : Encoding.Statement .conflock :=
  fun _ => ⟨rfl, rfl⟩
theorem Encoding.conffree : Encoding.Statement .conffree :=
  fun _ => ⟨rfl, rfl⟩
theorem Encoding.evkey : Encoding.Statement .evkey :=
  fun _ => ⟨rfl, rfl⟩
theorem Encoding.hinstall : Encoding.Statement .hinstall :=
  fun _ => ⟨rfl, rfl⟩
theorem Encoding.creditReturn (k : Nat) : Encoding.Statement (.creditReturn k) :=
  fun _ => ⟨rfl, rfl⟩
theorem Encoding.clusterCacheEviction (cluster : Nat) (sector : Nat) :
    Encoding.Statement (.clusterCacheEviction cluster sector) :=
  fun _ => ⟨rfl, rfl⟩
theorem Encoding.spdmAttestation (req : List (BitVec 8)) : Encoding.Statement (.spdmAttestation req) :=
  fun _ => ⟨rfl, rfl⟩
theorem Encoding.slotTransferRecord (vd : Nat) (rec : List (BitVec 8)) :
    Encoding.Statement (.slotTransferRecord vd rec) :=
  fun _ => ⟨rfl, rfl⟩
theorem Encoding.migrationStateTransfer (vd : Nat) (k : Nat) :
    Encoding.Statement (.migrationStateTransfer vd k) :=
  fun _ => ⟨rfl, rfl⟩
theorem Encoding.linkDown (link : Fin 16) : Encoding.Statement (.linkDown link) :=
  fun _ => ⟨rfl, rfl⟩

end Sys2Proof.Laws
end

