-- ==== Sys2Proof/Safety.lean ====
section
/-! DEFINITION. What a safe state and a safe step are, in the terms the statements use. -/

namespace Sys2Proof.Machine

/-- Every memory of the package stands in its canonical form, the images of checkpoints among them. -/
def State.memWf (s : State) : Bool := s.mem.wf && s.fmem.wf && s.cmem.wf && s.hub.ckpt.all (fun c => c.mem.wf)

/-- A step that neither faults nor is refused. -/
def SafeStep (s : State) : Prop := ∃ t, step s = .next t

end Sys2Proof.Machine
end

