-- ==== Sys2Proof/Certificates/Slice0/Obligations.lean ====
section
/-! DEFINITION. The statements for the provers, with the words of the spec they need (namespace Claim). -/

namespace Sys2Proof.Claim

open Sys2Proof.Machine

/-! ## Sequencer words -/

/-- The context that executes, and what it goes on as: at the next position (R82), with nothing read in part or awaited. -/
def seqOn (c : Ctx) : Ctx := { c with pc := c.pc + 8, wait := .none, part := [] }
/-- The state in which the executing context has become c. -/
def putCur (s : State) (c : Ctx) : State := s.setCtx s.cur.cid c
/-- The executing context. -/
def curCtx (s : State) : Ctx := s.ctx s.cur.cid

/-- A shift count of R209: a natural number, whatever its size. -/
def sarBy (a : Word) (n : Nat) : Word := a.sshiftRight n

/-- Destination and value of the instructions of R209, in the words of its table. -/
def seqInteger : Instr → Option (XReg × (Ctx → Word))
  | .seqAdd xd xa xb => some (xd, fun c => c.getX xa + c.getX xb)
  | .seqSub xd xa xb => some (xd, fun c => c.getX xa - c.getX xb)
  | .seqMul xd xa xb => some (xd, fun c => c.getX xa * c.getX xb)
  | .seqMulh xd xa xb n => some (xd, fun c =>
      if n then ((c.getX xa).setWidth 128 * (c.getX xb).setWidth 128).extractLsb' 64 64
      else ((c.getX xa).signExtend 128 * (c.getX xb).signExtend 128).extractLsb' 64 64)
  | .seqDiv xd xa xb n => some (xd, fun c =>
      if c.getX xb = 0 then BitVec.allOnes 64 else if n then c.getX xa / c.getX xb else (c.getX xa).sdiv (c.getX xb))
  | .seqRem xd xa xb n => some (xd, fun c =>
      if c.getX xb = 0 then c.getX xa else if n then c.getX xa % c.getX xb else (c.getX xa).srem (c.getX xb))
  | .seqAnd xd xa xb => some (xd, fun c => c.getX xa &&& c.getX xb)
  | .seqOr xd xa xb => some (xd, fun c => c.getX xa ||| c.getX xb)
  | .seqXor xd xa xb => some (xd, fun c => c.getX xa ^^^ c.getX xb)
  | .seqShl xd xa xb => some (xd, fun c => c.getX xa <<< (c.getX xb).toNat)
  | .seqShr xd xa xb => some (xd, fun c => c.getX xa >>> (c.getX xb).toNat)
  | .seqSar xd xa xb => some (xd, fun c => (c.getX xa).sshiftRight (c.getX xb).toNat)
  | .seqMin xd xa xb n => some (xd, fun c =>
      if (if n then (c.getX xa).ule (c.getX xb) else (c.getX xa).sle (c.getX xb)) then c.getX xa else c.getX xb)
  | .seqMax xd xa xb n => some (xd, fun c =>
      if (if n then (c.getX xa).ule (c.getX xb) else (c.getX xa).sle (c.getX xb)) then c.getX xb else c.getX xa)
  | .seqClz xd xa => some (xd, fun c => (c.getX xa).clz)
  | .seqPopc xd xa => some (xd, fun c =>
      BitVec.ofNat 64 ((List.range 64).countP (fun i => (c.getX xa).getLsbD i)))
  | .seqAddi xd xa imm => some (xd, fun c => c.getX xa + imm.signExtend 64)
  | .seqAndi xd xa imm => some (xd, fun c => c.getX xa &&& imm.signExtend 64)
  | .seqOri xd xa imm => some (xd, fun c => c.getX xa ||| imm.signExtend 64)
  | .seqXori xd xa imm => some (xd, fun c => c.getX xa ^^^ imm.signExtend 64)
  | .seqShli xd xa sh => some (xd, fun c => c.getX xa <<< sh.val)
  | .seqShri xd xa sh => some (xd, fun c => c.getX xa >>> sh.val)
  | .seqSari xd xa sh => some (xd, fun c => (c.getX xa).sshiftRight sh.val)
  | .seqLi xd imm => some (xd, fun _ => imm.signExtend 64)
  | .seqLih xd xa imm => some (xd, fun c => imm ++ (c.getX xa).extractLsb' 0 32)
  | _ => none

/-- The instructions of R209: a destination and what they compute. -/
def isSeqInteger (i : Instr) : Bool := (seqInteger i).isSome

/-- The start of the block that holds a PC (R82). -/
def blockStart (pc : Word) : Word := pc.extractLsb' 6 58 ++ (0 : BitVec 6)

/-- Offset and condition of the branches of R211 that have a B-format target and no link. -/
def seqBranch : Instr → Option (BitVec 24 × (Ctx → Bool))
  | .seqBeq xa xb off => some (off, fun c => c.getX xa == c.getX xb)
  | .seqBne xa xb off => some (off, fun c => c.getX xa != c.getX xb)
  | .seqBlt xa xb off => some (off, fun c => (c.getX xa).slt (c.getX xb))
  | .seqBge xa xb off => some (off, fun c => (c.getX xb).sle (c.getX xa))
  | .seqBltn xa xb off => some (off, fun c => (c.getX xa).ult (c.getX xb))
  | .seqBgen xa xb off => some (off, fun c => (c.getX xb).ule (c.getX xa))
  | .seqJ off => some (off, fun _ => true)
  | _ => none

/-- Access of a level (0 USER, 1 SUPER, 2 FIRM) to a control and status register, from the columns of R201; SQ_SWITCH (0x008) is
apart. None: no register has the number. -/
def csrAllows (n lvl : Nat) : Option CsrAcc :=
  let row := fun (u s f : CsrAcc) => some (if lvl = 0 then u else if lvl = 1 then s else f)
  if n = 0x000 then row .ro .rw .rw
  else if n ∈ [0x001, 0x002, 0x003, 0x004, 0x005, 0x006, 0x007, 0x009, 0x00A] then row .priv .rw .rw
  else if n ∈ [0x010, 0x011] then row .ro .ro .ro
  else if n = 0x012 then row .rw .rw .rw
  else if n ∈ [0x013, 0x014, 0x015] then row .ro .rw .rw
  else if n ∈ [0x100, 0x101, 0x102, 0x103, 0x104] then row .priv .priv .rw
  else none

/-- What a register reads as after v is written over old: the bits that R201 to R203 and R235 let a write change; the level 0b11, which
is never held (R200), is not taken (log entry 73). -/
def csrAfter (n : Nat) (old v : Word) : Word :=
  match n with
  | 0x000 => (old &&& 3#64) ||| (v &&& 0x1C#64)
  | 0x001 | 0x101 => v &&& 0xC000000000000F0F#64
  | 0x002 | 0x102 => v &&& 0xFFFFFFFFFFFFFFF8#64
  | 0x004 | 0x006 | 0x007 | 0x104 => v &&& 0xFFFFFFFFFFFFFFC0#64
  | 0x009 => old &&& ~~~v
  | 0x012 => v &&& 7#64
  | 0x100 => if v &&& 3#64 = 3#64 then (v &&& 4#64) ||| (old &&& 3#64) else v &&& 7#64
  | 0x013 => v &&& 1#64
  | 0x014 => v &&& 0xFFFFFFFFFFFFFFF1#64
  | 0x015 => v &&& 0xFFFFFFFF#64
  | _ => v

/-- The level a sequencer instruction needs, where USER does not suffice (R200, R245). -/
def seqLevel : Instr → Option Nat
  | .seqPlace _ _ _ | .seqRecfg _ _ _ | .seqBankcfg _ _ _ | .seqCut _ _ | .resumeRestore _ _ | .resumeRelease _ _
  | .resumeContinue _ _ | .resumeAbort _ _ | .seqEret | .threadSwitch _ | .seqHalt => some 1
  | .seqPlane _ _ => some 2
  | .seqFwcall _ _ svc => if 0x8000 ≤ svc.toNat then some 1 else none
  | _ => none

/-- Address and alignment of the instructions that check one before anything else (R212, R220, R225, R231, R237, R241, R243). -/
def seqAddress : Instr → Option ((Ctx → Word) × Nat)
  | .seqLd _ xa sz _ disp | .seqLda _ xa sz _ _ disp => some (fun c => c.getX xa + disp.signExtend 64, szBytes sz)
  | .seqSt xa _ sz disp | .seqStl xa _ sz _ disp => some (fun c => c.getX xa + disp.signExtend 64, szBytes sz)
  | .seqPlace _ xa _ => some (fun c => c.getX xa, 4096)
  | .seqWbill _ xa => some (fun c => c.getX xa, 64)
  | .seqCut _ xa | .resumeRestore _ xa | .resumeRelease _ xa | .resumeContinue _ xa | .resumeAbort _ xa =>
    some (fun c => c.getX xa, 64)
  | .seqSclose xa _ _ => some (fun c => c.getX xa, 8)
  | .seqExpect xa _ => some (fun c => c.getX xa, 16)
  | .seqBar xa _ => some (fun c => c.getX xa, 16)
  | _ => none
where
  szBytes : Sz → Nat
    | .b1 => 1 | .b2 => 2 | .b4 => 4 | .b8 => 8

/-- The instructions that the sequencer of a cluster has issued in the present ac of its die (R26). -/
def issuedIn (s : State) (cl : Nat) : Nat :=
  if (s.cluster cl).issue.1 = s.ac (clusterDie cl) + 1 then (s.cluster cl).issue.2 else 0
/-- The state in which it has issued one more, for a context of its own. -/
def issuing (s : State) (cid : Nat) : State :=
  let cl := ctxCluster cid
  s.modCluster cl (fun c => { c with last := cid % 8, issue := (s.ac (clusterDie cl) + 1, issuedIn s cl + 1) })
/-- A context that is ready to issue (R199): it runs, waits for nothing, has nothing left to write and enters no event first. -/
def readyCtx (c : Ctx) : Prop := c.run = .running ∧ c.wait = .none ∧ c.puts = [] ∧ eventDue c = none
/-- The context issues next (R26, R199): its sequencer has not issued in both lc of the ac, and it is the first ready one in round-robin
order behind the context that issued last. -/
def nextUp (s : State) (cid : Nat) : Prop :=
  let cl := ctxCluster cid
  let at_ := fun (i : Nat) => 8 * cl + ((s.cluster cl).last + 1 + i) % 8
  issuedIn s cl < 2 ∧ ∃ i, i < 8 ∧ at_ i = cid ∧ readyCtx (s.ctx cid) ∧ ∀ j, j < i → ¬ readyCtx (s.ctx (at_ j))

/-- The virtual address of a format M instruction (R212). -/
def memAddr (c : Ctx) (xa : XReg) (disp : BitVec 24) : Word := c.getX xa + disp.signExtend 64

/-- Bytes of an access size. -/
def szBytes : Sz → Nat
  | .b1 => 1 | .b2 => 2 | .b4 => 4 | .b8 => 8

/-- k bytes as a register takes them: extended by sign, or with zeros where N = 1 (R213). -/
def loaded (k : Nat) (n : Bool) (v : Nat) : Word :=
  if n then BitVec.ofNat 64 v else (BitVec.ofNat (8 * k) v).signExtend 64

/-- The state with a byte put at an address of the firmware space, for each of the low k bytes of v (R7, R208). -/
def firmPut (s : State) (a : Word) (k : Nat) (v : Nat) : State :=
  fireMonitors { s with fmem := mwriteN s.fmem a.toNat k v } (firmSector a)

/-- A register written and the instruction done. -/
def doneX (s : State) (cid : Nat) (xd : XReg) (v : Word) : State := s.setCtx cid (seqOn ((s.ctx cid).setX xd v))
/-- The instruction done. -/
def done (s : State) (cid : Nat) : State := s.setCtx cid (seqOn (s.ctx cid))

/-- The request of a context for its cluster's translation (R212). -/
def ctxTranslate (s : State) (cid : Nat) (va : Word) (write : Bool) : State × TRes :=
  translate s (tlbCluster (ctxCluster cid)) (s.ctx cid).vdn va write false

/-- The message that AMO, AMSEND, EXPECT and BAR send (R215, R241 to R243). -/
def ctxMsg (s : State) (cid h : Nat) (op : Word) (w32 waits rel bar : Bool) (pa kslot : Nat) : Msg :=
  ⟨h, none, w32, !waits, op, pa, (s.ctx cid).vdn, .ctx cid, 0, rel, bar, kslot⟩

/-! ## Element firings -/

/-- Element, slot and plane under the cursor, and the ac of its die. -/
def curElem (s : State) : Nat := s.cur.elem
def curPlane (s : State) : Nat := s.cur.plane
def curAc (s : State) : Nat := s.planeAc s.cur.plane

/-- The operands of OPA, OPB and OPC of the firing under the cursor, each with its token (R69). -/
def opA (s : State) (p : Plane) (wide : Bool) (f : EFields) : Lanes × Option Token :=
  operand s (curPlane s) p (curElem s) (curAc s) wide f.imm f.opa
def opB (s : State) (p : Plane) (wide : Bool) (f : EFields) : Lanes × Option Token :=
  operand s (curPlane s) p (curElem s) (curAc s) wide f.imm f.opb
def opC (s : State) (p : Plane) (wide : Bool) (f : EFields) : Lanes × Option Token :=
  operand s (curPlane s) p (curElem s) (curAc s) wide f.imm f.opc

/-- R40: no operand token and no head named by DEQ is sealed. -/
def unsealed (s : State) (p : Plane) (f : EFields) : Bool :=
  !anySeal ([(opA s p false f).2, (opB s p false f).2, (opC s p false f).2] ++ deqHeads p (curElem s) (curAc s) f)

/-- The kind of the firing by R38 and R39. -/
def kind0 (s : State) (p : Plane) (f : EFields) : Kind :=
  kindOf [(opA s p false f).2, (opB s p false f).2, (opC s p false f).2]

/-- The kind of a data firing whose operands mismatch in SCL, or whose result has a NaN that counts (R106, R107): poison with a
new origin; every other kind stands. -/
def kindAfter (s : State) (k : Kind) (mismatch nan : Bool) : Kind :=
  refineKind s (curPlane s) (curElem s) s.cur.slot k mismatch nan

/-- The effect of R37 on the firing under the cursor. -/
def fired (s : State) (f : EFields) (k : Kind) (r : Result) (scl : Bool) (lat : Nat) (iter : Bool) : State :=
  completeFiring s (curPlane s) (curElem s) s.cur.slot f k r scl lat iter

/-- The SCL bit of the tokens of a firing whose class gives scl (R105): a firing that is poisoned by R38 produces 0; one that is poisoned
by R106 or R107 keeps its class's (log entry 74). -/
def sclFired (s : State) (p : Plane) (f : EFields) (scl : Bool) : Bool := scl && !(kind0 s p f).isPoison

/-- An instruction that computes each value position on its own (R121): fields, whether its type has 64 bits, scale class,
latency, width of a value, and the value. -/
structure PosRow where
  f : EFields
  wide : Bool
  cls : ScaleCls
  lat : Nat
  w : Nat
  fn : BitVec w → BitVec w → BitVec w → BitVec w

def isSigned : IntTy → Bool
  | .i8 | .i16 | .i32 | .i64 => true
  | _ => false
def intWidth : IntTy → Nat
  | .i8 | .n8 => 8 | .i16 | .n16 => 16 | .i32 | .n32 => 32 | .i64 | .n64 => 64
def natWidth : NatTy → Nat
  | .n32 => 32 | .n64 => 64

/-- The instructions of R123 to R127, R130, R135, R137 and R140, in the words of those rules. -/
def posRow : Instr → Option PosRow
  | .elemAdd f t => some ⟨f, intWidth t == 64, .additive, 1, intWidth t, fun x y _ => x + y⟩
  | .elemSub f t => some ⟨f, intWidth t == 64, .additive, 1, intWidth t, fun x y _ => x - y⟩
  | .elemMul f t => some ⟨f, intWidth t == 64, .mult, 4, intWidth t, fun x y _ => x * y⟩
  | .elemMulh f t => some ⟨f, intWidth t == 64, .mult, 4, intWidth t, fun x y _ =>
      if isSigned t then (x.signExtend (2 * intWidth t) * y.signExtend (2 * intWidth t)).extractLsb' (intWidth t) (intWidth t)
      else (x.setWidth (2 * intWidth t) * y.setWidth (2 * intWidth t)).extractLsb' (intWidth t) (intWidth t)⟩
  | .elemMad f t => some ⟨f, intWidth t == 64, .fused, 4, intWidth t, fun x y z => x * y + z⟩
  | .elemMin f t => some ⟨f, intWidth t == 64, .additive, 1, intWidth t, fun x y _ =>
      if (if isSigned t then x.sle y else x.ule y) then x else y⟩
  | .elemMax f t => some ⟨f, intWidth t == 64, .additive, 1, intWidth t, fun x y _ =>
      if (if isSigned t then x.sle y else x.ule y) then y else x⟩
  | .elemAbs f t => some ⟨f, intWidth t == 64, .carrying, 1, intWidth t, fun x _ _ => if isSigned t && x.msb then -x else x⟩
  | .elemAnd f => some ⟨f, false, .clearing, 1, 256, fun x y _ => x &&& y⟩
  | .elemOr f => some ⟨f, false, .clearing, 1, 256, fun x y _ => x ||| y⟩
  | .elemXor f => some ⟨f, false, .clearing, 1, 256, fun x y _ => x ^^^ y⟩
  | .elemAndn f => some ⟨f, false, .clearing, 1, 256, fun x y _ => x &&& ~~~y⟩
  | .elemShl f t => some ⟨f, intWidth t == 64, .clearing, 1, intWidth t, fun x y _ => x <<< y.toNat⟩
  | .elemShr f t => some ⟨f, intWidth t == 64, .clearing, 1, intWidth t, fun x y _ => x >>> y.toNat⟩
  | .elemSar f t => some ⟨f, intWidth t == 64, .clearing, 1, intWidth t, fun x y _ => x.sshiftRight y.toNat⟩
  | .elemRot f t => some ⟨f, intWidth t == 64, .clearing, 1, intWidth t, fun x y _ => x.rotateLeft (y.toNat % intWidth t)⟩
  | .elemClz f t => some ⟨f, intWidth t == 64, .clearing, 1, intWidth t, fun x _ _ => x.clz⟩
  | .elemPopc f t => some ⟨f, intWidth t == 64, .clearing, 1, intWidth t, fun x _ _ =>
      BitVec.ofNat (intWidth t) ((List.range (intWidth t)).countP (fun i => x.getLsbD i))⟩
  | .elemClmul f t => some ⟨f, natWidth t == 64, .clearing, 4, natWidth t, fun x y _ =>
      (List.range (natWidth t)).foldl (fun p k => if y.getLsbD k then p ^^^ (x <<< k) else p) 0⟩
  | .elemMov f => some ⟨f, false, .carrying, 1, 256, fun x _ _ => x⟩
  | .elemPass f => some ⟨f, false, .carrying, 1, 256, fun x _ _ => x⟩
  | .elemTags f m => some ⟨f, false, .explicit m, 1, 256, fun x _ _ => x⟩
  | .elemNop f => some ⟨f, false, .clearing, 1, 256, fun _ _ _ => 0⟩
  | _ => none

/-- A floating-point instruction that computes each value position on its own (R148, R151, R152): rounding by rnd, the random field of
the position. rndc: OPC is the random operand and no data. -/
structure FltRow where
  f : EFields
  t : FltTy
  cls : ScaleCls
  rndc : Bool
  lat : Nat
  iter : Bool
  np : Bool
  fn : (rnd x y z : Nat) → Nat

def fltRow : Instr → Option FltRow
  | .elemFadd f t r np => some ⟨f, t, .additive, true, 4, false, np, fun u x y _ => fadd t.fmt r u x y⟩
  | .elemFsub f t r np => some ⟨f, t, .additive, true, 4, false, np, fun u x y _ => fsub t.fmt r u x y⟩
  | .elemFmul f t r np => some ⟨f, t, .mult, true, 4, false, np, fun u x y _ => fmul t.fmt r u x y⟩
  | .elemFfma f t r np => some ⟨f, t, .fused, false, 4, false, np, fun _ x y z => ffma t.fmt r x y z⟩
  | .elemFmin f t np => some ⟨f, t, .additive, false, 1, false, np, fun _ x y _ => fminmax t.fmt false x y⟩
  | .elemFmax f t np => some ⟨f, t, .additive, false, 1, false, np, fun _ x y _ => fminmax t.fmt true x y⟩
  | .elemFdiv f t r np => some ⟨f, t, .div, false, if t = .f64 then 20 else 12, true, np, fun _ x y _ => fdiv t.fmt r x y⟩
  | .elemFsqrt f t r np => some ⟨f, t, .nonlinear, false, if t = .f64 then 20 else 12, true, np, fun _ x _ _ => fsqrt t.fmt r x⟩
  | .elemFrcp f t np => some ⟨f, t, .nonlinear, false, if t = .f64 then 20 else 12, true, np, fun _ x _ _ => frcp t.fmt x⟩
  | .elemFrsq f t np => some ⟨f, t, .nonlinear, false, if t = .f64 then 20 else 12, true, np, fun _ x _ _ => frsq t.fmt x⟩
  | .elemFexp2 f t np => some ⟨f, t, .nonlinear, false, if t = .f64 then 20 else 12, true, np, fun _ x _ _ => fexp2 t.fmt x⟩
  | .elemFlog2 f t np => some ⟨f, t, .nonlinear, false, if t = .f64 then 20 else 12, true, np, fun _ x _ _ => flog2 t.fmt x⟩
  | _ => none

/-- Value j of width w of an operand. -/
def pos (w j : Nat) (x : Lanes) : BitVec w := x.extractLsb' (w * j) w
/-- A number of w bits, all ones or zero (R128). -/
def allOr (w : Nat) (c : Bool) : BitVec w := if c then BitVec.allOnes w else 0
/-- The comparison of R128 under the signedness of the type. -/
def cmpBits {w : Nat} (c : Cond) (signed : Bool) (x y : BitVec w) : Bool :=
  match c with
  | .eq => x == y
  | .ne => x != y
  | .lt => if signed then x.slt y else x.ult y
  | .le => if signed then x.sle y else x.ule y
  | .gt => if signed then y.slt x else y.ult x
  | .ge => if signed then y.sle x else y.ule x

/-- The fields of an instruction that R40 lets raise SEALV. -/
def sealFields : Instr → Option EFields
  | .elemLdst _ | .elemLdcb _ => none
  | i => Instr.fields? i

/-! ## Numbers (R90, R95 to R99) -/

/-- The formats of R90. -/
def formats : List Fmt := [fmtF64, fmtF32, fmtBF16, fmtF16, fmtE4M3, fmtE5M2]
/-- The code of the largest finite value, without its sign. -/
def topCode (f : Fmt) : Nat := if f.e4m3 then 0x7E else 2 ^ (f.w - 1) - 2 ^ f.mb - 1
/-- A code with its sign. -/
def signed (f : Fmt) (neg : Bool) (code : Nat) : Nat := (if neg then 2 ^ (f.w - 1) else 0) + code
/-- The canonical NaN; an infinity, for which .E4M3 has the NaN. -/
def quietNan (f : Fmt) : Nat := if f.e4m3 then 0x7F else 2 ^ (f.w - 1) - 2 ^ f.mb + 2 ^ (f.mb - 1)
def infinity (f : Fmt) (neg : Bool) : Nat := if f.e4m3 then 0x7F else signed f neg (2 ^ (f.w - 1) - 2 ^ f.mb)
/-- The magnitude of a code without sign, and the spacing of the format at it. -/
def codeMag (f : Fmt) (x : Nat) : Rat :=
  if x / 2 ^ f.mb = 0 then ((x : Nat) : Rat) * (2 : Rat) ^ (1 - (f.bias : Int) - (f.mb : Int))
  else ((2 ^ f.mb + x % 2 ^ f.mb : Nat) : Rat) * (2 : Rat) ^ (((x / 2 ^ f.mb : Nat) : Int) - (f.bias : Int) - (f.mb : Int))
def spacing (f : Fmt) (x : Nat) : Rat := (2 : Rat) ^ (((max (x / 2 ^ f.mb) 1 : Nat) : Int) - (f.bias : Int) - (f.mb : Int))
/-- A magnitude that need not be rational, given by what lies at or below it and what lies at or above it. -/
structure Cut where
  le : Rat → Prop
  ge : Rat → Prop
/-- A rational magnitude, and the square root of one. -/
def Cut.rat (v : Rat) : Cut := ⟨fun q => q ≤ v, fun q => v ≤ q⟩
def Cut.sqrt (v : Rat) : Cut := ⟨fun q => q * q ≤ v, fun q => v ≤ q * q⟩
/-- Whether a magnitude v that is cut off to a, the t-th of values that lie u apart, moves to the next one (R95, R96: under .RSR where the
random field reaches what is left to the next value). -/
def movesUp (mode : Rnd) (neg : Bool) (t : Nat) (a u : Rat) (v : Cut) (rnd n : Nat) : Prop :=
  match mode with
  | .rne => ¬ v.ge (a + u / 2) ∨ (v.le (a + u / 2) ∧ v.ge (a + u / 2) ∧ t % 2 = 1)
  | .rtz => False
  | .rup => neg = false ∧ ¬ v.ge a
  | .rdn => neg = true ∧ ¬ v.ge a
  | .rsr => v.le (a + u * (((2 ^ n - rnd % 2 ^ n : Nat) : Rat) / ((2 ^ n : Nat) : Rat)))
/-- The result of an overflow (R97). -/
def overflowed (f : Fmt) (mode : Rnd) (sat neg : Bool) : Nat :=
  if sat || mode == .rtz || (mode == .rup && neg) || (mode == .rdn && !neg) then signed f neg (topCode f) else infinity f neg
/-- r is a nonzero value of magnitude v rounded to a format (R95 to R97): t is the magnitude cut off towards zero. -/
def rounded (f : Fmt) (mode : Rnd) (sat : Bool) (rnd n : Nat) (neg : Bool) (v : Cut) (r : Nat) : Prop :=
  ∀ t, t ≤ topCode f → v.le (codeMag f t) → (∀ z, z ≤ topCode f → v.le (codeMag f z) → z ≤ t) →
    let a := codeMag f t
    let u := spacing f t
    (v.le (a + u) → r = overflowed f mode sat neg) ∧
    (¬ v.le (a + u) → movesUp mode neg t a u v rnd n → r = if t = topCode f then overflowed f mode sat neg else signed f neg (t + 1)) ∧
    (¬ v.le (a + u) → ¬ movesUp mode neg t a u v rnd n → r = signed f neg t)
/-- The rational number that a finite value is, its magnitude, and what a value can be else. -/
def rational : FVal → Rat
  | .fin neg m e => (if neg then -1 else 1) * ((m : Nat) : Rat) * (2 : Rat) ^ e
  | _ => 0
def magnitude (v : Rat) : Rat := if v < 0 then -v else v
def finiteV (v : FVal) : Prop := ∃ neg m e, v = .fin neg m e
def zeroV (v : FVal) : Prop := finiteV v ∧ rational v = 0
def negZero (v : FVal) : Prop := ∃ e, v = .fin true 0 e
def infV (v : FVal) : Prop := ∃ s, v = .inf s
/-- The value with the other sign. -/
def opposite : FVal → FVal
  | .nan => .nan
  | .inf s => .inf (!s)
  | .fin s m e => .fin (!s) m e
/-- The order of two values that are no NaN. -/
def before : FVal → FVal → Prop
  | .nan, _ => False
  | _, .nan => False
  | .inf s, .inf t => s = true ∧ t = false
  | .inf s, .fin _ _ _ => s = true
  | .fin _ _ _, .inf t => t = false
  | a, b => rational a < rational b
/-- r is the sum of terms, exact and rounded once (R98, R99). -/
def sumRounded (f : Fmt) (mode : Rnd) (rnd n : Nat) (l : List FVal) (r : Nat) : Prop :=
  ((.nan ∈ l ∨ (.inf true ∈ l ∧ .inf false ∈ l)) → r = quietNan f) ∧
  (∀ s, .nan ∉ l → .inf s ∈ l → .inf (!s) ∉ l → r = infinity f s) ∧
  ((∀ v ∈ l, finiteV v) → l ≠ [] →
    let t := (l.map rational).foldr (fun x y => x + y) 0
    (t ≠ 0 → rounded f mode false rnd n (decide (t < 0)) (.rat (magnitude t)) r) ∧
    (t = 0 → (∀ v ∈ l, negZero v) → r = signed f true 0) ∧
    (t = 0 → (¬ ∀ v ∈ l, negZero v) → r = signed f (mode == .rdn) 0))

/-- The bounds of an integer type, its reading of a code, the code of an integer, and the integer indefinite (R101). -/
def intLow (t : Ty) : Int := if t.signed then -(2 ^ (t.width - 1)) else 0
def intHigh (t : Ty) : Int := if t.signed then 2 ^ (t.width - 1) - 1 else 2 ^ t.width - 1
def intValue (t : Ty) (x : Nat) : Int := if t.signed = true ∧ 2 ^ (t.width - 1) ≤ x then (x : Int) - 2 ^ t.width else x
def toBits (t : Ty) (k : Int) : Nat := (k % 2 ^ t.width).toNat
def indefinite (t : Ty) : Nat := if t.signed then 2 ^ (t.width - 1) else 2 ^ t.width - 1

/-! ## Events of a plane -/

/-- A pending firing that falls due (R36, R186): the plane, and the k-th of its pending firings, not yet applied. -/
def dueNow (s : State) (pl k : Nat) (p : Plane) (w : Pend) : Prop :=
  s.plane? pl = some p ∧ p.pend[k]? = some w ∧ w.done = false ∧ w.due ≤ s.planeAc pl

/-- The state with a plane's idle report counted, and its tile clock-gated once every plane there is idle (R60, R64). -/
def idleReported (s : State) (pl : Nat) (p : Plane) : State :=
  (s.setPlane pl { p with idleSent := true, bal := 0 }).modCtx p.cid (fun c => { c with bal := (BitVec.ofInt 32 (c.bal + p.bal)).toInt })
/-- Whether the report's STUCK record is still to be written, noted in the context. -/
def stuckNoted (s : State) (cid : Nat) (b : Bool) : State := s.modCtx cid (fun c => { c with stuckDue := b })
def gateIdle (s : State) (tile : Nat) : State :=
  if (tilePlanes s tile).all (fun q => match s.plane? q with | some x => x.idleSent | none => true) then s.setPower tile .clockGated
  else s

/-- Whether an event of the plane and unit may act: placed, of its tile's active plane, and the unit takes part. -/
def unitActs (s : State) (pl u : Nat) (p : Plane) : Prop := s.plane? pl = some p ∧ isActive s pl = true ∧ u ∈ p.units

/-- No plain knot is open. -/
def noPlainKnot (p : Plane) : Prop := ∀ k, p.knot = some k → k.drain = true

/-! ## Operators -/

/-- Whether operator u may take a step in this ac (R253): active, enabled, not stopped, no knot of its own due first. -/
def opMay (s : State) (pl u : Nat) (p : Plane) : Prop :=
  unitActs s pl u p ∧ unitFree p u (s.planeAc pl) = true ∧ kivDue p u = false ∧ mustJoin p u = false
/-- The step counted: the operator has acted in ac n. -/
def opDone (s : State) (pl u n : Nat) : State :=
  s.modPlane pl (fun p => { p.touch n with firedAt := tset p.firedAt u (n + 1) })

/-- STEER's two tokens (R272) from the data token d, the control token c and whether the condition holds. -/
def steerOut (d c : Token) (first : Bool) : Token × Token :=
  if c.nul then (nullTok false d.utag, nullTok false d.utag)
  else if c.psn then (poisonTok c.origin d.utag, poisonTok c.origin d.utag)
  else if first then (d, nullTok false d.utag) else (nullTok false d.utag, d)

/-- AGEN's turn, with the trigger taken where a pattern begins (R256): the state and the plane in which the item is formed. -/
def agenTurn (s : State) (pl : Nat) (p : Plane) (t : Option Token) : State × Plane :=
  match t with
  | none => (s.setPlane pl p, p)
  | some t =>
    let u := dequeue s pl 64
    let q := (u.plane? pl).getD p
    let q := { q with ops := { q.ops with agen := { p.ops.agen with trig := some (clearRpl t), busy := agenMode p != 1 } } }
    (u.setPlane pl q, q)
/-- Whether t is the trigger that AGEN takes now, where one is due. -/
def agenTakes (p : Plane) (n : Nat) (t : Option Token) : Prop :=
  (t = none ∧ (agenTrig p = false ∨ p.ops.agen.trig ≠ none)) ∨
  (t ≠ none ∧ agenTrig p = true ∧ p.ops.agen.trig = none ∧ opHead p 8 0 n = t)

/-- WPORT's turn, with the selector taken where a set begins (R270). -/
def wportTurn (s : State) (pl : Nat) (p : Plane) (t : Option Token) : State × Plane :=
  let u := match t with | some _ => dequeue s pl 80 | none => s
  let q := (u.plane? pl).getD p
  let w := p.ops.wport
  let w := if w.busy then w
    else match t with
      | some t => { w with busy := true, s := bits t.data.toNat 0 32, p := 0, o := 0, kind := kindOfToks [t] }
      | none => { w with busy := true, kind := .data }
  let q := { q with ops := { q.ops with wport := w } }
  (u.setPlane pl q, q)
def wportTakes (p : Plane) (n : Nat) (t : Option Token) : Prop :=
  (t = none ∧ (wportSel p = false ∨ p.ops.wport.busy = true)) ∨
  (t ≠ none ∧ wportSel p = true ∧ p.ops.wport.busy = false ∧ opHead p 10 0 n = t)

/-- A random token sent, with the counter value it stands for (R288). -/
def rngSent (n : Nat) (otag : BitVec 4) (kind : Kind) (c : BitVec 128) (echo : Bool) (p : Plane) : Plane :=
  let q := sendOp p 18 0 n 3 (kindTok kind (rngLanes p c) false otag)
  let q := if echo then sendOp q 18 1 n 3 (kindTok kind (c.setWidth 256) false otag) else q
  if kind = .data then { q with ops := { q.ops with rngC := c + 2, rngN := q.ops.rngN + 1, rngK := q.ops.rngK + 1 } } else q

/-- CONV's state with the values of a source token taken (R280, R281); r: the random token under .RSR. -/
def convTaken (p : Plane) (v : Token) (r : Option Token) : ConvSt :=
  let w := (convSty p).width
  let c := p.ops.conv
  let one := fun (j : Nat) =>
    let x := valAt w v.data.toNat j
    let rnd := match r with | some t => rndField w t.data j | none => 0
    if fbit p 15 18 then x + 2 ^ 64 * rnd else conv (convDty p) (convSty p) (rndAt (fld p 15 21 3)) (fbit p 15 20) rnd x
  let src := (List.range (256 / w)).map one
  { c with vals := c.vals ++ src, pos := if c.pos + 256 / w = 32 * fld p 15 32 16 then 0 else c.pos + 256 / w, kind := if c.vals = [] then kindOfToks [v] else c.kind.join (kindOfToks [v]), scl := if c.vals = [] then v.scl else c.scl || v.scl, utag := if c.vals = [] then v.utag else c.utag }

/-! ## Memory -/

/-- What an architectural handler leaves at its target (R165), from the old value: the low 4, 8 or 16 bytes of m; none: no write. -/
def handlerNew (h : Nat) (m : BitVec 128) (op : Word) : Option (BitVec 128) :=
  let a : Word := m.setWidth 64
  let w := fun (x : Word) => some (x.setWidth 128)
  match h with
  | 0 => w (a + op)
  | 1 => some ((m.setWidth 32 + op.setWidth 32).setWidth 128)
  | 2 => w (if op.slt a then op else a)
  | 3 => w (if a.slt op then op else a)
  | 4 => w (if op.ult a then op else a)
  | 5 => w (if a.ult op then op else a)
  | 6 => w (a &&& op)
  | 7 => w (a ||| op)
  | 8 => w (a ^^^ op)
  | 9 => w op
  | 10 => if m.setWidth 32 = op.extractLsb' 32 32 then some ((op.setWidth 32).setWidth 128) else none
  | 11 => some (BitVec.ofNat 128 (fadd fmtF32 .rne 0 (m.setWidth 32).toNat (op.setWidth 32).toNat % 2 ^ 32))
  | 12 => w (BitVec.ofNat 64 (fadd fmtF64 .rne 0 a.toNat op.toNat))
  | 13 => some ((m.extractLsb' 64 64 : Word) ++ (a - op))
  | 14 => some (((m.extractLsb' 64 64 : Word) + 1#64 : Word) ++ (a + (op >>> 32) - (op &&& 0xFFFFFFFF#64)))
  | _ => none
/-- Its result: the old value, for 13 and 14 the count. -/
def handlerResult (h : Nat) (m : BitVec 128) : Word :=
  if h = 1 ∨ h = 10 ∨ h = 11 then (m.setWidth 32).setWidth 64 else m.setWidth 64

/-- Packet k of the mesh has reached its destination and may be performed there (R295, R299, R312). -/
def performs (s : State) (k : Nat) (x : Packet) : Prop := arriving s k = some x ∧ mayPerform s k x = true

/-! ## Commands, the control page and services -/

/-- A command record that firmware reads at pa and takes up now (R442): the command under way, or with none the first of those written;
every reserved byte is zero. -/
def cmdReads (s : State) (pa : Nat) (c : Cmd) : Prop :=
  s.hub.up = true ∧ cmdAddrOk s pa = true ∧
  (s.hub.cmd = some pa ∨ (s.hub.cmd = none ∧ (s.hub.cmds = [] ∨ s.hub.cmds.head? = some pa))) ∧ c.clean = true ∧
  ∃ l, devRead s pa 0 64 = some l ∧ cmdOf l = c
/-- A command over: the hub may take the next. -/
def cmdOver (s : State) (pa : Nat) : State := { s with hub := { s.hub with cmd := none, cmdPart := [], cmds := s.hub.cmds.erase pa } }
/-- A command ended: the status at byte 56 of its record (R442), its value at byte 48 where it has one. -/
def cmdDone (s : State) (pa n : Nat) : State := devWrite (cmdOver s pa) (pa + 56) 0 (bytesLE 8 n)
def cmdEnds (pa : Nat) (r : State × CmdEnd) : State :=
  match r with
  | (s, .status n) => cmdDone s pa n
  | (s, .res n v) => devWrite (devWrite (cmdOver s pa) (pa + 48) 0 (bytesLE 8 v)) (pa + 56) 0 (bytesLE 8 n)
  | (s, .more) => { s with hub := { s.hub with cmd := some pa, cmds := s.hub.cmds.erase pa } }

/-- A context record at pa whose turn it is and that firmware may read, with its words (R445); the read leaves the state u. -/
def recordReads (s : State) (vd pa : Nat) (u : State) (l : Bytes) : Prop :=
  (∃ v, s.vd? vd = some v ∧ recordPlace s v pa = true ∧ (v.cstarts = [] ∨ v.cstarts.head? = some pa)) ∧
  readRecord (enterStart s vd pa) pa = (u, some l) ∧ pa % 32 = 0 ∧ recordOk (numAt l 0 8) = true

/-- The state in which a service at the head of the queue runs, and what it is given (R483); it has no output under way. -/
def serves (s : State) (num : Nat) (r : FwReq) (t : State) (vd : Nat) (v : Vd) : Prop :=
  ∃ rest, s.hub.fwq = r :: rest ∧ r.svc = num ∧ t = { s with hub := { s.hub with fwq := rest } } ∧ vd = (t.ctx r.cid).vdn ∧
    t.vd? vd = some v ∧ s.hub.svcEnd = none ∧ s.hub.svcPuts = []
/-- The block of n bytes read at its homes. -/
def blockIs (t : State) (r : FwReq) (vd n : Nat) (u : State) (l : Bytes) : Prop :=
  r.arg.toNat % 64 = 0 ∧ hread t r.cid vd r.arg.toNat n = (u, .ok l)
/-- A service num runs for r; its block of n bytes l is read at its homes, which leaves the state u. -/
def served (s : State) (num : Nat) (r : FwReq) (n : Nat) (u : State) (vd : Nat) (v : Vd) (l : Bytes) : Prop :=
  ∃ t, serves s num r t vd v ∧ blockIs t r vd n u l
/-- The service ends in a state and with a status. Where it has output, that goes out sector by sector first, its request still at the head
of the queue (R294); with none left, the status is in the context's register, and the context goes on (R245). -/
def answers (i : Instr) (s : State) (r : FwReq) (x : State × Nat) : Prop :=
  exec i s = .next (if x.1.hub.svcPuts = [] then doneX { x.1 with hub := { x.1.hub with svcPart := [] } } r.cid r.xd (BitVec.ofNat 64 x.2)
    else { x.1 with hub := { x.1.hub with fwq := s.hub.fwq, svcPart := [], svcEnd := some x.2 } })
/-- The turns of a service under way: one that still reads, one that writes a sector of its output, and its answer. -/
def serviceTurns (i : Instr) (s : State) (num n : Nat) (r : FwReq) (t : State) (vd : Nat) (v : Vd) : Prop :=
  (∀ u, serves s num r t vd v → r.arg.toNat % 64 = 0 → hread t r.cid vd r.arg.toNat n = (u, .pause) →
    exec i s = .next { u with hub := { u.hub with fwq := s.hub.fwq } }) ∧
  (∀ rest st, s.hub.fwq = r :: rest → r.svc = num → s.vd? (s.ctx r.cid).vdn = some v → s.hub.svcEnd = some st →
    (s.hub.svcPuts = [] → exec i s =
      .next (doneX { s with hub := { s.hub with fwq := rest, svcEnd := none } } r.cid r.xd (BitVec.ofNat 64 st))) ∧
    (∀ a l, s.hub.svcPuts = a :: l → exec i s =
      .next (performAll { s with hub := { s.hub with svcPuts := l } } .hub (s.ctx r.cid).vdn [a])))
/-- A sealed key record at va passes the checks of R489 in the state u, and is read and unwrapped. -/
def recordPasses (u : State) (r : FwReq) (vd : Nat) (v : Vd) (va : Nat) (w : State) (pol : Bytes) (key : BitVec 256) : Prop :=
  ∃ l, va % 64 = 0 ∧ hread u r.cid vd va 1792 = (w, .ok l) ∧ pol = l.take 512 ∧ policyOk pol = true ∧ numAt l 896 4 = 65537 ∧
    numAt l 900 124 = 0 ∧ digestAt pol 16 = digest (byteSlice l 512 384) ∧
    pssVerify (numAt l 512 384) (l.take 1024) (numAt l 1024 384) = true ∧ w.hub.fwm ∈ policyFws pol ∧ v.conf = true ∧
    ∃ k, oaepDecrypt w.hub.fused.wrapN w.hub.fused.wrapD pol (numAt l 1408 384) = some k ∧ key = BitVec.ofNat 256 (ofBytesLE k)
/-- Output bytes can be written from the state t (R375), and they are put in order in the state u with the service's other effects: w is
what that leaves. -/
def outputs (t u : State) (r : FwReq) (vd va : Nat) (l : Bytes) (w : State) : Prop :=
  (∃ x a, vplan t (ctxCluster r.cid) vd (BitVec.ofNat 64 va) l = (x, .ok a)) ∧
  ∃ x a, vplan u (ctxCluster r.cid) vd (BitVec.ofNat 64 va) l = (x, .ok a) ∧
    w = { x with hub := { x.hub with svcPuts := a } }

end Sys2Proof.Claim

/-! ## Statements -/

section Statements
open Sys2Proof Sys2Proof.Machine Sys2Proof.Claim

/-- R209: every integer and immediate instruction of the sequencer goes on with the value of the table in its destination; a
destination of X0 takes nothing. Its frame: one X register, the PC, the wait and what an instruction had read in part of the executing
context change; nothing else. -/
def Obligations.SeqIntegerResults : Prop :=
  (∀ (i : Instr) (xd : XReg) (v : Ctx → Word) (s : State), seqInteger i = some (xd, v) →
    exec i s = .next (putCur s (seqOn ((curCtx s).setX xd (v (curCtx s))))) ∧
    (xd.val = 0 → (curCtx s).setX xd (v (curCtx s)) = curCtx s) ∧
    (xd.val ≠ 0 → ((curCtx s).setX xd (v (curCtx s))).getX xd = v (curCtx s))) ∧
  (∀ (i : Instr) (xd : XReg) (v : Ctx → Word) (s t : State), seqInteger i = some (xd, v) → exec i s = .next t →
    (∀ r : XReg, r ≠ xd → (curCtx t).getX r = (curCtx s).getX r) ∧
    { (curCtx t) with x := (curCtx s).x, pc := (curCtx s).pc, wait := (curCtx s).wait, part := (curCtx s).part } = curCtx s ∧
    (∀ c, c ≠ s.cur.cid → t.ctx c = s.ctx c) ∧ { t with ctxs := s.ctxs } = s ∧
    (∀ a, mread t.mem a = mread s.mem a) ∧ (∀ a, mread t.fmem a = mread s.fmem a))

/-- R90, R95 to R97, R100 to R102: an encoding stands for its value; a value is rounded to a format in each mode, with its overflow,
its infinities and its NaN; conversions round the value of their source. -/
def Obligations.Rounding : Prop :=
  (∀ f ∈ formats, ∀ (mode : Rnd) (sat neg : Bool) (rnd n m : Nat) (e : Int),
    (0 < m → rounded f mode sat rnd n neg (.rat (((m : Nat) : Rat) * (2 : Rat) ^ e)) (round f mode sat rnd n (.fin neg m e))) ∧
    round f mode sat rnd n (.fin neg 0 e) = signed f neg 0 ∧ round f mode sat rnd n .nan = quietNan f ∧
    round f mode sat rnd n (.inf neg) = (if sat then signed f neg (topCode f) else infinity f neg)) ∧
  (∀ f ∈ formats, ∀ x, x < 2 ^ f.w →
    let mag := x % 2 ^ (f.w - 1)
    (mag ≤ topCode f → ∃ m e, f.decode x = .fin (decide (2 ^ (f.w - 1) ≤ x)) m e ∧ ((m : Nat) : Rat) * (2 : Rat) ^ e = codeMag f mag) ∧
    (topCode f < mag → f.e4m3 = false → mag = 2 ^ (f.w - 1) - 2 ^ f.mb → f.decode x = .inf (decide (2 ^ (f.w - 1) ≤ x))) ∧
    (topCode f < mag → (f.e4m3 = true ∨ mag ≠ 2 ^ (f.w - 1) - 2 ^ f.mb) → f.decode x = .nan)) ∧
  (∀ (td ts : Ty) (mode : Rnd) (sat : Bool) (rnd x : Nat),
    let n := min 32 ts.width
    (∀ f g, td.fmt = some f → ts.fmt = some g → conv td ts mode sat rnd x = round f mode sat rnd n (g.decode x)) ∧
    (∀ f, td.fmt = some f → ts.fmt = none → x < 2 ^ ts.width → ∃ neg m, intValue ts x = (if neg then -(m : Int) else m) ∧
      (m = 0 → neg = false) ∧ conv td ts mode sat rnd x = round f mode sat rnd n (.fin neg m 0)) ∧
    (∀ g neg m e, td.fmt = none → ts.fmt = some g → g ∈ formats → x < 2 ^ g.w → g.decode x = .fin neg m e →
      let v : Rat := ((m : Nat) : Rat) * (2 : Rat) ^ e
      let up := movesUp mode neg v.floor.toNat ((v.floor : Int) : Rat) 1 (.rat v) rnd n
      ∀ k : Int, (up → k = (if neg then -1 else 1) * (v.floor + 1)) → (¬ up → k = (if neg then -1 else 1) * v.floor) →
        conv td ts mode sat rnd x = (if intLow td ≤ k ∧ k ≤ intHigh td then toBits td k
          else if sat then toBits td (if k < intLow td then intLow td else intHigh td) else indefinite td)) ∧
    (∀ g, td.fmt = none → ts.fmt = some g → (g.decode x = .nan → conv td ts mode sat rnd x = (if sat then 0 else indefinite td)) ∧
      ∀ neg, g.decode x = .inf neg → conv td ts mode sat rnd x =
        (if sat then toBits td (if neg then intLow td else intHigh td) else indefinite td)) ∧
    (td.fmt = none → ts.fmt = none → x < 2 ^ ts.width → conv td ts mode sat rnd x = toBits td
      (if sat then max (intLow td) (min (intHigh td) (intValue ts x)) else intValue ts x)))

/-- R81, R209: X0 discards writes; every other X register holds what was written last (R23). That X0 reads as zero is an inference from
the words that say it (log entry 107). -/
def Obligations.ZeroRegister : Prop :=
  ∀ (c : Ctx) (r q : XReg) (v : Word),
    c.getX 0 = 0 ∧ c.setX 0 v = c ∧ (r ≠ 0 → (c.setX r v).getX r = v) ∧ (q ≠ r → (c.setX r v).getX q = c.getX q)

/-- R211 with R82: a branch taken goes to its target, one not taken to the next position; JAL and JALI link the start of the next
block; a misaligned target of JI or JALI raises ALIGN and has no other effect. -/
def Obligations.SeqBranchesAndJumps : Prop :=
  (∀ (i : Instr) (off : BitVec 24) (cond : Ctx → Bool) (s : State), seqBranch i = some (off, cond) →
    exec i s = .next (putCur s
      (if cond (curCtx s) then { (curCtx s) with pc := blockStart (curCtx s).pc + off.signExtend 64 * 64 } else seqOn (curCtx s)))) ∧
  (∀ (s : State) (xd xa : XReg) (off : BitVec 24),
    let c := curCtx s
    let t := c.getX xa + off.signExtend 64 * 64
    let link := blockStart c.pc + 64
    exec (.seqJal xd off) s = .next (putCur s { (c.setX xd link) with pc := blockStart c.pc + off.signExtend 64 * 64 }) ∧
    (t.extractLsb' 0 6 = 0 → exec (.seqJi xa off) s = .next (putCur s { c with pc := t }) ∧
      exec (.seqJali xd xa off) s = .next (putCur s { (c.setX xd link) with pc := t })) ∧
    (t.extractLsb' 0 6 ≠ 0 → exec (.seqJi xa off) s = .next (takeTrap s s.cur.cid 1 false t c.pc) ∧
      exec (.seqJali xd xa off) s = .next (takeTrap s s.cur.cid 1 false t c.pc)))

/-- R205: where a trap goes and what it saves, by the level at which it is raised. -/
def Obligations.TrapEntry : Prop :=
  ∀ (s : State) (cid cause : Nat) (ue : Bool) (v epc : Word), cause < 16 →
    let c := s.ctx cid
    let t := takeTrap s cid cause ue v epc
    let word : Word := BitVec.ofNat 64 (ue.toNat * 2 ^ 62 + cause)
    (c.pl = user → t.ctx cid = { c with epc := epc, cause := word, tval := v, ppl := false, peie := c.eie, eie := false, pl := super, pc := c.tvec, wait := .none, part := [] } ∧ { t with ctxs := s.ctxs } = s) ∧
    (c.pl = super → t.ctx cid = { c with fepc := epc, fcause := word, ftval := v, fppl := super, fpeie := c.eie, eie := false, pl := firm, pc := c.ftvec, wait := .none, part := [] } ∧ { t with ctxs := s.ctxs } = s) ∧
    (c.pl = firm → t.ctx cid = { c with run := .stopped, wait := .none, part := [] } ∧
        { t with ctxs := s.ctxs, out := s.out } = s ∧ t.out = s.out ++ [.hubReport cid cause v]) ∧
    (∀ d, d ≠ cid → t.ctx d = s.ctx d)

/-- R207: ERET at SUPER and at FIRM restores PC, level and EIE from that level's bank; at USER it raises PRIV. -/
def Obligations.EretRestores : Prop :=
  ∀ (s : State),
    let c := curCtx s
    (c.pl = super → exec .seqEret s = .next (putCur s { c with pc := c.epc, pl := if c.ppl then super else user, eie := c.peie })) ∧
    (c.pl = firm → exec .seqEret s = .next (putCur s { c with pc := c.fepc, pl := c.fppl, eie := c.fpeie })) ∧
    (c.pl = user → exec .seqEret s = .next (takeTrap s s.cur.cid 3 false 0xA100000000000000#64 c.pc))

/-- R204 with R201: which numbers CSRRD and CSRWR accept at which level, and what they read and write; a write of 0b11 to the level of
SQ_FSTATUS keeps the old level (the model's reading, log entry 73). -/
def Obligations.CsrAccess : Prop :=
  ∀ (s : State) (xd xa : XReg) (n : BitVec 12), (curCtx s).pl.toNat < 3 → n ≠ 8 →
    let c := curCtx s
    let rd : Word := BitVec.ofNat 64 (0xA2 * 2 ^ 56 + xd.val * 2 ^ 51 + n.toNat)
    let wr : Word := BitVec.ofNat 64 (0xA3 * 2 ^ 56 + xa.val * 2 ^ 46 + n.toNat)
    let bad := fun (cause : Nat) (w : Word) => takeTrap s s.cur.cid cause false w c.pc
    match csrAllows n.toNat c.pl.toNat with
    | none => exec (.seqCsrrd xd n) s = .next (bad 2 rd) ∧ exec (.seqCsrwr xa n) s = .next (bad 2 wr)
    | some .priv => exec (.seqCsrrd xd n) s = .next (bad 3 rd) ∧ exec (.seqCsrwr xa n) s = .next (bad 3 wr)
    | some .ro => exec (.seqCsrrd xd n) s = .next (putCur s (seqOn (c.setX xd (csrRead s s.cur.cid n.toNat)))) ∧
        exec (.seqCsrwr xa n) s = .next (bad 2 wr)
    | some .rw => exec (.seqCsrrd xd n) s = .next (putCur s (seqOn (c.setX xd (csrRead s s.cur.cid n.toNat)))) ∧
        ∃ d, exec (.seqCsrwr xa n) s = .next (putCur s (seqOn d)) ∧ d.x = c.x ∧ d.pc = c.pc ∧ d.pl = c.pl ∧
          csrRead (putCur s (seqOn d)) s.cur.cid n.toNat = csrAfter n.toNat (csrRead s s.cur.cid n.toNat) (c.getX xa)

/-- R200, R212 and the rules that name an alignment: an instruction that needs SUPER, or FIRM, raises PRIV below it, with its word in
SQ_TVAL; a misaligned address raises ALIGN with the address in SQ_TVAL. -/
def Obligations.PrivilegedOrMisaligned : Prop :=
  (∀ (i : Instr) (lvl : Nat) (s : State), seqLevel i = some lvl → (curCtx s).pl.toNat < lvl →
    ∃ w, encodeSeq i = some w ∧ exec i s = .next (takeTrap s s.cur.cid 3 false (BitVec.ofNat 64 w) (curCtx s).pc)) ∧
  (∀ (i : Instr) (addr : Ctx → Word) (n : Nat) (s : State), seqAddress i = some (addr, n) →
    (∀ lvl, seqLevel i = some lvl → lvl ≤ (curCtx s).pl.toNat) →
    (addr (curCtx s)).toNat % n ≠ 0 → exec i s = .next (takeTrap s s.cur.cid 1 false (addr (curCtx s)) (curCtx s).pc))

/-- R98, R99, R103, R109, R111, R133, R148, R151, R188: a sum, of two terms or of a matrix column, is exact and rounded once; products,
quotients and square roots are exact and rounded once; zeros, infinities and NaNs give what R98 and R99 say; minimum, maximum and the
comparisons order the values. -/
def Obligations.ArithmeticValues : Prop :=
  (∀ (t : FltTy) (mode : Rnd) (rnd x y z : Nat),
    let f := t.fmt
    let n := min 32 f.w
    let a := f.decode x
    let b := f.decode y
    let c := f.decode z
    let neg := f.sign x != f.sign y
    x < 2 ^ f.w → y < 2 ^ f.w → z < 2 ^ f.w →
    sumRounded f mode rnd n [a, b] (fadd f mode rnd x y) ∧
    sumRounded f mode rnd n [a, opposite b] (fsub f mode rnd x y) ∧
    sumRounded f mode 0 0 [mulV a b, c] (ffma f mode x y z) ∧
    (a = .nan ∨ b = .nan → mulV a b = .nan ∧ fmul f mode rnd x y = quietNan f ∧ fdiv f mode x y = quietNan f) ∧
    ((infV a ∧ zeroV b) ∨ (zeroV a ∧ infV b) → mulV a b = .nan ∧ fmul f mode rnd x y = quietNan f) ∧
    ((infV a ∧ b ≠ .nan ∧ ¬ zeroV b) ∨ (infV b ∧ a ≠ .nan ∧ ¬ zeroV a) →
      mulV a b = .inf neg ∧ fmul f mode rnd x y = infinity f neg) ∧
    (finiteV a → finiteV b → finiteV (mulV a b) ∧ rational (mulV a b) = rational a * rational b ∧
      (rational a * rational b = 0 → fmul f mode rnd x y = signed f neg 0 ∧ (negZero (mulV a b) ↔ neg = true)) ∧
      (rational a * rational b ≠ 0 → rounded f mode false rnd n neg (.rat (magnitude (rational a * rational b))) (fmul f mode rnd x y))) ∧
    ((infV a ∧ infV b) ∨ (zeroV a ∧ zeroV b) → fdiv f mode x y = quietNan f) ∧
    ((infV a ∧ finiteV b) ∨ (finiteV a ∧ ¬ zeroV a ∧ zeroV b) → fdiv f mode x y = infinity f neg) ∧
    ((zeroV a ∧ finiteV b ∧ ¬ zeroV b) ∨ (finiteV a ∧ infV b) → fdiv f mode x y = signed f neg 0) ∧
    (finiteV a → finiteV b → ¬ zeroV a → ¬ zeroV b →
      rounded f mode false 0 0 neg (.rat (magnitude (rational a / rational b))) (fdiv f mode x y)) ∧
    (a = .nan ∨ a = .inf true ∨ (finiteV a ∧ rational a < 0) → fsqrt f mode x = quietNan f) ∧
    (a = .inf false → fsqrt f mode x = infinity f false) ∧ (zeroV a → fsqrt f mode x = x) ∧
    (finiteV a → 0 < rational a → rounded f mode false 0 0 false (.sqrt (rational a)) (fsqrt f mode x)) ∧
    (∀ mx : Bool,
      (a ≠ .nan → b = .nan → fminmax f mx x y = x) ∧ (a = .nan → b ≠ .nan → fminmax f mx x y = y) ∧
      (a = .nan → b = .nan → fminmax f mx x y = quietNan f) ∧
      (before a b → fminmax f mx x y = (if mx then y else x)) ∧ (before b a → fminmax f mx x y = (if mx then x else y)) ∧
      (zeroV a → zeroV b → fminmax f mx x y = signed f (if mx then f.sign x && f.sign y else f.sign x || f.sign y) 0) ∧
      fminmax f mx x y = fminmax f mx y x) ∧
    (a = .nan ∨ b = .nan → ∀ cd, fcond f cd x y = decide (cd = .ne ∨ cd = .un)) ∧
    (a ≠ .nan → b ≠ .nan → ∀ cd, (fcond f cd x y = true ↔ match cd with
      | .eq => ¬ before a b ∧ ¬ before b a | .ne => before a b ∨ before b a | .lt => before a b | .le => ¬ before b a
      | .gt => before b a | .ge => ¬ before a b | .un => False | .ord => True))) ∧
  (∀ (t : Ty) (f : Fmt) (x y : Nat), t.fmt = some f → combine .add t x y = fadd f .rne 0 x y ∧
    combine .min t x y = fminmax f false x y ∧ combine .max t x y = fminmax f true x y) ∧
  (∀ (cfg : Word) (job : MmaJob) (row : Option Lanes) (j : Nat),
    let f := if mxFmt cfg = 6 then fmtF64 else fmtF32
    let cell := fun (o : Option Lanes) => match o with | some v => [f.decode (valAt f.w v.toNat j)] | none => []
    j < (mxGeom cfg).2.2 → (j + 1) * f.w ≤ 256 → sumRounded f .rne 0 0
      ((List.range (mxGeom cfg).2.1).map (fun k => mxTerm cfg job k j) ++ cell job.north ++ cell row) (valAt f.w (mxSums cfg job row).1.toNat j)) ∧
  (∀ (q v : Lanes) (t : Ty) (j : Nat),
    ((j + 1) * 32 ≤ 256 → valAt 32 (accAdd .f32 q v).1.toNat j = fadd fmtF32 .rne 0 (valAt 32 q.toNat j) (valAt 32 v.toNat j) % 2 ^ 32 ∧
      valAt 32 (accAdd .i32 q v).1.toNat j = (valAt 32 q.toNat j + valAt 32 v.toNat j) % 2 ^ 32) ∧
    ((j + 1) * 64 ≤ 256 → valAt 64 (accAdd .f64 q v).1.toNat j = fadd fmtF64 .rne 0 (valAt 64 q.toNat j) (valAt 64 v.toNat j) % 2 ^ 64) ∧
    (let ts : Ty := if t = .f64 then .f64 else .f32
     (j + 1) * ts.width ≤ 256 → (j + 1) * t.width ≤ 256 → valAt t.width (accRead t q).1.toNat j = conv t ts .rne true 0 (valAt ts.width q.toNat j) % 2 ^ t.width))

/-- R68 to R80: for every well-formed instruction, the words that the encoder gives it fit their format and decode to it, with every operand
at every value. -/
def Obligations.DecodeEncodeAgree : Prop := ∀ i : Instr, Sys2Proof.Laws.Encoding.Statement i

/-- R70, R80, R81: no bit of a word is dropped: a word that decodes gives a well-formed instruction that encodes to the same word; of an
element's word PRES[2:0] does not count where PRES[3] is 0. -/
def Obligations.DecodeLossless : Prop :=
  (∀ (w : Nat) (i : Instr), w < 2 ^ 64 → decodeSeq w = some i → i.wf = true ∧ encodeSeq i = some w) ∧
  (∀ (w : Nat) (i : Instr), w < 2 ^ 128 → (bits w 17 4 = 0 ∨ 8 ≤ bits w 17 4) → decodeElem w = some i → i.wf = true ∧ encodeElem i = some w)

/-- R68 to R81: words written out from the spec's encodings are read as the instructions they stand for, and unassigned opcodes are refused. -/
def Obligations.DecodeWords : Prop :=
  decodeSeq 0x62010A0000FFFFFD = some (.seqBlt 4 5 0xFFFFFD) ∧
  decodeSeq 0xA220000000000010 = some (.seqCsrrd 4 0x010) ∧
  decodeSeq 0x701880C100000008 = some (.seqLd 3 2 .b8 true 8) ∧
  decodeSeq 0x7429CCE600000000 = some (.seqAmo 5 7 6 .b8 .die .ar 0 0) ∧
  decodeSeq 0x904A800000000002 = some (.seqSopen 9 10 2) ∧
  decodeSeq 0xA429800000000120 = some (.seqFwcall 5 6 0x0120) ∧
  decodeElem 0x2D60200040011516020C10A040560064 = some (.elemCmp
    ({ pmask := 2, pval := 0, inrdy := 4, tch := 0, tval := 0, tmask := 0, opa := .head 2, opb := .immS, opc := .zero, deq := 4, dst := some 6, omask := 8, otag := 5, psetm := 2, psetv := 2, pres := some 3, imm := 0x64 } : EFields) .ge .n32) ∧
  decodeElem 0x4D80000010010623808E000000000000 = some (.elemFfma
    ({ pmask := 0, pval := 0, inrdy := 1, tch := 0, tval := 0, tmask := 0, opa := .head 0, opb := .k 1, opc := .g 7, deq := 1, dst := some 7, omask := 0, otag := 0, psetm := 0, psetv := 0, pres := none, imm := 0 } : EFields) .f32 .rne true) ∧
  decodeElem 0x8100000030010D9001FE000000000043 = some (.elemSt
    ({ pmask := 0, pval := 0, inrdy := 3, tch := 0, tval := 0, tmask := 0, opa := .head 1, opb := .zero, opc := .head 0, deq := 3, dst := none, omask := 0, otag := 0, psetm := 0, psetv := 0, pres := none, imm := 0x43 } : EFields) .blk) ∧
  decodeElem 0x930000003001043601FE220000000000 = some (.elemMma
    ({ pmask := 0, pval := 0, inrdy := 3, tch := 0, tval := 0, tmask := 0, opa := .head 0, opb := .head 1, opc := .zero, deq := 3, dst := none, omask := 0x11, otag := 0, psetm := 0, psetv := 0, pres := none, imm := 0 } : EFields) false false) ∧
  decodeElem 0x934000003001043601FE220000000000 = none ∧ decodeSeq 0xFF00000000000000 = none ∧ decodeSeq 0x904A800000000102 = none

/-- R26, R34, R81, R82, R199, R208, R475; the model's choices are the agenda (log entry 1), that the word at PC is translated and read anew in
each turn (log entry 69) and how a sequencer's issues are counted (log entry 82): a turn of the context that its sequencer issues next runs
what the word at its PC decodes to, and a word that is no instruction raises ILLEGAL with SQ_TVAL the word; a turn of another issues none; a
context with sectors left to write stores the next one; a turn of an element runs its slot's instruction, a turn of an event the event, a
turn of a message what it asks for; with no turn left an ac passes. A sequencer word that withFetchWord places is run by the very next
step. -/
def Obligations.StepRuns : Prop :=
  ∀ (s : State) (rest : List Turn) (cid tile e d w : Nat) (i : Instr) (t : State) (a : Access) (puts : List Access) (msg : Bytes),
    let s0 := { s with agenda := rest }
    let idle := { s0 with cur := { plane := 0, elem := 0, slot := 0, cid := cid } }
    let here := issuing idle cid
    let c := s.ctx cid
    let runs := fun (u : State) (w : Nat) => step s =
      match decodeSeq w with
      | some i => exec i u
      | none => .next (takeTrap u cid 2 false (BitVec.ofNat 64 w) (u.ctx cid).pc)
    (s.agenda = .context cid :: rest → readyCtx c → ¬ nextUp s cid → step s = .next idle) ∧
    (s.agenda = .context cid :: rest → nextUp s cid →
      (c.pl = firm → firmBad s c.pc.toNat 8 = false → runs here (mreadN s.fmem c.pc.toNat 8)) ∧
      (c.pl = firm → firmBad s c.pc.toNat 8 = true → step s = .next (takeTrap here cid 4 true c.pc c.pc)) ∧
      (c.pl ≠ firm → ∀ s1 pa kslot cp opo s2 s3 v, translate here (tlbCluster (ctxCluster cid)) c.vdn c.pc false false = (s1, .ok pa kslot cp opo) →
        reaches s1 (.ctx cid) (pa / 32 * 32) cp = (s2, true) → loadSector s2 (.ctx cid) c.vdn (pa / 32 * 32) kslot cp = (s3, v, false) →
        runs s3 (bits v.toNat (8 * (pa % 32)) 64))) ∧
    (s.agenda = .context cid :: rest → c.run = .running → c.puts = a :: puts → step s =
      .next (performAll (idle.setCtx cid { c with puts := puts }) (.ctx cid) c.vdn [a])) ∧
    (s.agenda = .message d msg :: rest → hearMessage s0 d msg = .run t i → step s = exec i t) ∧
    (s.agenda = .element tile e :: rest → fetchSlot s0 tile e = .word t w → decodeElem w = some i → step s = exec i t) ∧
    (s.agenda = .event i :: rest → encode i = .event → step s = exec i s0) ∧
    (s.agenda = .tick d :: rest → step s = .next (tick s0 d)) ∧
    (s.agenda = [] → step s = .next (passAc s)) ∧
    (s.fmem.wf = true → w < 2 ^ 64 → decodeSeq w = some i → step (s.withFetchWord 64 w) =
      exec i (issuing { s.withFetchWord 64 w with agenda := [], cur := { plane := 0, elem := 0, slot := 0, cid := 0 } } 0))

/-- R201, R434, R438; the moment of reset, banks in CACHE mode and zero SRAM are the model's choice (log entries 6, 31, 32): after reset no granule is in a partition, every tile is power-gated, no page is placed and no context runs; the
control registers of a context read as R201 says; memory is zero and in its canonical form, no unit is locked and every bank is in CACHE mode. -/
def Obligations.ResetValues : Prop :=
  let s := State.reset
  s.hub.parts = [] ∧ s.hub.vds = [] ∧ s.planes = [] ∧ (∀ t, s.powerOf t = .gated) ∧ s.hub.up = true ∧
  (∀ k, let c := s.ctx k
    c.run = .stopped ∧ c.vd = none ∧ c.pl = super ∧ c.ppl = false ∧ c.eie = false ∧ c.peie = false ∧ c.cause = 0 ∧ c.epc = 0 ∧ c.tval = 0 ∧
    c.tvec = 0 ∧ c.scratch = 0 ∧ c.next = 0 ∧ c.save = 0 ∧ c.event = 0 ∧ c.evmask = 0 ∧ c.sctl = 0 ∧ c.amst = 0 ∧ c.bara = 0 ∧ c.barg = 0 ∧
    c.fppl = user ∧ c.fpeie = false ∧ c.fcause = 0 ∧ c.fepc = 0 ∧ c.ftval = 0 ∧ c.ftvec = Config.firmwareEntry (k / 8) &&& ~~~63#64) ∧
  (∀ d, s.ac d = 0) ∧ (∀ a, mread s.mem a = 0) ∧ (∀ u, lockOf s u = 0) ∧ (∀ k, ∀ b ∈ (s.cluster k).banks, b.mode = .cache) ∧
  s.net = [] ∧ s.memWf = true

/-- Every step keeps every memory of the package in its canonical form, so that equal memories are equal data; the form is the model's own
(log entry 36), the bytes are those of R7, R293 and R439. -/
def Obligations.StepKeepsMemory : Prop := ∀ s t : State, s.memWf = true → step s = .next t → t.memWf = true

/-- R213, R214 at FIRM (R208): a load takes its bytes, the least significant first, from the firmware space; a store changes its
own bytes there and no others. LDA drops the cluster's copies (R297), STL waits for the context's earlier accesses (R312). A load that meets
a sector which fails its check traps with UE = 1 (R205, R475; that it writes no record is the model's reading, log entry 92). -/
def Obligations.FirmwareAccess : Prop :=
  ∀ (s : State) (xd xa xb : XReg) (sz : Sz) (n : Bool) (sc : Scope) (disp : BitVec 24),
    let c := curCtx s
    let a := memAddr c xa disp
    let k := szBytes sz
    s.fmem.wf = true → c.pl = firm → a.toNat % k = 0 →
    (firmBad s a.toNat k = false → exec (.seqLd xd xa sz n disp) s = .next (doneX s s.cur.cid xd (loaded k n (mreadN s.fmem a.toNat k))) ∧
      exec (.seqLda xd xa sz n sc disp) s =
        .next (doneX (invalidate s (ctxCluster s.cur.cid)) s.cur.cid xd (loaded k n (mreadN s.fmem a.toNat k)))) ∧
    (firmBad s a.toNat k = true → exec (.seqLd xd xa sz n disp) s = .next (takeTrap s s.cur.cid 4 true a c.pc) ∧
      exec (.seqLda xd xa sz n sc disp) s = .next (takeTrap s s.cur.cid 4 true a c.pc)) ∧
    (ownAny s s.cur.cid = true → exec (.seqStl xa xb sz sc disp) s = .next s) ∧
    (∃ t, exec (.seqSt xa xb sz disp) s = .next t ∧ (ownAny s s.cur.cid = false → exec (.seqStl xa xb sz sc disp) s = .next t) ∧
      t = done (firmPut s a k (c.getX xb).toNat) s.cur.cid ∧
      (∀ j, j < k → mread t.fmem (a.toNat + j) = (c.getX xb).extractLsb' (8 * j) 8) ∧
      (∀ b, b < a.toNat ∨ a.toNat + k ≤ b → mread t.fmem b = mread s.fmem b) ∧ t.mem = s.mem)

/-- R213, R214: a load at USER or SUPER, translated and read without an error; LDA also drops the cluster's copies (R297). -/
def Obligations.VirtualLoad : Prop :=
  ∀ (s s1 s2 s3 s4 : State) (xd xa : XReg) (sz : Sz) (n : Bool) (sc : Scope) (disp : BitVec 24) (pa kslot cp : Nat) (opo : Bool)
    (v w : Lanes),
    let cid := s.cur.cid
    let c := curCtx s
    let a := memAddr c xa disp
    let k := szBytes sz
    let x := fun (v : Lanes) => loaded k n (v.extractLsb' (8 * (pa % 32)) (8 * k)).toNat
    c.pl ≠ firm → a.toNat % k = 0 → ctxTranslate s cid a false = (s1, .ok pa kslot cp opo) →
    ownPending s1 cid (pa / 32 * 32) = false → reaches s1 (.ctx cid) (pa / 32 * 32) cp = (s2, true) →
    (loadSector s2 (.ctx cid) c.vdn (pa / 32 * 32) kslot cp = (s3, v, false) →
      exec (.seqLd xd xa sz n disp) s = .next (doneX s3 cid xd (x v))) ∧
    (loadSector s2 (.ctx cid) c.vdn (pa / 32 * 32) kslot cp (some sc) = (s4, w, false) →
      exec (.seqLda xd xa sz n sc disp) s = .next (doneX (invalidate s4 (ctxCluster cid)) cid xd (x w)))

/-- R213, R214: a store at USER or SUPER leaves as an access of its sector, on a strand where R235 says so; no byte of memory
changes before it is performed at its home. -/
def Obligations.VirtualStore : Prop :=
  ∀ (s s1 : State) (xa xb : XReg) (sz : Sz) (sc : Scope) (disp : BitVec 24) (pa kslot cp : Nat) (opo : Bool),
    let cid := s.cur.cid
    let c := curCtx s
    let a := memAddr c xa disp
    let k := szBytes sz
    c.pl ≠ firm → a.toNat % k = 0 → ctxTranslate s cid a true = (s1, .ok pa kslot cp opo) →
    ctxRoom s1 cid pa (ctxStrand s1 cid pa) = true →
    ∃ t u, exec (.seqSt xa xb sz disp) s = .next t ∧ exec (.seqStl xa xb sz sc disp) s = .next u ∧
      t = done (issueCtx s1 cid (.store (subAccess pa k kslot (c.getX xb) none false)) (ctxStrand s1 cid pa)) cid ∧
      u = done (issueCtx s1 cid (.store (subAccess pa k kslot (c.getX xb) (some sc) false)) (ctxStrand s1 cid pa)) cid ∧
      t.mem = s1.mem ∧ t.fmem = s1.fmem ∧ u.mem = s1.mem ∧ u.fmem = s1.fmem

/-- R215, R241, R242: AMO, EXPECT and AMSEND at USER or SUPER send their message; who awaits a result waits, the others go on. That
an installed handler takes the whole operand whatever SZ says is log entry 86. -/
def Obligations.Invocations : Prop :=
  ∀ (s s1 : State) (xd xa xb : XReg) (sz : Sz) (sc : Scope) (o : Ord) (h : Fin 32) (disp : BitVec 24) (fl : BitVec 8)
    (pa kslot cp : Nat) (opo : Bool),
    let cid := s.cur.cid
    let c := curCtx s
    let narrow := h.val = 1 ∨ h.val = 11
    let send := fun (w32 waits rel : Bool) (hn : Nat) => issueCtx s1 cid (.invoke (ctxMsg s1 cid hn (c.getX xb) w32 waits rel false pa kslot)) none
    let wait := fun (t : State) (acq : Bool) (va : Word) => t.setCtx cid { t.ctx cid with wait := .atomic xd acq va }
    let acq := o = .acq ∨ o = .ar
    let rel := o = .rel ∨ o = .ar
    c.pl ≠ firm →
    (let a := memAddr c xa disp
     (if h.val < 16 then (sz = .b4 ↔ narrow) ∧ (sz = .b8 ↔ ¬ narrow) else sz = .b4 ∨ sz = .b8) → a.toNat % handlerBytes h.val = 0 →
     ctxTranslate s cid a (h.val != 15) = (s1, .ok pa kslot cp opo) →
     exec (.seqAmo xd xa xb sz sc o h disp) s = .next
       (if xd.val ≠ 0 ∨ acq then wait (send (decide narrow) true (decide rel) h.val) (decide acq) a
        else done (send (decide narrow) false (decide rel) h.val) cid)) ∧
    (let a := c.getX xa
     a.toNat % 16 = 0 → ctxTranslate s cid a true = (s1, .ok pa kslot cp opo) →
     exec (.seqExpect xa xb) s = .next (done (send false false false 14) cid)) ∧
    (let a := c.getX xa
     fl.toNat < 4 → (fl.getLsbD 1 = true ↔ narrow) → (fl.getLsbD 0 = true → xd.val = 0) → a.toNat % handlerBytes h.val = 0 →
     ctxTranslate s cid a (h.val != 15) = (s1, .ok pa kslot cp opo) →
     exec (.seqAmsend xd xa xb (BitVec.ofNat 8 h.val) fl) s = .next
       (if fl.getLsbD 0 = false then wait (send (decide narrow) true false h.val) false a else done (send (decide narrow) false false h.val) cid))

/-- R215, R297, R312: a result that reaches the context waiting for it: the value, or zero for a null result, and SQ_AMST.NULL; with ACQ
or AR the cluster's copies are dropped. A result that says the data were uncorrectable (R212, R250) writes its record and raises PAGE with
UE = 1; nothing is taken while the record has no place (R454). -/
def Obligations.AtomicResult : Prop :=
  ∀ (s : State) (k cid : Nat) (x : Packet) (val : Word) (null : Bool) (psn : Option Word) (pa : Nat) (xd : XReg) (acq : Bool)
    (va : Word) (ue : Bool), arriving s k = some x → x.body = .result (.ctx cid) val null psn ue pa → (s.ctx cid).wait = .atomic xd acq va →
    let t := if acq then invalidate (s.dropPacket k) (ctxCluster cid) else s.dropPacket k
    let c := t.ctx cid
    let u := s.dropPacket k
    let rc := seqFaultRec u (ctxCluster cid) (s.ctx cid).vdn cid va 0 true true false 0 2
    (ue = false → exec (.seqAtomicResult k) s = .next
      (t.setCtx cid { seqOn (c.setX xd (if null then 0 else val)) with amst := if null then 1 else 0 })) ∧
    (ue = true → canRaise u (s.ctx cid).vdn rc = true → exec (.seqAtomicResult k) s = .next
      (takeTrap (raise u (s.ctx cid).vdn rc) cid 4 true va (s.ctx cid).pc)) ∧
    (ue = true → canRaise u (s.ctx cid).vdn rc = false → (s.ctx cid).run = .running → exec (.seqAtomicResult k) s = .next s)

/-- R216 to R218, R297, R312, R315: FENCE goes on once the accesses it waits for are done, with .ACQ and .AR as an acquire, and while one
is on its way nothing changes; MON arms the monitor on the sector of its address; MWAIT and its two ends write the status of R218, disarm
the monitor and go on. That a monitor on a sector of another package may have fired whenever it is asked is the model's (log entry 4). -/
def Obligations.FenceAndMonitor : Prop :=
  (∀ (s : State) (sc : Scope) (o : Ord),
     let cid := s.cur.cid
     let waits := if o = .rel ∨ o = .ar then ownAny s cid else ownAtomic s cid
     (waits = false → exec (.seqFence sc o) s =
       .next (done (if o = .acq ∨ o = .ar then invalidate s (ctxCluster cid) else s) cid)) ∧
     (waits = true → exec (.seqFence sc o) s = .next s)) ∧
  (∀ (s : State) (xd xa xb : XReg) (disp : BitVec 24) (w : Nat) (limit since : Nat),
     let cid := s.cur.cid
     let c := curCtx s
     let a := memAddr c xa disp
     let fin := fun (d : Nat) (st : Nat) =>
       s.setCtx d { seqOn ((s.ctx d).setX xd (BitVec.ofNat 64 st)) with mon := none, monFired := false }
     let here := fun (sec : Nat) => sec / 2 ^ 44 = s.posN ∨ 2 ^ 60 ≤ sec
     let t := { s with free := s.free + 1 }
     let rest := fun (u : State) =>
       putCur u { c with wait := .mwait xd (c.getX xb).toNat (s.ac (clusterDie (ctxCluster cid))) }
     (c.pl = firm → exec (.seqMon xa disp) s = .next (putCur s { seqOn c with mon := some (firmSector a), monFired := false })) ∧
     (c.pl ≠ firm → ∀ s1 pa kslot cp opo, ctxTranslate s cid a false = (s1, .ok pa kslot cp opo) →
       exec (.seqMon xa disp) s =
         .next (s1.setCtx cid { seqOn (s1.ctx cid) with mon := some (pa / 32 * 32), monFired := false })) ∧
     (c.mon = none → exec (.seqMwait xd xb) s = .next (fin cid 3)) ∧
     (c.mon ≠ none → c.monFired = true → exec (.seqMwait xd xb) s = .next (fin cid 0)) ∧
     (∀ sec, c.mon = some sec → c.monFired = false → here sec → exec (.seqMwait xd xb) s = .next (rest s)) ∧
     (∀ sec, c.mon = some sec → c.monFired = false → ¬ here sec → exec (.seqMwait xd xb) s = .next (rest t) ∨
       exec (.seqMwait xd xb) s = .next { fin cid 0 with free := s.free + 1 }) ∧
     ((s.ctx w).wait = .mwait xd limit since → (s.ctx w).run = .running → (s.ctx w).monFired = true →
       exec (.mwaitWake w) s = .next (fin w 0)) ∧
     (∀ sec, (s.ctx w).wait = .mwait xd limit since → (s.ctx w).run = .running → (s.ctx w).mon = some sec → (s.ctx w).monFired = false →
       (here sec → exec (.mwaitWake w) s = .next s) ∧ (¬ here sec → exec (.mwaitWake w) s = .next t ∨
         exec (.mwaitWake w) s = .next { fin w 0 with free := s.free + 1 })) ∧
     ((s.ctx w).wait = .mwait xd limit since → (s.ctx w).run = .running → (s.ctx w).monFired = false → 0 < limit →
       limit ≤ s.ac (clusterDie (ctxCluster w)) - since → exec (.mwaitLimit w) s = .next (fin w 1)))

/-- R236 to R238, R307: SOPEN of a die of this package (what is on its way on the strand goes first, log entry 70), of another package's (the
OPEN leaves; what it answers is open, log entry 4) and at FIRM (nothing is reserved there, the model's choice of log entry 71), SCLOSE, SBAR
and its end. -/
def Obligations.Strands : Prop :=
  ∀ (s s1 s2 : State) (xd xa xb : XReg) (k : Fin 4) (pa kslot cp : Nat) (opo : Bool) (w : Nat) (j : Nat),
    let cid := s.cur.cid
    let c := curCtx s
    let a := c.getX xa
    let key := strandIdx k.val (dieKey pa)
    let st := (s.ctx w)
    let six := 32 + 4 * (cid % 8) + k.val
    let holds := fun (u : State) => u.modCtx cid (fun c => { c with seen := tset c.seen key () })
    (c.pl ≠ firm → ctxTranslate s cid a false = (s1, .ok pa kslot cp opo) → dieKey pa / 4 = s1.posN →
      let own := strandKey s1 (.ctx cid) six
      let held := (tfind c.seen key).isSome ∧ (claspGet s1 (dieKey pa % 4) own).isSome
      let full := (claspGet s1 (dieKey pa % 4) own).isNone ∧ 4096 ≤ (s1.die (dieKey pa % 4)).clasp.length
      let open_ := (strandLow s1 (.ctx cid) six (dieKey pa)).isSome
      let r := takeClasp s1 (dieKey pa % 4) own (tget c.seqs key 0)
      exec (.seqSopen xd xa k) s = .next
        (if held then doneX s1 cid xd 0 else if full then doneX s1 cid xd 1 else if open_ then s1 else doneX (holds r.1) cid xd 0)) ∧
    (c.pl ≠ firm → ctxTranslate s cid a false = (s1, .ok pa kslot cp opo) → dieKey pa / 4 ≠ s1.posN →
      let u := { s2.emitPacket ⟨.ctx cid, c.vdn, dieKey pa, 0, .strandOpen six (tget c.seqs key 0), []⟩ with free := s2.free + 1 }
      ((tfind c.seen key).isSome = true → exec (.seqSopen xd xa k) s = .next (doneX s1 cid xd 0)) ∧
      (tfind c.seen key = none → (strandLow s1 (.ctx cid) six (dieKey pa)).isSome = true → exec (.seqSopen xd xa k) s = .next s1) ∧
      (tfind c.seen key = none → strandLow s1 (.ctx cid) six (dieKey pa) = none →
        (s1.linkUp = (s2, false) → exec (.seqSopen xd xa k) s = .next s2) ∧
        (s1.linkUp = (s2, true) → exec (.seqSopen xd xa k) s = .next (doneX (holds u) cid xd 0) ∨
          exec (.seqSopen xd xa k) s = .next (doneX u cid xd 1)))) ∧
    (c.pl = firm → exec (.seqSopen xd xa k) s = .next (doneX s cid xd 0)) ∧
    (c.pl = firm → a.toNat % 8 = 0 → ownAny s cid = false → ∃ t, exec (.seqSclose xa xb k) s = .next (done t cid) ∧
      t.fmem = mwriteN s.fmem a.toNat 8 (c.getX xb).toNat) ∧
    (c.pl ≠ firm → a.toNat % 8 = 0 → ctxTranslate s cid a true = (s1, .ok pa kslot cp opo) → ctxRoom s1 cid pa (some k.val) = true →
      exec (.seqSclose xa xb k) s =
        .next (done (issueCtx s1 cid (.store (subAccess pa 8 kslot (c.getX xb) (some .pod) true)) (some k.val)) cid)) ∧
    (strandIdle s cid k.val = true → exec (.seqSbar k) s = .next (done s cid)) ∧
    (strandIdle s cid k.val = false → exec (.seqSbar k) s = .next (putCur s { c with wait := .sbar k.val })) ∧
    (st.wait = .sbar j → st.run = .running → strandIdle s w j = true → exec (.sbarComplete w) s = .next (done s w))

/-- R239, R240: a push puts one entry behind the others; PQPOP.W1 takes the smallest key, the earliest pushed among equals, and
PQPOP one of those whose keys rank among the 16 smallest; an empty queue gives all ones and 0. The model's choices: with XD = XC the value
is written last (log entry 72), and a die's queue that is full raises BOUND (log entry 101). -/
def Obligations.PriorityQueue : Prop :=
  ∀ (s : State) (xa xb xd xc : XReg),
    let cid := s.cur.cid
    let c := curCtx s
    let d := clusterDie (ctxCluster cid)
    let mine := (s.die d).pq.filter (fun e => e.vd == c.vdn)
    let share := match s.vd? c.vdn with | some v => v.pqshare | none => 0
    let popped := fun (t : State) (e : PqEntry) =>
      (t.die d).pq = (s.die d).pq.erase e ∧ t.ctx cid = seqOn ((c.setX xd e.key).setX xc e.val)
    (c.getX xa ≠ BitVec.allOnes 64 → mine.length < share → (s.die d).pq.length < 65536 → ownAny s cid = false →
      ∃ t, exec (.seqPqpush xa xb) s = .next t ∧ t.ctx cid = seqOn c ∧
        (t.die d).pq = (s.die d).pq ++ [⟨c.getX xa, c.getX xb, c.vdn, (s.die d).pushes⟩]) ∧
    (c.getX xa = BitVec.allOnes 64 ∨ share ≤ mine.length ∨ 65536 ≤ (s.die d).pq.length →
      exec (.seqPqpush xa xb) s = .next (takeTrap s cid 6 false (c.getX xa) c.pc)) ∧
    (mine = [] → ∃ t u, exec (.seqPqpopW1 xd xc) s = .next t ∧ exec (.seqPqpop xd xc) s = .next u ∧
      t.ctx cid = seqOn ((c.setX xd (BitVec.allOnes 64)).setX xc 0) ∧ u.ctx cid = t.ctx cid ∧
      (t.die d).pq = (s.die d).pq ∧ (u.die d).pq = (s.die d).pq) ∧
    (mine ≠ [] → ∃ t e, exec (.seqPqpopW1 xd xc) s = .next t ∧ popped t e ∧ e ∈ mine ∧
      (∀ y ∈ mine, e.key.toNat ≤ y.key.toNat) ∧
      (mine.Pairwise (fun y z => y.order < z.order) → ∀ y ∈ mine, y.key = e.key → e.order ≤ y.order)) ∧
    (mine ≠ [] → ∃ t e, exec (.seqPqpop xd xc) s = .next t ∧ popped t e ∧ e ∈ mine ∧
      (mine.filter (fun y => decide (y.key.toNat < e.key.toNat))).length < 16)

/-- R222, R227: ARM arms a section whose count agrees and BOUND is raised in the cases of R222; DRAIN goes on at once, frees
the pages of a section that was never armed, and changes nothing the second time. -/
def Obligations.ArmDrain : Prop :=
  ∀ (s : State) (xa xb : XReg),
    let cid := s.cur.cid
    let c := curCtx s
    let a := (c.getX xa).toNat
    let n := (c.sec a).planes.length
    let ok := a < 256 ∧ secBusy s cid a = false ∧ n = (c.getX xb).toNat ∧ 1 ≤ n ∧ n ≤ 2048
    (ok → ownAny s cid = false → exec (.seqArm xa xb) s = .next (done (armSection s cid a false) cid)) ∧
    (¬ ok → exec (.seqArm xa xb) s = .next (takeTrap s cid 6 false (c.getX xa) c.pc)) ∧
    (256 ≤ a → exec (.seqDrain xa) s = .next (takeTrap s cid 6 false (c.getX xa) c.pc)) ∧
    (a < 256 → (c.sec a).planes = [] → exec (.seqDrain xa) s = .next (done s cid)) ∧
    let again := (c.sec a).draining = true ∧ ((c.sec a).drainNamed = true ∨ (c.sec a).closed = true)
    (a < 256 → (c.sec a).planes ≠ [] → again → exec (.seqDrain xa) s = .next (done s cid)) ∧
    (a < 256 → (c.sec a).planes ≠ [] → ¬ again → secBusy s cid a = false →
      exec (.seqDrain xa) s = .next (done ((c.sec a).planes.foldl freePlane s) cid)) ∧
    (a < 256 → (c.sec a).planes ≠ [] → ¬ again → secBusy s cid a = true →
      ∃ t, exec (.seqDrain xa) s = .next (done t cid) ∧
        ((t.ctx cid).sec a).draining = true ∧ ((t.ctx cid).sec a).drainNamed = true)

/-- R220, R221: PLACE of an image that can be read. A descriptor with a reserved bit, a section that is armed, or a page that fails a
check gives its status and places nothing; a page that passes every check stands on the plane chosen for it, not yet armed, and the
status has OK and names that plane's tile and number. In each case the instruction is done. -/
def Obligations.PlacePage : Prop :=
  ∀ (s s1 s2 : State) (xd xa xb : XReg) (l : Bytes) (pl : Nat) (e : PageErr),
    let cid := s.cur.cid
    let c := curCtx s
    let w := (c.getX xb).toNat
    let d := pdesc w
    let g := parsePage l
    c.pl ≠ user → (c.getX xa).toNat % 4096 = 0 →
    (if c.pl = firm then s1 = s ∧ l = mreadBytes s.fmem (c.getX xa).toNat 4096 ∧ firmBad s (c.getX xa).toNat 4096 = false
     else ctxHolds s cid (c.getX xa) 4096 = false ∧ vread s (.ctx cid) c.vdn (c.getX xa) 4096 = (s1, .ok l)) →
    (pdescOk w = false → exec (.seqPlace xd xa xb) s = .next (doneX s cid xd 1)) ∧
    (pdescOk w = true → secBusy s1 cid d.sec = true → exec (.seqPlace xd xa xb) s = .next (doneX s1 cid xd 3)) ∧
    (pdescOk w = true → secBusy s1 cid d.sec = false → pageErr s1 (s1.ctx cid).vdn (secPages s1 cid d.sec) g d = some e →
      exec (.seqPlace xd xa xb) s = .next (doneX s1 cid xd (placeFail e))) ∧
    (pdescOk w = true → secBusy s1 cid d.sec = false → pageErr s1 (s1.ctx cid).vdn (secPages s1 cid d.sec) g d = none →
      choosePlane s1 (s1.ctx cid).vdn d g = (s2, .inl e) → exec (.seqPlace xd xa xb) s = .next (doneX s2 cid xd (placeFail e))) ∧
    (pdescOk w = true → secBusy s1 cid d.sec = false → pageErr s1 (s1.ctx cid).vdn (secPages s1 cid d.sec) g d = none →
      choosePlane s1 (s1.ctx cid).vdn d g = (s2, .inr pl) →
      let t := putPage s2 cid d.sec d.pix d.tq d.aq g pl
      let st := 2 ^ 63 + faX s2 (pl / 4) * 2 ^ 53 + faY s2 (pl / 4) * 2 ^ 43 + pl % 4 * 2 ^ 41
      exec (.seqPlace xd xa xb) s = .next (doneX t cid xd (BitVec.ofNat 64 st)) ∧
      ∃ p, t.plane? pl = some p ∧ p.page = g ∧ p.armed = false ∧ p.cid = cid ∧ p.sec = d.sec ∧ p.vd = (s2.ctx cid).vdn)

/-- R228: RECFG of a channel of the context's own page whose new depth fits the quota waits behind its reconfiguration token, and
ends with DONE once the token has reached the head. -/
def Obligations.Recfg : Prop :=
  ∀ (s : State) (xd xa xb : XReg) (t : Nat) (p : Plane) (w : Nat) (pl k : Nat),
    let cid := s.cur.cid
    let c := curCtx s
    let e := (c.getX xa).toNat
    let n := (c.getX xb).toNat
    let q := 4 * t + bits e 42 2
    let ch := 8 * bits e 37 5 + bits e 34 3
    let p' := p.setChan ch { p.chan ch with recfg := some (n, (p.chan ch).q.length) }
    (c.pl ≠ user → bits e 0 34 = 0 → bits e 37 5 < 20 → 2 ≤ n → n ≤ 256 → tileAt s (bits e 54 10) (bits e 44 10) = some t →
      s.plane? q = some p → p.cid = cid → (tfind p.chans ch).isSome = true → (p.chan ch).recfg = none →
      poolUsed p' ≤ 32 * (p.tq + 1) →
      exec (.seqRecfg xd xa xb) s = .next ((s.setPlane q p').setCtx cid { c with wait := .recfg xd q ch })) ∧
    (let due := s.planes.flatMap (fun e => if e.2.cid = w then
        e.2.chans.filterMap (fun x => match x.2.recfg with | some (_, 0) => some (e.1, x.1) | _ => none) else [])
     let u := due.foldl (fun s x => takeDepth s x.1 x.2) s
     (u.ctx w).wait = .recfg xd pl k → (u.ctx w).run = .running →
     (∀ p, u.plane? pl = some p → (p.chan k).recfg = none) → exec (.recfgDepthChange w) s = .next (doneX u w xd 0))

/-- R229, R230: BANKCFG of a bank that the virtual device owns and that holds nothing, and PLANE, after which no entry runs out that had
not. -/
def Obligations.BanksAndFrames : Prop :=
  ∀ (s : State) (xd xa : XReg) (bank : Fin 16) (mode : BitVec 2) (e : Fin 16) (x : Bank),
    let cid := s.cur.cid
    let c := curCtx s
    let cl := ctxCluster cid
    let b := bank.val
    let m : BankMode := if mode = 0 then .cache else if mode = 1 then .scratch else .fifo
    let owned := x.owner = c.vd ∧ x.owner ≠ none ∧ s.hub.retiredBanks.contains (16 * cl + b) = false
    let busy := (stagesIn s cl b || feedsAgen s cl b) = true
    let v := c.getX xa
    ((s.cluster cl).banks[b]? = some x → c.pl ≠ user → mode ≠ 3 →
      (¬ owned → exec (.seqBankcfg xd bank mode) s = .next (doneX s cid xd 2)) ∧
      (owned → busy → exec (.seqBankcfg xd bank mode) s = .next (doneX s cid xd 1)) ∧
      (owned → ¬ busy → bankInUse s cl b = false →
        exec (.seqBankcfg xd bank mode) s = .next (doneX (setBankMode s cl b m) cid xd 0))) ∧
    (c.pl = firm → v.toNat < 2 ^ 34 → exec (.seqPlane xa e) s =
      .next (done (s.modCluster cl (fun y => y.writeFrame (y.written.set e.val v))) cid) ∧
      ∀ y : Cluster, (y.writeFrame (y.written.set e.val v)).written = y.written.set e.val v ∧
        (y.writeFrame (y.written.set e.val v)).frame = y.frame ∧
        (frameDue y = false → frameDue (y.writeFrame (y.written.set e.val v)) = false)) ∧
    (c.pl = firm → 2 ^ 34 ≤ v.toNat → exec (.seqPlane xa e) s = .next (takeTrap s cid 6 false v c.pc))

/-- R225, R226, R318: with room and a record that can be read, WBILL, and WBILL_ROOM for a context that waited for room, accept the record
and write its number, or reject it with 1 BADREC (for a STAGE bank or a COPY's form the model's choice of code, log entry 75) or 3 EXTENT; the
context goes on. Without room WBILL waits. WAITW writes UNKNOWN or the status of a retired waybill and goes on, else it waits;
WAITW_COMPLETE ends that wait; the statuses of waybills that ran are an acquire. -/
def Obligations.Waybills : Prop :=
  ∀ (s s1 : State) (xd xa : XReg) (w : Nat) (va : Word) (l : Bytes) (n st : Nat),
    let cid := s.cur.cid
    let c := curCtx s
    let a := c.getX xa
    let room := fun (d : Nat) => wbOpen (s.cluster (ctxCluster d)) < 64
    let fetched := fun (d : Nat) (va : Word) => if (s.ctx d).pl = firm then s1 = s ∧ l = mreadBytes s.fmem va.toNat 192 ∧ firmBad s va.toNat 192 = false
      else ctxHolds s d va 192 = false ∧ vread s (.ctx d) (s.ctx d).vdn va 192 = (s1, .ok l)
    let es := (wbExtents l).map extentOf
    let form := fun (d : Nat) => wbForm l = true ∧ ∀ e ∈ es, stageBankOk s1 (ctxCluster d) e = true
    let inside := ∀ e ∈ es, insideVd e.base (e.base + e.len) = true
    let bill := fun (d : Nat) =>
      ({ num := (s1.ctx d).wbNext, cid := d, vd := (s1.ctx d).vdn, task := numAt l 0 1 == 1, sec := numAt l 3 1, arg := numAt l 8 8,
         stampA := numAt l 24 8, stampV := BitVec.ofNat 64 (numAt l 16 8), exts := es } : Waybill)
    let kept := fun (d : Nat) => (s1.modCluster (ctxCluster d) (fun x => { x with wbs := x.wbs ++ [bill d] })).modCtx d
      (fun c => { c with wbNext := c.wbNext + 1 })
    let submits := fun (i : Instr) (d : Nat) =>
      (form d → inside → exec i s = .next (doneX (kept d) d xd (BitVec.ofNat 64 (s1.ctx d).wbNext))) ∧
      (¬ form d → exec i s = .next (doneX s1 d xd (BitVec.ofNat 64 (2 ^ 63 + 1)))) ∧
      (form d → ¬ inside → exec i s = .next (doneX s1 d xd (BitVec.ofNat 64 (2 ^ 63 + 3))))
    let never := fun (d : Ctx) (n : Nat) => n = 0 ∨ d.wbNext ≤ n ∨ n + 4096 < d.wbNext
    let found := fun (d : Ctx) (n : Nat) => (never d n ∧ st = 3) ∨ (¬ never d n ∧ tfind d.wbDone n = some st)
    let seen := fun (d : Nat) => doneX (if st ≤ 2 then invalidate s (ctxCluster d) else s) d xd (BitVec.ofNat 64 st)
    (a.toNat % 64 = 0 → room cid → fetched cid a → submits (.seqWbill xd xa) cid) ∧
    (a.toNat % 64 = 0 → ¬ room cid → exec (.seqWbill xd xa) s = .next (putCur s { c with wait := .wbill xd a })) ∧
    ((s.ctx w).wait = .wbill xd va → (s.ctx w).run = .running → room w → fetched w va → submits (.wbillRoom w) w) ∧
    (found c a.toNat → exec (.seqWaitw xd xa) s = .next (seen cid)) ∧
    (¬ never c a.toNat → tfind c.wbDone a.toNat = none →
      exec (.seqWaitw xd xa) s = .next (putCur s { c with wait := .waitw xd a.toNat })) ∧
    ((s.ctx w).wait = .waitw xd n → (s.ctx w).run = .running → found (s.ctx w) n → exec (.waitwComplete w) s = .next (seen w))

/-- R244, R245, R246, R206: TRAP, FWCALL, HALT and the entry for an event. -/
def Obligations.SystemInstructions : Prop :=
  ∀ (s : State) (xd xa : XReg) (code svc : BitVec 16) (w i : Nat),
    let cid := s.cur.cid
    let c := curCtx s
    let d := s.ctx w
    exec (.seqTrap code) s = .next (takeTrap s cid 7 false (code.setWidth 64) (c.pc + 8)) ∧
    ((c.pl ≠ user ∨ svc.toNat < 0x8000) → fwDefined svc.toNat = true →
      ∃ t, exec (.seqFwcall xd xa svc) s = .next t ∧ t.ctx cid = { c with wait := .fwcall xd } ∧
        t.hub.fwq = s.hub.fwq ++ [⟨cid, xd, svc.toNat, c.getX xa⟩]) ∧
    ((c.pl ≠ user ∨ svc.toNat < 0x8000) → fwDefined svc.toNat = false →
      exec (.seqFwcall xd xa svc) s = .next (doneX s cid xd (BitVec.allOnes 64))) ∧
    (c.pl ≠ user → exec .seqHalt s = .next (putCur s { seqOn c with run := .stopped })) ∧
    (d.run = .running → d.eie = true → d.pl ≠ firm → d.wait = .none → i < 64 → (d.event &&& d.evmask).getLsbD i = true →
      (∀ j, j < i → (d.event &&& d.evmask).getLsbD j = false) →
      exec (.eventEntry w) s = .next (s.setCtx w { d with epc := d.pc, cause := BitVec.ofNat 64 (2 ^ 63 + i % 16 * 2 ^ 8), tval := 0, ppl := d.pl == super, peie := d.eie, eie := false, pl := super, pc := d.tvec, part := [] }))

/-- R243, R250, R312: BAR at FIRM reads generation, participants and arrivals of the object at once, counts its arrival and waits; at USER
or SUPER the arrival leaves as one invocation that also releases the context's earlier accesses, and its result says which generation
the context waits for, or that the object has no participants: BOUND, with SQ_BARA and SQ_BARG as they were. A BAR whose arrival stands
in SQ_BARA waits without a new one. BAR_COMPLETE ends the wait when the generation has changed. That the count at FIRM wraps in 32 bits, and
that the arrival as a message has HANDLER 0x00 and operand 0, is the model's (log entries 56 and 95). -/
def Obligations.Barrier : Prop :=
  (∀ (s : State) (xa : XReg) (sc sc' : Scope) (w : Nat),
    let cid := s.cur.cid
    let c := curCtx s
    let a := c.getX xa
    let v := mreadN s.fmem a.toNat 16
    let g := bits v 96 32
    let n := bits v 64 32
    let arr := bits v 0 32
    let d := s.ctx w
    let obj : Word := d.bara &&& ~~~15#64
    (s.fmem.wf = true → a.toNat % 16 = 0 → c.bara ≠ a ||| 1 → c.pl = firm → ownAny s cid = false → firmBad s a.toNat 16 = false → n ≠ 0 →
      ∃ t, exec (.seqBar xa sc) s = .next t ∧
        t.ctx cid = { (firmPut s a 16 0).ctx cid with wait := .bar sc none, bara := a ||| 1, barg := BitVec.ofNat 64 g } ∧
        bits (mreadN t.fmem a.toNat 16) 96 32 = (if (arr + 1) % 2 ^ 32 = n then (g + 1) % 2 ^ 32 else g) ∧
        bits (mreadN t.fmem a.toNat 16) 64 32 = n ∧
        bits (mreadN t.fmem a.toNat 16) 0 32 = (if (arr + 1) % 2 ^ 32 = n then 0 else (arr + 1) % 2 ^ 32)) ∧
    (a.toNat % 16 = 0 → c.bara ≠ a ||| 1 → c.pl = firm → ownAny s cid = false → firmBad s a.toNat 16 = false → n = 0 →
      exec (.seqBar xa sc) s = .next (takeTrap s cid 6 false a c.pc)) ∧
    (a.toNat % 16 = 0 → c.bara ≠ a ||| 1 → c.pl = firm → ownAny s cid = true → exec (.seqBar xa sc) s = .next s) ∧
    (d.wait = .bar sc' none → d.run = .running → d.pl = firm → firmBad s (obj.toNat + 12) 4 = false →
      BitVec.ofNat 64 (mreadN s.fmem (obj.toNat + 12) 4) ≠ d.barg →
      let u := invalidate s (ctxCluster w)
      exec (.barComplete w) s = .next (u.setCtx w { seqOn (u.ctx w) with bara := (u.ctx w).bara &&& ~~~1#64 }))) ∧
  (∀ (s s1 s2 s3 : State) (xa : XReg) (sc sc' : Scope) (pa kslot cp : Nat) (opo : Bool) (w k : Nat) (x : Packet) (val : Word) (null : Bool)
    (psn : Option Word) (ra : Nat) (v : Lanes) (b : Word),
    let cid := s.cur.cid
    let c := curCtx s
    let a := c.getX xa
    let d := s.ctx w
    let obj : Word := d.bara &&& ~~~15#64
    (a.toNat % 16 = 0 → c.bara ≠ a ||| 1 → c.pl ≠ firm → ctxTranslate s cid a true = (s1, .ok pa kslot cp opo) → ownAny s1 cid = false →
      let t := issueCtx s1 cid (.invoke (ctxMsg s1 cid 0 0 false true true true pa kslot)) none
      exec (.seqBar xa sc) s = .next (t.setCtx cid { t.ctx cid with wait := .bar sc (some a) })) ∧
    (a.toNat % 16 = 0 → c.bara = a ||| 1 → exec (.seqBar xa sc) s = .next (putCur s { c with wait := .bar sc none })) ∧
    (arriving s k = some x → x.body = .result (.ctx w) val null psn false ra → d.wait = .bar sc' (some b) →
      (val.getLsbD 32 = false → exec (.seqAtomicResult k) s =
        .next ((s.dropPacket k).setCtx w { d with wait := .bar sc' none, bara := b ||| 1, barg := val &&& 0xFFFFFFFF#64 })) ∧
      (val.getLsbD 32 = true → exec (.seqAtomicResult k) s = .next (takeTrap (s.dropPacket k) w 6 false b d.pc))) ∧
    (d.wait = .bar sc' none → d.run = .running → d.pl ≠ firm →
      ctxTranslate s w obj false = (s1, .ok pa kslot cp opo) → reaches s1 (.ctx w) (pa / 32 * 32) 2 = (s2, true) →
      homeSector s2 (.ctx w) d.vdn (pa / 32 * 32) kslot = (s3, v, false) → bits v.toNat (8 * (pa % 32) + 96) 32 ≠ d.barg.toNat →
      let u := invalidate s3 (ctxCluster w)
      exec (.barComplete w) s = .next (u.setCtx w { seqOn (u.ctx w) with bara := (u.ctx w).bara &&& ~~~1#64 })))

/-- R248: the thread switch at FIRM, whose two areas stand in the firmware space, and at SUPER with both areas translated: the old thread's
registers are stored, the new one's loaded from the area as that store leaves it; the switch stays at the instruction after the CSRWR.
With bytes 288 to 319 of the new area not zero it raises BOUND and nothing is stored; that SQ_TVAL is then SQ_NEXT is the model's choice (log
entry 102). An area at FIRM that fails its check traps (R475, log entry 92). -/
def Obligations.ThreadSwitch : Prop :=
  (∀ (s : State) (xa : XReg),
    let cid := s.cur.cid
    let c := curCtx s
    let m := mwriteBytes s.fmem c.save.toNat (threadArea c)
    let l := mreadBytes m c.next.toNat 320
    let bad := firmBad (firmWrite s c.save.toNat (threadArea c)) c.next.toNat 320
    (s.fmem.wf = true → c.pl = firm → bad = false → (∀ b ∈ l.drop 288, b = 0) →
    ∃ t, exec (.threadSwitch xa) s = .next t ∧ t.fmem = m ∧ t.mem = s.mem ∧ (t.ctx cid).pc = c.pc + 8 ∧ (t.ctx cid).pl = c.pl ∧
      (∀ r : XReg, r ≠ 0 → (t.ctx cid).getX r = BitVec.ofNat 64 (ofBytesLE ((l.drop (8 * r.val)).take 8))) ∧
      (t.ctx cid).epc = BitVec.ofNat 64 (ofBytesLE (l.take 8)) &&& 0xFFFFFFFFFFFFFFF8#64 ∧
      (t.ctx cid).sctl = BitVec.ofNat 64 (ofBytesLE ((l.drop 256).take 8)) &&& 7#64 ∧
      (t.ctx cid).evmask = BitVec.ofNat 64 (ofBytesLE ((l.drop 264).take 8)) ∧
      (t.ctx cid).save = c.next ∧ (t.ctx cid).next = c.next ∧ (t.ctx cid).mon = none ∧ (t.ctx cid).amst = 0 ∧
      (t.ctx cid).tvec = c.tvec ∧ (t.ctx cid).scratch = c.scratch ∧
      (∀ r : XReg, r ≠ 0 → mreadN t.fmem (c.save.toNat + 8 * r.val) 8 = (c.getX r).toNat) ∧
      mreadN t.fmem c.save.toNat 8 = c.epc.toNat ∧
      (∀ b, b < c.save.toNat ∨ c.save.toNat + 320 ≤ b → mread t.fmem b = mread s.fmem b)) ∧
    (c.pl = firm → bad = false → (¬ ∀ b ∈ l.drop 288, b = 0) → exec (.threadSwitch xa) s = .next (takeTrap s cid 6 false c.next c.pc)) ∧
    (c.pl = firm → bad = true → exec (.threadSwitch xa) s = .next (takeTrap s cid 4 true c.next c.pc))) ∧
  (∀ (s s1 s2 : State) (xa : XReg) (w : List Access) (l : Bytes),
    let cid := s.cur.cid
    let c := curCtx s
    c.pl = super → ownAny s cid = false → vplan s (ctxCluster cid) c.vdn c.save (threadArea c) = (s1, .ok w) →
    vreadAll cid c.vdn c.next 320 16 (performAll s1 (.ctx cid) c.vdn w) = (s2, .ok l) →
    ((∀ b ∈ l.drop 288, b = 0) → exec (.threadSwitch xa) s = .next (s2.setCtx cid (seqOn (loadThread (s2.ctx cid) l)))) ∧
    ((¬ ∀ b ∈ l.drop 288, b = 0) → exec (.threadSwitch xa) s = .next (takeTrap s1 cid 6 false c.next (s1.ctx cid).pc)))

/-- R232, R233: CUT of sections that the context has armed, its record and area usable: they are being cut, and the context waits until the
cut is written; the four kinds of RESUME on sections that allow them. -/
def Obligations.CutAndResume : Prop :=
  (∀ (s s1 s2 s3 : State) (xd xa : XReg) (l : Bytes) (maps : List (Nat × Nat × Nat)) (pa kslot cp : Nat) (opo : Bool),
     let cid := s.cur.cid
     let c := curCtx s
     let a := c.getX xa
     let r := secRec l
     let secs := myself cid r.secs
     let may := fun (t : State) => (∀ k ∈ r.secs, ((t.ctx cid).sec k).armed = true ∧ ((t.ctx cid).sec k).planes ≠ []) ∧
       (∀ pl ∈ secPlanes t secs, ∀ p, t.plane? pl = some p → p.assay = false)
     let begun := fun (t : State) (maps : List (Nat × Nat × Nat)) =>
       let t := markSecs t secs (fun x => { x with cutting := true })
       t.setCtx cid { t.ctx cid with wait := .cut xd a r.secs r.base r.len maps }
     a.toNat % 64 = 0 → r.kind = 0 → r.rsv = 0 → r.base % 64 = 0 →
     (c.pl = firm → l = mreadBytes s.fmem a.toNat 64 → firmBad s a.toNat 64 = false → may s → exec (.seqCut xd xa) s = .next (begun s [])) ∧
     (c.pl = super → ctxHolds s cid a 64 = false → vread s (.ctx cid) c.vdn a 64 = (s1, .ok l) →
       checkArea s1 (ctxCluster cid) c.vdn r.base r.len = (s2, .ok maps) → ctxTranslate s2 cid a true = (s3, .ok pa kslot cp opo) →
       may s3 → exec (.seqCut xd xa) s = .next (begun s3 ((a.toNat / 4096, pa / 4096, kslot) :: maps)))) ∧
  (∀ (s s1 s2 s3 : State) (xd xa : XReg) (l : Bytes) (rs : List Region),
     let cid := s.cur.cid
     let c := curCtx s
     let a := c.getX xa
     let r := secRec l
     let mine := rs.filter (fun x => r.secs.contains x.sec)
     let run := fun (t : State) => ∀ i ∈ [Instr.resumeRestore xd xa, .resumeRelease xd xa, .resumeContinue xd xa, .resumeAbort xd xa],
       exec i s = .next t
     let rd := if (s1.ctx cid).pl = firm then fwReader else vreader (.ctx cid) (s1.ctx cid).vdn
     c.pl ≠ user → a.toNat % 64 = 0 →
     (if c.pl = firm then s1 = s ∧ l = mreadBytes s.fmem a.toNat 64 ∧ firmBad s a.toNat 64 = false
      else ctxHolds s cid a 64 = false ∧ vread s (.ctx cid) c.vdn a 64 = (s1, .ok l)) → r.rsv = 0 →
     (r.kind = 1 → r.base % 64 = 0 → readArea rd s1 r.base r.len = (s2, .ok (some rs)) →
       (∀ k ∈ r.secs, ((s1.ctx cid).sec k).planes = [] ∧ ∃ x ∈ mine, x.sec = k) →
       restoreAll s2 (fun _ => cid) mine = (s3, none) → run (doneX s3 cid xd 0)) ∧
     (r.kind = 2 → (∀ k ∈ r.secs, (c.sec k).armed = true ∧ (c.sec k).planes ≠ []) →
       run (doneX (r.secs.foldl (fun s k => continueSec s cid k) s1) cid xd 0)) ∧
     (r.kind = 3 → (∀ k ∈ r.secs, ((c.sec k).armed = true ∧ (c.sec k).planes ≠ []) ∨ (c.sec k).away = true) →
       run (abortEnd (r.secs.foldl (fun s k => abortSection s cid k) s1) cid xd r.secs)) ∧
     (r.kind = 4 → (∀ k ∈ r.secs, (c.sec k).inPlace = true) →
       run (doneX (r.secs.foldl (fun s k => runAgain s [(cid, k)]) s1) cid xd 0)))

/-- R20, R26, R34, R37: an element fires the lowest-numbered ready slot of the active plane, or nothing; and it fires that slot, where one is
ready, unless it has fired in this ac, is halted or stopped (R54, R56), weights of it are read again (R193), or a knot comes first (R44;
log entries 7 and 16). -/
def Obligations.LowestReadySlot : Prop :=
  (∀ (s t : State) (tile e w : Nat), fetchSlot s tile e = .word t w →
    ∃ pl p j, s.plane? pl = some p ∧ pl / 4 = tile ∧ isActive s pl = true ∧ j < 16 ∧ w = p.page.slots.getD (16 * e + j) 0 ∧
      slotReady p e (s.planeAc pl) j = true ∧ (∀ k, k < j → slotReady p e (s.planeAc pl) k = false) ∧
      t = { s with cur := { plane := pl, elem := e, slot := j, cid := 0 } }) ∧
  (∀ (s : State) (pl e j : Nat) (p : Plane),
    let n := s.planeAc pl
    s.plane? pl = some p → isActive s pl = true → e < 8 → p.armed = true → p.assay = false → p.retiring = false →
    (p.elem e).halted = false → tget p.firedAt e 0 ≤ n → e ∉ p.stopped → e ∉ p.drained → e ∉ p.refill →
    (∀ k ∈ p.inputs e, ∀ x ∈ (p.chan k).q, x.plain = false → n < x.vis) → mustJoin p e = false → mustTake p e n = false →
    j < 16 → slotReady p e n j = true → (∀ k, k < j → slotReady p e n k = false) →
    fetchSlot s (pl / 4) e =
      .word { s with cur := { plane := pl, elem := e, slot := j, cid := 0 } } (p.page.slots.getD (16 * e + j) 0))

/-- R38, R39: null wins, then poison with the origin of the first poisoned operand token in the order given, then data. -/
def Obligations.FiringKind : Prop :=
  ∀ (l : List (Option Token)),
    ((∃ t, some t ∈ l ∧ t.nul = true) → kindOf l = .null) ∧
    ((∀ t, some t ∈ l → t.nul = false) → (∀ t, some t ∈ l → t.psn = false) → kindOf l = .data) ∧
    (∀ (a b : List (Option Token)) (t : Token), l = a ++ some t :: b → (∀ u, some u ∈ l → u.nul = false) → t.psn = true →
      (∀ u, some u ∈ a → u.psn = false) → kindOf l = .poison t.origin)

/-- R37: what a firing does to its plane, and what it leaves as it was: predicates, the destination register of a data firing of
latency 1, or one result pending until its ac; the queues that DEQ names lose their heads, and their producers in other regions get a credit
(R42); a token for an exit is held. -/
def Obligations.FiringEffect : Prop :=
  ∀ (s : State) (pl e slot : Nat) (f : EFields) (k : Kind) (r : Result) (scl : Bool) (lat : Nat) (iter : Bool) (p : Plane),
    s.plane? pl = some p → e < p.elems.length →
    let t := completeFiring s pl e slot f k r scl lat iter
    let n := s.planeAc pl
    ∃ q, t.plane? pl = some q ∧
      (∀ i : Fin 8, (q.elem e).p.getLsbD i.val = (if k = .data ∧ f.pres = some i then r.cmp
        else if f.psetm.getLsbD i.val then f.psetv.getLsbD i.val else (p.elem e).p.getLsbD i.val)) ∧
      (∀ g : Fin 32, (q.elem e).g.get g = (if lat ≤ 1 ∧ k = .data ∧ f.dst = some g then r.val else (p.elem e).g.get g)) ∧
      (q.elem e).halted = (p.elem e).halted ∧ (∀ d, d ≠ e → q.elem d = p.elem d) ∧ q.mx = p.mx ∧ q.rows = p.rows ∧ q.reqs = p.reqs ∧
      q.ops = p.ops ∧ q.outs = p.outs ∧ q.knot = p.knot ∧ q.loads = p.loads ∧ q.stream = p.stream ∧ q.agq = p.agq ∧ q.page = p.page ∧
      (∃ l, q.held = p.held ++ l ∧ ∀ h ∈ l, ∃ o ∈ chanKeys e f.omask, ∃ id tok vis, h.fx = .exit o id tok vis) ∧
      (∀ c, c / 8 ≠ e → (∀ o ∈ chanKeys e f.omask, ∀ x, tfind p.outs o = some x → x.dest ≠ .loc c) → q.chan c = p.chan c) ∧
      (∃ l, t.net = s.net ++ l ∧ ∀ x ∈ l, ∃ fp port i, x.body = .credit fp port pl (8 * e + i)) ∧
      t.out = s.out ∧ t.bad = s.bad ∧ t.soft = s.soft ∧ t.tags = s.tags ∧ t.free = s.free ∧ t.agenda = s.agenda ∧
      (lat ≤ 1 → q.pend = p.pend) ∧
      (1 < lat → ∃ w places, q.pend = p.pend ++ [w] ∧ w.due = n + lat - 1 ∧ w.elem = e ∧ w.done = false ∧
        w.work = .result f.dst k r.val (firedTok k r.val scl f.otag).tag places) ∧
      (∀ i : Fin 8, (∀ o ∈ chanKeys e f.omask, ∀ x, tfind p.outs o = some x → x.dest ≠ .loc (8 * e + i.val)) →
        (q.chan (8 * e + i.val)).q =
          (if f.deq.getLsbD i.val then (p.chan (8 * e + i.val)).q.tail else (p.chan (8 * e + i.val)).q)) ∧
      (lat ≤ 1 → ∀ o ∈ chanKeys e f.omask, ∀ x c, tfind p.outs o = some x → x.dest = .loc c →
        ∃ y ∈ (q.chan c).q, y.tok = some (firedTok k r.val scl f.otag) ∧ y.vis = n + 1) ∧
      t.mem = s.mem ∧ t.fmem = s.fmem ∧ t.cmem = s.cmem ∧ t.ctxs = s.ctxs ∧ t.clusters = s.clusters ∧ t.dies = s.dies ∧
      t.hub = s.hub ∧ t.power = s.power ∧ (∀ q, q ≠ pl → t.plane? q = s.plane? q)

/-- R121, R123 to R127, R130, R135, R137, R140: the firings of the instructions that compute each value position on its own. That the
tokens of a firing which R106 poisons carry the OR of the SCL bits is the model's reading (log entry 74). -/
def Obligations.PositionFirings : Prop :=
  ∀ (i : Instr) (r : PosRow) (s : State) (p : Plane), posRow i = some r → s.plane? (curPlane s) = some p →
    unsealed s p r.f = true →
    let a := opA s p r.wide r.f
    let b := opB s p r.wide r.f
    let c := opC s p r.wide r.f
    ∃ v : Lanes, (∀ j, (j + 1) * r.w ≤ 256 → pos r.w j v = r.fn (pos r.w j a.1) (pos r.w j b.1) (pos r.w j c.1)) ∧
      exec i s = .next (fired s r.f (kindAfter s (kind0 s p r.f) (sclMismatch r.cls a.2 b.2 c.2) false) ⟨v, false, false⟩
        (sclFired s p r.f (scaled r.cls a.2 b.2 c.2)) r.lat false)

/-- R148, R149, R151, R152, R107: the floating-point firings; under .NP a NaN among the results poisons the firing. The numbers are those of
Rounding and ArithmeticValues (R95 to R99); the SCL of a firing poisoned by a mismatch is the model's reading (log entry 74). -/
def Obligations.FloatFirings : Prop :=
  ∀ (i : Instr) (r : FltRow) (s : State) (p : Plane), fltRow i = some r → s.plane? (curPlane s) = some p →
    unsealed s p r.f = true →
    let a := opA s p r.t.wide r.f
    let b := opB s p r.t.wide r.f
    let c := opC s p r.t.wide r.f
    let w := r.t.fmt.w
    let c' := if r.rndc then none else c.2
    let scl := sclFired s p r.f (scaled r.cls a.2 b.2 c')
    ∃ v : Lanes, (∀ j, (j + 1) * w ≤ 256 →
        valAt w v.toNat j = r.fn (if r.rndc then rndField w c.1 j else 0) (valAt w a.1.toNat j) (valAt w b.1.toNat j) (valAt w c.1.toNat j)
          % 2 ^ w) ∧
      (let nan := (List.range (256 / w)).any (fun j => r.t.fmt.isNan (valAt w v.toNat j))
       exec i s = .next (fired s r.f (kindAfter s (kind0 s p r.f) (sclMismatch r.cls a.2 b.2 c') (r.np && nan)) ⟨v, false, nan⟩
         scl r.lat r.iter))

/-- R128, R129, R150: CMP and FCMP give a mask at every position and their comparison result at position 0 (FCMP by the order of
ArithmeticValues, R99); SEL takes b where a is not zero, and a takes no part in the scale check. That the tokens of a SEL which R106 poisons
carry the OR is the model's reading (log entry 74). -/
def Obligations.CompareSelect : Prop :=
  ∀ (s : State) (p : Plane) (f : EFields) (cd : Cond) (fc : FCond) (t : IntTy) (n : NatTy) (x : FltTy) (np : Bool),
    s.plane? (curPlane s) = some p → unsealed s p f = true →
    (let a := opA s p (intWidth t == 64) f
     let b := opB s p (intWidth t == 64) f
     let c := opC s p (intWidth t == 64) f
     ∃ v : Lanes, (∀ j, (j + 1) * intWidth t ≤ 256 → pos (intWidth t) j v =
         allOr (intWidth t) (cmpBits cd (isSigned t) (pos (intWidth t) j a.1) (pos (intWidth t) j b.1))) ∧
       exec (.elemCmp f cd t) s = .next (fired s f (kindAfter s (kind0 s p f) (sclDiffer [a.2, b.2, c.2]) false)
         ⟨v, cmpBits cd (isSigned t) (pos (intWidth t) 0 a.1) (pos (intWidth t) 0 b.1), false⟩ false 1 false)) ∧
    (let a := opA s p (natWidth n == 64) f
     let b := opB s p (natWidth n == 64) f
     let c := opC s p (natWidth n == 64) f
     ∃ v : Lanes, (∀ j, (j + 1) * natWidth n ≤ 256 → pos (natWidth n) j v =
         if pos (natWidth n) j a.1 = 0 then pos (natWidth n) j c.1 else pos (natWidth n) j b.1) ∧
       exec (.elemSel f n) s = .next (fired s f (kindAfter s (kind0 s p f) (sclDiffer [b.2, c.2]) false)
         ⟨v, false, false⟩ (sclFired s p f (sclOf b.2 || sclOf c.2)) 1 false)) ∧
    (let a := opA s p x.wide f
     let b := opB s p x.wide f
     let c := opC s p x.wide f
     let w := x.fmt.w
     ∃ v nan, (∀ j, (j + 1) * w ≤ 256 → pos w j v = allOr w (fcond x.fmt fc (valAt w a.1.toNat j) (valAt w b.1.toNat j))) ∧
       (nan = true ↔ ∃ j, j < 256 / w ∧ (x.fmt.isNan (valAt w a.1.toNat j) = true ∨ x.fmt.isNan (valAt w b.1.toNat j) = true)) ∧
       exec (.elemFcmp f fc x np) s = .next (fired s f (kindAfter s (kind0 s p f) (sclDiffer [a.2, b.2, c.2]) (np && nan))
         ⟨v, fcond x.fmt fc (valAt w a.1.toNat 0) (valAt w b.1.toNat 0), nan⟩ false 1 false))

/-- R131 to R134: SHUF, BCAST, LRED and SCAN; a step of a float reduction is one of ArithmeticValues. The SCL of a firing poisoned by a
mismatch is the model's reading (log entry 74), and so is a reduction of one operand (log entry 77). -/
def Obligations.LaneFirings : Prop :=
  ∀ (s : State) (p : Plane) (f : EFields) (n : NatTy) (o : RedOp) (t : Ty), s.plane? (curPlane s) = some p →
    unsealed s p f = true →
    (let a := opA s p (natWidth n == 64) f
     let b := opB s p (natWidth n == 64) f
     let c := opC s p (natWidth n == 64) f
     let w := natWidth n
     let m := 256 / w
     let scl := sclFired s p f (sclOf a.2 || sclOf b.2 || sclOf c.2)
     (∃ v : Lanes, (∀ j, j < m → pos w j v =
          (let k := (pos w j b.1).toNat % (2 * m); if k < m then pos w k a.1 else pos w (k - m) c.1)) ∧
        exec (.elemShuf f n) s = .next (fired s f (kind0 s p f) ⟨v, false, false⟩ scl 4 false)) ∧
     (f.imm.toNat < m → ∃ v : Lanes, (∀ j, j < m → pos w j v = pos w f.imm.toNat a.1) ∧
        exec (.elemBcast f n) s = .next (fired s f (kind0 s p f) ⟨v, false, false⟩ scl 1 false))) ∧
    (let a := opA s p t.wide f
     let b := opB s p t.wide f
     let c := opC s p t.wide f
     let w := t.width
     let l := (List.range (256 / w)).map (valAt w a.1.toNat)
     let k := kindAfter s (kind0 s p f) (sclDiffer [a.2, b.2, c.2]) false
     let scl := sclFired s p f (sclOf a.2 || sclOf b.2 || sclOf c.2)
     (∃ v : Lanes, (∀ j, (j + 1) * w ≤ 256 → valAt w v.toNat j = pairwise (combine o t) 0 l % 2 ^ w) ∧
        exec (.elemLred f o t) s = .next (fired s f k ⟨v, false, false⟩ scl 4 false)) ∧
     (∃ v : Lanes, (∀ j, (j + 1) * w ≤ 256 →
          valAt w v.toNat j = ((l.drop 1).take j).foldl (combine o t) (l.headD 0) % 2 ^ w) ∧
        exec (.elemScan f o t) s = .next (fired s f k ⟨v, false, false⟩ scl 4 false)))

/-- R154: CVT, PACK and UNPK convert value by value, as Rounding says of one value (R95 to R97, R100 to R102). -/
def Obligations.Conversions : Prop :=
  ∀ (s : State) (p : Plane) (f : EFields) (td ts : Ty) (r : Rnd) (sat : Bool), s.plane? (curPlane s) = some p →
    unsealed s p f = true →
    let a := opA s p ts.wide f
    let b := opB s p ts.wide f
    let c := opC s p ts.wide f
    let ns := 256 / ts.width
    let nd := 256 / td.width
    let one := fun (x : Lanes) (j : Nat) => conv td ts r sat (rndField ts.width c.1 j) (valAt ts.width x.toNat j) % 2 ^ td.width
    (ts.width = td.width → ∃ v : Lanes, (∀ j, j < ns → valAt td.width v.toNat j = one a.1 j) ∧
      exec (.elemCvt f td ts r sat) s = .next (fired s f (kind0 s p f) ⟨v, false, false⟩ (sclFired s p f (sclOf a.2 || sclOf b.2)) 4 false)) ∧
    (td.width < ts.width → ∃ v : Lanes, (∀ j, j < ns → valAt td.width v.toNat j = one a.1 j) ∧
      (∀ j, j < ns → valAt td.width v.toNat (ns + j) = if r = .rsr then 0 else one b.1 j) ∧
      exec (.elemPack f td ts r sat) s = .next (fired s f (kind0 s p f) ⟨v, false, false⟩ (sclFired s p f (sclOf a.2 || sclOf b.2)) 4 false)) ∧
    (ts.width < td.width → ∃ v : Lanes,
      (∀ j, j < nd → valAt td.width v.toNat j =
        conv td ts .rne false 0 (valAt ts.width a.1.toNat (valAt 32 b.1.toNat 0 % (ns / nd) * nd + j)) % 2 ^ td.width) ∧
      exec (.elemUnpk f td ts) s =
        .next (fired s f (kind0 s p f) ⟨v, false, false⟩ (sclFired s p f (sclOf a.2 || sclOf b.2 || sclOf c.2)) 4 false))

/-- R136, R138, R139, R142, R143: NULLT, PTST, PSN, TRAPI and HALT. -/
def Obligations.TokenFirings : Prop :=
  ∀ (s : State) (p : Plane) (f : EFields), s.plane? (curPlane s) = some p → unsealed s p f = true →
    let a := opA s p false f
    let t := fired s f .data ⟨0, false, false⟩ false 1 false
    exec (.elemNullt f) s = .next (fired s f .null ⟨0, false, false⟩ false 1 false) ∧
    (∀ x, a.2 = some x → exec (.elemPtst f) s =
      .next (fired s f (if x.nul then .null else .data) ⟨x.data, x.psn, false⟩ false 1 false)) ∧
    (f.opa = .zero → exec (.elemPsn f) s = .next
      (fired s f (.poison (newOrigin s (planeTile (curPlane s)) (curElem s) s.cur.slot 6 f.imm.toNat)) ⟨0, false, false⟩ false 1 false)) ∧
    (f.opa ≠ .zero → ∃ org : Word, exec (.elemPsn f) s = .next (fired s f (.poison org) ⟨0, false, false⟩ false 1 false) ∧
      org.extractLsb' 44 20 = a.1.extractLsb' 44 20 ∧ org.extractLsb' 16 24 = a.1.extractLsb' 16 24 ∧ org.extractLsb' 0 16 = 0 ∧
      org.extractLsb' 40 4 = (if 1 ≤ (a.1.extractLsb' 40 4).toNat ∧ (a.1.extractLsb' 40 4).toNat ≤ 6 then a.1.extractLsb' 40 4 else 6)) ∧
    exec (.elemTrapi f) s = .next (elemTrap s (curPlane s) (curElem s) s.cur.slot 7 f.imm.toNat (f.readMask ||| f.deq)) ∧
    exec (.elemHalt f) s =
      .next (t.modPlane (curPlane s) (fun q => q.setElem (curElem s) { q.elem (curElem s) with halted := true }))

/-- R40, R53, R55: a sealed operand token, or a sealed head under DEQ, raises SEALV in every instruction but LDST and LDCB; an element
trap raises the record of R55 and the event ETRAP, halts the element and leaves its other registers, the queues, the matrix state and every
other plane as they were. -/
def Obligations.SealAndTrap : Prop :=
  (∀ (i : Instr) (f : EFields) (s : State) (p : Plane), sealFields i = some f → s.plane? (curPlane s) = some p →
    unsealed s p f = false →
    exec i s = .next (elemTrap s (curPlane s) (curElem s) s.cur.slot 5 0 (f.readMask ||| f.deq))) ∧
  (∀ (s : State) (pl e slot cause code : Nat) (m : BitVec 8) (p : Plane), s.plane? pl = some p → e < p.elems.length →
    canRaise s p.vd (trapRecord s pl e slot cause code p m) = true →
    let t := elemTrap s pl e slot cause code m
    let rc := trapRecord s pl e slot cause code p m
    let field := fun (lo n : Nat) => bits (ofBytesLE rc) lo n
    let head := fun (i : Nat) => p.head (8 * e + i) (s.planeAc pl)
    (e < 8 → slot < 16 → cause < 16 → code < 2 ^ 16 → rc.length = 128 ∧ field 56 8 = 1 ∧ field 52 4 = cause ∧ field 48 4 = slot ∧
      field 45 3 = e ∧ field 43 2 = pl % 4 ∧ field 33 10 = faY s (planeTile pl) % 1024 ∧ field 23 10 = faX s (planeTile pl) % 1024 ∧
      field 15 8 = (p.elem e).p.toNat ∧ field 112 16 = code ∧ field 99 4 = p.vd % 16 ∧ field 96 3 = p.cid % 8 ∧ field 64 32 = 0 ∧
      field 0 7 = 0 ∧ field 768 256 = 0 ∧
      (field 103 1 = 1 ↔ ∃ i, i < 8 ∧ m.getLsbD i = true ∧ ∃ x, head i = some x ∧ x.rpl = true) ∧
      (∀ i, i < 8 → field (7 + i) 1 = (if (head i).isSome then 1 else 0) ∧
        (head i = none → field (104 + i) 1 = 0 ∧ field (128 + 16 * i) 16 = 0 ∧ field (256 + 64 * i) 64 = 0) ∧
        (∀ x, head i = some x → field (104 + i) 1 = x.seal.toNat ∧ field (128 + 16 * i) 16 = x.tag.toNat ∧
          field (256 + 64 * i) 64 = (if x.seal then 0 else x.data.toNat % 2 ^ 64)))) ∧
    ∃ q, t = setEvent (raise (s.setPlane pl q) p.vd rc) p.cid 0 ∧ t.plane? pl = some q ∧ (q.elem e).halted = true ∧ (q.elem e).g = (p.elem e).g ∧ (q.elem e).p = (p.elem e).p ∧
      (∀ d, d ≠ e → q.elem d = p.elem d) ∧ q.chans = p.chans ∧ q.outs = p.outs ∧ q.mx = p.mx ∧ q.rows = p.rows ∧ q.pend = p.pend ∧
      (∀ d, d ≠ pl → t.plane? d = s.plane? d) ∧ (t.ctx p.cid).event = (s.ctx p.cid).event ||| 1)

/-- R155 to R160, R163, R166, R167: a memory request of a data firing whose addresses pass R157 joins the plane's queue, and one whose
addresses do not raises BOUND; a null or poisoned firing's request joins the queue without a check. -/
def Obligations.RequestFirings : Prop :=
  ∀ (s : State) (p : Plane) (f : EFields) (sh : Shape) (sc : Scope) (h : Fin 16) (wide : Bool) (i : Instr) (op : ReqOp) (d : Lanes),
    s.plane? (curPlane s) = some p → unsealed s p f = true →
    (i, op, d) ∈ [(Instr.elemLd f sh, ReqOp.load sh none, 0), (.elemLda f sc, .load .blk (some sc), 0),
      (.elemSt f sh, .store sh none, (opC s p false f).1), (.elemStl f sc, .store .blk (some sc), (opC s p false f).1),
      (.elemCst f sc, .close sc, (opC s p false f).1), (.elemVamo f wide, .vamo wide, (opC s p false f).1),
      (.elemAmo f h, .amo (h.val + 16 * (f.imm.getLsbD 7).toNat), (opB s p false f).1)] →
    let addrs := op.addrs (opA s p false f).1 (opB s p false f).1
    ((kind0 s p f = .data → addrsOk p op addrs = true) →
      ∃ t q r, exec i s = .next t ∧ t.plane? (curPlane s) = some q ∧ r ∈ q.reqs ∧ q.reqs.length = p.reqs.length + 1 ∧
        r.op = op ∧ r.addrs = addrs ∧ r.data = d ∧ r.kind = kind0 s p f ∧ r.elem = curElem s ∧ r.slot = s.cur.slot ∧
        r.otag = f.otag ∧ r.ac = curAc s ∧ r.lsix = (if f.imm.getLsbD 6 then some (f.imm.toNat % 8) else none) ∧
        (∀ x, x ∈ p.reqs → x ∈ q.reqs) ∧ t.mem = s.mem ∧ t.ctxs = s.ctxs ∧ t.hub = s.hub) ∧
    (kind0 s p f = .data → addrsOk p op addrs = false →
      exec i s = .next (elemTrap s (curPlane s) (curElem s) s.cur.slot 6 0 (f.readMask ||| f.deq)))

/-- R178 to R180: LDST fills the next part of the shadow plane, LDCB the codebook store or the shadow scale row, from a sealed
token; SWAPW exchanges a complete shadow plane with the active one. -/
def Obligations.WeightFirings : Prop :=
  ∀ (s : State) (p : Plane) (f : EFields) (x : Token), s.plane? (curPlane s) = some p → curElem s < p.elems.length →
    curElem s < p.mx.length →
    let e := curElem s
    let m := p.mxOf e
    let part := m.sf % 4
    ((opA s p false f).2 = some x → x.nul = false → x.psn = false → x.seal = true → m.sf ≤ 4 →
      (∃ t q, exec (.elemLdst f) s = .next t ∧ t.plane? (curPlane s) = some q ∧ (q.mxOf e).sf = part + 1 ∧
        (q.mxOf e).shadow.extractLsb' (256 * part) 256 = x.data ∧
        (∀ k, k < 4 → k ≠ part → (q.mxOf e).shadow.extractLsb' (256 * k) 256 = m.shadow.extractLsb' (256 * k) 256) ∧
        (q.mxOf e).stat = m.stat ∧ (q.mxOf e).af = m.af) ∧
      (∃ t q, exec (.elemLdcb f) s = .next t ∧ t.plane? (curPlane s) = some q ∧
        (q.mxOf e).cb = (if mxFmt p.page.mxcfg = 0 then x.data else m.cb) ∧
        (q.mxOf e).scs = (if mxFmt p.page.mxcfg = 0 then m.scs else x.data.setWidth 64) ∧ (q.mxOf e).stat = m.stat)) ∧
    (unsealed s p f = true → m.sf = 4 →
      ∃ t q, exec (.elemSwapw f) s = .next t ∧ t.plane? (curPlane s) = some q ∧ (q.mxOf e).stat = m.shadow ∧
        (q.mxOf e).shadow = m.stat ∧ (q.mxOf e).af = true ∧ (q.mxOf e).sf = (if m.af then 4 else 0)) ∧
    (unsealed s p f = true → m.sf ≠ 4 →
      exec (.elemSwapw f) s = .next (elemTrap s (curPlane s) e s.cur.slot 6 0 (f.readMask ||| f.deq)))

/-- R181, R185, R187 to R190: MMA, ACCA, ACCD, ACCZ, ACCS and ACCL of a data firing within the plane's rows put one effect that falls
due three ac later behind the pending ones. -/
def Obligations.MatrixFirings : Prop :=
  ∀ (s : State) (p : Plane) (f : EFields) (zs tor : Bool) (ta : AccTy) (ty : Ty), s.plane? (curPlane s) = some p →
    curElem s < p.elems.length → unsealed s p f = true → kind0 s p f = .data →
    let a := opA s p false f
    let b := opB s p false f
    let c := opC s p false f
    let m := p.mxOf (curElem s)
    let imm := f.imm.toNat % 512
    let qtr := f.imm.toNat / 512 % 4
    let adds := fun (i : Instr) (ok : Work → Prop) => ∃ t q w, exec i s = .next t ∧ t.plane? (curPlane s) = some q ∧
      q.pend = p.pend ++ [w] ∧ w.due = curAc s + 3 ∧ w.elem = curElem s ∧ w.done = false ∧ ok w.work ∧ q.rows = p.rows ∧ q.mx = p.mx ∧
      t.mem = s.mem ∧ t.ctxs = s.ctxs
    let job : MmaJob := ⟨a.1, if zs then none else some b.1, m.stat, m.cb, m.sca⟩
    let k := kindAfter s .data (sclOf a.2 != mxBs p.page.mxcfg || (!zs && sclOf b.2)) false
    (m.af = true → tor = false → adds (.elemMma f zs tor) (fun w => ∃ places, w = .mmaSouth k job f.otag places)) ∧
    (m.af = true → tor = true → imm + c.1.toNat % 512 < p.aq →
      adds (.elemMma f zs tor) (fun w => w = .mmaRow k job (imm + c.1.toNat % 512) qtr)) ∧
    (imm + a.1.toNat % 512 < p.aq →
      adds (.elemAcca f ta) (fun w => w = .acca (kindAfter s .data (sclOf b.2) false) ta (imm + a.1.toNat % 512) qtr b.1) ∧
      adds (.elemAccd f ty) (fun w => ∃ places, w = .accd .data ty (imm + a.1.toNat % 512) qtr f.dst f.otag places) ∧
      adds (.elemAccz f) (fun w => w = .accz (imm + a.1.toNat % 512) (if f.opb = .zero then 0xFFFF else b.1.setWidth 16))) ∧
    (imm + a.1.toNat % 512 < p.aq → b.1.toNat % 512 < p.aq →
      adds (.elemAccs f) (fun w => w = .accs (imm + a.1.toNat % 512) (b.1.toNat % 512)) ∧
      adds (.elemAccl f) (fun w => w = .accs (b.1.toNat % 512) (imm + a.1.toNat % 512)))

/-- R36, R183, R186, R190, R191, R476: what falls due: a result's register and tokens, sums sent south, and the accumulator operations on
their rows, each once none that fell due earlier, or at the same ac on a lower element, is left. A row with an uncorrectable error is
poisoned by the operation that reads it; that the error stands in State beforehand is the model's (log entry 76). -/
def Obligations.ResultsDue : Prop :=
  ∀ (s : State) (pl k : Nat) (p : Plane) (w : Pend), dueNow s pl k p w → w.elem < p.elems.length →
    let n := s.planeAc pl
    let m := markDone p k
    let first := ∀ x ∈ p.pend, x.done = false → x.work.isAcc = true → w.due ≤ x.due ∧ (x.due = w.due → w.elem ≤ x.elem)
    let tokens := fun (q : Plane) (t : Token) (l : List (Nat × Nat)) =>
      q.chans = (fillAll m t (n + 1) l).chans ∧ q.held = (fillAll m t (n + 1) l).held
    let wrote := fun (q : Plane) (kind : Kind) (dst : Option (Fin 32)) (v : Lanes) => ∀ g : Fin 32,
      (q.elem w.elem).g.get g = if kind = .data ∧ dst = some g then v else (p.elem w.elem).g.get g
    let sums := fun (kind : Kind) (job : MmaJob) (z : Option Lanes) => if kind = .data then mxSums p.page.mxcfg job z else (0, false)
    let named := fun (kind : Kind) (nan : Bool) => npKind s p pl w.elem w.slot kind nan
    (∀ r, w.work.rowRead = some r → (p.row r).ue = true → r < p.aq → first → ∃ t q, exec (.accOperation pl k) s = .next t ∧
      t.plane? pl = some q ∧
      (q.row r).psn = true ∧ (q.row r).ue = false ∧ (q.row r).oix = (p.row r).oix ∧
      q.row r = (p.row r).poison (newOrigin s (planeTile pl) w.elem w.slot causeMemue 0xFFFF)) ∧
    ((∀ r, w.work.rowRead = some r → (p.row r).ue = false) →
    let passed := fun (kind : Kind) (row qtr : Nat) (v : Lanes × Bool) => ∃ t q, exec (.accOperation pl k) s = .next t ∧
      t.plane? pl = some q ∧ (∀ r, r ≠ row → q.row r = p.row r) ∧
      q.row row = (if kind = .null ∨ (p.row row).psn = true ∨ p.aq ≤ row then p.row row
        else (p.row row).pass qtr (named kind v.2) v.1)
    match w.work with
    | .result dst kind val tag places => ∃ q, exec (.pipelinedResult pl k) s = .next (s.setPlane pl q) ∧ wrote q kind dst val ∧
        tokens q { data := (kindTok kind val false 0).data, tag := tag } places ∧ q.rows = p.rows
    | .mmaSouth kind job otag places => ∃ t q, exec (.pipelinedResult pl k) s = .next t ∧ t.plane? pl = some q ∧ q.rows = p.rows ∧
        tokens q (resultTok (named kind (sums kind job none).2) (sums kind job none).1 otag) places
    | .mmaRow kind job row qtr => first → passed kind row qtr (sums kind job (some ((p.row row).quarter qtr)))
    | .acca kind t row qtr v => first → passed kind row qtr (if kind = .data then accAdd t ((p.row row).quarter qtr) v else (0, false))
    | .accd kind t row qtr dst otag places => first →
        let r := p.row row
        let k1 : Kind := if kind = .data ∧ r.psn = true then .poison (r.data.setWidth 64) else kind
        let v := if k1 = .data then accRead t (r.quarter qtr) else (0, false)
        ∃ q, exec (.accOperation pl k) s = .next (s.setPlane pl q) ∧ wrote q (named k1 v.2) dst v.1 ∧
          tokens q (resultTok (named k1 v.2) v.1 otag) places ∧ q.rows = p.rows
    | .accz row oix => first → ∃ q, exec (.accOperation pl k) s = .next (s.setPlane pl q) ∧
        q.row row = { data := 0, psn := false, oix := oix } ∧ ∀ r, r ≠ row → q.row r = p.row r
    | .accs row d => first → ∃ q, exec (.accOperation pl k) s = .next (s.setPlane pl q) ∧ q.row d = p.row row ∧
        ∀ r, r ≠ d → q.row r = p.row r
    | .accNone => first → exec (.accOperation pl k) s = .next (s.setPlane pl m))

/-- R42, R56, R59, R60, R61, R64, R66, R164, R475: a token, a result and a credit reach their plane, or are misroutes; a token with an error in
a data word comes poisoned; a tile wakes; a marker stops its unit; an idle report changes the context's balance and, where the context is
STUCK, raises the STUCK record. The model's readings: that a token's error stands in State beforehand (log entry 76), that a waiting token
which a credit lets leave a gated tile wakes it (log entry 8), and when STUCK is judged (log entry 80). -/
def Obligations.TokenMoves : Prop :=
  ∀ (s : State) (k pl chan fp port place tile unit ch dpl dch : Nat) (x : Packet) (p : Plane) (t : Token) (otag : BitVec 4) (val : Word)
    (null ue : Bool) (psn : Option Word) (ra cs : Nat) (o : Out),
    let n := s.planeAc pl
    let route := ∀ y ∈ s.net.take k, ∀ t', y.body ≠ .token pl chan fp port t'
    let held := tileHolds s (planeTile pl) = true
    let asked := fun (p : Plane) => p.placeOpen chan place
    let u := wakeTile s tile
    let r := idleReported s pl p
    let stuck := (∃ e ∈ r.planes, e.2.cid = p.cid ∧ e.2.armed = true) ∧ allIdle r p.cid = true ∧ (r.ctx p.cid).bal ≠ 0
    let rc := stuckRecord r p.cid
    let vd := (r.ctx p.cid).vd.getD 0
    let sends := fun (u : State) => if u.powerOf (planeTile pl) = .clockGated ∧ u.net.length < (drainOuts false u pl).net.length then
      drainOuts false (wakeTile u (planeTile pl)) pl else drainOuts false u pl
    (arriving s k = some x → x.body = .token pl chan fp port t → ¬ held → route →
      (misrouteCase s pl chan fp port = none → t.mrk = false → s.plane? pl = some p →
        ∃ q, exec (.tokenArrive k) s = .next ((s.dropPacket k).setPlane pl q) ∧ q.bal = p.bal + 1 ∧
          q.chans = tset p.chans chan ((p.chan chan).put { id := p.nextId, tok := some (if t.ue && !t.ctl then
            poisonTok (newOrigin s (planeTile pl) 20 0 causeMemue 0xFFFF) t.utag else { t with ue := false }), vis := n + 1 })) ∧
      (misrouteCase s pl chan fp port = some cs → exec (.tokenArrive k) s =
        .next (misroute s k x cs pl (chan / 8) (chan % 8) (tileFa s (planeTile fp)) (if t.mrk then none else some (fp, port))))) ∧
    (arriving s k = some x → x.body = .result (.chan pl chan place otag) val null psn ue ra → ¬ held →
      (replyCase s pl asked = none →
        exec (.tokenArrive k) s = .next (fillResult (s.dropPacket k) pl chan place otag val null psn ue)) ∧
      (replyCase s pl asked = some cs →
        exec (.tokenArrive k) s = .next (misroute s k x cs pl (chan / 8) (chan % 8) (x.srcFa s) none))) ∧
    (arriving s k = some x → x.toTile = some (planeTile pl) → held → exec (.tokenArrive k) s = .next s) ∧
    (s.powerOf tile = .clockGated → tileHolds (s.setPower tile .on) tile = false → (nextToken s tile s.net.length 0).isSome = true →
      u.powerOf tile = .on ∧ exec (.tileWake tile) s = .next (deliverHeld tile u.net.length u)) ∧
    (arriving s k = some x → x.body = .credit pl port dpl dch → s.plane? pl = some p → tfind p.outs port = some o →
      (o.leadsTo dpl dch = true → exec (.creditReturn k) s =
        .next (sends ((s.dropPacket k).setPlane pl { p with outs := tset p.outs port { o with credit := o.credit + 1 } }))) ∧
      (o.leadsTo dpl dch = false → exec (.creditReturn k) s = .next (sends ((s.dropPacket k).setPlane pl p)))) ∧
    (s.plane? pl = some p → p.idleSent = false → 4096 ≤ p.idle →
      (¬ stuck → exec (.idleReport pl) s = .next (gateIdle (stuckNoted r p.cid false) (planeTile pl))) ∧
      (stuck → canRaise r vd rc = true → exec (.idleReport pl) s =
        .next (gateIdle (setEvent (stuckNoted (raise r vd rc) p.cid false) p.cid 1) (planeTile pl))) ∧
      (stuck → canRaise r vd rc = false → exec (.idleReport pl) s = .next (gateIdle (stuckNoted r p.cid true) (planeTile pl)))) ∧
    (s.plane? pl = some p → ch < 8 → 8 * unit + ch ∉ p.marked → p.assay = false →
      (∃ y ∈ (p.chan (8 * unit + ch)).q, y.plain = false ∧ y.vis ≤ n) →
      exec (.markerArrival pl unit ch) s =
        .next (stopUnit (s.setPlane pl { p with marked := p.marked ++ [8 * unit + ch] }) pl unit))

/-- R44, R46, R48: a unit whose forward inputs hold a knot, or a source, takes the open knot and is recorded with its state; a knot on a
back edge is discarded; a complete knot commits; at a threshold of R48 the device injects a knot at the region's entries, once
each has room for it (the model's reading, log entry 61). That a knot at the inputs goes ahead of a slot that is ready is a reading too (log entry
16). -/
def Obligations.Knots : Prop :=
  ∀ (s : State) (pl unit ch : Nat) (p : Plane),
    let n := s.planeAc pl
    (unitActs s pl unit p → knotReady p unit n = true →
      ((inputsKnot p unit n = true ∧ inputsDrain p unit n = false) ∨ joinsKnot p unit = true) →
      ∃ q, exec (.knotTake pl unit) s = .next (takeKnot s pl unit false) ∧ (takeKnot s pl unit false).plane? pl = some q ∧
        afterKnot q unit = true ∧ (unit < 8 → tfind q.kElems unit = some (p.elem unit))) ∧
    (s.plane? pl = some p → isActive s pl = true → 8 * unit + ch ∈ p.backInputs unit → unit ∉ p.stopped →
      headKnot p n (8 * unit + ch) = true → exec (.backEdgeKnotDiscard pl unit ch) s = .next (dequeue s pl (8 * unit + ch))) ∧
    (s.plane? pl = some p → knotComplete p n = true → p.cutDone = false → p.assay = false →
      exec (.knotCommit pl) s = .next (tryRetire (commitGroup s pl false) pl)) ∧
    (s.plane? pl = some p → p.knot = none → implicitDue p = true → p.armed = true → p.retiring = false → p.stopped = [] →
      p.assay = false → (∀ e ∈ p.entries, entryRoom s e.2 n = true) →
      ∃ t q, exec (.implicitKnot pl) s = .next t ∧ t.plane? pl = some q ∧ q.knot = some { drain := false, taken := [], implicit := true } ∧
        q.held = p.held ∧ q.elems = p.elems ∧ t.mem = s.mem ∧ t.ctxs = s.ctxs ∧
        q.bal = p.bal + ((p.chans.filter (fun e => e.2.entry && !e.2.back)).length : Nat))

/-- R49, R50, R52, R67: a unit takes the drain from its inputs, with the surplus of open sources dropped, or after its own pattern; a token
behind the drain is discarded with a LATE record; an open source drains once its targets have; a roll-back restores what the
region committed, and a repeated one starts an assay (R480). The model's readings: the drain of an open source wakes a clock-gated tile (log
entry 8), and surplus tokens at its full local destinations are dropped (log entry 33). -/
def Obligations.DrainsAndRollback : Prop :=
  ∀ (s : State) (pl unit ch : Nat) (p q : Plane),
    let n := s.planeAc pl
    let key := 8 * unit + ch
    let byInput := inputsKnot p unit n = true ∧ inputsDrain p unit n = true
    let src := match (p.chan key).fed with | some (fp, _) => planeTile fp | none => planeTile pl
    let late := misRecord true (newOrigin s (planeTile pl) unit 0 causeMisroute 0xFFFF) p.vd unit pl ch 0 (faX s (planeTile pl))
      (faY s (planeTile pl)) (faX s src) (faY s src)
    let u := if s.powerOf (planeTile pl) = .clockGated then s.setPower (planeTile pl) .on else s
    let room := makeRoom u pl p unit
    (unitActs s pl unit p → knotReady p unit n = true →
      (byInput → exec (.drainTake pl unit) s = .next (takeKnot s pl unit true)) ∧
      (¬ byInput → p.draining = true → surplusDrain s p unit n = true → exec (.drainTake pl unit) s =
        .next (takeKnot ((p.fwdInputs unit).foldl (fun s k => dropSurplus pl k (p.chan k).q.length s) s) pl unit true)) ∧
      (¬ byInput → surplusDrain s p unit n = false → p.draining = true → closedSource p unit = true → patternDone p unit = true →
        noPlainKnot p → kivDue p unit = false → exec (.drainTake pl unit) s = .next (takeKnot s pl unit true))) ∧
    (s.plane? pl = some p → unit ∈ p.drained → key ∈ p.inputs unit → headData p n key = true → canRaise s p.vd late = true →
      exec (.lateTokenDiscard pl unit ch) s = .next (setEvent (raise (dequeue s pl key) p.vd late) p.cid 2)) ∧
    (s.plane? pl = some p → isActive u pl = true → openSource p unit = true → p.draining = true →
      ((secOf s p).closed = true ∨ p.drainNamed = true) →
      (∀ a ∈ (secOf s p).planes, ∀ x, s.plane? a = some x → ∀ v ∈ x.units, closedSource x v = true → v ∈ x.drained) →
      noPlainKnot p → targetsDrained u p pl unit = true → room.plane? pl = some q →
      knotReady { q with chans := tmap (fun _ c => { c with freed := 0 }) q.chans } unit n = true →
      exec (.openSourceDrain pl unit) s = .next (takeKnot room pl unit true)) ∧
    (s.plane? pl = some p → p.armed = true → p.assay = false →
      exec (.regionRollback pl) s =
        .next (if 1 ≤ p.rollbacks then startAssay (rollbackLinked s pl) (planeTile pl) pl 1 else rollbackLinked s pl)) ∧
    (s.plane? pl = some p → ∃ q, (rollbackPlane s pl).plane? pl = some q ∧ q.elems = p.cElems ∧
      q.ops = { p.cOps with check := p.ops.check, agen := { p.cOps.agen with ahead := [] } } ∧ (p.cReqs = [] → q.reqs = []) ∧
      (∀ r ∈ q.reqs, r ∈ p.cReqs) ∧ q.seqs = p.cSeqs ∧
      q.held = p.held.filter (fun h => h.keep) ∧ q.pend = [] ∧ q.knot = p.cKnot ∧ q.agq = p.cAgq ∧ q.rollbacks = p.rollbacks + 1 ∧ q.mx = p.mx)

/-- R253, R272, R273, R276, R278, R280 to R283: the steps of STEER, MERGE, SCALE, BFLY, CONV and RED, each where its inputs are at the
heads and its outputs have room. That BFLY asks for the room of one output at a time is the model's choice (log entry 105), the UTAG of a
result of RED without a contributing token too (log entry 27). -/
def Obligations.ValueOperators : Prop :=
  ∀ (s : State) (pl : Nat) (p q : Plane) (a b t : Token) (l : List Token),
    let n := s.planeAc pl
    let goes := fun (i : Instr) (u : Nat) (t : State) => exec i s = .next (opDone t pl u n)
    (opMay s pl 11 p → opHead p 11 0 n = some a → opHead p 11 1 n = some b → opRoom2 p 11 0 1 n = true →
      let left := (if p.ops.steer = 0 then fld p 11 40 8 + 1 else p.ops.steer) - 1
      let cond := if fld p 11 2 2 = 0 then b.data.setWidth 32 != 0 else b.utag.getLsbD 0
      let o := steerOut a b (cond != fbit p 11 1)
      goes (.steerStep pl) 11 ((dequeueAll s pl (88 :: (if left = 0 then [89] else []))).modPlane pl (fun p =>
        let p := sendOp (sendOp p 11 0 n 1 o.1) 11 1 n 1 o.2
        { p with ops := { p.ops with steer := left } }))) ∧
    (opMay s pl 12 p → opHead p 12 0 n = some a → opHead p 12 1 n = some b → opRoom p 12 0 n = true →
      (a.nul = true → b.nul = true → fbit p 12 1 = true → goes (.mergeStep pl) 12 (dequeueAll s pl [96, 97])) ∧
      (a.nul = true → b.nul = true → fbit p 12 1 = false →
        goes (.mergeStep pl) 12 ((dequeueAll s pl [96, 97]).modPlane pl (fun p => sendOp p 12 0 n 1 (nullTok false a.utag)))) ∧
      (a.nul = false → goes (.mergeStep pl) 12 ((dequeueAll s pl [96, 97]).modPlane pl (fun p => sendOp p 12 0 n 1 a))) ∧
      (a.nul = true → b.nul = false → goes (.mergeStep pl) 12 ((dequeueAll s pl [96, 97]).modPlane pl (fun p => sendOp p 12 0 n 1 b)))) ∧
    (opMay s pl 13 p → opHead p 13 0 n = some a → opRoom p 13 0 n = true →
      let per := fld p 13 24 8 + 1
      let at_ := p.ops.scale
      let last := at_ + 1 = 32 * per
      let scl := if fld p 13 14 2 = 0 then a.scl else decide (fld p 13 14 2 = 2)
      let upd := fun (e : Nat) (k : List Token) (x : Plane) =>
        let x := sendOp x 13 0 n 2 (kindTokS (kindOfToks k) (scaleVal x e a.data) scl a.utag)
        { x with ops := { x.ops with scale := if last then 0 else at_ + 1 } }
      (fbit p 13 12 = false → goes (.scaleStep pl) 13 ((dequeue s pl 104).modPlane pl (upd (fld p 13 32 8) [a]))) ∧
      (fbit p 13 12 = true → opHead p 13 1 n = some b → goes (.scaleStep pl) 13
        ((dequeueAll s pl (104 :: (if last then [105] else []))).modPlane pl
          (upd (bits b.data.toNat (8 * (at_ / per)) 8) [a, b])))) ∧
    (opMay s pl 14 p →
      let stg := fld p 14 6 3
      let w := if fld p 14 12 4 = 2 then 32 else (fmtAt (fld p 14 12 4)).w
      let need := max 1 (2 ^ stg / (256 / w))
      (p.ops.bflyOut = [] → opHead p 14 0 n = some a → p.ops.bflyIn.length + 1 < need → goes (.bflyStep pl) 14
        ((dequeue s pl 112).modPlane pl (fun x => { x with ops := { x.ops with bflyIn := p.ops.bflyIn ++ [a] } }))) ∧
      (p.ops.bflyOut = [] → opHead p 14 0 n = some a → need ≤ p.ops.bflyIn.length + 1 → opRoom p 14 0 n = true →
        let os := bflyOuts s pl p (p.ops.bflyIn ++ [a])
        goes (.bflyStep pl) 14 ((dequeue s pl 112).modPlane pl (fun p =>
          let p := sendOp p 14 0 n (stg + 1) (os.headD (nullTok false 0))
          { p with ops := { p.ops with bflyIn := [], bflyOut := os.drop 1 } }))) ∧
      (p.ops.bflyOut = t :: l → opRoom p 14 0 n = true →
        let q := sendOp p 14 0 n (stg + 1) t
        let q := { q with ops := { q.ops with bflyOut := l } }
        opHead q 14 0 n = none → goes (.bflyStep pl) 14 (s.setPlane pl q))) ∧
    (opMay s pl 15 p → opHead p 15 0 n = some a →
      let rnd := if convRsr p then opHead p 15 1 n else none
      let u := dequeueAll s pl (120 :: (if convRsr p then [121] else []))
      let closes := p.ops.conv.pos + 256 / (convSty p).width = 32 * fld p 15 32 16
      (convRsr p = true → rnd ≠ none) → u.plane? pl = some q →
      let r := { q with ops := { q.ops with conv := convTaken p a rnd } }
      ∀ r', (if fbit p 15 18 then quantEmit u pl n r (decide closes) else convEmit u pl n 32 r) = some r' →
        goes (.convStep pl) 15 (u.setPlane pl
          (if closes then { r' with ops := { r'.ops with conv := { r'.ops.conv with row := p.ops.conv.row + 1 } } } else r'))) ∧
    (opMay s pl 16 p →
      let g := fld p 16 24 8 + 1
      let total := g * (fld p 16 12 3 + 1)
      let i := p.ops.red.length / g
      let all := p.ops.red ++ [clearRpl a]
      (opHead p 16 i n = some a → all.length < total → goes (.redStep pl) 16
        ((dequeue s pl (128 + i)).modPlane pl (fun p => { p with ops := { p.ops with red := all } }))) ∧
      (opHead p 16 i n = some a → total ≤ all.length → opRoom p 16 0 n = true → goes (.redStep pl) 16
        ((dequeue s pl (128 + i)).modPlane pl (fun x =>
          let x := sendOp x 16 0 n 4 (redResult s pl p all)
          { x with ops := { x.ops with red := [], redNo := x.ops.redNo + 1 } }))))

/-- R256 to R259, R270, R285, R288, R290, R291: the steps of AGEN, WPORT, MASK, RNG and CHECK. An answer of MASK after all of the 34 ac
that the spec allows is log entry 27, a header read ahead beside a row log entry 63. -/
def Obligations.SourceOperators : Prop :=
  ∀ (s : State) (pl pair : Nat) (p : Plane) (a b : Token) (t : Option Token) (u : State) (v : Lanes),
    let n := s.planeAc pl
    let goes := fun (i : Instr) (u : Nat) (t : State) => exec i s = .next (opDone t pl u n)
    (opMay s pl 8 p → p.ops.agen.fin = false → agenRoom p n = true → p.fault = none → agenTakes p n t →
      let r := agenTurn s pl p t
      let x := r.2.ops.agen
      let give := fun (o : AgenOut) => agenGive r.1 pl n r.2 o = some u → goes (.agenStep pl) 8 u
      (agenMode r.2 = 0 → give (affStep r.1 pl r.2 x)) ∧ (agenMode r.2 = 2 → give (gathStep r.1 pl r.2 x)) ∧
      (agenMode r.2 = 1 → trigKind x ≠ .data → give { addrs := [], kind := trigKind x, n := 1, st := x, done := true }) ∧
      (agenMode r.2 = 1 → trigKind x = .data → x.busy = true → x.row < x.ntok →
        agenGive r.1 pl n r.2 (linkRow r.2 x) = some u → goes (.agenStep pl) 8 (linkAhead u pl n)) ∧
      (agenMode r.2 = 1 → trigKind x = .data → (x.busy = false ∨ x.ntok ≤ x.row) → linkPage r.1 pl n r.2 x = some u →
        goes (.agenStep pl) 8 u)) ∧
    (opMay s pl 10 p → p.ops.wport.fin = false → p.wfault = none → p.outReady (80 + (wpPorts p).getD p.ops.wport.o 0) n = true →
      wportTakes p n t →
      let r := wportTurn s pl p t
      let w := r.2.ops.wport
      let otag := BitVec.ofNat 4 (fld r.2 10 36 4)
      let va := wpAddr r.2 w.s w.p ((wpPorts r.2).getD w.o 0)
      (w.kind ≠ .data → goes (.wportToken pl) 10 (wportGive pl n (kindTok w.kind 0 false otag) r.1)) ∧
      (w.kind = .data → (wportSel p = true → w.s < fld r.2 10 352 32) → wportRead r.1 pl r.2 va = (u, .ok v) →
        goes (.wportToken pl) 10
          (wportGive pl n { data := v, tag := (mkTag false false false otag) ||| 0x80, stream := some (w.s, w.p, (wpPorts r.2).getD w.o 0) } u))) ∧
    (opMay s pl 17 p →
      let left := p.ops.maskLeft.getD 32
      let first := left = 32
      (opHead p 17 1 n = some a → opHead p 17 0 n = some b → asksReload a = true → left ≠ 0 →
        let tab := if b.nul || b.psn then p.ops.maskT
          else (List.range 8).foldl (fun m i => tset m (8 * (32 - left) + i) (b.data.extractLsb' (32 * i) 32)) p.ops.maskT
        let psn := if first then none else p.ops.maskPsn
        let psn := if b.nul = false ∧ b.psn = true ∧ psn = none then some b.origin else psn
        goes (.maskReload pl) 17 ((dequeue s pl 136).modPlane pl (fun p =>
          { p with ops := { p.ops with maskT := tab, maskPsn := psn, maskLeft := some (left - 1) } }))) ∧
      (opHead p 17 1 n = some a → (asksReload a = true → p.ops.maskLeft = some 0) → opRoom p 17 0 n = true →
        let kind : Kind := if a.nul then .null else if a.psn then .poison a.origin
          else match p.ops.maskPsn with | some o => .poison o | none => .data
        let m := maskBits p.ops.maskT (fld p 17 16 32) (bits a.data.toNat 0 8) (bits a.data.toNat 32 32)
        goes (.maskQuery pl) 17 ((dequeue s pl 137).modPlane pl (fun p =>
          let p := sendOp p 17 0 n 34 (kindTok kind m false a.utag)
          { p with ops := { p.ops with maskLeft := none } })))) ∧
    (opMay s pl 18 p → opRoom p 18 0 n = true →
      (rngReq p = false → (rngNtok p = 0 ∨ p.ops.rngN < rngNtok p) →
        goes (.rngToken pl) 18 (s.modPlane pl (rngSent n (BitVec.ofNat 4 (fld p 18 4 4)) .data p.ops.rngC false))) ∧
      (rngReq p = true → opHead p 18 0 n = some a → ((tfind p.outs 145).isSome = true → opRoom2 p 18 0 1 n = true) →
        let c := if a.data.getLsbD 128 then a.data.setWidth 128 else p.ops.rngC
        goes (.rngToken pl) 18 ((dequeue s pl 144).modPlane pl (rngSent n (BitVec.ofNat 4 (fld p 18 4 4)) (kindOfToks [a]) c (tfind p.outs 145).isSome)))) ∧
    (unitActs s pl 19 p → unitFree p 19 n = true → pair ≤ fld p 19 4 2 →
      opHead p 19 pair n = some a → opHead p 19 (pair + 4) n = some b →
      let at_ := tget p.ops.checkPos pair 0
      let rc := checkRecord s pl p a b pair at_ (p.ops.check != 0)
      let w := (rollbackLinked (raise s p.vd rc) pl).modPlane pl (fun q => { q with ops := { q.ops with check := p.ops.check + 1 } })
      (checkMatch a b = true → opRoom p 19 pair n = true → exec (.checkPair pl pair) s = .next
        ((dequeueAll s pl [152 + pair, 156 + pair]).modPlane pl (fun p =>
          let p := sendOp p 19 pair n 1 a
          { p.touch n with firedAt := tset p.firedAt 19 (n + 1), ops := { p.ops with checkPos := tset p.ops.checkPos pair (at_ + 1) } }))) ∧
      (checkMatch a b = false → canRaise s p.vd rc = true → p.ops.check = 0 → exec (.checkPair pl pair) s = .next w) ∧
      (checkMatch a b = false → canRaise s p.vd rc = true → p.ops.check ≠ 0 → exec (.checkPair pl pair) s = .next
        ((linkedPlanes w pl).foldl (fun s q => startAssay s (planeTile q) q 0) w)))

/-- R56, R66, R155, R161, R163, R193, R263, R265, R267, R268, R479, R480: the MIF takes an element's request or a group of its stream, going
on where a resolved fault had stopped its translation, and makes the stream's accesses, after a restoration only once they are translated
again; a poisoned AMO makes no access and takes no sequence number (log entry 65); a reply brings its sector to its load, or is a misroute
where none asked for it; an element's weights are read again, or WPORT stalls (log entry 17); an assay ends. -/
def Obligations.MemoryInterface : Prop :=
  ∀ (s s1 u : State) (pl k id sec elem tile : Nat) (p : Plane) (r : Req) (rest : List Req) (l : List (Word × Nat × Nat × Nat))
    (addrs : List Word) (kind : Kind) (ord : Nat) (items : List QItem) (x : Packet) (v : Lanes) (ue nul : Bool) (a : Access)
    (lsix : Option Nat) (st : List StreamAcc) (kslot cp : Nat) (w : Asker) (res : AssayResult) (j : Nat) (va : Word) (e : Nat)
    (moved : List (StreamAcc × Nat × Nat × Nat)),
    let n := s.planeAc pl
    let free := s.plane? pl = some p ∧ isActive s pl = true ∧ mifFree p n = true ∧ p.stream = []
    let mine := p.reqs = r :: rest ∧ r.ac < n ∧ ∀ f, p.fault = some f → f.src ≠ 1
    let noReq := p.reqs = [] ∨ (∃ f, p.fault = some f ∧ f.src = 1) ∨ (p.reqs = r :: rest ∧ n ≤ r.ac)
    let noFail := ∀ f, p.fault = some f → f.failed = false
    let poisoned := ∃ h org, r.op = .amo h ∧ r.kind = .poison org ∧ r.port ≠ none
    let refused := fun (u : State) => reqDone pl 1 (replyNow pl r (poisonTok (opOrigin u pl 9 3 0xFFFF) r.otag) u)
    let plain := fun (u : State) => reqDone pl 1 (replyNow pl r (kindTok r.kind 0 false r.otag) u)
    let may := s.plane? pl = some p ∧ isActive s pl = true ∧ p.armed = true ∧ p.assay = false ∧ 9 ∉ p.stopped ∧ markerDue p 9 n = false ∧
      tget p.firedAt 9 0 ≤ n
    let again := translateStream (tlbTile (planeTile pl)) p p.stream [] s
    let todo := translateAll (tlbTile (planeTile pl)) p.vd r.write r.blk (r.addrs.drop (gotOf p).length) (gotOf p) s
    let asRead := translateAll (tlbTile (planeTile pl)) p.vd false false r.addrs [] s
    (free → mine → r.kind = .data → noFail → todo = (s1, .inl l) → performReq s1 pl p r l = some u →
      exec (.mifRequestTake pl) s = .next u) ∧
    (free → mine → r.kind = .data → noFail → todo = (s1, .inr (j, va, e, l)) → raisePlaneFault s1 pl va 0 e r.acc 0 r.slot r.elem l = some u →
      exec (.mifRequestTake pl) s = .next (if stalls e then u else refused u)) ∧
    (free → mine → r.kind = .data → (∃ f, p.fault = some f ∧ f.failed = true) → exec (.mifRequestTake pl) s = .next (refused s)) ∧
    (free → mine → poisoned → asRead = (s1, .inl l) → performReq s1 pl p { r with lsix := none } l = some u →
      exec (.mifRequestTake pl) s = .next u) ∧
    (free → mine → poisoned → asRead = (s1, .inr (j, va, e, l)) → exec (.mifRequestTake pl) s = .next (plain s1)) ∧
    (free → mine → r.kind ≠ .data → ¬ poisoned → exec (.mifRequestTake pl) s = .next (plain s)) ∧
    (free → noReq → p.agq = .group addrs kind ord :: items → mifSdir p ≠ 0 → takeGroup s pl n p addrs kind ord = some u →
      exec (.mifRequestTake pl) s = .next u) ∧
    (may → p.restream = true → p.fault = none → s.setPlane pl p = s →
      (again = (s1, .inl moved) → exec (.mifStreamAccess pl) s = .next (s1.modPlane pl (fun p => moveStream p moved)))) ∧
    (may → p.restream = false → p.stream = .load id sec kslot cp w :: st → exec (.mifStreamAccess pl) s =
      .next (mifUsed pl (askSector (s.setPlane pl ({ p with stream := st }.touch n)) pl id sec kslot cp none))) ∧
    (may → p.restream = false → p.stream = .store a lsix w :: st → holdRoom p [(.store a, storeStrand s pl lsix a.sector)] = true →
      exec (.mifStreamAccess pl) s = .next (mifUsed pl (s.setPlane pl
        (holdAll pl (afterKnot p 9) [(.store a, storeStrand s pl lsix a.sector)] ({ p with stream := st }.touch n))))) ∧
    (arriving s k = some x → x.body = .reply pl id sec v ue nul →
      let asked := replyCase s pl (fun p => p.loads.any (fun l => l.id == id && l.waiting.contains sec))
      (tileHolds s (planeTile pl) = true → exec (.memoryReply k) s = .next s) ∧
      (tileHolds s (planeTile pl) = false → asked = none →
        exec (.memoryReply k) s = .next (takeSector (s.dropPacket k) pl id sec v ue nul)) ∧
      (tileHolds s (planeTile pl) = false → asked = some j →
        exec (.memoryReply k) s = .next (misroute s k x j pl 9 0 (x.srcFa s) none))) ∧
    (s.plane? pl = some p → isActive s pl = true → elem ∈ p.refill → p.wfault = none →
      let y := (p.elem elem).widx
      let r1 := refillParts pl p (if y.af then y.stx else []) 0 s
      let r2 := refillParts pl p (y.shx.take y.sf) 0 r1.1
      let r3 := refillRead r2.1 pl p y.cbx
      let r4 := refillRead r3.1 pl p y.sax
      let r5 := refillRead r4.1 pl p y.ssx
      let w := rereadChans pl p (p.inputs elem) r5.1
      let m : Mx := ⟨BitVec.ofNat 1024 r1.2, BitVec.ofNat 1024 r2.2, y.sf, y.af, r3.2, r4.2.setWidth 64, r5.2.setWidth 64⟩
      let f := takeFid s p.vd (.wport pl)
      let rc := planeFaultRec s pl p va 0 f.1 false e 0 2 0 0
      (refillStall s pl p elem = none → exec (.weightRefill pl elem) s =
        .next (w.modPlane pl (fun p => 
        let left := p.refill.filter (· != elem)
        { p.setMx elem m with refill := left, refailed := if left = [] then [] else p.refailed }))) ∧
      (refillStall s pl p elem = some (va, e) → p.fault = none → canRaise s p.vd rc = true → exec (.weightRefill pl elem) s =
        .next (raise (f.2.modPlane pl (fun p => { p with wfault := some { fid := f.1, va := va, src := 4 } })) p.vd rc))) ∧
    (let on := fun (s : State) (pl : Nat) => match s.plane? pl with | some p => p.assay | none => false
     let pls := (tilePlanes s tile).filter (on s)
     let vds := assayVds s tile (res.lasting && !(res.funit == 3))
     let rc := fun (y : Nat × Nat) => assayRecord s tile y.1 y.2 ((pls.findSome? (fun pl => (s.plane? pl).bind (fun p => p.suspect))).getD 0) res
     let t := pls.foldl (fun s pl => s.modPlane pl (fun p => { p with assay := false, suspect := none }))
        (addLog (vds.foldl (fun s y => setEvent (raise s y.1 (rc y)) y.2 4) s) 4
          (if res.funit = 0 ∨ res.funit = 4 then res.index.toNat else 0) (faY s tile) (faX s tile) 0)
     let secs := (pls.filterMap (fun pl => (s.plane? pl).map (fun p => (p.cid, p.sec)))).eraseDups
     let w := secs.foldl (fun s y => abortSection s y.1 y.2) t
     pls ≠ [] → (∀ y ∈ vds, canRaise s y.1 (rc y) = true) →
     (res.lasting = false → exec (.assayComplete tile res) s = .next t) ∧
     (res.lasting = true → res.funit = 3 → exec (.assayComplete tile res) s =
      .next { t with hub := { t.hub with retiredBanks := t.hub.retiredBanks ++ [16 * tileCluster tile + res.index.toNat % 16] } }) ∧
     (res.lasting = true → res.funit ≠ 3 → exec (.assayComplete tile res) s =
      .next { w.setPower tile .gated with hub := { w.hub with retiredTiles := w.hub.retiredTiles ++ [tile] } }))

/-- R164 to R166, R293, R296: what is performed at a home: a load answered with its sector, a store of the bytes that its mask names, a
vector atomic, each of its sums rounded once to nearest even, and an architectural handler with its result. -/
def Obligations.HomeOperations : Prop :=
  ∀ (s s1 : State) (k sec pl id kslot o : Nat) (x : Packet) (acq : Option Scope) (unc ue wide : Bool) (v : Lanes) (a : Access) (m : Msg),
    let d := s.dropPacket k
    performs s k x →
    (x.body = .load sec pl id kslot acq unc →
      loadSector d (.plane pl) x.vd sec kslot (if unc then 2 else 0) = (s1, v, ue) →
      let t := if acq.any wideScope then invalidate s1 (planeCluster pl) else s1
      exec (.homeLoad k) s = .next (t.send ⟨x.src, x.vd, ownDieKey t (planeDie pl),
        t.planeAc pl + hops (planeTile pl) (homeTile (sec % 2 ^ 44)), .reply pl id sec v ue (fifoEmpty s sec), []⟩)) ∧
    (x.body = .fx (.store a) none → fifoFull s a.sector = false →
      exec (.homeWrite k) s = .next (performStore d x.src x.vd a) ∧
      (s.mem.wf = true → localOff s a.sector = some o → fifoBank s a.sector = none → a.kslot = 0 → o ∉ s.bad →
        let t := performStore d x.src x.vd a
        (∀ j, j < 32 → mread t.mem (o + j) = if a.mask.getLsbD j then a.data.extractLsb' (8 * j) 8 else mread s.mem (o + j)) ∧
        (∀ b, b < o ∨ o + 32 ≤ b → mread t.mem b = mread s.mem b))) ∧
    (x.body = .fx (.vamo sec wide v kslot) none → localOff s sec = some o →
      let f := if wide then fmtF32 else fmtBF16
      (o ∈ s.bad → exec (.vamoApply k) s = .next (addLog d 9 0 (faY s (homeTile o)) (faX s (homeTile o)) 0)) ∧
      (o ∉ s.bad → ∃ l : BitVec 256, exec (.vamoApply k) s =
          .next (homePut (countHbm (countHbm d x.vd 9 sec) x.vd 10 sec) o (2 ^ 32 - 1) l.toNat kslot) ∧
        ∀ i, i < 256 / f.w → bits l.toNat (f.w * i) f.w =
          fadd f .rne 0 (bits (sectorAt d o kslot) (f.w * i) f.w) (bits v.toNat (f.w * i) f.w) % 2 ^ f.w)) ∧
    (x.body = .fx (.invoke m) none → m.handler < 16 → m.psn = none → m.bar = false →
      m.w32 = decide (m.handler = 1 ∨ m.handler = 11) → localOff s (m.pa / 32 * 32) = some o → o ∉ s.bad →
      let e := countHbm d m.vd 9 m.pa
      let n := handlerBytes m.handler
      let old := BitVec.ofNat 128 (bits (sectorAt e o m.kslot) (8 * (m.pa % 32)) (8 * n))
      exec (.handlerApply k) s = .next (sendResult
        (match handlerNew m.handler old m.operand with
         | some w => homePut (countHbm e m.vd 10 m.pa) o ((2 ^ n - 1) * 2 ^ (m.pa % 32)) (w.toNat * 2 ^ (8 * (m.pa % 32))) m.kslot
         | none => e)
        x m (handlerResult m.handler old) false none false))

/-- R86, R304 to R309: a clasp takes an OPEN, commits, holds or answers a strand packet by its number and frees a context on RELEASE; the
sender drops what is acknowledged and sends again after a RETRY; a board-link packet of an unassigned class or MOP is discarded. What an OPEN
does whose number is not the lowest that waits is log entry 70, the OPEN that a re-sending may need log entry 37, that a monitor on another
package's sector fires at the acknowledgement log entry 4. -/
def Obligations.Clasps : Prop :=
  ∀ (s s1 : State) (k six seq die : Nat) (x : Packet) (c : ClaspCtx) (fx : Fx) (st : Strand) (opn : Bool) (link : Fin 16)
    (flit : BitVec 256),
    let d := s.dropPacket k
    let q := x.die % 4
    let key := strandKey d x.src st.six
    let gap := (st.seq + 65536 - c.e) % 65536
    (arriving s k = some x → x.body = .strandOpen six seq →
      let r := takeClasp d q (strandKey d x.src six) seq
      let low := strandLow s x.src six x.die
      (low = some seq → exec (.claspOpen k) s = .next (if r.2 then r.1 else claspAnswer r.1 x (.retry six x.die seq true))) ∧
      (low = none → exec (.claspOpen k) s = .next d) ∧
      (∀ m, low = some m → m ≠ seq → exec (.claspOpen k) s = .next (if (seq + 65536 - m) % 65536 < 32768 then s else d))) ∧
    (arriving s k = some x → x.body = .fx fx (some st) →
      (claspGet s q key = none → exec (.claspPacket k) s = .next (claspAnswer d x (.retry st.six st.die st.seq false))) ∧
      (claspGet s q key = some c → gap = 0 → mayPerform s k x = true → performFx d x fx = some s1 →
        exec (.claspPacket k) s = .next (commitHeld q key (c.held.length + 1) (afterCommit s1 x st q key))) ∧
      (claspGet s q key = some c → 0 < gap → gap < 32768 → tfind c.held st.seq = none → claspHeld s q < 8192 →
        exec (.claspPacket k) s = .next (claspSet d q key { c with held := tset c.held st.seq x })) ∧
      (claspGet s q key = some c → 0 < gap → gap < 32768 → tfind c.held st.seq ≠ none → exec (.claspPacket k) s = .next d) ∧
      (claspGet s q key = some c → 32768 ≤ gap →
        exec (.claspPacket k) s = .next (claspAnswer d x (.ack st.six st.die ((c.e + 65535) % 65536))))) ∧
    (arriving s k = some x → x.body = .release six seq →
      (claspGet s q (strandKey s x.src six) = none → exec (.claspRelease k) s = .next d) ∧
      (claspGet s q (strandKey s x.src six) = some c → c.e = seq % 65536 →
        exec (.claspRelease k) s = .next (freeClasp d q (strandKey s x.src six)))) ∧
    (arriving s k = some x → x.body = .ack six die seq →
      let t := setUnack ((((unackOf s x.src).filter (ackedBy six die seq)).foldl fireRemote s).dropPacket k) x.src
        (fun l => l.filter (fun y => !ackedBy six die seq y))
      exec (.strandAck k) s = .next (match x.src with | .plane pl => tryRetire t pl | _ => t)) ∧
    (arriving s k = some x → x.body = .retry six die seq opn →
      let mine := strandWaits d x.src six die
      let coming := openComing d x.src six die
      let held := claspGet d (die % 4) (strandKey d x.src six)
      let due := if die / 4 = d.posN then d.ac (die % 4) + 1 else 0
      let again := fun (u : State) => mine.foldl (fun s y => if s.net.contains y then s else toNet s y) u
      (strandLow d x.src six die = none → exec (.strandRetry k) s = .next (again d)) ∧
      (∀ n, strandLow d x.src six die = some n → (held ≠ none ∨ coming n = true) → exec (.strandRetry k) s = .next (again d)) ∧
      (∀ n, strandLow d x.src six die = some n → held = none → coming n = false →
        exec (.strandRetry k) s = .next (again (toNet d ⟨x.src, x.vd, die, due, .strandOpen six n, []⟩)))) ∧
    (let cls := (flit.extractLsb' 231 3).toNat
     cls = 6 ∨ cls = 7 ∨ (cls = 1 ∧ 5 < (flit.extractLsb' 88 4).toNat) →
     ∃ t, exec (.badPacketDiscard link flit) s = .next t ∧
      t.hub.links = s.hub.links.modify link.val (fun l => { l with errs := min (l.errs + 1) (2 ^ 32 - 1) }) ∧
      { t with hub := { t.hub with links := s.hub.links } } = s.emit (.linkCredit link.val))

/-- R224, R297, R461, R522: a waybill starts once what it depends on has retired, its sectors are copied in an order that the model leaves
open (R294), it retires with its status and then its stamp; a frame-table entry that has run out gives way; a cluster's copy of a sector
leaves. A number from 2^64 on is that of a waybill of a context's earlier life, which WAITW does not see (log entry 106). -/
def Obligations.DispatcherAndFrames : Prop :=
  ∀ (s u : State) (cl k sec : Nat) (w : Waybill) (src dst : CopySide),
    let c := s.cluster cl
    let ready := c.wbs[k]? = some w ∧ wbLive s w = true ∧ depsRetired c k w = true
    let live := c.wbs[k]? = some w ∧ wbLive s w = true
    let at_ := fun (ph : WbPhase) (l : List (Nat × Nat × Nat)) => setWb (invalidate s cl) cl k (fun w => { w with phase := ph, todo := l })
    let sectors := match w.exts with | e :: _ => e.len / 32 | [] => 0
    (ready → w.phase = .waiting → w.task = false → exec (.waybillStart cl k) s = .next (at_ .copying [(0, 0, sectors)])) ∧
    (ready → w.phase = .waiting → w.task = true → hasStageIn w = true →
      exec (.waybillStart cl k) s = .next (at_ .stageIn (w.stages false))) ∧
    (ready → w.task = true → ((w.phase = .waiting ∧ hasStageIn w = false) ∨ (w.phase = .stageIn ∧ w.todo = [] ∧ w.cur = none)) →
      (mayArm s w.cid w.sec w.arg = true → ownAny s w.cid = false → exec (.waybillStart cl k) s =
        .next (setWb (armSection (invalidate s cl) w.cid w.sec true) cl k (fun w => { w with phase := .running }))) ∧
      (mayArm s w.cid w.sec w.arg = false → exec (.waybillStart cl k) s =
        .next (setWb s cl k (fun w => { w with status := 4, phase := .stageOut })))) ∧
    (let y := chooseSector s w
     live → w.fid = none → w.failed = false → nextCopy cl y.2 = some (src, dst) → copySector y.1 cl k y.2 src dst = some u →
      exec (.copySector cl k) s = .next u) ∧
    (live → (w.phase = .copying ∨ w.phase = .stageOut) → w.todo = [] → w.cur = none → w.fid = none →
      let w2 := { w with phase := .finished, failed := false }
      let t := setWb s cl k (fun _ => w2)
      let t := if 2 ^ 64 ≤ w.num then t else t.modCtx w.cid (fun c =>
        { c with wbDone := (tset c.wbDone w.num w.status).filter (fun e => decide (c.wbNext ≤ e.1 + 4096)) })
      exec (.waybillRetire cl k) s = .next (stampWb t cl k w2)) ∧
    (live → w.phase = .finished → exec (.waybillRetire cl k) s = .next (stampWb s cl k w)) ∧
    (cl < 64 → frameDue c = true → exec (.frameEntryAdvance cl) s = .next (s.setCluster cl (frameNext c)) ∧
      (∀ j, frameFrom c.frame (c.idx + 1) = some j → (frameNext c).frame = c.frame ∧ (frameNext c).idx = j ∧
        (frameNext c).left = ((c.frame.getD j 0).extractLsb' 0 32).toNat) ∧
      (frameFrom c.frame (c.idx + 1) = none → (frameNext c).frame = c.written)) ∧
    (∃ t, exec (.clusterCacheEviction cl sec) s = .next t ∧ tfind (t.cluster cl).cache sec = none ∧
      (∀ a, a ≠ sec → tfind (t.cluster cl).cache a = tfind c.cache a) ∧ { t with clusters := s.clusters } = s)

/-- R441 to R443, R458, R468, R477, R478, R506, with what a reset leaves as log entry 21 says: the commands that form, reset and dissolve
partitions and virtual devices, assign contexts and banks, power tiles and set frame tables, each where its record is well-formed and what it
names is there. That VDDESTROY kills at the boundary and goes on in later turns until nothing is left is log entries 42 and 50. -/
def Obligations.PartitionCommands : Prop :=
  ∀ (s : State) (pa : Nat) (c : Cmd) (l : Bytes) (low part cl v t rec_ : Nat),
    let m := BitVec.ofNat 16 c.a1
    let only := c.a2 = 0 ∧ c.a3 = 0
    let goes := fun (i : Instr) (u : State) (n : Nat) => exec i s = .next (cmdDone u pa n)
    (cmdReads s pa c → c.code = 1 → 0 < c.a1 → c.a1 < 2 ^ 16 → only →
      ((∀ e ∈ s.hub.parts, e.2 &&& m = 0) → low < 16 → m.getLsbD low = true → (∀ g, g < low → m.getLsbD g = false) →
        goes (.pcreate pa) { s with hub := { s.hub with parts := tset s.hub.parts low m } } 1) ∧
      ((∃ e ∈ s.hub.parts, e.2 &&& m ≠ 0) → goes (.pcreate pa) s 4)) ∧
    (cmdReads s pa c → c.code = 2 → c.a1 < 16 → only →
      (partExists s c.a1 = true → goes (.preset pa) (partitionReset s c.a1) 1) ∧ (partExists s c.a1 = false → goes (.preset pa) s 5)) ∧
    (partExists s part = true → exec (.partitionReset part) s = .next (partitionReset s part)) ∧
    (let r := partitionReset s part
     let inside := fun (g : Nat) => granuleIn (partMask s part) g = true
     (∀ cid, inside (clusterGranule (ctxCluster cid)) → (r.ctx cid).run = .stopped ∧ (r.ctx cid).secs = [] ∧ (r.ctx cid).wait = .none) ∧
     (∀ pl, inside (tileGranule (planeTile pl)) → r.plane? pl = none) ∧
     (∀ cid, ¬ inside (clusterGranule (ctxCluster cid)) → r.ctx cid = s.ctx cid) ∧
     (∀ pl, ¬ inside (tileGranule (planeTile pl)) → r.plane? pl = s.plane? pl)) ∧
    (cmdReads s pa c → c.code = 3 → c.a1 < 16 → only → partExists s c.a1 = true →
      (vdsOf s c.a1 = [] → ∃ u, goes (.pdestroy pa) u 1 ∧ partExists u c.a1 = false ∧
        (∀ g, g < 16 → (partMask s c.a1).getLsbD g = true → ∀ a, g * granBytes ≤ a → a < (g + 1) * granBytes → mread u.mem a = 0) ∧
        (∀ tile, granuleIn (partMask s c.a1) (tileGranule tile) = true → u.powerOf tile = .gated)) ∧
      (vdsOf s c.a1 ≠ [] → goes (.pdestroy pa) s 2)) ∧
    (let k := 16 * bits c.a1 0 4 + bits c.a1 4 4
     cmdReads s pa c → c.code = 4 → c.a1 < 256 → c.a3 = 0 → c.a2 % 128 = 0 → partExists s (bits c.a1 0 4) = true → s.vd? k = none →
      devRead s c.a2 0 128 = some l → descOk s (bits c.a1 0 4) l (vdOf l) = true →
      goes (.vdcreate pa) (devWrite (s.setVd k (vdOf l)) (vdOf l).fqbase 0 (zerosB 128)) 1) ∧
    (let k := 16 * bits c.a1 0 4 + bits c.a1 4 4
     let t := abortStrays ((ctxsOf s k).foldl (fun s c => if mayStop (s.ctx c) then killCtx s c else s) s) k
     let left := (ctxsOf t k).any (fun c => (t.ctx c).run == .running) || t.planes.any (fun e => e.2.vd == k)
     cmdReads s pa c → c.code = 5 → c.a1 < 256 → only → partExists s (k / 16) = true → s.vd? k ≠ none →
      (left = true → exec (.vddestroy pa) s = .next (cmdEnds pa (t, .more))) ∧
      (left = false → ∃ u, goes (.vddestroy pa) u 1 ∧ u.vd? k = none ∧ (∀ cid, (u.ctx cid).vd ≠ some k) ∧ (∀ e ∈ u.hub.tlb, e.vd ≠ k) ∧
        ∀ e ∈ u.hub.slots, e.2.vd = k → e.2.kind ≠ .vdkey ∧ e.2.kind ≠ .evict)) ∧
    (let ids := (bitsSet 8 (bits c.a1 6 8)).map (fun i => 8 * bits c.a1 0 6 + i)
     cmdReads s pa c → c.code = 6 → c.a1 < 2 ^ 19 → only → clusterVd s (bits c.a1 0 6) (bits c.a1 14 4) = some v →
      (∀ i ∈ ids, (s.ctx i).run = .stopped) →
      (c.a1.testBit 18 = false → goes (.ctxassign pa) (ids.foldl (fun s i => s.modCtx i (fun x => { x with vd := some v })) s) 1) ∧
      (c.a1.testBit 18 = true → goes (.ctxassign pa)
        (ids.foldl (fun s i => if (s.ctx i).vd = some v then s.modCtx i (fun x => { x with vd := none }) else s) s) 1)) ∧
    (let ids := bitsSet 16 (bits c.a1 6 16)
     cl = bits c.a1 0 6 → cmdReads s pa c → c.code = 7 → c.a1 < 2 ^ 27 → only → clusterVd s cl (bits c.a1 22 4) = some v →
      (∀ b ∈ ids, s.hub.retiredBanks.contains (16 * cl + b) = false ∧ stagesIn s cl b = false ∧ feedsAgen s cl b = false ∧
        bankInUse s cl b = false) →
      let own := fun (x : Bank) => if c.a1.testBit 26 then (if x.owner = some v then none else x.owner) else some v
      goes (.bankassign pa) (ids.foldl (fun s b => match (s.cluster cl).banks[b]? with
        | none => s
        | some x =>
          if own x = x.owner then s
          else (setBankMode s cl b .cache).modCluster cl (fun y => { y with banks := y.banks.modify b (fun z => { z with owner := own x }) })) s) 1) ∧
    (cmdReads s pa c → c.code = 8 → c.a1 < 2 ^ 22 → only → tileAt s (bits c.a1 0 10) (bits c.a1 10 10) = some t →
      partOf s (tileGranule t) ≠ none → t ∉ s.hub.retiredTiles → s.hub.cmd = none →
      (bits c.a1 20 2 = 0 → s.powerOf t = .gated →
        exec (.tpower pa) s = .next (cmdEnds pa (s.setPower t (.up pa), .more))) ∧
      (bits c.a1 20 2 = 0 → (s.powerOf t = .on ∨ s.powerOf t = .clockGated) → goes (.tpower pa) (wakeTile s t) 1) ∧
      (bits c.a1 20 2 = 2 → tilePlanes s t ≠ [] → goes (.tpower pa) s 2) ∧
      (bits c.a1 20 2 = 2 → tilePlanes s t = [] → s.powerOf t = .gated → goes (.tpower pa) s 1) ∧
      (bits c.a1 20 2 = 2 → tilePlanes s t = [] → (s.powerOf t = .on ∨ s.powerOf t = .clockGated) →
        exec (.tpower pa) s = .next (cmdEnds pa (s.setPower t (.down pa), .more)))) ∧
    ((s.powerOf t = .up rec_ → s.hub.hot = [] → exec (.tpowerDone t) s = .next (cmdDone (s.setPower t .on) rec_ 1)) ∧
      (s.powerOf t = .down rec_ → exec (.tpowerDone t) s = .next (cmdDone { s with power := tdel s.power t } rec_ 1))) ∧
    (let f := (List.range 16).map (fun i => BitVec.ofNat 64 (numAt l (8 * i) 8))
     cmdReads s pa c → c.code = 0x10 → c.a1 < 64 → c.a3 = 0 → c.a2 % 128 = 0 → partOf s (clusterGranule (bits c.a1 0 6)) ≠ none →
      devRead s c.a2 0 128 = some l → (∀ e ∈ f, e.toNat < 2 ^ 34) →
      goes (.frameset pa) (s.modCluster (bits c.a1 0 6) (fun x => x.writeFrame f)) 1)

/-- R469 to R474, R486: the commands that stop, start, migrate and checkpoint, with what a destination takes up. The model's choices: that an
image starts with sector 0 of HBM4 at its address (log entry 25), the status of commands out of turn (43), that a command goes on in later
turns (50), a migration's own shoot-downs and how a state comes (24), and the answers to slot records (83). -/
def Obligations.MigrationCommands : Prop :=
  ∀ (s s1 u : State) (pa : Nat) (c : Cmd) (e : CmdEnd) (x : Vd) (rs : List Region) (y : Checkpoint) (vd k n base len : Nat) (rc : Bytes)
    (m : MigState) (d : Nat × Nat) (maps : List (Nat × Nat × Nat)) (key : Bytes) (z : Memory) (a : Access) (puts : List Access),
    let v := cmdVd c
    let only := c.a2 = 0 ∧ c.a3 = 0
    let known := c.a1 < 256 ∧ vdKnown s v = true ∧ s.vd? v = some x
    let fresh := s.hub.cmd ≠ some pa
    let again := s.hub.cmd = some pa
    (cmdReads s pa c → c.code = 9 → known → fresh → x.stop = none → c.a2 % 64 = 0 →
      checkArea s (vdCluster s v) v c.a2 c.a3 = (s1, .ok maps) →
      stopStep (s1.modVd v (fun x => { x with stop := some (c.a2, c.a3), stopMaps := maps })) v c.a2 c.a3 = (u, e) →
      exec (.vdstop pa) s = .next (cmdEnds pa (u, e))) ∧
    (s.hub.cmdPuts = a :: puts →
      let t := performAll { s with hub := { s.hub with cmdPuts := puts } } .hub v [a]
      stopStep s v base len = if puts = [] then (t.modVd v (fun x => { x with stopped := true, stopMaps := [] }), .status 1) else (t, .more)) ∧
    (cmdReads s pa c → c.code = 0x0A → known → only → x.stop = some (base, len) → x.stopped = true →
      readArea (vreader (.cmd (vdCluster s v)) v) s base len = (s1, .pause) → exec (.vdstart pa) s = .next (cmdEnds pa (s1, .more))) ∧
    (cmdReads s pa c → c.code = 0x0A → known → only → x.stop = some (base, len) → x.stopped = true →
      readArea (vreader (.cmd (vdCluster s v)) v) s base len = (s1, .ok (some rs)) → (∀ r ∈ rs, (s.ctx r.cid).vd = some v) →
      restoreAll s Region.cid rs = (u, none) →
      exec (.vdstart pa) s = .next (cmdDone ((fwGo u v).modVd v (fun x => { x with stop := none, stopped := false })) pa 1)) ∧
    (let dest := (bits c.a2 0 4 + 16 * bits c.a2 4 4, 16 * bits c.a2 8 4 + bits c.a2 12 4)
     let t := { s with free := s.free + 1 }
     cmdReads s pa c → c.code = 0x0B → known → c.a2 < 2 ^ 16 → c.a3 = 0 →
      (fresh → dest.1 = s.posN → vdKnown s dest.2 = true → heldSlots s x = [] → exec (.migbegin pa) s =
        .next (cmdEnds pa ((startLogging t v x).modVd v (fun x => { x with migDest := some dest }), .more))) ∧
      (again → ownShoots x = true → exec (.migbegin pa) s = .next (cmdEnds pa (s, .more))) ∧
      (again → ownShoots x = false → exec (.migbegin pa) s =
        .next (cmdDone ((leaves s x).foldl (fun t l => carryPage t v dest l) s) pa 1))) ∧
    (cmdReads s pa c → c.code = 0x0C → known → only → x.migDest = some d →
      (fresh → exec (.migpass pa) s = .next (cmdEnds pa (passBegin s v x, .more))) ∧
      (again → ownShoots x = true → exec (.migpass pa) s = .next (cmdEnds pa (s, .more))) ∧
      (again → passEnd s v x d = some (u, n) → exec (.migpass pa) s = .next (cmdEnds pa (u, .res 1 n)))) ∧
    (cmdReads s pa c → c.code = 0x0D → known → x.migDest = some d → ¬ (again ∧ x.stopped = true) →
      stopVd s pa v c.a2 c.a3 = (s1, e) →
      ((∀ n, e = .status n → n ≠ 1) → exec (.migfinal pa) s = .next (cmdEnds pa (s1, e))) ∧
      (e = .status 1 → exec (.migfinal pa) s = .next (cmdEnds pa (finalStep s1 v d)))) ∧
    (cmdReads s pa c → c.code = 0x0D → known → x.migDest = some d → again → x.stopped = true →
      let quiet := ∀ i ∈ ctxsOf s v, (s.ctx i).unack = []
      let t := (ctxsOf s v).foldl releaseCtxStrands s
      let st := migState u v x
      (x.migTodo = none → exec (.migfinal pa) s = .next (cmdEnds pa (passBegin s v x, .more))) ∧
      (x.migTodo ≠ none → quiet → strandsDone t v = false → exec (.migfinal pa) s = .next (cmdEnds pa (t, .more))) ∧
      (x.migTodo ≠ none → quiet → strandsDone t v = true → passEnd t v x d = some (u, n) → exec (.migfinal pa) s = .next (cmdEnds pa
        (if d.1 = u.posN then { u with hub := { u.hub with inbox := u.hub.inbox ++ [st] } } else u.emit (.migState st), .res 1 n)))) ∧
    (cmdReads s pa c → c.code = 0x0E → ckptFormOk c = true → (∀ e ∈ s.hub.vds, e.2.stopped = true) →
      (∀ e ∈ s.hub.slots, e.2.kind = .operand ∨ e.2.kind = .session → (e.2.policy.getD 5 0).getLsbD 1 = false) →
      let f := s.hub.fused
      ∃ t z, exec (.chkpt pa) s = .next (cmdDone t pa 1) ∧ t.hub.ckpt = s.hub.ckpt ++ [z] ∧ z.kind = ckptKind c ∧ z.addr = c.a2 ∧
        z.mem = t.mem ∧ z.ctxs = s.ctxs ∧ z.vds = s.hub.vds ∧ z.slots = s.hub.slots ∧ z.parts = s.hub.parts ∧ z.tags = s.tags ∧
        (s.mem.wf = true → ∀ o, o < f.rsvBase ∨ (f.rsvBase + 8 ≤ o ∧ f.rsvBase + f.rsvBytes ≤ o) → mread t.mem o = mread s.mem o) ∧
        t.cmem = (if ckptKind c = 0 then ckptImage t c.a2 hbmSectors s.cmem else s.cmem) ∧
        (ckptKind c = 1 → t.out = s.out ++ [.checkpoint c.a2 (ckptImage t 0 hbmSectors [])])) ∧
    (cmdReads s pa c → c.code = 0x0F → ckptFormOk c = true → (∀ e ∈ s.hub.vds, e.2.stopped = true) →
      let image := if ckptKind c = 0 then (s, findImage s c.a2 s.hub.ckpt 0) else peerImage s
      (image = (s1, none) → exec (.chkload pa) s = .next (cmdDone s pa 6)) ∧
      (image = (s1, some (y, z)) → ∃ t, exec (.chkload pa) s = .next (cmdDone t pa 1) ∧ t.mem = z ∧ t.tags = y.tags ∧ t.ctxs = y.ctxs ∧
        t.hub.vds = y.vds ∧ t.hub.slots = y.slots ∧ t.hub.parts = y.parts ∧ t.planes = [] ∧ t.hub.tlb = [])) ∧
    (let kind := match numAt rc 2 1 with | 1 => SlotKind.vdkey | 2 => .operand | 3 => .session | 4 => .evict | _ => .free
     let j := numAt rc 0 2
     s.vd? vd = some x → transferZeros rc = true → rc.length = 1024 → j ≠ 0 → x.ksbase ≤ j → j < x.ksbase + x.kscnt →
      ((s.slot j).kind ≠ .free → exec (.slotTransferRecord vd rc) s = .next (s.emit (.mgmt 4 []))) ∧
      ((s.slot j).kind = .free →
        oaepDecrypt s.hub.fused.wrapN s.hub.fused.wrapD (rc.take 576) (numAt rc 576 384) = some key →
        ∃ z t, exec (.slotTransferRecord vd rc) s = .next (t.emit (.mgmt 1 [])) ∧ t = s.setSlot j z ∧ z.kind = kind ∧ z.vd = vd ∧
          z.key = BitVec.ofNat 256 (ofBytesLE key) ∧ z.ctr = numAt rc 8 8 ∧ z.sid = numAt rc 4 4)) ∧
    (s.vd? vd = some x → transferAll vd x ((rc.length + 1023) / 1024) rc s = .inr n →
      exec (.slotTransferRecord vd rc) s = .next (s.emit (.mgmt (BitVec.ofNat 8 n) []))) ∧
    (s.vd? vd = some x → s.hub.inbox[k]? = some m → ∃ t ms, exec (.migrationStateTransfer vd k) s = .next t ∧
      t.vd? vd = some { x with evicted := m.evicted, models := ms, stop := m.stop, stopped := true } ∧
      ms.map (fun x => (x.base, x.owner, x.libs, x.slot, x.retiring)) = m.models.map (fun x => (x.base, x.owner, x.libs, x.slot, x.retiring)) ∧
      t.hub.inbox = s.hub.inbox.eraseIdx k ∧ (m.pages = [] → t.mem = s.mem))

/-- R434, R435, R444 to R446, R453, R454, R456, R459, R482, R509 to R511, R515 to R518: the control page of a virtual device, bring-up, the
companion, the board links, temperatures and management messages. The model's choices: when a shoot-down is complete (log entry 48), when the
hub page opens and which links train (51), that the package is hot until every junction reads less than 95 degrees at one time (52), the
answers of RETCLEAR and EVREAD and when the hub is busy (53), what a cold reset keeps (54), the fault beyond HBM4 (59), the pieces of an
access (68) and that CONTEXT_START waits for a context's strands (106). -/
def Obligations.ControlAndWorld : Prop :=
  ∀ (s : State) (u : State) (vd pa fid cid pl : Nat) (l : Bytes) (v : Vd) (x : Shoot) (xs : List Shoot) (rc : Bytes) (recs : List Bytes) (w : BitVec 64)
    (va : Word) (xd : XReg) (st off len : Nat) (link : Fin 16) (peer : LinkPeer) (img : BootImage) (die : Fin 5) (temp : BitVec 8)
    (data req : Bytes) (pos : BitVec 8) (fwms : List (BitVec 256)) (mask : BitVec 16) (ctr : BitVec 32) (tx ty b : BitVec 16)
    (t cl num : Nat),
    let w0 := numAt l 0 8
    let at_ := 8 * bits w0 10 6 + bits w0 7 3
    let done := fun (s : State) (d : Bytes) => s.emit (.mgmt 0 d)
    let lk := s.link link.val
    let draws := { s with free := s.free + 1 }
    let acted := fun (t : State) (n : Nat) => Host.Outcome.next (putStatus (leaveStart t vd pa) pa n)
    (recordReads s vd pa u l → bits w0 0 2 = 1 → numAt l 8 8 % 64 = 0 → (u.ctx at_).vd = some vd →
      ((u.ctx at_).run ≠ .stopped → exec (.contextStart vd pa) s = acted u 2) ∧
      ((u.ctx at_).run = .stopped → ctxStrandsDone u at_ = true →
        exec (.contextStart vd pa) s = acted (startCtx u at_ (numAt l 8 8) (numAt l 16 8)) 1) ∧
      (let c := (startCtx u at_ (numAt l 8 8) (numAt l 16 8)).ctx at_
       c.run = .running ∧ c.pc = BitVec.ofNat 64 (numAt l 8 8) ∧ c.pl = super ∧ c.getX 2 = BitVec.ofNat 64 (numAt l 16 8) ∧
        ∀ r : XReg, r ≠ 2 → c.getX r = 0)) ∧
    (recordReads s vd pa u l → bits w0 0 2 = 2 → (u.ctx at_).vd = some vd →
      (mayStop (u.ctx at_) = true → exec (.contextKill vd pa) s = acted (killCtx u at_) 5) ∧
      (mayStop (u.ctx at_) = false → exec (.contextKill vd pa) s = .next u)) ∧
    (s.vd? vd = some v → tfind v.fids fid = some (.ctx cid) → (s.ctx cid).wait = .stall fid va none →
      (∃ t, exec (.faultResolve vd fid) s = .next t ∧ t.ctx cid = { s.ctx cid with wait := .none }) ∧
      exec (.faultFail vd fid) s = .next (takeTrap (dropFid s vd fid) cid 4 false va (s.ctx cid).pc)) ∧
    (s.vd? vd = some v → tfind v.fids fid = some (.ctx cid) → (s.ctx cid).wait = .stall fid va (some (xd, st)) →
      exec (.faultFail vd fid) s = .next (doneX (dropFid s vd fid) cid xd (BitVec.ofNat 64 st))) ∧
    (s.vd? vd = some v → tfind v.fids fid = some (.plane pl) →
      exec (.faultResolve vd fid) s = .next ((dropFid s vd fid).modPlane pl (fun p =>
        { p with fault := p.fault.map (fun f => if f.fid = fid then { f with retry := true } else f) })) ∧
      exec (.faultFail vd fid) s = .next ((dropFid s vd fid).modPlane pl (fun p =>
        { p with fault := p.fault.map (fun f => if f.fid = fid then { f with failed := true } else f) }))) ∧
    (s.vd? vd = some v → tfind v.fids fid = some (.copy cl num) →
      exec (.faultResolve vd fid) s = .next (answerWb (dropFid s vd fid) cl vd fid false) ∧
      exec (.faultFail vd fid) s = .next (answerWb (dropFid s vd fid) cl vd fid true)) ∧
    (s.vd? vd = some v → tfind v.fids fid = some (.wport pl) →
      exec (.faultResolve vd fid) s = .next ((dropFid s vd fid).modPlane pl (fun p => { p with wfault := p.wfault.filter (fun f => f.fid != fid) })) ∧
      exec (.faultFail vd fid) s = .next ((dropFid s vd fid).modPlane pl (fun p =>
        { p with wfault := p.wfault.map (fun f => if f.fid = fid then { f with failed := true } else f) }))) ∧
    (let sz := bits w.toNat 6 6
     let lo := if sz = 63 then 0 else w.toNat / 2 ^ sz * 2 ^ sz
     let hi := if sz = 63 then 2 ^ 64 else lo + 2 ^ sz
     s.vd? vd = some v → bits w.toNat 0 6 = 0 → ((12 ≤ sz ∧ sz ≤ 57) ∨ sz = 63) →
      ∃ t y, exec (.shootdownRequest vd w) s = .next t ∧ y.lo = lo ∧ y.hi = hi ∧
        t.vd? vd = some { v with sdReq := v.sdReq + 1, shoots := v.shoots ++ [y] } ∧
        t.hub.tlb = s.hub.tlb.filter (fun t => !(t.vd == vd && tlbIn t lo hi))) ∧
    (s.vd? vd = some v → v.shoots = x :: xs → x.planes = [] →
      (∀ e ∈ s.planes, e.2.vd = vd → e.2.restream = false → ∀ a ∈ e.2.stream, accIn x.frames a = false) →
      (∀ k ∈ x.pkts, k ∉ sentFx s vd x.frames) → mapsIn x.lo x.hi v.stopMaps = false →
      (∀ e ∈ s.ctxs, e.2.vd = some vd → cutUses x.lo x.hi e.2 = false ∧ ∀ a ∈ e.2.puts, inFrames x.frames a.sector = false) →
      (∀ a ∈ s.hub.cmdPuts ++ s.hub.svcPuts, inFrames x.frames a.sector = false) →
      exec (.shootdownComplete vd) s =
        .next (s.setVd vd { v with sdDone := v.sdDone + (if x.own then 0 else 1), shoots := xs })) ∧
    (s.vd? vd = some v → v.fqHeld = rc :: recs → recSlots rc ≤ fqFree s v →
      exec (.faultRecordHeldWrite vd) s = .next (fqWrite s vd { v with fqHeld := recs } rc)) ∧
    (∃ r, exec (.coldReset img) s = .next r ∧ r.planes = [] ∧ r.ctxs = [] ∧ r.mem = [] ∧ r.power = [] ∧ r.net = [] ∧ r.hub.parts = [] ∧
      r.hub.vds = [] ∧ r.hub.pos = s.hub.posNext.getD 0 ∧ r.hub.hctr = s.hub.hctr ∧
      (let u := s.hub.fused
       let ok := digest (bytesLE 384 img.modulus) = u.fwKey ∧ pssVerify img.modulus img.bytes img.sig = true ∧ u.minSvn ≤ img.svn
       (ok → r.hub.fwm = digest img.bytes ∧ r.hub.svn = img.svn ∧ r.hub.booted = true) ∧
       (¬ ok → r.hub.fwm = 0 ∧ r.hub.up = false ∧ r.hub.booted = false))) ∧
    (s.hub.booted = false → ∀ i ∈ [Instr.linkTrained link, .linkAuthDone link peer, .thermalAlarm die temp, .posset pos, .podpol fwms, .lnktrain mask,
        .evread ctr, .retclear true tx ty b, .retclear false tx ty b, .temprd, .spdmAttestation req], exec i s = .next s) ∧
    (s.hub.booted = true → lk.st = 1 → exec (.linkTrained link) s = .next (setLink s link.val { lk with st := 2 })) ∧
    (s.hub.booted = true → lk.st = 2 → exec (.linkAuthDone link peer) s = .next (openHub (setLink s link.val
      (if peer.chainOk = true ∧ peer.fwm ∈ lk.policy ∧ peer.pos = expectedPeer s.hub.pos link.val then { lk with st := 3, peer := peer.pos }
       else { lk with st := 4 })))) ∧
    (lk.st = 3 → exec (.linkDown link) s = .next (setLink s link.val { lk with st := 0, peer := 0 })) ∧
    (lk.st = 3 → ∃ f, (f = lk.fails + 1 ∨ f = 1) ∧ exec (.linkTagFail link) s = .next (setLink draws link.val
      { lk with errs := min (lk.errs + 1) (2 ^ 32 - 1), fails := f, st := if 3 ≤ f then 4 else 3 })) ∧
    (s.hub.booted = true → 105 < temp.toNat → exec (.thermalAlarm die temp) s = .next (addLog s 6 0 0 0 temp.toNat)) ∧
    (115 ≤ temp.toNat → ∃ r, exec (.thermalTrip die temp) s = .next r ∧ (∀ t a, r.powerOf t ≠ .on ∧ r.powerOf t ≠ .clockGated ∧ r.powerOf t ≠ .up a) ∧
      die.val ∈ r.hub.hot) ∧
    (axanoUp s = true → off + len ≤ hbmBytes →
      let k := min (32 - off % 32) len
      let o := off / 32 * 32
      let t := correct (touchLine draws o) o
      let t := if unitLocked s off then draws else { t with dir := (t.dir ++ [off / 128]).eraseDups }
      ∃ d, exec (.companionRead off len) s = .next (thenRest (len - k) (.companionRead (off + k) (len - k))
        ((logLocked t off k len).emit (.companionData d))) ∧ d.length = k ∧ (unitLocked s off = true → d = List.replicate k 0xFF) ∧
        (unitLocked s off = false → off / 32 * 32 ∉ s.bad → d = mreadBytes s.mem off k)) ∧
    (axanoUp s = true → off + data.length ≤ hbmBytes →
      let k := min (32 - off % 32) data.length
      let t := if unitLocked s off ∨ k = 0 then s else companionPut s off (data.take k)
      exec (.companionWrite off data) s = .next (thenRest (data.length - k) (.companionWrite (off + k) (data.drop k))
        (logLocked t off k data.length))) ∧
    (axanoUp s = true → hbmBytes < off + len → exec (.companionRead off len) s = .fault (.noMemory off)) ∧
    (s.hub.booted = true → ∃ r, exec (.posset pos) s = .next (done r []) ∧ r.hub.posNext = some pos ∧ r.hub.pos = s.hub.pos) ∧
    (s.hub.booted = true → fwms ≠ [] → fwms.length ≤ 4 → ∃ r, exec (.podpol fwms) s = .next (done r []) ∧ r.hub.policy = some fwms) ∧
    (s.hub.booted = true → exec (.lnktrain mask) s = .next (done ((bitsSet 16 mask.toNat).foldl trainLink s) [])) ∧
    (s.hub.booted = true → exec (.evread ctr) s = .next (done s (((s.hub.log.filter (fun e => decide (ctr.toNat ≤ (e.extractLsb' 64 32).toNat))).take 16).flatMap
      (fun e => bytesLE 16 e.toNat)))) ∧
    (s.hub.booted = true → tileAt s tx.toNat ty.toNat = some t → t ∈ s.hub.retiredTiles → ∃ r, exec (.retclear false tx ty b) s = .next (done r []) ∧ t ∈ r.hub.retclear) ∧
    (s.hub.booted = true → tileAt s tx.toNat ty.toNat = some t → b.toNat < 16 → 16 * tileCluster t + b.toNat ∈ s.hub.retiredBanks →
      ∃ r, exec (.retclear true tx ty b) s = .next (done r []) ∧ 2048 + (16 * tileCluster t + b.toNat) ∈ r.hub.retclear) ∧
    (s.hub.booted = true → ∃ d, d.length = 5 ∧ exec .temprd s = .next (done draws d)) ∧
    (s.hub.booted = true → ∃ d, exec (.spdmAttestation req) s = .next (draws.emit (.spdm d))) ∧
    (s.hub.booted = true → hearMessage s 5 req = .spdm s req ∧ (∀ y, y ≠ 5 → y ≠ 127 → hearMessage s y req = .ended s) ∧
      (hearMessage s 127 req = .ended (draws.emit (.mgmt 1 [])) ∨
        (messageInstr req = none ∧ hearMessage s 127 req = .ended (draws.emit (.mgmt 2 []))) ∨
        (∃ i, messageInstr req = some i ∧ hearMessage s 127 req = .run draws i))) ∧
    (messageInstr [1, pos] = some (.posset pos) ∧ messageInstr (3 :: bytesLE 2 mask.toNat) = some (.lnktrain mask) ∧
      messageInstr (4 :: bytesLE 4 ctr.toNat) = some (.evread ctr) ∧ messageInstr [6] = some .temprd ∧
      (1 ≤ fwms.length → fwms.length ≤ 4 → messageInstr (2 :: BitVec.ofNat 8 fwms.length :: fwms.flatMap (fun d => bytesLE 32 d.toNat)) =
        some (.podpol fwms)) ∧
      (∀ k : Bool, messageInstr (5 :: BitVec.ofNat 8 k.toNat :: (bytesLE 2 tx.toNat ++ bytesLE 2 ty.toNat ++ bytesLE 2 b.toNat)) =
        some (.retclear k tx ty b)) ∧
      ∀ (c : Byte) (d : Bytes), (c = 0 ∨ 6 < c.toNat) → messageInstr (c :: d) = none)

/-- R374 to R377, R438, R485, R493, R506, R508: the services on KV pages, key slots, confidential memory, hallmarks and handlers: what each
does where its block is well-formed, and the status it gives where what it names is taken or not there; one sector is read or written in a
turn (R294). The model's choices: the status of a slot that is not FREE and others without a rule (log entry 44), HCTR before its rise (46),
the companion's window (47). -/
def Obligations.ServicesOnKeys : Prop :=
  ∀ (s u w : State) (r : FwReq) (vd : Nat) (v : Vd) (l pg img : Bytes) (ps : List (Nat × Nat)),
    let n := numAt l 0 8
    let drawn := fun (t : State) => { t with free := t.free + 1 }
    (∀ t, serviceTurns .vdkey s 0x8005 16 r t vd v ∧ serviceTurns .evkey s 0x8009 8 r t vd v ∧ serviceTurns .conflock s 0x8006 16 r t vd v ∧
      serviceTurns .conffree s 0x8008 24 r t vd v ∧ serviceTurns .kvevict s 0x0120 64 r t vd v ∧ serviceTurns .kvpromote s 0x0121 64 r t vd v ∧
      serviceTurns .hallmark s 0x0100 40 r t vd v ∧ serviceTurns .usage s 0x0140 40 r t vd v ∧ serviceTurns .hinstall s 0x8007 16 r t vd v) ∧
    (served s 0x8005 r 16 u vd v l → numAt l 8 8 < 2 →
      (slotFree u v n = true → (numAt l 8 8 = 1 → v.conf = true) → ∃ k, answers .vdkey s r
        ((drawn u).setSlot n { kind := .vdkey, key := k, vd := vd, conf := numAt l 8 8 == 1 }, 0)) ∧
      (slotFree u v n = false → answers .vdkey s r (u, 4))) ∧
    (served s 0x8009 r 8 u vd v l →
      (slotFree u v n = true → ∃ k, answers .evkey s r ((drawn u).setSlot n { kind := .evict, key := k, vd := vd }, 0)) ∧
      (slotFree u v n = false → answers .evkey s r (u, 4))) ∧
    (let us := blockUnits l
     served s 0x8006 r 16 u vd v l → n % unitBytes = 0 → unitsInVd u v l = true →
      (us.all (unitOpen u) = true → wbTouches u vd v us = false → ∃ z, answers .conflock s r (z, 0) ∧
        (∀ k ∈ us, lockOf z k = (lockWord 1 vd).toNat) ∧ (∀ k, k ∉ us → lockOf z k = lockOf u k) ∧
        (∀ a, a / unitBytes ∈ us → mread z.mem a = 0) ∧ (u.mem.wf = true → ∀ a, a / unitBytes ∉ us → mread z.mem a = mread u.mem a)) ∧
      (us.all (unitOpen u) = false → answers .conflock s r (u, 12)) ∧
      (us.all (unitOpen u) = true → wbTouches u vd v us = true → answers .conflock s r (u, 1))) ∧
    (let us := blockUnits l
     let k := numAt l 16 8
     served s 0x8008 r 24 u vd v l → n % unitBytes = 0 → unitsInVd u v l = true →
      us.all (fun x => lockOf u x == (lockWord 1 vd).toNat) = true →
      (k = 0 ∨ (slotInRange v k = true ∧ (u.slot k).kind = .vdkey ∧ (u.slot k).vd = vd)) → wbTouches u vd v us = false →
      ∃ z, answers .conffree s r (z, 0) ∧ (∀ x ∈ us, lockOf z x = 0) ∧ (∀ a, a / unitBytes ∈ us → mread z.mem a = 0) ∧
        (k ≠ 0 → (z.slot k).kind = .free) ∧ (∀ j, j ≠ k → z.slot j = u.slot j)) ∧
    (let dev := numAt l 0 8
     let comp := numAt l 8 8
     let slot := bits (numAt l 16 2) 0 12
     let x := w.slot slot
     dev % 32768 = 0 → comp % 64 = 0 → numAt l 16 48 < 2 ^ 12 → rawPages u v dev 32768 = some ps → slotInRange v slot = true →
      (u.slot slot).kind = .evict → (u.slot slot).vd = vd → (∀ p ∈ ps, eOpo p.2 = false) →
      (served s 0x0120 r 64 u vd v l → wbMeets u vd dev (dev + 32768) true = false → v.evicted.length < 1048576 →
        hread u r.cid vd dev 32768 = (w, .ok pg) →
        let nonce := evictNonce vd slot x.ctr
        let c := gcmCrypt x.key nonce pg
        let aad := evictAad vd slot x.ctr
        ∃ z, answers .kvevict s r (z, 0) ∧ z.cmem = mwriteBytes w.cmem comp (c ++ gcmTag x.key nonce aad c ++ aad ++ zerosB 32) ∧
          z.mem = w.mem ∧ z.slot slot = { x with ctr := x.ctr + 1 } ∧
          (∀ y, w.vd? vd = some y → z.vd? vd = some { y with evicted := y.evicted ++ [(slot, x.ctr)] })) ∧
      (served s 0x0120 r 64 u vd v l → wbMeets u vd dev (dev + 32768) true = true → answers .kvevict s r (u, 1)) ∧
      (let blob := mreadBytes u.cmem comp 32832
       let ctr := numAt blob 32784 8
       let key := (u.slot slot).key
       let nonce := evictNonce vd slot ctr
       served s 0x0121 r 64 u vd v l → wbMeets u vd dev (dev + 32768) false = false → bits (numAt blob 32792 8) 16 48 = 0 →
        numAt blob 32800 32 = 0 →
        ((slot, ctr) ∉ v.evicted → answers .kvpromote s r (u, 6)) ∧
        ((slot, ctr) ∈ v.evicted → bits (numAt blob 32792 2) 12 4 = vd % 16 →
          (gcmTag key nonce (byteSlice blob 32784 16) (blob.take 32768) ≠ byteSlice blob 32768 16 →
            answers .kvpromote s r (addLog u 7 0 0 0 0, 5)) ∧
          (gcmTag key nonce (byteSlice blob 32784 16) (blob.take 32768) = byteSlice blob 32768 16 →
            outputs u u r vd dev (gcmCrypt key nonce (blob.take 32768)) w →
            answers .kvpromote s r (w.modVd vd (fun y => { y with evicted := y.evicted.erase (slot, ctr) }), 0))))) ∧
    (let buf := numAt l 32 8
     ∀ kind i, (kind = 1 ∧ served s 0x0100 r 40 u vd v l ∧ i = Instr.hallmark) ∨ (kind = 2 ∧ served s 0x0140 r 40 u vd v l ∧ i = .usage) →
      buf % 64 = 0 →
      let body := hallmarkBody u vd v kind (l.take 32)
      let t := drawn u
      ∃ salt, ∀ w, outputs t { t with hub := { t.hub with hctr := t.hub.hctr + 1 } } r vd buf
          (body ++ bytesLE 384 (pssSign u.hub.fused.signN u.hub.fused.signD salt body) ++ zerosB 128) w →
        answers i s r (w, 0)) ∧
    (let i := numAt l 8 8
     let nb := u.hub.fused.handlerBytes
     let key := 16 * (vd / 16) + i
     served s 0x8007 r 16 u vd v l → i < 16 → hread u r.cid vd n (nb + 384) = (w, .ok img) →
      (w.hub.fused = u.hub.fused → pssVerify u.hub.fused.handlerN (img.take nb) (numAt img nb 384) = true →
        (tfind w.hub.handlers key = none →
          answers .hinstall s r ({ w with hub := { w.hub with handlers := tset w.hub.handlers key (digest (img.take nb)) } }, 0)) ∧
        (tfind w.hub.handlers key = some (digest (img.take nb)) → answers .hinstall s r (w, 0)) ∧
        (∀ e, tfind w.hub.handlers key = some e → e ≠ digest (img.take nb) → answers .hinstall s r (w, 12))) ∧
      (w.hub.fused = u.hub.fused → pssVerify u.hub.fused.handlerN (img.take nb) (numAt img nb 384) = false → answers .hinstall s r (w, 9)))

/-- R487 to R492, R494 to R499, R501 to R505: the services on libraries, models, sessions and adaptation contracts where every check of theirs
passes. The model's choices: LIBLOAD of a library that is there answers DONE, and the SID is 8 bytes (log entry 44); what a RETIRING model and
a released adaptation wait for (45). -/
def Obligations.ServicesOnModels : Prop :=
  ∀ (s u u1 u2 w : State) (r : FwReq) (vd : Nat) (v : Vd) (l pol l1 l2 : Bytes) (key : BitVec 256) (ps : List (Nat × Nat))
    (cs : List Bytes) (m : Model) (y : Adapter),
    let n := numAt l 0 8
    let done := fun (i : Instr) (z : State) => answers i s r (z, 0)
    let x := installOf l
    let install := fun (t : State) (pkg : Bytes) (libs : List (BitVec 256)) =>
      recordPasses u r vd v n u1 pol key ∧ x.dest % unitBytes = 0 ∧ hread t r.cid vd x.pkg (65552 * x.n) = (w, .ok pkg) ∧
      digest pkg = digestAt pol 464 ∧ slotFree w v x.slot = true ∧ rawPages w v x.dest (65536 * x.n) = some ps ∧
      (∀ p ∈ ps, ownUnit w v p.1 = true ∧ eOpo p.2 = true ∧ eKslot p.2 = x.slot ∧ unitOpen w (unitOf p.1) = true) ∧
      wbTouches w vd v (ps.map (fun p => unitOf p.1)).eraseDups = false ∧
      (∀ e ∈ w.hub.slots, e.2.kind = .session → e.2.vd = vd → ∀ d ∈ libs, d ∈ policyLibs e.2.policy) ∧
      openPackage key x.n pkg = some cs
    let us := (ps.map (fun p => unitOf p.1)).eraseDups
    let placed := fun (k : BitVec 256) =>
      putPages x.slot ps ((setLocks (dropUnits { w with free := w.free + 1 } us) us (some (lockWord 2 vd))).setSlot x.slot
        { kind := .operand, key := k, vd := vd, policy := pol }) cs.flatten
    (∀ t, serviceTurns .libload s 0x8000 8 r t vd v ∧ serviceTurns .modelload s 0x8001 40 r t vd v ∧ serviceTurns .modelfree s 0x8002 32 r t vd v ∧
      serviceTurns .adaptclaim s 0x8003 40 r t vd v ∧ serviceTurns .adaptfree s 0x8004 40 r t vd v ∧ serviceTurns .sessopen s 0x0110 32 r t vd v ∧
      serviceTurns .reqopen s 0x0111 40 r t vd v ∧ serviceTurns .replyseal s 0x0112 16 r t vd v ∧ serviceTurns .sessclose s 0x0113 8 r t vd v ∧
      serviceTurns .adptable s 0x0130 40 r t vd v) ∧
    (let h := libHead l1
     let pages := (List.range h.npage).map (fun i => byteSlice l2 (h.pgoff + 4096 * i) 4096)
     let ms := (List.range h.npage).map (fun i => digestAt l2 (256 + 32 * i))
     let body := l2.take h.sigoff
     let sig := l2.drop h.sigoff
     served s 0x8000 r 8 u vd v l → n % 4096 = 0 → hread u r.cid vd n 256 = (u1, .ok l1) → libHeadOk l1 = true →
      hread u1 r.cid vd n (h.sigoff + 1024) = (u2, .ok l2) → sigFormOk sig = true → digest (sig.take 384) ∈ signers u2 →
      pssVerify (numAt sig 0 384) body (numAt sig 448 384) = true → ms = pages.map measure →
      ((∀ e ∈ u2.hub.libs, e.2 ≠ digest body) → u2.hub.libs.length + h.npage ≤ 65536 →
        outputs u2 { u2 with hub := { u2.hub with libs := u2.hub.libs ++ ms.map (fun m => (m, digest body)) } } r vd (r.arg.toNat + 8)
          (digestBytes (digest body)) w →
        done .libload w) ∧
      ((∃ e ∈ u2.hub.libs, e.2 = digest body) → done .libload u2)) ∧
    (served s 0x8001 r 40 u vd v l → policyKind pol = 1 → install u1 l2 (policyLibs pol) →
      ∃ k, ∀ z, outputs u1 ((placed k).modVd vd (fun v => { v with models := v.models ++
          [⟨digest pol, digestAt pol 16, policyLibs pol, x.slot, us, false, []⟩] })) r vd (r.arg.toNat + 40) (digestBytes (digest pol)) z →
        done .modelload z) ∧
    (served s 0x8002 r 32 u vd v l → modelOf v (digestAt l 0) = some m →
      ((sessionOn u vd m.base || wbTouches u vd v (baseUnits v m.base)) = true →
        done .modelfree (u.modVd vd (fun v => setModel v m.base (fun m => { m with retiring := true })))) ∧
      (let z := freeBase u vd v m.base
       (sessionOn u vd m.base || wbTouches u vd v (baseUnits v m.base)) = false → done .modelfree z ∧ (z.slot m.slot).kind = .free ∧
        (∀ k ∈ m.units, lockOf z k = 0) ∧ ∀ y, z.vd? vd = some y → ∀ x ∈ y.models, x.base ≠ m.base)) ∧
    (let slot := numAt l 8 8
     let rb := numAt l 16 8
     let rl := numAt l 24 8
     served s 0x0110 r 32 u vd v l → rb % 32 = 0 → rl % 32 = 0 → rl ≤ 2 ^ 26 → recordPasses u r vd v n u1 pol key → policyKind pol = 3 →
      modelOf v (digestAt pol 48) = some m → m.retiring = false → (∀ d ∈ admission v, d ∈ policyLibs pol) → slotFree u1 v slot = true →
      framesAll u1 v rb rl (fun pa e => unitOpen u1 (unitOf pa) && !eOpo e && !eConf e) = true → u1.hub.sidNext < 2 ^ 32 →
      outputs u1 ({ u1 with hub := { u1.hub with sidNext := u1.hub.sidNext + 1 } }.setSlot slot
          { kind := .session, key := key, vd := vd, policy := pol, sid := u1.hub.sidNext, rbase := rb, rlen := rl }) r vd (r.arg.toNat + 40)
        (bytesLE 8 u1.hub.sidNext) w →
      done .sessopen w) ∧
    (let len := numAt l 16 8
     let k := u.slot n
     let nonce := requestNonce k
     served s 0x0111 r 40 u vd v l → len ≤ 2 ^ 20 → isSession u v vd n = true →
      framesAll u v (numAt l 8 8) (len + 16) (fun pa _ => unitOpen u (unitOf pa)) = true →
      framesAll u v (numAt l 24 8) len (fun pa _ => lockOf u (unitOf pa) == (lockWord 1 vd).toNat) = true →
      hread u r.cid vd (numAt l 8 8) (len + 16) = (u1, .ok l1) →
      (numAt l 32 8 ≠ k.ctr → answers .reqopen s r (u, 6)) ∧
      (numAt l 32 8 = k.ctr → gcmTag k.key nonce (sessionAad nonce len) (l1.take len) = l1.drop len →
        outputs u1 u1 r vd (numAt l 24 8) (gcmCrypt k.key nonce (l1.take len)) w →
        done .reqopen (addUsage (w.setSlot n { k with ctr := k.ctr + 1 }) vd 0 len)) ∧
      (numAt l 32 8 = k.ctr → gcmTag k.key nonce (sessionAad nonce len) (l1.take len) ≠ l1.drop len → answers .reqopen s r (u1, 5))) ∧
    (let len := numAt l 8 8
     let k := u.slot n
     let nonce := replyNonce k
     served s 0x0112 r 16 u vd v l → len % 32 = 0 → isSession u v vd n = true → len ≤ k.rlen →
      (sealsUnder u vd n = true → answers .replyseal s r (u, 1)) ∧
      (sealsUnder u vd n = false → hread u r.cid vd k.rbase len = (u1, .ok l1) →
        outputs u1 u1 r vd (r.arg.toNat + 16) (gcmTag k.key nonce (sessionAad nonce len) l1 ++ bytesLE 8 k.rp) w →
        done .replyseal (addUsage (w.setSlot n { k with rp := k.rp + 1 }) vd 1 len))) ∧
    (let base := digestAt (u.slot n).policy 48
     served s 0x0113 r 8 u vd v l → isSession u v vd n = true →
      (sealsUnder u vd n = true → answers .sessclose s r (u, 1)) ∧
      (sealsUnder u vd n = false → (modelOf v base = none ∨ ∃ m, modelOf v base = some m ∧ m.retiring = false) →
        done .sessclose (u.setSlot n {})) ∧
      (sealsUnder u vd n = false → modelOf v base = some m → m.retiring = true →
        done .sessclose (if sessionOn (u.setSlot n {}) vd base then u.setSlot n {} else freeBase (u.setSlot n {}) vd v base))) ∧
    (let slot := numAt pol 6 2
     let expert := numAt pol 8 2
     let owner := digestAt pol 16
     served s 0x8003 r 40 u vd v l → policyKind pol = 2 → modelOf v (digestAt pol 48) = some m → m.retiring = false →
      tfind m.adapters slot = none →
      (expert = 65535 ∨ ∀ e ∈ m.adapters, e.2.st = 1 → e.2.expert = expert → e.2.owner = owner) → install u1 l2 [] →
      ∃ k, done .adaptclaim ((placed k).modVd vd (fun v => setModel v (digestAt pol 48) (fun m =>
        { m with adapters := tset m.adapters slot { entry := adapterEntry 1 expert x.slot, owner := owner, contract := digest pol, units := us } })))) ∧
    (let slot := numAt l 32 8
     served s 0x8004 r 40 u vd v l → slot < 256 → modelOf v (digestAt l 0) = some m → tfind m.adapters slot = some y →
      (y.st = 2 → done .adaptfree u) ∧
      (y.st ≠ 2 → let z := { y with entry := adapterEntry 2 y.expert y.slot, waits := (openWbs u vd).map (fun w => (w.cid, w.num)) }
        done .adaptfree (reapAdapters (u.modVd vd (fun v => setModel v (digestAt l 0) (fun m => { m with adapters := tset m.adapters slot z })))))) ∧
    (let buf := numAt l 32 8
     served s 0x0130 r 40 u vd v l → buf % 64 = 0 → modelOf v (digestAt l 0) = some m →
      outputs u u r vd buf ((List.range 256).flatMap (fun i => bytesLE 8 (match tfind m.adapters i with | some y => y.entry.toNat | none => 0))) w →
      done .adptable w)

end Statements
end

