-- ==== Sys2Proof/Laws/Memory.lean ====
section
/-! SUPPORT. What sparse tables and byte memory answer after a write, and that every memory operation keeps the canonical
form. -/

-- One theorem at a time: many at once take a stack each, and the text as a whole then passes its memory limit.
set_option Elab.async false

namespace Sys2Proof.Machine

/-! ## Tables -/

@[simp] theorem tfind_tset_same {α : Type} (t : Tab α) (k : Nat) (v : α) : tfind (tset t k v) k = some v := by
  induction t with
  | nil => simp [tset, tfind]
  | cons e r ih =>
    obtain ⟨j, u⟩ := e
    rw [tset]
    split
    · rename_i h; rw [tfind, if_neg (by omega)]; exact ih
    · split <;> simp [tfind]
theorem tfind_tset_ne {α : Type} (t : Tab α) {j k : Nat} (v : α) (h : j ≠ k) : tfind (tset t k v) j = tfind t j := by
  induction t with
  | nil => simp [tset, tfind, Ne.symm h]
  | cons e r ih =>
    obtain ⟨i, u⟩ := e
    rw [tset]
    split
    · rw [tfind, tfind, ih]
    · split
      · rename_i h2; subst h2; rw [tfind, tfind, if_neg (Ne.symm h), if_neg (Ne.symm h)]
      · rw [tfind, if_neg (Ne.symm h)]
@[simp] theorem tget_tset_same {α : Type} (t : Tab α) (k : Nat) (v d : α) : tget (tset t k v) k d = v := by simp [tget]
theorem tget_tset_ne {α : Type} (t : Tab α) {j k : Nat} (v d : α) (h : j ≠ k) : tget (tset t k v) j d = tget t j d := by
  simp [tget, tfind_tset_ne t v h]

/-! ## Bytes -/

/-- A canonical memory from lo on lists nothing below lo. -/
theorem mread_below {m : Memory} {lo a : Nat} (h : Memory.wfFrom lo m = true) (ha : a < lo) : mread m a = unlisted := by
  cases m with
  | nil => rfl
  | cons c r =>
    obtain ⟨b, v⟩ := c
    simp only [Memory.wfFrom, Bool.and_eq_true, decide_eq_true_eq] at h
    rw [mread, if_neg (by omega), if_pos (by omega)]
/-- A canonical form from lo is one from any lower address. -/
theorem wfFrom_mono {m : Memory} {lo lo' : Nat} (h : Memory.wfFrom lo m = true) (hl : lo' ≤ lo) : Memory.wfFrom lo' m = true := by
  cases m with
  | nil => rfl
  | cons c r =>
    obtain ⟨b, v⟩ := c
    simp only [Memory.wfFrom, Bool.and_eq_true, decide_eq_true_eq] at h ⊢
    exact ⟨⟨by omega, h.1.2⟩, h.2⟩

/-- A byte written is read back. -/
theorem mread_mwrite_same {m : Memory} {lo : Nat} (a : Nat) (v : Byte) (h : Memory.wfFrom lo m = true) :
    mread (mwrite m a v) a = v := by
  induction m generalizing lo with
  | nil => by_cases hv : v = unlisted <;> simp [mwrite, mread, hv]
  | cons c r ih =>
    obtain ⟨b, u⟩ := c
    simp only [Memory.wfFrom, Bool.and_eq_true, decide_eq_true_eq] at h
    rw [mwrite]
    split
    · rw [mread, if_neg (by omega), if_neg (by omega)]; exact ih h.2
    · split
      · rename_i h2; subst h2
        split
        · rename_i hv; rw [mread_below h.2 (Nat.lt_succ_self b), hv]
        · simp [mread]
      · split
        · rename_i hv; rw [mread, if_neg (by omega), if_pos (by omega), hv]
        · simp [mread]
/-- A byte written changes no other address. -/
theorem mread_mwrite_ne {m : Memory} {lo a c : Nat} (v : Byte) (h : Memory.wfFrom lo m = true) (hc : c ≠ a) :
    mread (mwrite m a v) c = mread m c := by
  induction m generalizing lo with
  | nil => by_cases hv : v = unlisted <;> simp [mwrite, mread, hv, Ne.symm hc]
  | cons e r ih =>
    obtain ⟨b, u⟩ := e
    simp only [Memory.wfFrom, Bool.and_eq_true, decide_eq_true_eq] at h
    rw [mwrite]
    split
    · rw [mread, mread, ih h.2]
    · split
      · rename_i h2; subst h2
        rw [mread, if_neg (Ne.symm hc)]
        split
        · split
          · rename_i hlt; rw [mread_below h.2 (by omega)]
          · rfl
        · rw [mread, if_neg (Ne.symm hc)]
      · split
        · rfl
        · rw [mread.eq_def ((a, v) :: (b, u) :: r)]
          simp only
          rw [if_neg (Ne.symm hc)]
          split
          · rw [mread, if_neg (by omega), if_pos (by omega)]
          · rfl
/-- A write keeps the canonical form. -/
theorem mwrite_wfFrom {m : Memory} {lo a : Nat} (v : Byte) (h : Memory.wfFrom lo m = true) (ha : lo ≤ a) :
    Memory.wfFrom lo (mwrite m a v) = true := by
  induction m generalizing lo with
  | nil => by_cases hv : v = unlisted <;> simp [mwrite, Memory.wfFrom, hv, ha]
  | cons e r ih =>
    obtain ⟨b, u⟩ := e
    simp only [Memory.wfFrom, Bool.and_eq_true, decide_eq_true_eq, bne_iff_ne, ne_eq] at h
    obtain ⟨⟨h1, h2⟩, h3⟩ := h
    rw [mwrite]
    split
    · simp only [Memory.wfFrom, Bool.and_eq_true, decide_eq_true_eq, bne_iff_ne, ne_eq]
      exact ⟨⟨h1, h2⟩, ih h3 (by omega)⟩
    · split
      · rename_i hb; subst hb
        split
        · exact wfFrom_mono h3 (by omega)
        · simp only [Memory.wfFrom, Bool.and_eq_true, decide_eq_true_eq, bne_iff_ne, ne_eq]
          exact ⟨⟨ha, by assumption⟩, h3⟩
      · split
        · simp only [Memory.wfFrom, Bool.and_eq_true, decide_eq_true_eq, bne_iff_ne, ne_eq]
          exact ⟨⟨h1, h2⟩, h3⟩
        · simp only [Memory.wfFrom, Bool.and_eq_true, decide_eq_true_eq, bne_iff_ne, ne_eq]
          exact ⟨⟨ha, by assumption⟩, ⟨by omega, h2⟩, h3⟩
theorem mwrite_wf {m : Memory} (a : Nat) (v : Byte) (h : m.wf = true) : Memory.wf (mwrite m a v) = true :=
  mwrite_wfFrom v h (Nat.zero_le a)

/-! ## Several bytes -/

theorem mwriteN_wf {m : Memory} (a n v : Nat) (h : m.wf = true) : Memory.wf (mwriteN m a n v) = true := by
  induction n generalizing m a v with
  | zero => exact h
  | succ n ih => exact ih (a + 1) (v / 256) (mwrite_wf a _ h)
theorem mwriteBytes_wf {m : Memory} (a : Nat) (l : List Byte) (h : m.wf = true) : Memory.wf (mwriteBytes m a l) = true := by
  induction l generalizing m a with
  | nil => exact h
  | cons b r ih => exact ih (a + 1) (mwrite_wf a b h)
theorem mwriteMask_wf {m : Memory} (a n mask v : Nat) (h : m.wf = true) : Memory.wf (mwriteMask m a n mask v) = true := by
  induction n generalizing m a mask v with
  | zero => exact h
  | succ n ih =>
    rw [mwriteMask]
    split
    · exact ih (a + 1) _ _ (mwrite_wf a _ h)
    · exact ih (a + 1) _ _ h
/-- Taking listed bytes away keeps the canonical form. -/
theorem filter_wfFrom (f : Host.Cell → Bool) : (m : Memory) → (lo : Nat) → Memory.wfFrom lo m = true →
    Memory.wfFrom lo (m.filter f) = true
  | [], _, _ => rfl
  | (a, v) :: r, lo, h => by
    simp only [Memory.wfFrom, Bool.and_eq_true, decide_eq_true_eq] at h
    have ih := filter_wfFrom f r (a + 1) h.2
    rw [List.filter_cons]
    split
    · simp only [Memory.wfFrom, Bool.and_eq_true, decide_eq_true_eq]; exact ⟨h.1, ih⟩
    · exact wfFrom_mono ih (by omega)
theorem mzero_wf {m : Memory} (lo hi : Nat) (h : m.wf = true) : Memory.wf (mzero m lo hi) = true := filter_wfFrom _ m 0 h

/-- Bytes written from a on leave every address outside [a, a + n) alone. -/
theorem mread_mwriteN_outside {m : Memory} (a n v c : Nat) (h : m.wf = true) (hc : c < a ∨ a + n ≤ c) :
    mread (mwriteN m a n v) c = mread m c := by
  induction n generalizing m a v with
  | zero => rfl
  | succ n ih =>
    rw [mwriteN, ih (a + 1) _ (mwrite_wf a _ h) (by omega), mread_mwrite_ne _ h (by omega)]
/-- A number written is read back, cut to its bytes. -/
theorem mreadN_mwriteN {m : Memory} (a n v : Nat) (h : m.wf = true) : mreadN (mwriteN m a n v) a n = v % 256 ^ n := by
  induction n generalizing m a v with
  | zero => simp [mreadN, Nat.mod_one]
  | succ n ih =>
    rw [mwriteN, mreadN, ih (a + 1) (v / 256) (mwrite_wf a _ h),
      mread_mwriteN_outside (a + 1) n (v / 256) a (mwrite_wf a _ h) (by omega), mread_mwrite_same a _ h, BitVec.toNat_ofNat]
    have e : 256 ^ (n + 1) = 256 * 256 ^ n := by rw [Nat.pow_succ, Nat.mul_comm]
    rw [e, Nat.mod_mul]
theorem mread_mwriteBytes_outside {m : Memory} (a : Nat) (l : List Byte) (c : Nat) (h : m.wf = true)
    (hc : c < a ∨ a + l.length ≤ c) : mread (mwriteBytes m a l) c = mread m c := by
  induction l generalizing m a with
  | nil => rfl
  | cons b r ih =>
    simp only [List.length_cons] at hc
    rw [mwriteBytes, ih (a + 1) (mwrite_wf a b h) (by omega), mread_mwrite_ne _ h (by omega)]
/-- What is stored is read back. -/
theorem mreadBytes_mwriteBytes {m : Memory} (l : List Byte) : ∀ a, m.wf = true → mreadBytes (mwriteBytes m a l) a l.length = l := by
  induction l generalizing m with
  | nil => intro a h; rfl
  | cons b r ih =>
    intro a h
    simp only [mwriteBytes, List.length_cons, mreadBytes]
    rw [ih (a + 1) (mwrite_wf a b h), mread_mwriteBytes_outside _ _ _ (mwrite_wf a b h) (.inl (Nat.lt_succ_self a))]
    rw [mread_mwrite_same a b h]

end Sys2Proof.Machine
end

