-- ==== Sys2Proof/Laws/State.lean ====
section
/-! SUPPORT. What each update of the state leaves in each field, and what is read back from a part of the state after it was
set. -/

-- One theorem at a time: many at once take a stack each, and the text as a whole then passes its memory limit.
set_option Elab.async false

namespace Sys2Proof.Machine

/-! ## setCtx -/

@[simp] theorem State.setCtx_agenda (s : State) (c : Nat) (x : Ctx) : (s.setCtx c x).agenda = s.agenda := rfl
@[simp] theorem State.setCtx_cur (s : State) (c : Nat) (x : Ctx) : (s.setCtx c x).cur = s.cur := rfl
@[simp] theorem State.setCtx_free (s : State) (c : Nat) (x : Ctx) : (s.setCtx c x).free = s.free := rfl
@[simp] theorem State.setCtx_mem (s : State) (c : Nat) (x : Ctx) : (s.setCtx c x).mem = s.mem := rfl
@[simp] theorem State.setCtx_bad (s : State) (c : Nat) (x : Ctx) : (s.setCtx c x).bad = s.bad := rfl
@[simp] theorem State.setCtx_soft (s : State) (c : Nat) (x : Ctx) : (s.setCtx c x).soft = s.soft := rfl
@[simp] theorem State.setCtx_l2 (s : State) (c : Nat) (x : Ctx) : (s.setCtx c x).l2 = s.l2 := rfl
@[simp] theorem State.setCtx_dir (s : State) (c : Nat) (x : Ctx) : (s.setCtx c x).dir = s.dir := rfl
@[simp] theorem State.setCtx_tags (s : State) (c : Nat) (x : Ctx) : (s.setCtx c x).tags = s.tags := rfl
@[simp] theorem State.setCtx_fmem (s : State) (c : Nat) (x : Ctx) : (s.setCtx c x).fmem = s.fmem := rfl
@[simp] theorem State.setCtx_fbad (s : State) (c : Nat) (x : Ctx) : (s.setCtx c x).fbad = s.fbad := rfl
@[simp] theorem State.setCtx_cmem (s : State) (c : Nat) (x : Ctx) : (s.setCtx c x).cmem = s.cmem := rfl
@[simp] theorem State.setCtx_net (s : State) (c : Nat) (x : Ctx) : (s.setCtx c x).net = s.net := rfl
@[simp] theorem State.setCtx_power (s : State) (c : Nat) (x : Ctx) : (s.setCtx c x).power = s.power := rfl
@[simp] theorem State.setCtx_planes (s : State) (c : Nat) (x : Ctx) : (s.setCtx c x).planes = s.planes := rfl
@[simp] theorem State.setCtx_clusters (s : State) (c : Nat) (x : Ctx) : (s.setCtx c x).clusters = s.clusters := rfl
@[simp] theorem State.setCtx_dies (s : State) (c : Nat) (x : Ctx) : (s.setCtx c x).dies = s.dies := rfl
@[simp] theorem State.setCtx_hub (s : State) (c : Nat) (x : Ctx) : (s.setCtx c x).hub = s.hub := rfl
@[simp] theorem State.setCtx_out (s : State) (c : Nat) (x : Ctx) : (s.setCtx c x).out = s.out := rfl

/-! ## modCtx -/

@[simp] theorem State.modCtx_agenda (s : State) (c : Nat) (f : Ctx → Ctx) : (s.modCtx c f).agenda = s.agenda := rfl
@[simp] theorem State.modCtx_cur (s : State) (c : Nat) (f : Ctx → Ctx) : (s.modCtx c f).cur = s.cur := rfl
@[simp] theorem State.modCtx_free (s : State) (c : Nat) (f : Ctx → Ctx) : (s.modCtx c f).free = s.free := rfl
@[simp] theorem State.modCtx_mem (s : State) (c : Nat) (f : Ctx → Ctx) : (s.modCtx c f).mem = s.mem := rfl
@[simp] theorem State.modCtx_bad (s : State) (c : Nat) (f : Ctx → Ctx) : (s.modCtx c f).bad = s.bad := rfl
@[simp] theorem State.modCtx_soft (s : State) (c : Nat) (f : Ctx → Ctx) : (s.modCtx c f).soft = s.soft := rfl
@[simp] theorem State.modCtx_l2 (s : State) (c : Nat) (f : Ctx → Ctx) : (s.modCtx c f).l2 = s.l2 := rfl
@[simp] theorem State.modCtx_dir (s : State) (c : Nat) (f : Ctx → Ctx) : (s.modCtx c f).dir = s.dir := rfl
@[simp] theorem State.modCtx_tags (s : State) (c : Nat) (f : Ctx → Ctx) : (s.modCtx c f).tags = s.tags := rfl
@[simp] theorem State.modCtx_fmem (s : State) (c : Nat) (f : Ctx → Ctx) : (s.modCtx c f).fmem = s.fmem := rfl
@[simp] theorem State.modCtx_fbad (s : State) (c : Nat) (f : Ctx → Ctx) : (s.modCtx c f).fbad = s.fbad := rfl
@[simp] theorem State.modCtx_cmem (s : State) (c : Nat) (f : Ctx → Ctx) : (s.modCtx c f).cmem = s.cmem := rfl
@[simp] theorem State.modCtx_net (s : State) (c : Nat) (f : Ctx → Ctx) : (s.modCtx c f).net = s.net := rfl
@[simp] theorem State.modCtx_power (s : State) (c : Nat) (f : Ctx → Ctx) : (s.modCtx c f).power = s.power := rfl
@[simp] theorem State.modCtx_planes (s : State) (c : Nat) (f : Ctx → Ctx) : (s.modCtx c f).planes = s.planes := rfl
@[simp] theorem State.modCtx_clusters (s : State) (c : Nat) (f : Ctx → Ctx) : (s.modCtx c f).clusters = s.clusters := rfl
@[simp] theorem State.modCtx_dies (s : State) (c : Nat) (f : Ctx → Ctx) : (s.modCtx c f).dies = s.dies := rfl
@[simp] theorem State.modCtx_hub (s : State) (c : Nat) (f : Ctx → Ctx) : (s.modCtx c f).hub = s.hub := rfl
@[simp] theorem State.modCtx_out (s : State) (c : Nat) (f : Ctx → Ctx) : (s.modCtx c f).out = s.out := rfl

/-! ## setDie -/

@[simp] theorem State.setDie_agenda (s : State) (d : Nat) (x : Die) : (s.setDie d x).agenda = s.agenda := rfl
@[simp] theorem State.setDie_cur (s : State) (d : Nat) (x : Die) : (s.setDie d x).cur = s.cur := rfl
@[simp] theorem State.setDie_free (s : State) (d : Nat) (x : Die) : (s.setDie d x).free = s.free := rfl
@[simp] theorem State.setDie_mem (s : State) (d : Nat) (x : Die) : (s.setDie d x).mem = s.mem := rfl
@[simp] theorem State.setDie_bad (s : State) (d : Nat) (x : Die) : (s.setDie d x).bad = s.bad := rfl
@[simp] theorem State.setDie_soft (s : State) (d : Nat) (x : Die) : (s.setDie d x).soft = s.soft := rfl
@[simp] theorem State.setDie_l2 (s : State) (d : Nat) (x : Die) : (s.setDie d x).l2 = s.l2 := rfl
@[simp] theorem State.setDie_dir (s : State) (d : Nat) (x : Die) : (s.setDie d x).dir = s.dir := rfl
@[simp] theorem State.setDie_tags (s : State) (d : Nat) (x : Die) : (s.setDie d x).tags = s.tags := rfl
@[simp] theorem State.setDie_fmem (s : State) (d : Nat) (x : Die) : (s.setDie d x).fmem = s.fmem := rfl
@[simp] theorem State.setDie_fbad (s : State) (d : Nat) (x : Die) : (s.setDie d x).fbad = s.fbad := rfl
@[simp] theorem State.setDie_cmem (s : State) (d : Nat) (x : Die) : (s.setDie d x).cmem = s.cmem := rfl
@[simp] theorem State.setDie_net (s : State) (d : Nat) (x : Die) : (s.setDie d x).net = s.net := rfl
@[simp] theorem State.setDie_power (s : State) (d : Nat) (x : Die) : (s.setDie d x).power = s.power := rfl
@[simp] theorem State.setDie_planes (s : State) (d : Nat) (x : Die) : (s.setDie d x).planes = s.planes := rfl
@[simp] theorem State.setDie_ctxs (s : State) (d : Nat) (x : Die) : (s.setDie d x).ctxs = s.ctxs := rfl
@[simp] theorem State.setDie_clusters (s : State) (d : Nat) (x : Die) : (s.setDie d x).clusters = s.clusters := rfl
@[simp] theorem State.setDie_hub (s : State) (d : Nat) (x : Die) : (s.setDie d x).hub = s.hub := rfl
@[simp] theorem State.setDie_out (s : State) (d : Nat) (x : Die) : (s.setDie d x).out = s.out := rfl

/-! ## setCluster -/

@[simp] theorem State.setCluster_agenda (s : State) (c : Nat) (x : Cluster) : (s.setCluster c x).agenda = s.agenda := rfl
@[simp] theorem State.setCluster_cur (s : State) (c : Nat) (x : Cluster) : (s.setCluster c x).cur = s.cur := rfl
@[simp] theorem State.setCluster_free (s : State) (c : Nat) (x : Cluster) : (s.setCluster c x).free = s.free := rfl
@[simp] theorem State.setCluster_mem (s : State) (c : Nat) (x : Cluster) : (s.setCluster c x).mem = s.mem := rfl
@[simp] theorem State.setCluster_bad (s : State) (c : Nat) (x : Cluster) : (s.setCluster c x).bad = s.bad := rfl
@[simp] theorem State.setCluster_soft (s : State) (c : Nat) (x : Cluster) : (s.setCluster c x).soft = s.soft := rfl
@[simp] theorem State.setCluster_l2 (s : State) (c : Nat) (x : Cluster) : (s.setCluster c x).l2 = s.l2 := rfl
@[simp] theorem State.setCluster_dir (s : State) (c : Nat) (x : Cluster) : (s.setCluster c x).dir = s.dir := rfl
@[simp] theorem State.setCluster_tags (s : State) (c : Nat) (x : Cluster) : (s.setCluster c x).tags = s.tags := rfl
@[simp] theorem State.setCluster_fmem (s : State) (c : Nat) (x : Cluster) : (s.setCluster c x).fmem = s.fmem := rfl
@[simp] theorem State.setCluster_fbad (s : State) (c : Nat) (x : Cluster) : (s.setCluster c x).fbad = s.fbad := rfl
@[simp] theorem State.setCluster_cmem (s : State) (c : Nat) (x : Cluster) : (s.setCluster c x).cmem = s.cmem := rfl
@[simp] theorem State.setCluster_net (s : State) (c : Nat) (x : Cluster) : (s.setCluster c x).net = s.net := rfl
@[simp] theorem State.setCluster_power (s : State) (c : Nat) (x : Cluster) : (s.setCluster c x).power = s.power := rfl
@[simp] theorem State.setCluster_planes (s : State) (c : Nat) (x : Cluster) : (s.setCluster c x).planes = s.planes := rfl
@[simp] theorem State.setCluster_ctxs (s : State) (c : Nat) (x : Cluster) : (s.setCluster c x).ctxs = s.ctxs := rfl
@[simp] theorem State.setCluster_dies (s : State) (c : Nat) (x : Cluster) : (s.setCluster c x).dies = s.dies := rfl
@[simp] theorem State.setCluster_hub (s : State) (c : Nat) (x : Cluster) : (s.setCluster c x).hub = s.hub := rfl
@[simp] theorem State.setCluster_out (s : State) (c : Nat) (x : Cluster) : (s.setCluster c x).out = s.out := rfl

/-! ## modCluster -/

@[simp] theorem State.modCluster_agenda (s : State) (c : Nat) (f : Cluster → Cluster) : (s.modCluster c f).agenda = s.agenda := rfl
@[simp] theorem State.modCluster_cur (s : State) (c : Nat) (f : Cluster → Cluster) : (s.modCluster c f).cur = s.cur := rfl
@[simp] theorem State.modCluster_free (s : State) (c : Nat) (f : Cluster → Cluster) : (s.modCluster c f).free = s.free := rfl
@[simp] theorem State.modCluster_mem (s : State) (c : Nat) (f : Cluster → Cluster) : (s.modCluster c f).mem = s.mem := rfl
@[simp] theorem State.modCluster_bad (s : State) (c : Nat) (f : Cluster → Cluster) : (s.modCluster c f).bad = s.bad := rfl
@[simp] theorem State.modCluster_soft (s : State) (c : Nat) (f : Cluster → Cluster) : (s.modCluster c f).soft = s.soft := rfl
@[simp] theorem State.modCluster_l2 (s : State) (c : Nat) (f : Cluster → Cluster) : (s.modCluster c f).l2 = s.l2 := rfl
@[simp] theorem State.modCluster_dir (s : State) (c : Nat) (f : Cluster → Cluster) : (s.modCluster c f).dir = s.dir := rfl
@[simp] theorem State.modCluster_tags (s : State) (c : Nat) (f : Cluster → Cluster) : (s.modCluster c f).tags = s.tags := rfl
@[simp] theorem State.modCluster_fmem (s : State) (c : Nat) (f : Cluster → Cluster) : (s.modCluster c f).fmem = s.fmem := rfl
@[simp] theorem State.modCluster_fbad (s : State) (c : Nat) (f : Cluster → Cluster) : (s.modCluster c f).fbad = s.fbad := rfl
@[simp] theorem State.modCluster_cmem (s : State) (c : Nat) (f : Cluster → Cluster) : (s.modCluster c f).cmem = s.cmem := rfl
@[simp] theorem State.modCluster_net (s : State) (c : Nat) (f : Cluster → Cluster) : (s.modCluster c f).net = s.net := rfl
@[simp] theorem State.modCluster_power (s : State) (c : Nat) (f : Cluster → Cluster) : (s.modCluster c f).power = s.power := rfl
@[simp] theorem State.modCluster_planes (s : State) (c : Nat) (f : Cluster → Cluster) : (s.modCluster c f).planes = s.planes := rfl
@[simp] theorem State.modCluster_ctxs (s : State) (c : Nat) (f : Cluster → Cluster) : (s.modCluster c f).ctxs = s.ctxs := rfl
@[simp] theorem State.modCluster_dies (s : State) (c : Nat) (f : Cluster → Cluster) : (s.modCluster c f).dies = s.dies := rfl
@[simp] theorem State.modCluster_hub (s : State) (c : Nat) (f : Cluster → Cluster) : (s.modCluster c f).hub = s.hub := rfl
@[simp] theorem State.modCluster_out (s : State) (c : Nat) (f : Cluster → Cluster) : (s.modCluster c f).out = s.out := rfl

/-! ## setPower -/

@[simp] theorem State.setPower_agenda (s : State) (t : Nat) (p : Power) : (s.setPower t p).agenda = s.agenda := rfl
@[simp] theorem State.setPower_cur (s : State) (t : Nat) (p : Power) : (s.setPower t p).cur = s.cur := rfl
@[simp] theorem State.setPower_free (s : State) (t : Nat) (p : Power) : (s.setPower t p).free = s.free := rfl
@[simp] theorem State.setPower_mem (s : State) (t : Nat) (p : Power) : (s.setPower t p).mem = s.mem := rfl
@[simp] theorem State.setPower_bad (s : State) (t : Nat) (p : Power) : (s.setPower t p).bad = s.bad := rfl
@[simp] theorem State.setPower_soft (s : State) (t : Nat) (p : Power) : (s.setPower t p).soft = s.soft := rfl
@[simp] theorem State.setPower_l2 (s : State) (t : Nat) (p : Power) : (s.setPower t p).l2 = s.l2 := rfl
@[simp] theorem State.setPower_dir (s : State) (t : Nat) (p : Power) : (s.setPower t p).dir = s.dir := rfl
@[simp] theorem State.setPower_tags (s : State) (t : Nat) (p : Power) : (s.setPower t p).tags = s.tags := rfl
@[simp] theorem State.setPower_fmem (s : State) (t : Nat) (p : Power) : (s.setPower t p).fmem = s.fmem := rfl
@[simp] theorem State.setPower_fbad (s : State) (t : Nat) (p : Power) : (s.setPower t p).fbad = s.fbad := rfl
@[simp] theorem State.setPower_cmem (s : State) (t : Nat) (p : Power) : (s.setPower t p).cmem = s.cmem := rfl
@[simp] theorem State.setPower_net (s : State) (t : Nat) (p : Power) : (s.setPower t p).net = s.net := rfl
@[simp] theorem State.setPower_planes (s : State) (t : Nat) (p : Power) : (s.setPower t p).planes = s.planes := rfl
@[simp] theorem State.setPower_ctxs (s : State) (t : Nat) (p : Power) : (s.setPower t p).ctxs = s.ctxs := rfl
@[simp] theorem State.setPower_clusters (s : State) (t : Nat) (p : Power) : (s.setPower t p).clusters = s.clusters := rfl
@[simp] theorem State.setPower_dies (s : State) (t : Nat) (p : Power) : (s.setPower t p).dies = s.dies := rfl
@[simp] theorem State.setPower_hub (s : State) (t : Nat) (p : Power) : (s.setPower t p).hub = s.hub := rfl
@[simp] theorem State.setPower_out (s : State) (t : Nat) (p : Power) : (s.setPower t p).out = s.out := rfl

/-! ## setPlane -/

@[simp] theorem State.setPlane_agenda (s : State) (pl : Nat) (p : Plane) : (s.setPlane pl p).agenda = s.agenda := rfl
@[simp] theorem State.setPlane_cur (s : State) (pl : Nat) (p : Plane) : (s.setPlane pl p).cur = s.cur := rfl
@[simp] theorem State.setPlane_free (s : State) (pl : Nat) (p : Plane) : (s.setPlane pl p).free = s.free := rfl
@[simp] theorem State.setPlane_mem (s : State) (pl : Nat) (p : Plane) : (s.setPlane pl p).mem = s.mem := rfl
@[simp] theorem State.setPlane_bad (s : State) (pl : Nat) (p : Plane) : (s.setPlane pl p).bad = s.bad := rfl
@[simp] theorem State.setPlane_soft (s : State) (pl : Nat) (p : Plane) : (s.setPlane pl p).soft = s.soft := rfl
@[simp] theorem State.setPlane_l2 (s : State) (pl : Nat) (p : Plane) : (s.setPlane pl p).l2 = s.l2 := rfl
@[simp] theorem State.setPlane_dir (s : State) (pl : Nat) (p : Plane) : (s.setPlane pl p).dir = s.dir := rfl
@[simp] theorem State.setPlane_tags (s : State) (pl : Nat) (p : Plane) : (s.setPlane pl p).tags = s.tags := rfl
@[simp] theorem State.setPlane_fmem (s : State) (pl : Nat) (p : Plane) : (s.setPlane pl p).fmem = s.fmem := rfl
@[simp] theorem State.setPlane_fbad (s : State) (pl : Nat) (p : Plane) : (s.setPlane pl p).fbad = s.fbad := rfl
@[simp] theorem State.setPlane_cmem (s : State) (pl : Nat) (p : Plane) : (s.setPlane pl p).cmem = s.cmem := rfl
@[simp] theorem State.setPlane_net (s : State) (pl : Nat) (p : Plane) : (s.setPlane pl p).net = s.net := rfl
@[simp] theorem State.setPlane_power (s : State) (pl : Nat) (p : Plane) : (s.setPlane pl p).power = s.power := rfl
@[simp] theorem State.setPlane_ctxs (s : State) (pl : Nat) (p : Plane) : (s.setPlane pl p).ctxs = s.ctxs := rfl
@[simp] theorem State.setPlane_clusters (s : State) (pl : Nat) (p : Plane) : (s.setPlane pl p).clusters = s.clusters := rfl
@[simp] theorem State.setPlane_dies (s : State) (pl : Nat) (p : Plane) : (s.setPlane pl p).dies = s.dies := rfl
@[simp] theorem State.setPlane_hub (s : State) (pl : Nat) (p : Plane) : (s.setPlane pl p).hub = s.hub := rfl
@[simp] theorem State.setPlane_out (s : State) (pl : Nat) (p : Plane) : (s.setPlane pl p).out = s.out := rfl

/-! ## setHub -/

@[simp] theorem State.setHub_agenda (s : State) (h : Hub) : (s.setHub h).agenda = s.agenda := rfl
@[simp] theorem State.setHub_cur (s : State) (h : Hub) : (s.setHub h).cur = s.cur := rfl
@[simp] theorem State.setHub_free (s : State) (h : Hub) : (s.setHub h).free = s.free := rfl
@[simp] theorem State.setHub_mem (s : State) (h : Hub) : (s.setHub h).mem = s.mem := rfl
@[simp] theorem State.setHub_bad (s : State) (h : Hub) : (s.setHub h).bad = s.bad := rfl
@[simp] theorem State.setHub_soft (s : State) (h : Hub) : (s.setHub h).soft = s.soft := rfl
@[simp] theorem State.setHub_l2 (s : State) (h : Hub) : (s.setHub h).l2 = s.l2 := rfl
@[simp] theorem State.setHub_dir (s : State) (h : Hub) : (s.setHub h).dir = s.dir := rfl
@[simp] theorem State.setHub_tags (s : State) (h : Hub) : (s.setHub h).tags = s.tags := rfl
@[simp] theorem State.setHub_fmem (s : State) (h : Hub) : (s.setHub h).fmem = s.fmem := rfl
@[simp] theorem State.setHub_fbad (s : State) (h : Hub) : (s.setHub h).fbad = s.fbad := rfl
@[simp] theorem State.setHub_cmem (s : State) (h : Hub) : (s.setHub h).cmem = s.cmem := rfl
@[simp] theorem State.setHub_net (s : State) (h : Hub) : (s.setHub h).net = s.net := rfl
@[simp] theorem State.setHub_power (s : State) (h : Hub) : (s.setHub h).power = s.power := rfl
@[simp] theorem State.setHub_planes (s : State) (h : Hub) : (s.setHub h).planes = s.planes := rfl
@[simp] theorem State.setHub_ctxs (s : State) (h : Hub) : (s.setHub h).ctxs = s.ctxs := rfl
@[simp] theorem State.setHub_clusters (s : State) (h : Hub) : (s.setHub h).clusters = s.clusters := rfl
@[simp] theorem State.setHub_dies (s : State) (h : Hub) : (s.setHub h).dies = s.dies := rfl
@[simp] theorem State.setHub_out (s : State) (h : Hub) : (s.setHub h).out = s.out := rfl

/-! ## setVd -/

@[simp] theorem State.setVd_agenda (s : State) (v : Nat) (x : Vd) : (s.setVd v x).agenda = s.agenda := rfl
@[simp] theorem State.setVd_cur (s : State) (v : Nat) (x : Vd) : (s.setVd v x).cur = s.cur := rfl
@[simp] theorem State.setVd_free (s : State) (v : Nat) (x : Vd) : (s.setVd v x).free = s.free := rfl
@[simp] theorem State.setVd_mem (s : State) (v : Nat) (x : Vd) : (s.setVd v x).mem = s.mem := rfl
@[simp] theorem State.setVd_bad (s : State) (v : Nat) (x : Vd) : (s.setVd v x).bad = s.bad := rfl
@[simp] theorem State.setVd_soft (s : State) (v : Nat) (x : Vd) : (s.setVd v x).soft = s.soft := rfl
@[simp] theorem State.setVd_l2 (s : State) (v : Nat) (x : Vd) : (s.setVd v x).l2 = s.l2 := rfl
@[simp] theorem State.setVd_dir (s : State) (v : Nat) (x : Vd) : (s.setVd v x).dir = s.dir := rfl
@[simp] theorem State.setVd_tags (s : State) (v : Nat) (x : Vd) : (s.setVd v x).tags = s.tags := rfl
@[simp] theorem State.setVd_fmem (s : State) (v : Nat) (x : Vd) : (s.setVd v x).fmem = s.fmem := rfl
@[simp] theorem State.setVd_fbad (s : State) (v : Nat) (x : Vd) : (s.setVd v x).fbad = s.fbad := rfl
@[simp] theorem State.setVd_cmem (s : State) (v : Nat) (x : Vd) : (s.setVd v x).cmem = s.cmem := rfl
@[simp] theorem State.setVd_net (s : State) (v : Nat) (x : Vd) : (s.setVd v x).net = s.net := rfl
@[simp] theorem State.setVd_power (s : State) (v : Nat) (x : Vd) : (s.setVd v x).power = s.power := rfl
@[simp] theorem State.setVd_planes (s : State) (v : Nat) (x : Vd) : (s.setVd v x).planes = s.planes := rfl
@[simp] theorem State.setVd_ctxs (s : State) (v : Nat) (x : Vd) : (s.setVd v x).ctxs = s.ctxs := rfl
@[simp] theorem State.setVd_clusters (s : State) (v : Nat) (x : Vd) : (s.setVd v x).clusters = s.clusters := rfl
@[simp] theorem State.setVd_dies (s : State) (v : Nat) (x : Vd) : (s.setVd v x).dies = s.dies := rfl
@[simp] theorem State.setVd_out (s : State) (v : Nat) (x : Vd) : (s.setVd v x).out = s.out := rfl

/-! ## setSlot -/

@[simp] theorem State.setSlot_agenda (s : State) (k : Nat) (x : KeySlot) : (s.setSlot k x).agenda = s.agenda := rfl
@[simp] theorem State.setSlot_cur (s : State) (k : Nat) (x : KeySlot) : (s.setSlot k x).cur = s.cur := rfl
@[simp] theorem State.setSlot_free (s : State) (k : Nat) (x : KeySlot) : (s.setSlot k x).free = s.free := rfl
@[simp] theorem State.setSlot_mem (s : State) (k : Nat) (x : KeySlot) : (s.setSlot k x).mem = s.mem := rfl
@[simp] theorem State.setSlot_bad (s : State) (k : Nat) (x : KeySlot) : (s.setSlot k x).bad = s.bad := rfl
@[simp] theorem State.setSlot_soft (s : State) (k : Nat) (x : KeySlot) : (s.setSlot k x).soft = s.soft := rfl
@[simp] theorem State.setSlot_l2 (s : State) (k : Nat) (x : KeySlot) : (s.setSlot k x).l2 = s.l2 := rfl
@[simp] theorem State.setSlot_dir (s : State) (k : Nat) (x : KeySlot) : (s.setSlot k x).dir = s.dir := rfl
@[simp] theorem State.setSlot_tags (s : State) (k : Nat) (x : KeySlot) : (s.setSlot k x).tags = s.tags := rfl
@[simp] theorem State.setSlot_fmem (s : State) (k : Nat) (x : KeySlot) : (s.setSlot k x).fmem = s.fmem := rfl
@[simp] theorem State.setSlot_fbad (s : State) (k : Nat) (x : KeySlot) : (s.setSlot k x).fbad = s.fbad := rfl
@[simp] theorem State.setSlot_cmem (s : State) (k : Nat) (x : KeySlot) : (s.setSlot k x).cmem = s.cmem := rfl
@[simp] theorem State.setSlot_net (s : State) (k : Nat) (x : KeySlot) : (s.setSlot k x).net = s.net := rfl
@[simp] theorem State.setSlot_power (s : State) (k : Nat) (x : KeySlot) : (s.setSlot k x).power = s.power := rfl
@[simp] theorem State.setSlot_planes (s : State) (k : Nat) (x : KeySlot) : (s.setSlot k x).planes = s.planes := rfl
@[simp] theorem State.setSlot_ctxs (s : State) (k : Nat) (x : KeySlot) : (s.setSlot k x).ctxs = s.ctxs := rfl
@[simp] theorem State.setSlot_clusters (s : State) (k : Nat) (x : KeySlot) : (s.setSlot k x).clusters = s.clusters := rfl
@[simp] theorem State.setSlot_dies (s : State) (k : Nat) (x : KeySlot) : (s.setSlot k x).dies = s.dies := rfl
@[simp] theorem State.setSlot_out (s : State) (k : Nat) (x : KeySlot) : (s.setSlot k x).out = s.out := rfl

/-! ## emit -/

@[simp] theorem State.emit_agenda (s : State) (m : OutMsg) : (s.emit m).agenda = s.agenda := rfl
@[simp] theorem State.emit_cur (s : State) (m : OutMsg) : (s.emit m).cur = s.cur := rfl
@[simp] theorem State.emit_free (s : State) (m : OutMsg) : (s.emit m).free = s.free := rfl
@[simp] theorem State.emit_mem (s : State) (m : OutMsg) : (s.emit m).mem = s.mem := rfl
@[simp] theorem State.emit_bad (s : State) (m : OutMsg) : (s.emit m).bad = s.bad := rfl
@[simp] theorem State.emit_soft (s : State) (m : OutMsg) : (s.emit m).soft = s.soft := rfl
@[simp] theorem State.emit_l2 (s : State) (m : OutMsg) : (s.emit m).l2 = s.l2 := rfl
@[simp] theorem State.emit_dir (s : State) (m : OutMsg) : (s.emit m).dir = s.dir := rfl
@[simp] theorem State.emit_tags (s : State) (m : OutMsg) : (s.emit m).tags = s.tags := rfl
@[simp] theorem State.emit_fmem (s : State) (m : OutMsg) : (s.emit m).fmem = s.fmem := rfl
@[simp] theorem State.emit_fbad (s : State) (m : OutMsg) : (s.emit m).fbad = s.fbad := rfl
@[simp] theorem State.emit_cmem (s : State) (m : OutMsg) : (s.emit m).cmem = s.cmem := rfl
@[simp] theorem State.emit_net (s : State) (m : OutMsg) : (s.emit m).net = s.net := rfl
@[simp] theorem State.emit_power (s : State) (m : OutMsg) : (s.emit m).power = s.power := rfl
@[simp] theorem State.emit_planes (s : State) (m : OutMsg) : (s.emit m).planes = s.planes := rfl
@[simp] theorem State.emit_ctxs (s : State) (m : OutMsg) : (s.emit m).ctxs = s.ctxs := rfl
@[simp] theorem State.emit_clusters (s : State) (m : OutMsg) : (s.emit m).clusters = s.clusters := rfl
@[simp] theorem State.emit_dies (s : State) (m : OutMsg) : (s.emit m).dies = s.dies := rfl
@[simp] theorem State.emit_hub (s : State) (m : OutMsg) : (s.emit m).hub = s.hub := rfl

/-! ## send -/

@[simp] theorem State.send_agenda (s : State) (p : Packet) : (s.send p).agenda = s.agenda := rfl
@[simp] theorem State.send_cur (s : State) (p : Packet) : (s.send p).cur = s.cur := rfl
@[simp] theorem State.send_free (s : State) (p : Packet) : (s.send p).free = s.free := rfl
@[simp] theorem State.send_mem (s : State) (p : Packet) : (s.send p).mem = s.mem := rfl
@[simp] theorem State.send_bad (s : State) (p : Packet) : (s.send p).bad = s.bad := rfl
@[simp] theorem State.send_soft (s : State) (p : Packet) : (s.send p).soft = s.soft := rfl
@[simp] theorem State.send_l2 (s : State) (p : Packet) : (s.send p).l2 = s.l2 := rfl
@[simp] theorem State.send_dir (s : State) (p : Packet) : (s.send p).dir = s.dir := rfl
@[simp] theorem State.send_tags (s : State) (p : Packet) : (s.send p).tags = s.tags := rfl
@[simp] theorem State.send_fmem (s : State) (p : Packet) : (s.send p).fmem = s.fmem := rfl
@[simp] theorem State.send_fbad (s : State) (p : Packet) : (s.send p).fbad = s.fbad := rfl
@[simp] theorem State.send_cmem (s : State) (p : Packet) : (s.send p).cmem = s.cmem := rfl
@[simp] theorem State.send_power (s : State) (p : Packet) : (s.send p).power = s.power := rfl
@[simp] theorem State.send_planes (s : State) (p : Packet) : (s.send p).planes = s.planes := rfl
@[simp] theorem State.send_ctxs (s : State) (p : Packet) : (s.send p).ctxs = s.ctxs := rfl
@[simp] theorem State.send_clusters (s : State) (p : Packet) : (s.send p).clusters = s.clusters := rfl
@[simp] theorem State.send_dies (s : State) (p : Packet) : (s.send p).dies = s.dies := rfl
@[simp] theorem State.send_hub (s : State) (p : Packet) : (s.send p).hub = s.hub := rfl
@[simp] theorem State.send_out (s : State) (p : Packet) : (s.send p).out = s.out := rfl

/-! ## dropPacket -/

@[simp] theorem State.dropPacket_agenda (s : State) (k : Nat) : (s.dropPacket k).agenda = s.agenda := rfl
@[simp] theorem State.dropPacket_cur (s : State) (k : Nat) : (s.dropPacket k).cur = s.cur := rfl
@[simp] theorem State.dropPacket_free (s : State) (k : Nat) : (s.dropPacket k).free = s.free := rfl
@[simp] theorem State.dropPacket_mem (s : State) (k : Nat) : (s.dropPacket k).mem = s.mem := rfl
@[simp] theorem State.dropPacket_bad (s : State) (k : Nat) : (s.dropPacket k).bad = s.bad := rfl
@[simp] theorem State.dropPacket_soft (s : State) (k : Nat) : (s.dropPacket k).soft = s.soft := rfl
@[simp] theorem State.dropPacket_l2 (s : State) (k : Nat) : (s.dropPacket k).l2 = s.l2 := rfl
@[simp] theorem State.dropPacket_dir (s : State) (k : Nat) : (s.dropPacket k).dir = s.dir := rfl
@[simp] theorem State.dropPacket_tags (s : State) (k : Nat) : (s.dropPacket k).tags = s.tags := rfl
@[simp] theorem State.dropPacket_fmem (s : State) (k : Nat) : (s.dropPacket k).fmem = s.fmem := rfl
@[simp] theorem State.dropPacket_fbad (s : State) (k : Nat) : (s.dropPacket k).fbad = s.fbad := rfl
@[simp] theorem State.dropPacket_cmem (s : State) (k : Nat) : (s.dropPacket k).cmem = s.cmem := rfl
@[simp] theorem State.dropPacket_power (s : State) (k : Nat) : (s.dropPacket k).power = s.power := rfl
@[simp] theorem State.dropPacket_planes (s : State) (k : Nat) : (s.dropPacket k).planes = s.planes := rfl
@[simp] theorem State.dropPacket_ctxs (s : State) (k : Nat) : (s.dropPacket k).ctxs = s.ctxs := rfl
@[simp] theorem State.dropPacket_clusters (s : State) (k : Nat) : (s.dropPacket k).clusters = s.clusters := rfl
@[simp] theorem State.dropPacket_dies (s : State) (k : Nat) : (s.dropPacket k).dies = s.dies := rfl
@[simp] theorem State.dropPacket_hub (s : State) (k : Nat) : (s.dropPacket k).hub = s.hub := rfl
@[simp] theorem State.dropPacket_out (s : State) (k : Nat) : (s.dropPacket k).out = s.out := rfl

/-! ## modPlane and modVd -/

@[simp] theorem State.modPlane_agenda (s : State) (pl : Nat) (f : Plane → Plane) : (s.modPlane pl f).agenda = s.agenda := by
  unfold State.modPlane; split <;> rfl
@[simp] theorem State.modPlane_cur (s : State) (pl : Nat) (f : Plane → Plane) : (s.modPlane pl f).cur = s.cur := by
  unfold State.modPlane; split <;> rfl
@[simp] theorem State.modPlane_free (s : State) (pl : Nat) (f : Plane → Plane) : (s.modPlane pl f).free = s.free := by
  unfold State.modPlane; split <;> rfl
@[simp] theorem State.modPlane_mem (s : State) (pl : Nat) (f : Plane → Plane) : (s.modPlane pl f).mem = s.mem := by
  unfold State.modPlane; split <;> rfl
@[simp] theorem State.modPlane_bad (s : State) (pl : Nat) (f : Plane → Plane) : (s.modPlane pl f).bad = s.bad := by
  unfold State.modPlane; split <;> rfl
@[simp] theorem State.modPlane_soft (s : State) (pl : Nat) (f : Plane → Plane) : (s.modPlane pl f).soft = s.soft := by
  unfold State.modPlane; split <;> rfl
@[simp] theorem State.modPlane_l2 (s : State) (pl : Nat) (f : Plane → Plane) : (s.modPlane pl f).l2 = s.l2 := by
  unfold State.modPlane; split <;> rfl
@[simp] theorem State.modPlane_dir (s : State) (pl : Nat) (f : Plane → Plane) : (s.modPlane pl f).dir = s.dir := by
  unfold State.modPlane; split <;> rfl
@[simp] theorem State.modPlane_tags (s : State) (pl : Nat) (f : Plane → Plane) : (s.modPlane pl f).tags = s.tags := by
  unfold State.modPlane; split <;> rfl
@[simp] theorem State.modPlane_fmem (s : State) (pl : Nat) (f : Plane → Plane) : (s.modPlane pl f).fmem = s.fmem := by
  unfold State.modPlane; split <;> rfl
@[simp] theorem State.modPlane_fbad (s : State) (pl : Nat) (f : Plane → Plane) : (s.modPlane pl f).fbad = s.fbad := by
  unfold State.modPlane; split <;> rfl
@[simp] theorem State.modPlane_cmem (s : State) (pl : Nat) (f : Plane → Plane) : (s.modPlane pl f).cmem = s.cmem := by
  unfold State.modPlane; split <;> rfl
@[simp] theorem State.modPlane_net (s : State) (pl : Nat) (f : Plane → Plane) : (s.modPlane pl f).net = s.net := by
  unfold State.modPlane; split <;> rfl
@[simp] theorem State.modPlane_power (s : State) (pl : Nat) (f : Plane → Plane) : (s.modPlane pl f).power = s.power := by
  unfold State.modPlane; split <;> rfl
@[simp] theorem State.modPlane_ctxs (s : State) (pl : Nat) (f : Plane → Plane) : (s.modPlane pl f).ctxs = s.ctxs := by
  unfold State.modPlane; split <;> rfl
@[simp] theorem State.modPlane_clusters (s : State) (pl : Nat) (f : Plane → Plane) : (s.modPlane pl f).clusters = s.clusters := by
  unfold State.modPlane; split <;> rfl
@[simp] theorem State.modPlane_dies (s : State) (pl : Nat) (f : Plane → Plane) : (s.modPlane pl f).dies = s.dies := by
  unfold State.modPlane; split <;> rfl
@[simp] theorem State.modPlane_hub (s : State) (pl : Nat) (f : Plane → Plane) : (s.modPlane pl f).hub = s.hub := by
  unfold State.modPlane; split <;> rfl
@[simp] theorem State.modPlane_out (s : State) (pl : Nat) (f : Plane → Plane) : (s.modPlane pl f).out = s.out := by
  unfold State.modPlane; split <;> rfl
@[simp] theorem State.modVd_agenda (s : State) (v : Nat) (f : Vd → Vd) : (s.modVd v f).agenda = s.agenda := by
  unfold State.modVd; split <;> rfl
@[simp] theorem State.modVd_cur (s : State) (v : Nat) (f : Vd → Vd) : (s.modVd v f).cur = s.cur := by
  unfold State.modVd; split <;> rfl
@[simp] theorem State.modVd_free (s : State) (v : Nat) (f : Vd → Vd) : (s.modVd v f).free = s.free := by
  unfold State.modVd; split <;> rfl
@[simp] theorem State.modVd_mem (s : State) (v : Nat) (f : Vd → Vd) : (s.modVd v f).mem = s.mem := by
  unfold State.modVd; split <;> rfl
@[simp] theorem State.modVd_bad (s : State) (v : Nat) (f : Vd → Vd) : (s.modVd v f).bad = s.bad := by
  unfold State.modVd; split <;> rfl
@[simp] theorem State.modVd_soft (s : State) (v : Nat) (f : Vd → Vd) : (s.modVd v f).soft = s.soft := by
  unfold State.modVd; split <;> rfl
@[simp] theorem State.modVd_l2 (s : State) (v : Nat) (f : Vd → Vd) : (s.modVd v f).l2 = s.l2 := by
  unfold State.modVd; split <;> rfl
@[simp] theorem State.modVd_dir (s : State) (v : Nat) (f : Vd → Vd) : (s.modVd v f).dir = s.dir := by
  unfold State.modVd; split <;> rfl
@[simp] theorem State.modVd_tags (s : State) (v : Nat) (f : Vd → Vd) : (s.modVd v f).tags = s.tags := by
  unfold State.modVd; split <;> rfl
@[simp] theorem State.modVd_fmem (s : State) (v : Nat) (f : Vd → Vd) : (s.modVd v f).fmem = s.fmem := by
  unfold State.modVd; split <;> rfl
@[simp] theorem State.modVd_fbad (s : State) (v : Nat) (f : Vd → Vd) : (s.modVd v f).fbad = s.fbad := by
  unfold State.modVd; split <;> rfl
@[simp] theorem State.modVd_cmem (s : State) (v : Nat) (f : Vd → Vd) : (s.modVd v f).cmem = s.cmem := by
  unfold State.modVd; split <;> rfl
@[simp] theorem State.modVd_net (s : State) (v : Nat) (f : Vd → Vd) : (s.modVd v f).net = s.net := by
  unfold State.modVd; split <;> rfl
@[simp] theorem State.modVd_power (s : State) (v : Nat) (f : Vd → Vd) : (s.modVd v f).power = s.power := by
  unfold State.modVd; split <;> rfl
@[simp] theorem State.modVd_planes (s : State) (v : Nat) (f : Vd → Vd) : (s.modVd v f).planes = s.planes := by
  unfold State.modVd; split <;> rfl
@[simp] theorem State.modVd_ctxs (s : State) (v : Nat) (f : Vd → Vd) : (s.modVd v f).ctxs = s.ctxs := by
  unfold State.modVd; split <;> rfl
@[simp] theorem State.modVd_clusters (s : State) (v : Nat) (f : Vd → Vd) : (s.modVd v f).clusters = s.clusters := by
  unfold State.modVd; split <;> rfl
@[simp] theorem State.modVd_dies (s : State) (v : Nat) (f : Vd → Vd) : (s.modVd v f).dies = s.dies := by
  unfold State.modVd; split <;> rfl
@[simp] theorem State.modVd_out (s : State) (v : Nat) (f : Vd → Vd) : (s.modVd v f).out = s.out := by
  unfold State.modVd; split <;> rfl

/-! ## Reading back -/

@[simp] theorem State.ctx_setCtx (s : State) (c : Nat) (x : Ctx) : (s.setCtx c x).ctx c = x := by simp [State.ctx, State.setCtx]
theorem State.ctx_setCtx_ne (s : State) {c d : Nat} (x : Ctx) (h : d ≠ c) : (s.setCtx c x).ctx d = s.ctx d := by
  simp [State.ctx, State.setCtx, tget_tset_ne _ _ _ h]
@[simp] theorem State.ctx_modCtx (s : State) (c : Nat) (f : Ctx → Ctx) : (s.modCtx c f).ctx c = f (s.ctx c) := by simp [State.modCtx]
theorem State.ctx_modCtx_ne (s : State) {c d : Nat} (f : Ctx → Ctx) (h : d ≠ c) : (s.modCtx c f).ctx d = s.ctx d := by
  simp [State.modCtx, State.ctx_setCtx_ne s _ h]
@[simp] theorem State.die_setDie (s : State) (d : Nat) (x : Die) : (s.setDie d x).die d = x := by simp [State.die, State.setDie]
@[simp] theorem State.cluster_setCluster (s : State) (c : Nat) (x : Cluster) : (s.setCluster c x).cluster c = x := by
  simp [State.cluster, State.setCluster]
@[simp] theorem State.powerOf_setPower (s : State) (t : Nat) (p : Power) : (s.setPower t p).powerOf t = p := by
  simp [State.powerOf, State.setPower]
@[simp] theorem State.plane_setPlane (s : State) (pl : Nat) (p : Plane) : (s.setPlane pl p).plane? pl = some p := by
  simp [State.plane?, State.setPlane]
theorem State.plane_setPlane_ne (s : State) {pl q : Nat} (p : Plane) (h : q ≠ pl) : (s.setPlane pl p).plane? q = s.plane? q := by
  simp [State.plane?, State.setPlane, tfind_tset_ne _ _ h]
@[simp] theorem State.vd_setVd (s : State) (v : Nat) (x : Vd) : (s.setVd v x).vd? v = some x := by simp [State.vd?, State.setVd]
@[simp] theorem State.slot_setSlot (s : State) (k : Nat) (x : KeySlot) : (s.setSlot k x).slot k = x := by
  simp [State.slot, State.setSlot]
theorem State.modPlane_some {s : State} {pl : Nat} {p : Plane} (f : Plane → Plane) (h : s.plane? pl = some p) :
    s.modPlane pl f = s.setPlane pl (f p) := by
  unfold State.modPlane; rw [h]
theorem State.plane_modPlane_ne (s : State) {pl q : Nat} (f : Plane → Plane) (h : q ≠ pl) : (s.modPlane pl f).plane? q = s.plane? q := by
  unfold State.modPlane
  split
  · exact State.plane_setPlane_ne s _ h
  · rfl

/-! ## Free values -/

@[simp] theorem State.draw_value (s : State) : s.draw.1 = s.free := rfl
@[simp] theorem State.draw_state (s : State) : s.draw.2 = { s with free := s.free + 1 } := rfl

/-! ## Registers of a context (R23) -/

@[simp] theorem Ctx.getX_zero (c : Ctx) : c.getX 0 = 0 := rfl
@[simp] theorem Ctx.setX_zero (c : Ctx) (v : Word) : c.setX 0 v = c := rfl
theorem Ctx.getX_setX_same (c : Ctx) {r : XReg} (v : Word) (h : r ≠ 0) : (c.setX r v).getX r = v := by
  have hr : r.val ≠ 0 := fun e => h (Fin.ext e)
  unfold Ctx.getX Ctx.setX
  rw [if_neg hr, if_neg hr]
  exact Vector.getElem_set_self r.isLt
theorem Ctx.getX_setX_ne (c : Ctx) {r q : XReg} (v : Word) (h : q ≠ r) : (c.setX r v).getX q = c.getX q := by
  have hq : r.val ≠ q.val := fun e => h (Fin.ext e.symm)
  unfold Ctx.getX Ctx.setX
  split
  · rfl
  · split
    · rfl
    · exact Vector.getElem_set_ne r.isLt q.isLt hq
@[simp] theorem Ctx.adv_part (c : Ctx) : c.adv.part = [] := rfl
@[simp] theorem Ctx.adv_puts (c : Ctx) : c.adv.puts = c.puts := rfl
@[simp] theorem Ctx.adv_pc (c : Ctx) : c.adv.pc = c.pc + 8 := rfl
@[simp] theorem Ctx.adv_x (c : Ctx) : c.adv.x = c.x := rfl
@[simp] theorem Ctx.adv_pl (c : Ctx) : c.adv.pl = c.pl := rfl
@[simp] theorem Ctx.getX_adv (c : Ctx) (r : XReg) : c.adv.getX r = c.getX r := rfl
@[simp] theorem Ctx.setX_pc (c : Ctx) (r : XReg) (v : Word) : (c.setX r v).pc = c.pc := by unfold Ctx.setX; split <;> rfl
@[simp] theorem Ctx.setX_pl (c : Ctx) (r : XReg) (v : Word) : (c.setX r v).pl = c.pl := by unfold Ctx.setX; split <;> rfl
@[simp] theorem Ctx.setX_epc (c : Ctx) (r : XReg) (v : Word) : (c.setX r v).epc = c.epc := by unfold Ctx.setX; split <;> rfl
@[simp] theorem Ctx.setX_fepc (c : Ctx) (r : XReg) (v : Word) : (c.setX r v).fepc = c.fepc := by unfold Ctx.setX; split <;> rfl
@[simp] theorem Ctx.setX_tvec (c : Ctx) (r : XReg) (v : Word) : (c.setX r v).tvec = c.tvec := by unfold Ctx.setX; split <;> rfl
@[simp] theorem Ctx.setX_ftvec (c : Ctx) (r : XReg) (v : Word) : (c.setX r v).ftvec = c.ftvec := by unfold Ctx.setX; split <;> rfl

end Sys2Proof.Machine
end

