-- ==== Sys2Proof/Laws/Ops.lean ====
section
/-! SUPPORT. What the shared operations can do: which parts of the state the operations on a context or a plane leave alone, what
those read after a write, and, for every operation that answers a state, that the memories keep their canonical form. -/

-- One theorem at a time: many at once take a stack each, and the text as a whole then passes its memory limit.
set_option Elab.async false

namespace Sys2Proof.Machine

/-! ## Contexts -/

/-- A write of a register and the advance of the PC change nothing else of the context. -/
theorem Ctx.setX_frame (c : Ctx) (r : XReg) (v : Word) : c.setX r v = { c with x := (c.setX r v).x } := by
  simp only [Ctx.setX]; split <;> rfl
theorem Ctx.adv_frame (c : Ctx) : c.adv = { c with pc := c.pc + 8, wait := .none, part := [] } := rfl

@[simp] theorem ctx_setCtx_same (s : State) (k : Nat) (c : Ctx) : (s.setCtx k c).ctx k = c := tget_tset_same _ _ _ _
theorem ctx_setCtx_ne (s : State) {j k : Nat} (c : Ctx) (h : j ≠ k) : (s.setCtx k c).ctx j = s.ctx j := tget_tset_ne _ _ _ h
@[simp] theorem ctx_modCtx_same (s : State) (k : Nat) (f : Ctx → Ctx) : (s.modCtx k f).ctx k = f (s.ctx k) := ctx_setCtx_same _ _ _
theorem ctx_modCtx_ne (s : State) {j k : Nat} (f : Ctx → Ctx) (h : j ≠ k) : (s.modCtx k f).ctx j = s.ctx j := ctx_setCtx_ne _ _ h

/-- Only the table of contexts changes when a context is written. -/
theorem setCtx_frame (s : State) (k : Nat) (c : Ctx) : s.setCtx k c = { s with ctxs := (s.setCtx k c).ctxs } := rfl
theorem finish_frame (s : State) (cid : Nat) : finish s cid = { s with ctxs := (finish s cid).ctxs } := rfl
theorem finishX_frame (s : State) (cid : Nat) (xd : XReg) (v : Nat) : finishX s cid xd v = { s with ctxs := (finishX s cid xd v).ctxs } := rfl
theorem setEvent_frame (s : State) (cid i : Nat) : setEvent s cid i = { s with ctxs := (setEvent s cid i).ctxs } := rfl

/-- Everything a trap can do (R205): it writes its context, and at FIRM it also reports to the hub. -/
theorem takeTrap_frame (s : State) (cid cause : Nat) (ue : Bool) (v epc : Word) :
    takeTrap s cid cause ue v epc = { s with ctxs := (takeTrap s cid cause ue v epc).ctxs, out := (takeTrap s cid cause ue v epc).out } := by
  unfold takeTrap
  dsimp only
  split
  · rfl
  · split <;> rfl
/-- A trap leaves every other context as it was. -/
theorem takeTrap_ctx_ne (s : State) {j cid : Nat} (cause : Nat) (ue : Bool) (v epc : Word) (h : j ≠ cid) :
    (takeTrap s cid cause ue v epc).ctx j = s.ctx j := by
  unfold takeTrap
  dsimp only
  split
  · exact ctx_setCtx_ne _ _ h
  · split
    · exact ctx_setCtx_ne _ _ h
    · exact ctx_setCtx_ne _ _ h
/-- A trap never writes a general register. -/
theorem takeTrap_x (s : State) (cid cause : Nat) (ue : Bool) (v epc : Word) : ((takeTrap s cid cause ue v epc).ctx cid).x = (s.ctx cid).x := by
  unfold takeTrap
  dsimp only
  split
  · rw [ctx_setCtx_same]
  · split
    · rw [ctx_setCtx_same]
    · have : ∀ (t : State) (m : OutMsg), (t.emit m).ctx cid = t.ctx cid := fun _ _ => rfl
      rw [this, ctx_setCtx_same]
/-- Events enter only contexts (R206). -/
theorem enterEvent_frame (s : State) (cid : Nat) : enterEvent s cid = { s with ctxs := (enterEvent s cid).ctxs } := by
  unfold enterEvent
  dsimp only
  split
  · rfl
  · split <;> rfl

/-! ## Planes -/

@[simp] theorem plane_setPlane_same (s : State) (k : Nat) (p : Plane) : (s.setPlane k p).plane? k = some p := tfind_tset_same _ _ _
theorem plane_setPlane_ne (s : State) {j k : Nat} (p : Plane) (h : j ≠ k) : (s.setPlane k p).plane? j = s.plane? j := tfind_tset_ne _ _ h
/-- Only the table of planes changes when a plane is written. -/
theorem modPlane_frame (s : State) (k : Nat) (f : Plane → Plane) : s.modPlane k f = { s with planes := (s.modPlane k f).planes } := by
  unfold State.modPlane
  split <;> rfl
theorem plane_modPlane_ne (s : State) {j k : Nat} (f : Plane → Plane) (h : j ≠ k) : (s.modPlane k f).plane? j = s.plane? j := by
  unfold State.modPlane
  split
  · exact plane_setPlane_ne _ _ h
  · rfl
theorem plane_modPlane_same (s : State) (k : Nat) (f : Plane → Plane) : (s.modPlane k f).plane? k = (s.plane? k).map f := by
  unfold State.modPlane
  split
  · rename_i h; rw [plane_setPlane_same, h]; rfl
  · rename_i h; rw [h]; rfl

/-! ## The memories keep their canonical form -/

theorem foldl_memWf {α : Type} (f : State → α → State) (hf : ∀ t x, t.memWf = true → (f t x).memWf = true) (l : List α) :
    ∀ s : State, s.memWf = true → (l.foldl f s).memWf = true := by
  induction l with
  | nil => intro s h; exact h
  | cons a r ih => intro s h; exact ih _ (hf s a h)
theorem memWf_iff (s : State) : s.memWf = true ↔ s.mem.wf = true ∧ s.fmem.wf = true ∧ s.cmem.wf = true ∧ s.hub.ckpt.all (fun c => c.mem.wf)
    = true := by
  simp [State.memWf, and_assoc]
theorem mfree_wf {m : Memory} (n lo k : Nat) (h : m.wf = true) : Memory.wf (mfree m n lo k) = true := by
  induction k generalizing m with
  | zero => exact h
  | succ k ih => exact ih (mwrite_wf _ _ h)
theorem filter_wf {m : Memory} (f : Host.Cell → Bool) (h : m.wf = true) : Memory.wf (m.filter f) = true := filter_wfFrom f m 0 h
theorem foldl_mfree_wf (n k : Nat) (l : List Nat) : ∀ m : Memory, m.wf = true → Memory.wf (l.foldl (fun m lo => mfree m n lo k) m) = true := by
  induction l with
  | nil => intro m h; exact h
  | cons a r ih => intro m h; exact ih _ (mfree_wf n a k h)

theorem State.setCtx_memWf (s : State) (c : Nat) (x : Ctx) (h : s.memWf = true) : (State.setCtx s c x).memWf = true := by
  grind [State.setCtx, State.memWf]

theorem State.modCtx_memWf (s : State) (c : Nat) (f : Ctx → Ctx) (h : s.memWf = true) : (State.modCtx s c f).memWf = true := by
  grind [State.modCtx, State.memWf, State.setCtx_memWf]

theorem State.setDie_memWf (s : State) (d : Nat) (x : Die) (h : s.memWf = true) : (State.setDie s d x).memWf = true := by
  grind [State.setDie, State.memWf]

theorem State.setCluster_memWf (s : State) (c : Nat) (x : Cluster) (h : s.memWf = true) : (State.setCluster s c x).memWf = true := by
  grind [State.setCluster, State.memWf]

theorem State.modCluster_memWf (s : State) (c : Nat) (f : Cluster → Cluster) (h : s.memWf = true) : (State.modCluster s c f).memWf = true := by
  grind [State.modCluster, State.memWf, State.setCluster_memWf]

theorem State.setPower_memWf (s : State) (t : Nat) (p : Power) (h : s.memWf = true) : (State.setPower s t p).memWf = true := by
  grind [State.setPower, State.memWf]

theorem State.setPlane_memWf (s : State) (pl : Nat) (p : Plane) (h : s.memWf = true) : (State.setPlane s pl p).memWf = true := by
  grind [State.setPlane, State.memWf]

theorem State.modPlane_memWf (s : State) (pl : Nat) (f : Plane → Plane) (h : s.memWf = true) : (State.modPlane s pl f).memWf = true := by
  grind [State.modPlane, State.memWf, State.setPlane_memWf]

theorem State.setVd_memWf (s : State) (v : Nat) (x : Vd) (h : s.memWf = true) : (State.setVd s v x).memWf = true := by
  grind [State.setVd, State.memWf]

theorem State.modVd_memWf (s : State) (v : Nat) (f : Vd → Vd) (h : s.memWf = true) : (State.modVd s v f).memWf = true := by
  grind [State.modVd, State.memWf, State.setVd_memWf]

theorem State.setSlot_memWf (s : State) (k : Nat) (x : KeySlot) (h : s.memWf = true) : (State.setSlot s k x).memWf = true := by
  grind [State.setSlot, State.memWf]

theorem State.emit_memWf (s : State) (m : OutMsg) (h : s.memWf = true) : (State.emit s m).memWf = true := by
  grind [State.emit, State.memWf]

theorem State.send_memWf (s : State) (p : Packet) (h : s.memWf = true) : (State.send s p).memWf = true := by
  grind [State.send, State.memWf]

theorem State.dropPacket_memWf (s : State) (k : Nat) (h : s.memWf = true) : (State.dropPacket s k).memWf = true := by
  grind [State.dropPacket, State.memWf]

theorem State.draw_memWf (s : State) (h : s.memWf = true) : (State.draw s).2.memWf = true := by
  grind [State.draw, State.memWf]

theorem fireMonitors_memWf (s : State) (sector : Nat) (h : s.memWf = true) : (fireMonitors s sector).memWf = true := by
  grind [fireMonitors, State.memWf]

theorem touchLine_memWf (s : State) (o : Nat) (h : s.memWf = true) : (touchLine s o).memWf = true := by
  grind [touchLine, State.memWf, State.draw_memWf]

theorem takeBack_memWf (s : State) (o : Nat) (h : s.memWf = true) : (takeBack s o).memWf = true := by
  grind [takeBack, State.memWf, State.emit_memWf]

theorem takeBackAll_memWf (s : State) (hit : Nat → Bool) (h : s.memWf = true) : (takeBackAll s hit).memWf = true := by
  unfold takeBackAll
  exact foldl_memWf _ (fun t x ht => takeBack_memWf _ _ ht) _ _ h

theorem homeWrite_memWf (s : State) (off : Nat) (mask : Nat) (data : Nat) (kslot : Nat) (h : s.memWf = true)
    : (homeWrite s off mask data kslot).memWf = true := by
  have ht := fireMonitors_memWf _ (paOf s off) (touchLine_memWf s off h)
  unfold homeWrite
  generalize fireMonitors (touchLine s off) (paOf s off) = t at ht
  generalize fullMask = fm
  rw [memWf_iff] at ht
  have hw : ∀ x, Memory.wf (mwriteN t.mem off 32 x) = true := fun x => mwriteN_wf _ _ _ ht.1
  dsimp only
  generalize (32 : Nat) = k at hw ⊢
  split
  · exact (memWf_iff _).2 ⟨hw _, ht.2⟩
  · split
    · exact (memWf_iff _).2 ht
    · exact (memWf_iff _).2 ⟨hw _, ht.2⟩

theorem homePut_memWf (s : State) (off : Nat) (mask : Nat) (data : Nat) (kslot : Nat) (h : s.memWf = true)
    : (homePut s off mask data kslot).memWf = true := by
  unfold homePut
  repeat' split
  all_goals grind [State.memWf, homeWrite_memWf, takeBack_memWf, mwriteN_wf, mwriteBytes_wf, mzero_wf, mfree_wf, filter_wf]

theorem poisonSector_memWf (s : State) (off : Nat) (h : s.memWf = true) : (poisonSector s off).memWf = true := by
  grind [poisonSector, State.memWf, fireMonitors_memWf, takeBack_memWf]

theorem State.emitPacket_memWf (s : State) (p : Packet) (h : s.memWf = true) : (State.emitPacket s p).memWf = true := by
  grind [State.emitPacket, State.memWf, State.emit_memWf]

theorem State.linkUp_memWf (s : State) (h : s.memWf = true) : (State.linkUp s).1.memWf = true := by
  grind [State.linkUp, State.memWf, State.draw_memWf]

theorem devWriteAux_memWf (a0 : Nat) (a1 : State) (a2 : Nat) (a3 : Nat) (a4 : Bytes) (h : a1.memWf = true)
    : (devWriteAux a0 a1 a2 a3 a4).memWf = true := by
  fun_induction devWriteAux a0 a1 a2 a3 a4 <;> grind [State.memWf, homePut_memWf, State.linkUp_memWf, State.emitPacket_memWf]

theorem devWrite_memWf (s : State) (pa : Nat) (kslot : Nat) (l : Bytes) (h : s.memWf = true) : (devWrite s pa kslot l).memWf = true := by
  grind [devWrite, State.memWf, devWriteAux_memWf]

theorem devReadF_memWf (s : State) (pa : Nat) (kslot : Nat) (n : Nat) (h : s.memWf = true) : (devReadF s pa kslot n).1.memWf = true := by
  grind [devReadF, State.memWf, State.draw_memWf]

theorem writeTags_memWf (s : State) (off : Nat) (kslot : Nat) (a3 : Nat) (h : s.memWf = true) : (writeTags s off kslot a3).memWf = true := by
  induction a3 with
  | zero => exact h
  | succ n ih => rw [writeTags]; exact ih

theorem addLog_memWf (s : State) (ev : Nat) (unit : Nat) (ty : Nat) (tx : Nat) (detail : Nat) (h : s.memWf = true)
    : (addLog s ev unit ty tx detail).memWf = true := by
  grind [addLog, State.memWf]

theorem fqNotify_memWf (s : State) (k : Nat) (v : Vd) (h : s.memWf = true) : (fqNotify s k v).memWf = true := by
  grind [fqNotify, State.memWf, State.modVd_memWf, State.emit_memWf]

theorem writeSlots_memWf (a0 : Nat) (a1 : State) (a2 : Vd) (a3 : Nat) (a4 : Bytes) (h : a1.memWf = true)
    : (writeSlots a0 a1 a2 a3 a4).memWf = true := by
  fun_induction writeSlots a0 a1 a2 a3 a4 <;> grind [State.memWf, devWrite_memWf]

theorem fqWrite_memWf (s : State) (k : Nat) (v : Vd) (rc : Bytes) (h : s.memWf = true) : (fqWrite s k v rc).memWf = true := by
  grind [fqWrite, State.memWf, writeSlots_memWf, State.setVd_memWf, fqNotify_memWf, devWrite_memWf]

theorem raise_memWf (s : State) (k : Nat) (rc : Bytes) (h : s.memWf = true) : (raise s k rc).memWf = true := by
  grind [raise, State.memWf, devReadF_memWf, fqWrite_memWf, State.setVd_memWf, devWrite_memWf]

theorem setEvent_memWf (s : State) (cid : Nat) (i : Nat) (h : s.memWf = true) : (setEvent s cid i).memWf = true := by
  grind [setEvent, State.memWf, State.modCtx_memWf]

theorem dequeue_memWf (s : State) (pl : Nat) (k : Nat) (h : s.memWf = true) : (dequeue s pl k).memWf = true := by
  grind [dequeue, State.memWf, State.setPlane_memWf, State.send_memWf]

theorem dequeueAll_memWf (s : State) (pl : Nat) (a2 : List Nat) (h : s.memWf = true) : (dequeueAll s pl a2).memWf = true := by
  fun_induction dequeueAll s pl a2 <;> grind [State.memWf, dequeue_memWf]

theorem elemTrap_memWf (s : State) (pl : Nat) (e : Nat) (slot : Nat) (cause : Nat) (code : Nat) (chans : BitVec 8) (h : s.memWf = true)
    : (elemTrap s pl e slot cause code chans).memWf = true := by
  grind [elemTrap, State.memWf, raise_memWf, State.setPlane_memWf, setEvent_memWf]

theorem finishFiring_memWf (s : State) (pl : Nat) (e : Nat) (f : EFields) (kind : Kind) (cmp : Bool) (h : s.memWf = true)
    : (finishFiring s pl e f kind cmp).memWf = true := by
  grind [finishFiring, State.memWf, dequeueAll_memWf, State.modPlane_memWf]

theorem completeFiring_memWf (s : State) (pl : Nat) (e : Nat) (slot : Nat) (f : EFields) (kind : Kind) (r : Result) (scl : Bool)
    (lat : Nat) (iter : Bool) (h : s.memWf = true) : (completeFiring s pl e slot f kind r scl lat iter).memWf = true := by
  grind [completeFiring, State.memWf, finishFiring_memWf, State.modPlane_memWf]

theorem dlogAppend_memWf (s : State) (v : Vd) (level : Nat) (e : Nat) (h : s.memWf = true) : (dlogAppend s v level e).memWf = true := by
  grind [dlogAppend, State.memWf, devReadF_memWf, devWrite_memWf]

theorem setDirty_memWf (s : State) (v : Vd) (ea : Nat) (level : Nat) (e : Nat) (h : s.memWf = true) : (setDirty s v ea level e).memWf = true := by
  grind [setDirty, State.memWf, devWrite_memWf, dlogAppend_memWf]

theorem readEntry_memWf (s : State) (w : Nat) (vd : Nat) (level : Nat) (va : Nat) (ea : Nat) (h : s.memWf = true)
    : (readEntry s w vd level va ea).1.memWf = true := by
  grind [readEntry, State.memWf, devReadF_memWf, State.draw_memWf]

theorem walkPut_memWf (s : State) (w : Nat) (vd : Nat) (level : Nat) (va : Nat) (e : Nat) (h : s.memWf = true)
    : (walkPut s w vd level va e).memWf = true := by
  grind [walkPut, State.memWf]

theorem walkFrom_memWf (s : State) (w : Nat) (vd : Nat) (v : Vd) (va : Nat) (write : Bool) (wport : Bool) (a7 : Nat) (a8 : Nat)
    (h : s.memWf = true) : (walkFrom s w vd v va write wport a7 a8).1.memWf = true := by
  fun_induction walkFrom s w vd v va write wport a7 a8 <;> grind [State.memWf, readEntry_memWf, State.draw_memWf, setDirty_memWf, walkPut_memWf]

theorem tlbPut_memWf (s : State) (a : Nat) (t : TlbEntry) (h : s.memWf = true) : (tlbPut s a t).memWf = true := by
  grind [tlbPut, State.memWf, State.draw_memWf]

theorem dropTlb_memWf (s : State) (hit : TlbEntry → Bool) (h : s.memWf = true) : (dropTlb s hit).memWf = true := by
  grind [dropTlb, State.memWf]

theorem tlbFill_memWf (s : State) (a : Nat) (t : TlbEntry) (h : s.memWf = true) : (tlbFill s a t).memWf = true := by
  grind [tlbFill, State.memWf, tlbPut_memWf]

theorem walkMiss_memWf (s : State) (unit : Nat) (vd : Nat) (v : Vd) (a : Nat) (write : Bool) (wport : Bool) (h : s.memWf = true)
    : (walkMiss s unit vd v a write wport).1.memWf = true := by
  have hw := walkFrom_memWf s (walkUnit unit) vd v a write wport 5 v.ptroot h
  unfold walkMiss
  split <;> rename_i heq <;> rw [heq] at hw
  · exact hw
  · exact tlbFill_memWf _ _ _ hw

theorem translateAny_memWf (s : State) (unit : Nat) (vd : Nat) (va : Word) (write : Bool) (wport : Bool) (h : s.memWf = true)
    : (translateAny s unit vd va write wport).1.memWf = true := by
  unfold translateAny
  repeat' split
  all_goals grind [State.memWf, tlbPut_memWf, walkMiss_memWf, mwriteN_wf, mwriteBytes_wf, mzero_wf, mfree_wf, filter_wf]

theorem translateFor_memWf (s : State) (unit : Nat) (vd : Nat) (va : Word) (write : Bool) (wport : Bool) (blk : Bool) (h : s.memWf = true)
    : (translateFor s unit vd va write wport blk).1.memWf = true := by
  grind [translateFor, State.memWf, translateAny_memWf]

theorem translate_memWf (s : State) (unit : Nat) (vd : Nat) (va : Word) (write : Bool) (wport : Bool) (h : s.memWf = true)
    : (translate s unit vd va write wport).1.memWf = true := by
  grind [translate, State.memWf, translateFor_memWf]

theorem takeFid_memWf (s : State) (vd : Nat) (o : FidOwner) (h : s.memWf = true) : (takeFid s vd o).2.memWf = true := by
  grind [takeFid, State.memWf, State.setVd_memWf]

theorem dropFid_memWf (s : State) (vd : Nat) (fid : Nat) (h : s.memWf = true) : (dropFid s vd fid).memWf = true := by
  grind [dropFid, State.memWf, State.modVd_memWf]

theorem countHbm_memWf (s : State) (vd : Nat) (i : Nat) (pa : Nat) (h : s.memWf = true) : (countHbm s vd i pa).memWf = true := by
  grind [countHbm, State.memWf, State.modVd_memWf]

theorem correct_memWf (s : State) (o : Nat) (h : s.memWf = true) : (correct s o).memWf = true := by
  grind [correct, State.memWf, addLog_memWf]

theorem plainSector_memWf (s : State) (src : Agent) (vd : Nat) (pa : Nat) (kslot : Nat) (acq : optParam (Option Scope) Option.none)
    (h : s.memWf = true) : (plainSector s src vd pa kslot acq).1.memWf = true := by
  grind [plainSector, State.memWf, correct_memWf, touchLine_memWf, State.draw_memWf, State.emitPacket_memWf]

theorem homeSector_memWf (s : State) (src : Agent) (vd : Nat) (pa : Nat) (kslot : Nat) (acq : optParam (Option Scope) Option.none)
    (h : s.memWf = true) : (homeSector s src vd pa kslot acq).1.memWf = true := by
  grind [homeSector, State.memWf, plainSector_memWf, countHbm_memWf]

theorem setFifo_memWf (s : State) (b : Nat) (l : List Lanes) (h : s.memWf = true) : (setFifo s b l).memWf = true := by
  grind [setFifo, State.memWf, State.modCluster_memWf]

theorem cachePut_memWf (s : State) (cluster : Nat) (pa : Nat) (v : Lanes) (h : s.memWf = true) : (cachePut s cluster pa v).memWf = true := by
  grind [cachePut, State.memWf, State.setCluster_memWf, State.draw_memWf]

theorem loadSector_memWf (s : State) (src : Agent) (vd : Nat) (pa : Nat) (kslot : Nat) (cp : Nat) (acq : optParam (Option Scope)
    Option.none) (h : s.memWf = true) : (loadSector s src vd pa kslot cp acq).1.memWf = true := by
  grind [loadSector, State.memWf, setFifo_memWf, homeSector_memWf, cachePut_memWf]

theorem reaches_memWf (s : State) (src : Agent) (pa : Nat) (cp : Nat) (h : s.memWf = true) : (reaches s src pa cp).1.memWf = true := by
  grind [reaches, State.memWf, State.linkUp_memWf]

theorem invalidate_memWf (s : State) (cluster : Nat) (h : s.memWf = true) : (invalidate s cluster).memWf = true := by
  grind [invalidate, State.memWf, State.modCluster_memWf]

theorem updateCopy_memWf (s : State) (cluster : Nat) (pa : Nat) (mask : Nat) (data : Nat) (kslot : Nat) (h : s.memWf = true)
    : (updateCopy s cluster pa mask data kslot).memWf = true := by
  grind [updateCopy, State.memWf, State.modCluster_memWf]

theorem performStore_memWf (s : State) (src : Agent) (vd : Nat) (a : Access) (h : s.memWf = true) : (performStore s src vd a).memWf = true := by
  grind [performStore, State.memWf, fireMonitors_memWf, setFifo_memWf, homePut_memWf, countHbm_memWf, updateCopy_memWf]

theorem partAdd_memWf (s : State) (w : Who) (va : Word) (v : Lanes) (h : s.memWf = true) : (partAdd s w va v).memWf = true := by
  cases w
  · exact State.modCtx_memWf _ _ _ h
  · exact h
  · exact h

theorem readSector_memWf (s : State) (w : Who) (vd : Nat) (va : Word) (got : Bool) (h : s.memWf = true)
    : (readSector s w vd va got).1.memWf = true := by
  grind [readSector, State.memWf, translate_memWf, reaches_memWf, homeSector_memWf, loadSector_memWf, partAdd_memWf]

theorem vreadAux_memWf (w : Who) (vd : Nat) (a2 : Nat) (a3 : State) (a4 : Word) (a5 : Nat) (a6 : Bool) (a7 : Bytes) (h : a3.memWf = true)
    : (vreadAux w vd a2 a3 a4 a5 a6 a7).1.memWf = true := by
  fun_induction vreadAux w vd a2 a3 a4 a5 a6 a7 <;> grind [State.memWf, readSector_memWf]

theorem vread_memWf (s : State) (w : Who) (vd : Nat) (va : Word) (n : Nat) (h : s.memWf = true) : (vread s w vd va n).1.memWf = true := by
  grind [vread, State.memWf, vreadAux_memWf]

theorem vplanAux_memWf (cluster : Nat) (vd : Nat) (a2 : Nat) (a3 : State) (a4 : Word) (a5 : Bytes) (a6 : List Access) (h : a3.memWf = true)
    : (vplanAux cluster vd a2 a3 a4 a5 a6).1.memWf = true := by
  fun_induction vplanAux cluster vd a2 a3 a4 a5 a6 <;> grind [State.memWf, translate_memWf]

theorem vplan_memWf (s : State) (cluster : Nat) (vd : Nat) (va : Word) (l : Bytes) (h : s.memWf = true)
    : (vplan s cluster vd va l).1.memWf = true := by
  grind [vplan, State.memWf, vplanAux_memWf]

theorem answerLoad_memWf (s : State) (p : Packet) (v : Lanes) (ue : Bool) (h : s.memWf = true) : (answerLoad s p v ue).memWf = true := by
  grind [answerLoad, State.memWf, invalidate_memWf, State.send_memWf]

theorem remoteAnswer_memWf (s : State) (p : Packet) (h : s.memWf = true) : (remoteAnswer s p).memWf = true := by
  grind [remoteAnswer, State.memWf, State.send_memWf, State.draw_memWf, cachePut_memWf, answerLoad_memWf]

theorem remoteCopy_memWf (s : State) (p : Packet) (h : s.memWf = true) : (remoteCopy s p).memWf = true := by
  grind [remoteCopy, State.memWf, updateCopy_memWf]

theorem leave_memWf (s : State) (p : Packet) (h : s.memWf = true) : (leave s p).memWf = true := by
  grind [leave, State.memWf, answerLoad_memWf, State.linkUp_memWf, remoteAnswer_memWf, State.emitPacket_memWf, remoteCopy_memWf]

theorem toNet_memWf (s : State) (p : Packet) (h : s.memWf = true) : (toNet s p).memWf = true := by
  grind [toNet, State.memWf, State.send_memWf, leave_memWf]

theorem flushRemote_memWf (a0 : Nat) (a1 : State) (h : a1.memWf = true) : (flushRemote a0 a1).memWf = true := by
  induction a0 generalizing a1 with
  | zero => exact h
  | succ f ih =>
    rw [flushRemote]
    split
    · exact h
    · split
      · exact ih _ (leave_memWf _ _ (State.dropPacket_memWf _ _ h))
      · exact h

theorem performAll_memWf (s : State) (src : Agent) (vd : Nat) (a3 : List Access) (h : s.memWf = true) : (performAll s src vd a3).memWf = true := by
  fun_induction performAll s src vd a3 <;> grind [State.memWf, performStore_memWf, leave_memWf]

theorem countMac_memWf (s : State) (p : Plane) (h : s.memWf = true) : (countMac s p).memWf = true := by
  grind [countMac, State.memWf, State.modVd_memWf]

theorem countDropped_memWf (s : State) (p : Plane) (h : s.memWf = true) : (countDropped s p).memWf = true := by
  unfold countDropped
  refine foldl_memWf _ (fun t x ht => ?_) _ _ h
  split
  · exact countMac_memWf _ _ ht
  · exact ht

theorem issueFx_memWf (s : State) (pl : Nat) (f : Fx) (st : Option Strand) (h : s.memWf = true) : (issueFx s pl f st).memWf = true := by
  unfold issueFx
  repeat' split
  all_goals grind [State.memWf, toNet_memWf, State.setPlane_memWf, State.modPlane_memWf, mwriteN_wf, mwriteBytes_wf, mzero_wf, mfree_wf, filter_wf]

theorem sendToken_memWf (s : State) (pl : Nat) (port : Nat) (dpl : Nat) (chan : Nat) (t : Token) (h : s.memWf = true)
    : (sendToken s pl port dpl chan t).memWf = true := by
  grind [sendToken, State.memWf, State.send_memWf]

theorem drainPort_memWf (force : Bool) (pl : Nat) (port : Nat) (a3 : Nat) (a4 : State) (h : a4.memWf = true)
    : (drainPort force pl port a3 a4).memWf = true := by
  fun_induction drainPort force pl port a3 a4 <;> grind [State.memWf, sendToken_memWf, State.setPlane_memWf]

theorem drainOuts_memWf (force : Bool) (s : State) (pl : Nat) (h : s.memWf = true) : (drainOuts force s pl).memWf = true := by
  grind [drainOuts, State.memWf, drainPort_memWf, foldl_memWf]

theorem grantAll_memWf (s : State) (p : Plane) (h : s.memWf = true) : (grantAll s p).memWf = true := by
  unfold grantAll
  refine foldl_memWf _ (fun t k ht => ?_) _ _ h
  split
  · exact State.modPlane_memWf _ _ _ ht
  · exact ht

theorem takeKnot_memWf (s : State) (pl : Nat) (u : Nat) (drain : Bool) (h : s.memWf = true) : (takeKnot s pl u drain).memWf = true := by
  grind [takeKnot, State.memWf, dequeueAll_memWf, grantAll_memWf, State.modPlane_memWf]

theorem releaseHeld_memWf (pl : Nat) (a1 : List Held) (a2 : State) (h : a2.memWf = true) : (releaseHeld pl a1 a2).memWf = true := by
  fun_induction releaseHeld pl a1 a2 <;> grind [State.memWf, State.modPlane_memWf, issueFx_memWf]

theorem shootNote_memWf (s : State) (pl : Nat) (all : Bool) (h : s.memWf = true) : (shootNote s pl all).memWf = true := by
  grind [shootNote, State.memWf]

theorem commitGroup_memWf (s : State) (pl : Nat) (all : Bool) (h : s.memWf = true) : (commitGroup s pl all).memWf = true := by
  grind [commitGroup, State.memWf, releaseHeld_memWf, State.setPlane_memWf, State.modPlane_memWf, drainOuts_memWf, shootNote_memWf]

theorem releaseStrands_memWf (s : State) (pl : Nat) (h : s.memWf = true) : (releaseStrands s pl).memWf = true := by
  grind [releaseStrands, State.memWf, toNet_memWf, State.setPlane_memWf, foldl_memWf]

theorem State.modSec_memWf (s : State) (cid : Nat) (k : Nat) (f : Section → Section) (h : s.memWf = true)
    : (State.modSec s cid k f).memWf = true := by
  grind [State.modSec, State.memWf, State.modCtx_memWf]

theorem taskEnds_memWf (s : State) (cid : Nat) (sec : Nat) (h : s.memWf = true) : (taskEnds s cid sec).memWf = true := by
  grind [taskEnds, State.memWf, State.modCluster_memWf]

theorem freePlane_memWf (s : State) (pl : Nat) (h : s.memWf = true) : (freePlane s pl).memWf = true := by
  grind [freePlane, State.memWf, State.modCtx_memWf, taskEnds_memWf, shootNote_memWf]

theorem tryRetire_memWf (s : State) (pl : Nat) (h : s.memWf = true) : (tryRetire s pl).memWf = true := by
  grind [tryRetire, State.memWf, releaseStrands_memWf, freePlane_memWf]

theorem netOnly_memWf (s : State) (l : List Packet) (h : s.memWf = true) : ({ s with net := l } : State).memWf = true := h

theorem dropFault_memWf (s : State) (vd : Nat) (f : Option Fault5) (h : s.memWf = true) :
    (match f with | some f => dropFid s vd f.fid | none => s).memWf = true := by
  cases f with
  | none => exact h
  | some f => exact dropFid_memWf s vd f.fid h

theorem rollbackPlane_memWf (s : State) (pl : Nat) (h : s.memWf = true) : (rollbackPlane s pl).memWf = true := by
  unfold rollbackPlane
  cases s.plane? pl with
  | none => exact h
  | some p =>
    exact State.setPlane_memWf _ _ _ (countDropped_memWf _ _ (shootNote_memWf _ _ _
      (dropFault_memWf _ p.vd p.wfault (dropFault_memWf _ p.vd p.fault (netOnly_memWf s _ h)))))

theorem haltElem_memWf (s : State) (pl : Nat) (e : Nat) (h : s.memWf = true) : (haltElem s pl e).memWf = true := by
  grind [haltElem, State.memWf, State.modPlane_memWf]

theorem raiseEvent_memWf (s : State) (c : Option Nat) (i : Nat) (h : s.memWf = true) : (raiseEvent s c i).memWf = true := by
  unfold raiseEvent
  repeat' split
  all_goals grind [State.memWf, setEvent_memWf, mwriteN_wf, mwriteBytes_wf, mzero_wf, mfree_wf, filter_wf]

theorem misroute_memWf (s : State) (k : Nat) (x : Packet) (case : Nat) (dpl : Nat) (dunit : Nat) (dch : Nat) (srcFa : Nat)
    (credit : Option (Nat × Nat)) (h : s.memWf = true) : (misroute s k x case dpl dunit dch srcFa credit).memWf = true := by
  grind [misroute, State.memWf, raiseEvent_memWf, raise_memWf, State.dropPacket_memWf, State.send_memWf]

theorem deliverToken_memWf (s : State) (k : Nat) (h : s.memWf = true) : (deliverToken s k).memWf = true := by
  unfold deliverToken
  repeat' split
  all_goals grind [State.memWf, misroute_memWf, State.modPlane_memWf, State.dropPacket_memWf, mwriteN_wf, mwriteBytes_wf, mzero_wf,
    mfree_wf, filter_wf]

theorem fillResult_memWf (s : State) (pl : Nat) (c : Nat) (place : Nat) (otag : BitVec 4) (val : Word) (null : Bool) (psn : Option Word)
    (ue : Bool) (h : s.memWf = true) : (fillResult s pl c place otag val null psn ue).memWf = true := State.modPlane_memWf _ _ _ h

theorem deliverResult_memWf (s : State) (k : Nat) (h : s.memWf = true) : (deliverResult s k).memWf = true := by
  unfold deliverResult
  repeat' split
  all_goals grind [State.memWf, misroute_memWf, fillResult_memWf, State.dropPacket_memWf, mwriteN_wf, mwriteBytes_wf, mzero_wf, mfree_wf, filter_wf]

theorem deliver_memWf (s : State) (k : Nat) (h : s.memWf = true) : (deliver s k).memWf = true := by
  grind [deliver, State.memWf, deliverToken_memWf, deliverResult_memWf]

theorem deliverHeld_memWf (tile : Nat) (a1 : Nat) (a2 : State) (h : a2.memWf = true) : (deliverHeld tile a1 a2).memWf = true := by
  fun_induction deliverHeld tile a1 a2 <;> grind [State.memWf, deliver_memWf]

theorem wakeTile_memWf (s : State) (tile : Nat) (h : s.memWf = true) : (wakeTile s tile).memWf = true := by
  grind [wakeTile, State.memWf, State.modPlane_memWf, State.setPower_memWf, foldl_memWf]

theorem drainWake_memWf (s : State) (pl : Nat) (h : s.memWf = true) : (drainWake s pl).memWf = true := by
  grind [drainWake, State.memWf, drainOuts_memWf, wakeTile_memWf]

theorem takeEntry_memWf (s : State) (c : Chan) (h : s.memWf = true) : (takeEntry s c).memWf = true := by
  grind [takeEntry, State.memWf, State.setPlane_memWf]

theorem dropSurplus_memWf (pl : Nat) (k : Nat) (a2 : Nat) (a3 : State) (h : a3.memWf = true) : (dropSurplus pl k a2 a3).memWf = true := by
  fun_induction dropSurplus pl k a2 a3 <;> grind [State.memWf, dequeue_memWf]

theorem makeRoom_memWf (s : State) (pl : Nat) (p : Plane) (unit : Nat) (h : s.memWf = true) : (makeRoom s pl p unit).memWf = true := by
  grind [makeRoom, State.memWf, dropSurplus_memWf, foldl_memWf]

theorem reportStuck_memWf (s : State) (cid : Nat) (h : s.memWf = true) : (reportStuck s cid).memWf = true := by
  grind [reportStuck, State.memWf, State.modCtx_memWf, setEvent_memWf, raise_memWf]

theorem unsend_memWf (pl : Nat) (s : State) (port : Nat) (h : s.memWf = true) : (unsend pl s port).memWf = true := by
  have hn : ∀ (t : State) (net : List Packet), t.memWf = true → ({ t with net := net } : State).memWf = true := fun _ _ ht => ht
  unfold unsend
  split
  · exact h
  · split
    · exact h
    · split
      · dsimp only
        split
        · exact State.setPlane_memWf _ _ _ (hn _ _ h)
        · exact State.modPlane_memWf _ _ _ (State.setPlane_memWf _ _ _ (hn _ _ h))
      · exact h

theorem unsendAll_memWf (s : State) (pl : Nat) (h : s.memWf = true) : (unsendAll s pl).memWf = true := by
  unfold unsendAll
  split
  · exact h
  · exact foldl_memWf _ (fun t k ht => unsend_memWf _ _ _ ht) _ _ h

theorem recut_memWf (s : State) (pl : Nat) (h : s.memWf = true) : (recut s pl).memWf = true := by
  grind [recut, State.memWf, State.modPlane_memWf]

theorem rollbackLinked_memWf (s : State) (pl : Nat) (h : s.memWf = true) : (rollbackLinked s pl).memWf = true := by
  grind [rollbackLinked, State.memWf, recut_memWf, rollbackPlane_memWf, unsendAll_memWf, foldl_memWf]

theorem startAssay_memWf (s : State) (tile : Nat) (pl : Nat) (trig : Nat) (h : s.memWf = true) : (startAssay s tile pl trig).memWf = true := by
  grind [startAssay, State.memWf, State.modPlane_memWf, foldl_memWf]

theorem agenGive_memWf (s : State) (pl : Nat) (n : Nat) (p : Plane) (o : AgenOut) {u : State} (h : s.memWf = true)
    (hu : agenGive s pl n p o = some u) : u.memWf = true := by
  grind [agenGive, State.memWf, State.setPlane_memWf, raise_memWf]

theorem raisePlaneFault_memWf (s : State) (pl : Nat) (va : Word) (ord : Nat) (reason : Nat) (acc : Nat) (src : Nat) (slot : Nat)
    (elem : Nat) (got : List (Word × Nat × Nat × Nat)) {u : State} (h : s.memWf = true) (hu : raisePlaneFault s pl va ord reason acc src slot elem got = some u) : u.memWf = true := by
  grind [raisePlaneFault, State.memWf, takeFid_memWf, raise_memWf, State.modPlane_memWf]

theorem mifUsed_memWf (pl : Nat) (s : State) (h : s.memWf = true) : (mifUsed pl s).memWf = true := by
  grind [mifUsed, State.memWf, State.modPlane_memWf]

theorem linkRead_memWf (s : State) (pl : Nat) (p : Plane) (pa kslot cp : Nat) {x : State × Lanes × Bool} (h : s.memWf = true)
    (hu : linkRead s pl p pa kslot cp = some x) : x.1.memWf = true := by
  unfold linkRead at hu
  dsimp only at hu
  split at hu
  · cases hu
  · have hr := reaches_memWf s (.plane pl) (pa / 32 * 32) cp h
    split at hu
    · cases hu
    · rename_i hx
      rw [hx] at hr
      cases hu
      exact loadSector_memWf (h := mifUsed_memWf _ _ hr) ..

theorem linkPage_memWf (s : State) (pl : Nat) (n : Nat) (p : Plane) (a : AgenSt) {u : State} (h : s.memWf = true)
    (hu : linkPage s pl n p a = some u) : u.memWf = true := by
  unfold linkPage at hu
  extract_lets first pg set poison at hu
  have hs : ∀ t a, t.memWf = true → ∀ u, some (set t a) = some u → u.memWf = true := by
    intro t a ht u hx; cases hx; exact State.modPlane_memWf _ _ _ ht
  have hp : ∀ t c e, t.memWf = true → ∀ u, poison t c e = some u → u.memWf = true := by
    intro t c e ht u hx
    simp only [poison] at hx
    split at hx
    · cases hx
    · exact agenGive_memWf _ _ _ _ _ ht hx
  clear_value set poison pg first
  have hT : ∀ t r, translate s (tlbTile (planeTile pl)) p.vd pg false false = (t, r) → t.memWf = true := by
    intro t r e
    have ht := translate_memWf s (tlbTile (planeTile pl)) p.vd pg false false h
    rw [e] at ht
    exact ht
  repeat' split at hu
  all_goals first
    | exact hs _ _ h _ hu
    | exact hp _ _ _ h _ hu
    | cases hu; done
    | exact hs _ _ (linkRead_memWf _ _ _ _ _ _ (hT _ _ (by assumption)) (by assumption)) _ hu
    | exact hp _ _ _ (linkRead_memWf _ _ _ _ _ _ (hT _ _ (by assumption)) (by assumption)) _ hu
    | exact hp _ _ _ (raisePlaneFault_memWf _ _ _ _ _ _ _ _ _ _ (hT _ _ (by assumption)) (by assumption)) _ hu
    | (cases hu; exact raisePlaneFault_memWf _ _ _ _ _ _ _ _ _ _ (hT _ _ (by assumption)) (by assumption))

theorem linkAhead_memWf (s : State) (pl : Nat) (n : Nat) (h : s.memWf = true) : (linkAhead s pl n).memWf = true := by
  unfold linkAhead
  split
  · exact h
  · rename_i p _
    extract_lets a pg
    clear_value pg
    split
    · exact h
    · split
      · exact h
      · rename_i hx
        have ht := translate_memWf s (tlbTile (planeTile pl)) p.vd pg false false h
        rw [hx] at ht
        split
        · exact h
        · exact h
        · rename_i hr
          exact State.modPlane_memWf _ _ _ (linkRead_memWf _ _ _ _ _ _ ht hr)

theorem wportRead_memWf (s : State) (pl : Nat) (p : Plane) (va : Word) (h : s.memWf = true) : (wportRead s pl p va).1.memWf = true := by
  grind [wportRead, State.memWf, translate_memWf, homeSector_memWf]

theorem wportGive_memWf (pl : Nat) (n : Nat) (t : Token) (s : State) (h : s.memWf = true) : (wportGive pl n t s).memWf = true := by
  grind [wportGive, State.memWf, State.modPlane_memWf]

theorem refillTry_memWf (s : State) (pl : Nat) (p : Plane) (va : Word) (h : s.memWf = true) : (refillTry s pl p va).1.memWf = true := by
  grind [refillTry, State.memWf, wportRead_memWf]

theorem refillRead_memWf (s : State) (pl : Nat) (p : Plane) (a3 : Option (Nat × Nat × Nat)) (h : s.memWf = true)
    : (refillRead s pl p a3).1.memWf = true := by
  unfold refillRead
  repeat' split
  all_goals grind [State.memWf, refillTry_memWf, State.draw_memWf, mwriteN_wf, mwriteBytes_wf, mzero_wf, mfree_wf, filter_wf]

theorem refillParts_memWf (pl : Nat) (p : Plane) (a2 : List (Nat × Nat × Nat)) (a3 : Nat) (a4 : State) (h : a4.memWf = true)
    : (refillParts pl p a2 a3 a4).1.memWf = true := by
  fun_induction refillParts pl p a2 a3 a4 <;> grind [State.memWf, refillRead_memWf]

theorem rereadTok_memWf (s : State) (pl : Nat) (p : Plane) (t : Token) (va : Word) (h : s.memWf = true) : (rereadTok s pl p t va).1.memWf = true := by
  have hw := refillTry_memWf s pl p va h
  unfold rereadTok
  split <;> rename_i hx <;> rw [hx] at hw <;> exact hw

theorem rereadPlace_memWf (s : State) (pl : Nat) (p : Plane) (x : Place) (h : s.memWf = true) : (rereadPlace s pl p x).1.memWf = true := by
  unfold rereadPlace
  split
  · split
    · exact rereadTok_memWf _ _ _ _ _ h
    · exact h
  · exact h

theorem rereadPlaces_memWf (pl : Nat) (p : Plane) (a2 : List Place) (a3 : State) (h : a3.memWf = true)
    : (rereadPlaces pl p a2 a3).1.memWf = true := by
  induction a2 generalizing a3 with
  | nil => exact h
  | cons x r ih => rw [rereadPlaces]; exact ih _ (rereadPlace_memWf a3 pl p x h)

theorem rereadChans_memWf (pl : Nat) (p : Plane) (a2 : List Nat) (a3 : State) (h : a3.memWf = true) : (rereadChans pl p a2 a3).memWf = true := by
  induction a2 generalizing a3 with
  | nil => exact h
  | cons k r ih =>
    rw [rereadChans]
    exact ih _ (State.modPlane_memWf _ _ _ (rereadPlaces_memWf pl p _ a3 h))

theorem refillElem_memWf (s : State) (pl : Nat) (p : Plane) (e : Nat) (h : s.memWf = true) : (refillElem s pl p e).memWf = true := by
  grind [refillElem, State.memWf, refillParts_memWf, refillRead_memWf, rereadChans_memWf, State.modPlane_memWf]

theorem translateAll_memWf (unit : Nat) (vd : Nat) (write : Bool) (blk : Bool) (a4 : List Word) (a5 : List (Word × Nat × Nat × Nat))
    (a6 : State) (h : a6.memWf = true) : (translateAll unit vd write blk a4 a5 a6).1.memWf = true := by
  fun_induction translateAll unit vd write blk a4 a5 a6 <;> grind [State.memWf, translateFor_memWf]

theorem deliverLoad_memWf (s : State) (pl : Nat) (l : Load) (h : s.memWf = true) : (deliverLoad s pl l).memWf = true := by
  grind [deliverLoad, State.memWf, State.modPlane_memWf]

theorem takeSector_memWf (s : State) (pl : Nat) (id : Nat) (sector : Nat) (v : Lanes) (ue : Bool) (nul : Bool) (h : s.memWf = true)
    : (takeSector s pl id sector v ue nul).memWf = true := by
  grind [takeSector, State.memWf, State.setPlane_memWf, deliverLoad_memWf]

theorem askSector_memWf (s : State) (pl : Nat) (id : Nat) (sector : Nat) (kslot : Nat) (cp : Nat) (acq : Option Scope) (h : s.memWf = true)
    : (askSector s pl id sector kslot cp acq).memWf = true := by
  grind [askSector, State.memWf, toNet_memWf]

theorem reqDone_memWf (pl : Nat) (n : Nat) (s : State) (h : s.memWf = true) : (reqDone pl n s).memWf = true := by
  grind [reqDone, State.memWf, State.modPlane_memWf]

theorem replyNow_memWf (pl : Nat) (r : Req) (t : Token) (s : State) (h : s.memWf = true) : (replyNow pl r t s).memWf = true := by
  grind [replyNow, State.memWf, State.modPlane_memWf]

theorem performReq_memWf (s : State) (pl : Nat) (p : Plane) (r : Req) (l : List (Word × Nat × Nat × Nat)) {u : State} (h : s.memWf = true)
    (hu : performReq s pl p r l = some u) : u.memWf = true := by
  have hm : ∀ (t : State) (va : Word) (ord e acc src slot elem : Nat) (got : List (Word × Nat × Nat × Nat)) (f : State → State), t.memWf = true →
      (∀ t, t.memWf = true → (f t).memWf = true) → ∀ u, (raisePlaneFault t pl va ord e acc src slot elem got).map f = some u → u.memWf = true := by
    intro t va ord e acc src slot elem got f ht hf u hx
    cases hr : raisePlaneFault t pl va ord e acc src slot elem got with
    | none => rw [hr] at hx; cases hx
    | some x => rw [hr] at hx; cases hx; exact hf _ (raisePlaneFault_memWf _ _ _ _ _ _ _ _ _ _ ht hr)
  have hh : ∀ fs, ∀ u, (if holdRoom p fs then some (reqDone pl (max 1 fs.length) (s.modPlane pl (holdAll pl r.late fs))) else none) = some u →
      u.memWf = true := by
    intro fs u hx
    split at hx
    · cases hx; exact reqDone_memWf _ _ _ (State.modPlane_memWf _ _ _ h)
    · cases hx
  have h1 : ∀ n, ∀ u, some (reqDone pl n s) = some u → u.memWf = true := by
    intro n u hx; cases hx; exact reqDone_memWf _ _ _ h
  have h2 := hm s
  have h3 : ∀ va e slot elem u, (raisePlaneFault s pl va 0 e 1 0 slot elem []).map (reqDone pl 1) = some u → u.memWf = true :=
    fun va e slot elem u => hm s va 0 e 1 0 slot elem [] (reqDone pl 1) h (reqDone_memWf pl 1) u
  rw [performReq] at hu
  extract_lets at hu
  clear_value *
  repeat' split at hu
  all_goals first
    | exact h1 _ _ hu
    | exact hh _ _ hu
    | exact h3 _ _ _ _ _ hu
    | (cases hu; first | exact reqDone_memWf _ _ _ (State.setPlane_memWf _ _ _ h) | exact reqDone_memWf _ _ _ (State.modPlane_memWf _ _ _ (askSector_memWf _ _ _ _ _ _ _ (State.setPlane_memWf _ _ _ h))))
    | (cases hu; exact reqDone_memWf _ _ _ (State.modPlane_memWf _ _ _ (askSector_memWf _ _ _ _ _ _ _ (State.setPlane_memWf _ _ _ h))))

theorem plainReq_memWf (pl : Nat) (r : Req) (s : State) (h : s.memWf = true) : (plainReq pl r s).memWf = true := by
  grind [plainReq, State.memWf, reqDone_memWf, replyNow_memWf]

theorem takeRequest_memWf (s : State) (pl : Nat) (p : Plane) (r : Req) {u : State} (h : s.memWf = true)
    (hu : takeRequest s pl p r = some u) : u.memWf = true := by
  grind [takeRequest, State.memWf, reqDone_memWf, replyNow_memWf, translateAll_memWf, performReq_memWf, plainReq_memWf, raisePlaneFault_memWf]

theorem groupDone_memWf (pl : Nat) (ord : Nat) (s : State) (h : s.memWf = true) : (groupDone pl ord s).memWf = true := by
  grind [groupDone, State.memWf, State.modPlane_memWf]

theorem takeGroup_memWf (s : State) (pl : Nat) (n : Nat) (p : Plane) (addrs : List Word) (kind : Kind) (ord : Nat)
    {u : State} (h : s.memWf = true) (hu : takeGroup s pl n p addrs kind ord = some u) : u.memWf = true := by
  unfold takeGroup at hu
  extract_lets load late after failed store kind lsix give finish at hu
  have hf : ∀ t k, t.memWf = true → ∀ u, finish t k = some u → u.memWf = true := by
    intro t k ht u hx
    simp only [finish, give] at hx
    have hx := Option.some.inj hx
    subst hx
    refine mifUsed_memWf _ _ (groupDone_memWf _ _ _ ?_)
    split
    · exact State.modPlane_memWf _ _ _ ht
    · exact dequeue_memWf _ _ _ ht
  clear_value finish after give lsix kind store failed late load
  split at hu
  · cases hu
  split at hu
  · exact hf _ _ h _ hu
  split at hu
  · exact hf _ _ h _ hu
  have ht := translateAll_memWf (tlbTile (planeTile pl)) p.vd (!load) (esz p == 32) (addrs.drop (gotOf p).length) (gotOf p) s h
  split at hu
  · rename_i hx
    rw [hx] at ht
    split at hu
    · cases hu
    · rename_i hr
      have hr := raisePlaneFault_memWf _ _ _ _ _ _ _ _ _ _ ht hr
      split at hu
      · cases hu; exact hr
      · exact hf _ _ hr _ hu
  · rename_i l hx
    rw [hx] at ht
    extract_lets secs at hu
    split at hu
    · cases hu; exact groupDone_memWf _ _ _ (State.setPlane_memWf _ _ _ ht)
    · split at hu
      · exact hf _ _ ht _ hu
      · split at hu
        · cases hr : raisePlaneFault _ pl _ ord _ 1 1 0 0 [] with
          | none => rw [hr] at hu; cases hu
          | some x => rw [hr] at hu; exact hf _ _ (raisePlaneFault_memWf _ _ _ _ _ _ _ _ _ _ ht hr) _ hu
        · cases hu; exact groupDone_memWf _ _ _ (State.modPlane_memWf _ _ _ (dequeue_memWf _ _ _ ht))

theorem translateStream_memWf (unit : Nat) (p : Plane) (a2 : List StreamAcc) (a3 : List (StreamAcc × Nat × Nat × Nat)) (a4 : State)
    (h : a4.memWf = true) : (translateStream unit p a2 a3 a4).1.memWf = true := by
  induction a2 generalizing a3 a4 with
  | nil => exact h
  | cons x r ih =>
    rw [translateStream]
    have ht := translateFor_memWf a4 unit p.vd x.asker.va x.isStore false (x.whole p) h
    split <;> rename_i hx <;> rw [hx] at ht
    · exact ht
    · exact ih _ _ ht

theorem failStream_memWf (s : State) (pl : Nat) (p : Plane) (h : s.memWf = true) : (failStream s pl p).memWf = true := by
  unfold failStream
  exact State.modPlane_memWf _ _ _ (foldl_memWf _ (fun t l ht => State.modPlane_memWf _ _ _ ht) _ _ h)

theorem restream_again_memWf (s : State) (pl : Nat) (p : Plane) (h : s.memWf = true) : (restream.again s pl p).memWf = true := by
  unfold restream.again
  have ht := translateStream_memWf (tlbTile (planeTile pl)) p p.stream [] _ (State.setPlane_memWf s pl p h)
  split <;> rename_i hx <;> rw [hx] at ht
  · exact State.modPlane_memWf _ _ _ ht
  · dsimp only
    split
    · exact ht
    · rename_i hr
      have hr := raisePlaneFault_memWf _ _ _ _ _ _ _ _ _ _ ht hr
      split
      · exact hr
      · exact failStream_memWf _ _ _ hr

theorem restream_memWf (s : State) (pl : Nat) (p : Plane) (h : s.memWf = true) : (restream s pl p).memWf = true := by
  unfold restream
  split
  · split
    · exact failStream_memWf _ _ _ h
    · split
      · exact restream_again_memWf _ _ _ h
      · exact h
  · exact restream_again_memWf _ _ _ h

theorem sendResult_memWf (s : State) (x : Packet) (m : Msg) (val : Word) (null : Bool) (psn : Option Word) (ue : Bool) (h : s.memWf = true)
    : (sendResult s x m val null psn ue).memWf = true := by
  grind [sendResult, State.memWf, State.send_memWf]

theorem applyInstalled_memWf (s : State) (image : BitVec 256) (o : Nat) (kslot : Nat) (off : Nat) (op : Word) (h : s.memWf = true)
    : (applyInstalled s image o kslot off op).1.memWf = true := by
  grind [applyInstalled, State.memWf, homePut_memWf]

theorem applyBar_memWf (s : State) (x : Packet) (m : Msg) (o : Nat) (h : s.memWf = true) : (applyBar s x m o).memWf = true := by
  grind [applyBar, State.memWf, countHbm_memWf, sendResult_memWf, homePut_memWf]

theorem applyInvoke_memWf (s : State) (x : Packet) (m : Msg) {u : State} (h : s.memWf = true) (hu : applyInvoke s x m = some u) : u.memWf = true := by
  grind [applyInvoke, State.memWf, sendResult_memWf, raiseEvent_memWf, raise_memWf, addLog_memWf, applyBar_memWf, countHbm_memWf,
    applyInstalled_memWf, homePut_memWf]

theorem applyVamo_memWf (s : State) (vd : Nat) (sec : Nat) (wide : Bool) (v : Lanes) (kslot : Nat) (h : s.memWf = true)
    : (applyVamo s vd sec wide v kslot).memWf = true := by
  grind [applyVamo, State.memWf, addLog_memWf, countHbm_memWf, homePut_memWf]

theorem performFx_memWf (s : State) (x : Packet) (f : Fx) {u : State} (h : s.memWf = true) (hu : performFx s x f = some u) : u.memWf = true := by
  unfold performFx at hu
  repeat' split at hu
  all_goals grind [State.memWf, performStore_memWf, applyVamo_memWf, applyInvoke_memWf, mwriteN_wf, mwriteBytes_wf, mzero_wf, mfree_wf, filter_wf]

theorem claspSet_memWf (s : State) (d : Nat) (key : Nat) (c : ClaspCtx) (h : s.memWf = true) : (claspSet s d key c).memWf = true := by
  grind [claspSet, State.memWf, State.setDie_memWf]

theorem claspDel_memWf (s : State) (d : Nat) (key : Nat) (h : s.memWf = true) : (claspDel s d key).memWf = true := by
  grind [claspDel, State.memWf, State.setDie_memWf]

theorem claspAnswer_memWf (s : State) (x : Packet) (b : Body) (h : s.memWf = true) : (claspAnswer s x b).memWf = true := by
  grind [claspAnswer, State.memWf, State.send_memWf]

theorem takeClasp_memWf (s : State) (d : Nat) (key : Nat) (seq : Nat) (h : s.memWf = true) : (takeClasp s d key seq).1.memWf = true := by
  grind [takeClasp, State.memWf, claspSet_memWf]

theorem freeClasp_memWf (s : State) (d : Nat) (key : Nat) (h : s.memWf = true) : (freeClasp s d key).memWf = true := by
  grind [freeClasp, State.memWf, claspAnswer_memWf, claspDel_memWf, foldl_memWf]

theorem afterCommit_memWf (s : State) (x : Packet) (st : Strand) (d : Nat) (key : Nat) (h : s.memWf = true)
    : (afterCommit s x st d key).memWf = true := by
  grind [afterCommit, State.memWf, claspSet_memWf, claspAnswer_memWf, freeClasp_memWf]

theorem commitHeld_memWf (d : Nat) (key : Nat) (a2 : Nat) (a3 : State) (h : a3.memWf = true) : (commitHeld d key a2 a3).memWf = true := by
  fun_induction commitHeld d key a2 a3 <;> grind [State.memWf, claspSet_memWf, performFx_memWf, afterCommit_memWf, State.send_memWf]

theorem setUnack_memWf (s : State) (a : Agent) (f : List Packet → List Packet) (h : s.memWf = true) : (setUnack s a f).memWf = true := by
  unfold setUnack
  repeat' split
  all_goals grind [State.memWf, State.modPlane_memWf, State.modCtx_memWf, mwriteN_wf, mwriteBytes_wf, mzero_wf, mfree_wf, filter_wf]

theorem fireRemote_memWf (s : State) (y : Packet) (h : s.memWf = true) : (fireRemote s y).memWf = true := by
  grind [fireRemote, State.memWf, fireMonitors_memWf]

theorem reopen_memWf (s : State) (x : Packet) (six : Nat) (die : Nat) (n : Nat) (h : s.memWf = true) : (reopen s x six die n).memWf = true := by
  grind [reopen, State.memWf, toNet_memWf]

theorem takeTrap_memWf (s : State) (cid : Nat) (cause : Nat) (ue : Bool) (v : Word) (epc : Word) (h : s.memWf = true)
    : (takeTrap s cid cause ue v epc).memWf = true := by
  grind [takeTrap, State.memWf, State.setCtx_memWf, State.emit_memWf]

theorem trapHere_memWf (s : State) (cid : Nat) (cause : Nat) (v : Word) (h : s.memWf = true) : (trapHere s cid cause v).memWf = true := by
  grind [trapHere, State.memWf, takeTrap_memWf]

theorem enterEvent_memWf (s : State) (cid : Nat) (h : s.memWf = true) : (enterEvent s cid).memWf = true := by
  grind [enterEvent, State.memWf, State.setCtx_memWf]

theorem finishX_memWf (s : State) (cid : Nat) (xd : XReg) (v : Nat) (h : s.memWf = true) : (finishX s cid xd v).memWf = true := by
  grind [finishX, State.memWf, State.modCtx_memWf]

theorem finish_memWf (s : State) (cid : Nat) (h : s.memWf = true) : (finish s cid).memWf = true := by
  grind [finish, State.memWf, State.modCtx_memWf]

theorem ctxFaultS_memWf (s : State) (cid : Nat) (va : Word) (reason : Nat) (acc : Nat) (soft : Option (XReg × Nat)) (h : s.memWf = true)
    : (ctxFaultS s cid va reason acc soft).memWf = true := by
  unfold ctxFaultS
  repeat' split
  all_goals grind [State.memWf, takeFid_memWf, raise_memWf, State.modCtx_memWf, finishX_memWf, takeTrap_memWf, mwriteN_wf, mwriteBytes_wf,
    mzero_wf, mfree_wf, filter_wf]

theorem ctxFault_memWf (s : State) (cid : Nat) (va : Word) (reason : Nat) (acc : Nat) (h : s.memWf = true)
    : (ctxFault s cid va reason acc).memWf = true := by
  grind [ctxFault, State.memWf, ctxFaultS_memWf]

theorem ctxUe_memWf (s : State) (cid : Nat) (va : Word) (acc : Nat) (h : s.memWf = true) : (ctxUe s cid va acc).memWf = true := by
  grind [ctxUe, State.memWf, takeTrap_memWf, raise_memWf]

theorem ctxAccessS_memWf (s : State) (cid : Nat) (va : Word) (acc : Nat) (soft : Option (XReg × Nat)) (k : State → Nat → Nat → Nat → State)
    (h : s.memWf = true) (hk : ∀ t x1 x2 x3, t.memWf = true → (k t x1 x2 x3).memWf = true) : (ctxAccessS s cid va acc soft k).memWf = true := by
  unfold ctxAccessS
  repeat' split
  all_goals grind [State.memWf, translate_memWf, ctxFaultS_memWf, mwriteN_wf, mwriteBytes_wf, mzero_wf, mfree_wf, filter_wf]

theorem ctxAccess_memWf (s : State) (cid : Nat) (va : Word) (acc : Nat) (k : State → Nat → Nat → Nat → State) (h : s.memWf = true)
    (hk : ∀ t x1 x2 x3, t.memWf = true → (k t x1 x2 x3).memWf = true) : (ctxAccess s cid va acc k).memWf = true := by
  grind [ctxAccess, State.memWf, ctxAccessS_memWf]

theorem ctxRead_memWf (s : State) (cid : Nat) (va : Word) (n : Nat) (k : State → Bytes → State) (h : s.memWf = true)
    (hk : ∀ t x1, t.memWf = true → (k t x1).memWf = true) : (ctxRead s cid va n k).memWf = true := by
  grind [ctxRead, State.memWf, vread_memWf, ctxFault_memWf, ctxUe_memWf]

theorem firmUe_memWf (s : State) (cid : Nat) (a : Word) (h : s.memWf = true) : (firmUe s cid a).memWf = true := by
  grind [firmUe, State.memWf, takeTrap_memWf]

theorem firmWrite_memWf (s : State) (a : Nat) (l : Bytes) (h : s.memWf = true) : (firmWrite s a l).memWf = true := by
  rw [memWf_iff] at h ⊢
  exact ⟨h.1, mwriteBytes_wf _ _ h.2.1, h.2.2⟩

theorem ctxBytes_memWf (s : State) (cid : Nat) (va : Word) (n : Nat) (k : State → Bytes → State) (h : s.memWf = true)
    (hk : ∀ t x1, t.memWf = true → (k t x1).memWf = true) : (ctxBytes s cid va n k).memWf = true := by
  grind [ctxBytes, State.memWf, firmUe_memWf, ctxRead_memWf]

theorem issueCtx_memWf (s : State) (cid : Nat) (f : Fx) (k : Option Nat) (h : s.memWf = true) : (issueCtx s cid f k).memWf = true := by
  unfold issueCtx
  repeat' split
  all_goals grind [State.memWf, toNet_memWf, State.setCtx_memWf, mwriteN_wf, mwriteBytes_wf, mzero_wf, mfree_wf, filter_wf]

theorem loadDone_memWf (s : State) (cid : Nat) (xd : XReg) (v : Word) (h : s.memWf = true) : (loadDone s cid xd v).memWf = true := by
  grind [loadDone, State.memWf, State.modCtx_memWf]

theorem amoDone_memWf (s : State) (cid : Nat) (xd : XReg) (val : Word) (null : Bool) (h : s.memWf = true)
    : (amoDone s cid xd val null).memWf = true := by
  grind [amoDone, State.memWf, State.modCtx_memWf]

theorem invoke_memWf (s : State) (cid : Nat) (xd : XReg) (a : Word) (hd : Nat) (op : Word) (w32 : Bool) (waits : Bool) (acq : Bool)
    (rel : Bool) (h : s.memWf = true) : (invoke s cid xd a hd op w32 waits acq rel).memWf = true := by
  simp only [invoke]
  split
  · exact trapHere_memWf _ _ _ _ h
  · split
    · have hs : ∀ w : Option Nat, (match w with
        | some v => fireMonitors { s with fmem := mwriteN s.fmem a.toNat (handlerBytes hd) v } (firmSector a)
        | none => s).memWf = true := by
        intro w
        cases w with
        | none => exact h
        | some v => rw [memWf_iff] at h; exact fireMonitors_memWf _ _ ((memWf_iff _).2 ⟨h.1, mwriteN_wf _ _ _ h.2.1, h.2.2⟩)
      split
      · exact h
      split
      · exact firmUe_memWf _ _ _ h
      · have hq : ∀ (b : Bool) (t : State), t.memWf = true → (if b then invalidate t (ctxCluster cid) else t).memWf = true := by
          intro b t ht; cases b
          · exact ht
          · exact invalidate_memWf _ _ ht
        split
        · exact amoDone_memWf _ _ _ _ _ (hq acq _ (hs _))
        · exact finish_memWf _ _ (hq acq _ (hs _))
    · have ht := translate_memWf s (tlbCluster (ctxCluster cid)) (s.ctx cid).vdn a (hd != 15) false h
      generalize translate s (tlbCluster (ctxCluster cid)) (s.ctx cid).vdn a (hd != 15) false = x at ht
      obtain ⟨t, r⟩ := x
      cases r with
      | bad r => exact ctxFault_memWf _ _ _ _ _ ht
      | ok pa ks cp f =>
        dsimp only
        split
        · exact State.modCtx_memWf _ _ _ (issueCtx_memWf _ _ _ _ ht)
        · exact finish_memWf _ _ (issueCtx_memWf _ _ _ _ ht)

theorem mwaitDone_memWf (s : State) (cid : Nat) (xd : XReg) (status : Nat) (h : s.memWf = true) : (mwaitDone s cid xd status).memWf = true := by
  grind [mwaitDone, State.memWf, State.modCtx_memWf]

theorem monitorFired_memWf (s : State) (cid : Nat) (h : s.memWf = true) : (monitorFired s cid).1.memWf = true := by
  grind [monitorFired, State.memWf, State.draw_memWf]

theorem vreadAll_memWf (cid : Nat) (vd : Nat) (va : Word) (n : Nat) (a4 : Nat) (a5 : State) (h : a5.memWf = true)
    : (vreadAll cid vd va n a4 a5).1.memWf = true := by
  induction a4 generalizing a5 with
  | zero => exact h
  | succ f ih =>
    rw [vreadAll]
    have ht := vread_memWf a5 (.ctx cid) vd va n h
    split
    · rename_i hx; rw [hx] at ht; exact ih _ ht
    · exact ht

theorem armSection_memWf (s : State) (cid : Nat) (k : Nat) (task : Bool) (h : s.memWf = true) : (armSection s cid k task).memWf = true := by
  grind [armSection, State.memWf, State.modSec_memWf, State.modPlane_memWf, invalidate_memWf, wakeTile_memWf, foldl_memWf]

theorem resolveExits_memWf (s : State) (a : Nat) (b : Nat) (h : s.memWf = true) : (resolveExits s a b).memWf = true := by
  grind [resolveExits, State.memWf, State.modPlane_memWf, foldl_memWf]

theorem choosePlane_memWf (s : State) (vd : Nat) (d : PDesc) (g : Page) (h : s.memWf = true) : (choosePlane s vd d g).1.memWf = true := by
  grind [choosePlane, State.memWf, State.draw_memWf]

theorem putPage_memWf (s : State) (cid : Nat) (sec : Nat) (pix : Nat) (tq : Nat) (aq : Nat) (g : Page) (pl : Nat) (h : s.memWf = true)
    : (putPage s cid sec pix tq aq g pl).memWf = true := by
  grind [putPage, State.memWf, State.setPlane_memWf, wakeTile_memWf, State.modSec_memWf, resolveExits_memWf, foldl_memWf]

theorem placePage_memWf (s : State) (cid : Nat) (d : PDesc) (g : Page) (h : s.memWf = true) : (placePage s cid d g).1.memWf = true := by
  grind [placePage, State.memWf, choosePlane_memWf, putPage_memWf]

theorem takeDepth_memWf (s : State) (pl : Nat) (k : Nat) (h : s.memWf = true) : (takeDepth s pl k).memWf = true := by
  grind [takeDepth, State.memWf, State.setPlane_memWf, drainOuts_memWf, State.modPlane_memWf]

theorem setBankMode_memWf (s : State) (cluster : Nat) (b : Nat) (mode : BankMode) (h : s.memWf = true)
    : (setBankMode s cluster b mode).memWf = true := by
  unfold setBankMode
  repeat' split
  all_goals grind [State.memWf, State.modCluster_memWf, State.draw_memWf, dropTlb_memWf, mwriteN_wf, mwriteBytes_wf, mzero_wf, mfree_wf, filter_wf]

theorem cancelFids_memWf (s : State) (pl : Nat) (h : s.memWf = true) : (cancelFids s pl).memWf = true := by
  grind [cancelFids, State.memWf, dropFid_memWf, State.modPlane_memWf]

theorem abortPlane_memWf (s : State) (pl : Nat) (h : s.memWf = true) : (abortPlane s pl).memWf = true := by
  grind [abortPlane, State.memWf, countDropped_memWf, cancelFids_memWf, tryRetire_memWf, State.modPlane_memWf]

theorem abortWaybills_memWf (s : State) (cid : Nat) (k : Nat) (h : s.memWf = true) : (abortWaybills s cid k).memWf = true := by
  grind [abortWaybills, State.memWf, dropFid_memWf, State.modCluster_memWf, foldl_memWf]

theorem abortSection_memWf (s : State) (cid : Nat) (k : Nat) (h : s.memWf = true) : (abortSection s cid k).memWf = true := by
  grind [abortSection, State.memWf, abortWaybills_memWf, State.modSec_memWf, abortPlane_memWf, taskEnds_memWf, foldl_memWf]

theorem stopUnit_memWf (s : State) (pl : Nat) (u : Nat) (h : s.memWf = true) : (stopUnit s pl u).memWf = true := by
  grind [stopUnit, State.memWf, dropFid_memWf, State.modPlane_memWf]

theorem injectMarkers_memWf (s : State) (pl : Nat) (h : s.memWf = true) : (injectMarkers s pl).memWf = true := by
  grind [injectMarkers, State.memWf, stopUnit_memWf, foldl_memWf]

theorem releaseRegion_memWf (s : State) (pl : Nat) (h : s.memWf = true) : (releaseRegion s pl).memWf = true := by
  grind [releaseRegion, State.memWf, commitGroup_memWf, State.modPlane_memWf, drainOuts_memWf]

theorem cutRegion_memWf (s : State) (pl : Nat) (h : s.memWf = true) : (cutRegion s pl).memWf = true := by
  grind [cutRegion, State.memWf, releaseRegion_memWf, injectMarkers_memWf, releaseStrands_memWf]

theorem markSecs_memWf (s : State) (l : List (Nat × Nat)) (f : Section → Section) (h : s.memWf = true) : (markSecs s l f).memWf = true := by
  grind [markSecs, State.memWf, State.modSec_memWf, foldl_memWf]

theorem cutStep_memWf (s : State) (l : List (Nat × Nat)) (h : s.memWf = true) : (cutStep s l).1.memWf = true := by
  grind [cutStep, State.memWf, cutRegion_memWf, foldl_memWf]

theorem runAgain_memWf (s : State) (l : List (Nat × Nat)) (h : s.memWf = true) : (runAgain s l).memWf = true := by
  grind [runAgain, State.memWf, markSecs_memWf, State.modPlane_memWf, wakeTile_memWf, foldl_memWf]

theorem recordAll_memWf (a0 : List Nat) (a1 : State) (h : a1.memWf = true) : (recordAll a0 a1).1.memWf = true := by
  fun_induction recordAll a0 a1 <;> grind [State.memWf]

theorem saveArea_memWf (s : State) (l : List (Nat × Nat)) (h : s.memWf = true) : (saveArea s l).1.memWf = true := by
  grind [saveArea, State.memWf, recordAll_memWf]

theorem carryAway_memWf (s : State) (l : List (Nat × Nat)) (h : s.memWf = true) : (carryAway s l).memWf = true := by
  grind [carryAway, State.memWf, markSecs_memWf, freePlane_memWf, State.modPlane_memWf, foldl_memWf]

theorem areaCheck_memWf (cluster : Nat) (vd : Nat) (conf : Bool) (a3 : Nat) (a4 : State) (a5 : Word) (a6 : Nat)
    (a7 : List (Nat × Nat × Nat)) (h : a4.memWf = true) : (areaCheck cluster vd conf a3 a4 a5 a6 a7).1.memWf = true := by
  fun_induction areaCheck cluster vd conf a3 a4 a5 a6 a7 <;> grind [State.memWf, translate_memWf]

theorem checkArea_memWf (s : State) (cluster : Nat) (vd : Nat) (base : Nat) (len : Nat) (h : s.memWf = true)
    : (checkArea s cluster vd base len).1.memWf = true := by
  grind [checkArea, State.memWf, areaCheck_memWf]

theorem cutWrite_memWf (s : State) (cid : Nat) (maps : List (Nat × Nat × Nat)) (va : Nat) (l : Bytes) (h : s.memWf = true)
    : (cutWrite s cid maps va l).memWf = true := by
  unfold cutWrite
  split
  · exact firmWrite_memWf _ _ _ h
  · exact State.modCtx_memWf _ _ _ h

theorem cutBegin_memWf (s : State) (cid : Nat) (xd : XReg) (a : Word) (r : SecRec) (maps : List (Nat × Nat × Nat)) (h : s.memWf = true)
    : (cutBegin s cid xd a r maps).memWf = true := by
  grind [cutBegin, State.memWf, finishX_memWf, State.modCtx_memWf, markSecs_memWf]

theorem cutEnd_memWf (s : State) (cid : Nat) (xd : XReg) (va : Word) (l : List Nat) (base : Nat) (len : Nat)
    (maps : List (Nat × Nat × Nat)) (h : s.memWf = true) : (cutEnd s cid xd va l base len maps).memWf = true := by
  grind [cutEnd, State.memWf, saveArea_memWf, cutWrite_memWf, State.modCtx_memWf]

theorem cutFinish_memWf (s : State) (cid : Nat) (xd : XReg) (va : Word) (l : List Nat) (h : s.memWf = true)
    : (cutFinish s cid xd va l).memWf = true := by
  grind [cutFinish, State.memWf, finishX_memWf, markSecs_memWf, carryAway_memWf]

theorem vreader_memWf (w : Who) (vd : Nat) (t : State) (a : Word) (n : Nat) (h : t.memWf = true) : (vreader w vd t a n).1.memWf = true :=
  vread_memWf _ _ _ _ _ h

theorem fwReader_memWf (t : State) (a : Word) (n : Nat) (h : t.memWf = true) : (fwReader t a n).1.memWf = true := by
  unfold fwReader
  split <;> exact h

theorem readRegions_memWf (rd : Reader) (a1 : Nat) (a2 : State) (a3 : Word) (a4 : Nat) (h : a2.memWf = true)
    (hr : ∀ t a n, t.memWf = true → (rd t a n).1.memWf = true) : (readRegions rd a1 a2 a3 a4).1.memWf = true := by
  induction a1 generalizing a2 a3 a4 with
  | zero => exact h
  | succ n ih =>
    rw [readRegions]
    split
    · exact h
    · have h1 := hr a2 a3 24 h
      revert h1
      generalize rd a2 a3 24 = x
      obtain ⟨s, x⟩ := x
      intro h1
      cases x with
      | fault e v => exact h1
      | ue v => exact h1
      | pause => exact h1
      | ok hd =>
        dsimp only
        split
        · exact h1
        · have h2 := hr s a3 (numAt hd 8 8) h1
          revert h2
          generalize rd s a3 (numAt hd 8 8) = x
          obtain ⟨s, x⟩ := x
          intro h2
          cases x with
          | fault e v => exact h2
          | ue v => exact h2
          | pause => exact h2
          | ok l =>
            dsimp only
            split
            · exact h2
            · have h3 := ih s (a3 + BitVec.ofNat 64 (numAt hd 8 8)) (a4 - numAt hd 8 8) h2
              revert h3
              generalize readRegions rd n s (a3 + BitVec.ofNat 64 (numAt hd 8 8)) (a4 - numAt hd 8 8) = y
              intro h3
              split
              · exact h3
              · exact h3

theorem readArea_memWf (rd : Reader) (s : State) (base : Nat) (len : Nat) (h : s.memWf = true)
    (hr : ∀ t a n, t.memWf = true → (rd t a n).1.memWf = true) : (readArea rd s base len).1.memWf = true := by
  unfold readArea
  split
  · exact h
  · have h1 := hr s (BitVec.ofNat 64 base) 64 h
    split <;> rename_i hx <;> rw [hx] at h1
    · exact h1
    · exact h1
    · exact h1
    · split
      · exact h1
      · exact readRegions_memWf rd _ _ _ _ h1 hr

theorem restorePlane_memWf (s : State) (pl : Nat) (r : Region) (h : s.memWf = true) : (restorePlane s pl r).memWf = true := by
  grind [restorePlane, State.memWf, State.modPlane_memWf]

theorem chargeEntries_memWf (s : State) (pl : Nat) (h : s.memWf = true) : (chargeEntries s pl).memWf = true := by
  grind [chargeEntries, State.memWf, State.modPlane_memWf, foldl_memWf]

theorem placeOne_memWf (cid : Nat) (r : Region) (s : State) (h : s.memWf = true) : (placeOne cid r s).1.memWf = true := by
  unfold placeOne
  repeat' split
  all_goals grind [State.memWf, choosePlane_memWf, putPage_memWf, mwriteN_wf, mwriteBytes_wf, mzero_wf, mfree_wf, filter_wf]

theorem placeRegions_memWf (own : Region → Nat) (a1 : List Region) (a2 : State) (h : a2.memWf = true) : (placeRegions own a1 a2).1.memWf = true := by
  induction a1 generalizing a2 with
  | nil => rw [placeRegions]; exact h
  | cons r rs ih =>
    rw [placeRegions]
    have hp := placeOne_memWf (own r) r a2 h
    revert hp
    generalize placeOne (own r) r a2 = x
    intro hp
    obtain ⟨t, e | pl⟩ := x
    · exact hp
    · have hq := ih t hp
      revert hq
      dsimp only
      generalize placeRegions own rs t = y
      intro hq
      obtain ⟨u, e | l⟩ := y
      · exact hq
      · exact hq

theorem restoreAll_memWf (s : State) (own : Region → Nat) (rs : List Region) (h : s.memWf = true) : (restoreAll s own rs).1.memWf = true := by
  grind [restoreAll, State.memWf, placeRegions_memWf, restorePlane_memWf, chargeEntries_memWf, State.modSec_memWf, invalidate_memWf, foldl_memWf]

theorem resumeRestore_memWf (s : State) (cid : Nat) (xd : XReg) (r : SecRec) (h : s.memWf = true) : (resumeRestore s cid xd r).memWf = true := by
  have hr : ∀ t a n, t.memWf = true → ((if (s.ctx cid).pl = firm then fwReader else vreader (.ctx cid) (s.ctx cid).vdn) t a n).1.memWf = true := by
    intro t a n ht
    split
    · exact fwReader_memWf _ _ _ ht
    · exact vreader_memWf _ _ _ _ _ ht
  have ha := readArea_memWf _ s r.base r.len h hr
  unfold resumeRestore
  extract_lets c
  revert ha
  generalize readArea (if c.pl = firm then fwReader else vreader (.ctx cid) c.vdn) s r.base r.len = x
  obtain ⟨u, x⟩ := x
  intro ha
  cases x with
  | fault e v => exact ctxFaultS_memWf _ _ _ _ _ _ ha
  | pause => exact ha
  | ue v =>
    dsimp only
    split
    · exact firmUe_memWf _ _ _ ha
    · split
      · exact finishX_memWf _ _ _ _ (raise_memWf _ _ _ ha)
      · exact ha
  | ok l =>
    cases l with
    | none => exact finishX_memWf _ _ _ _ ha
    | some l =>
      dsimp only
      split
      · exact finishX_memWf _ _ _ _ ha
      · have hp := restoreAll_memWf u (fun _ => cid) (l.filter (fun x => r.secs.contains x.sec)) ha
        revert hp
        generalize restoreAll u (fun _ => cid) (l.filter (fun x => r.secs.contains x.sec)) = y
        obtain ⟨w, y⟩ := y
        intro hp
        split <;> rename_i hx <;> (have := (Prod.mk.inj hx).1; subst this; exact finishX_memWf _ _ _ _ hp)

theorem continueSec_memWf (s : State) (cid : Nat) (k : Nat) (h : s.memWf = true) : (continueSec s cid k).memWf = true := by
  grind [continueSec, State.memWf, State.modPlane_memWf, wakeTile_memWf, State.modSec_memWf, foldl_memWf]

theorem abortEnd_memWf (s : State) (cid : Nat) (xd : XReg) (l : List Nat) (h : s.memWf = true) : (abortEnd s cid xd l).memWf = true := by
  grind [abortEnd, State.memWf, tryRetire_memWf, finishX_memWf, markSecs_memWf, State.modCtx_memWf, foldl_memWf]

theorem ctxProgress_memWf (s : State) (cid : Nat) (h : s.memWf = true) : (ctxProgress s cid).memWf = true := by
  grind [ctxProgress, State.memWf, cutFinish_memWf, cutStep_memWf, cutEnd_memWf, abortEnd_memWf]

theorem acceptRecord_memWf (cid : Nat) (xd : XReg) (s : State) (l : Bytes) (h : s.memWf = true) : (acceptRecord cid xd s l).memWf = true := by
  grind [acceptRecord, State.memWf, finishX_memWf, State.modCluster_memWf, State.modCtx_memWf]

theorem submit_memWf (s : State) (cid : Nat) (xd : XReg) (va : Word) (h : s.memWf = true) : (submit s cid xd va).memWf = true := by
  grind [submit, State.memWf, State.setCtx_memWf, firmUe_memWf, acceptRecord_memWf, vread_memWf, ctxFaultS_memWf, ctxUe_memWf]

theorem waitwEnd_memWf (s : State) (cid : Nat) (xd : XReg) (st : Nat) (h : s.memWf = true) : (waitwEnd s cid xd st).memWf = true := by
  grind [waitwEnd, State.memWf, finishX_memWf, invalidate_memWf]

theorem setWb_memWf (s : State) (cl : Nat) (k : Nat) (f : Waybill → Waybill) (h : s.memWf = true) : (setWb s cl k f).memWf = true := by
  grind [setWb, State.memWf, State.modCluster_memWf]

theorem startTask_memWf (s : State) (cl : Nat) (k : Nat) (w : Waybill) (h : s.memWf = true) : (startTask s cl k w).memWf = true := by
  grind [startTask, State.memWf, setWb_memWf, armSection_memWf, invalidate_memWf]

theorem chooseSector_memWf (s : State) (w : Waybill) (h : s.memWf = true) : (chooseSector s w).1.memWf = true := by
  grind [chooseSector, State.memWf, State.draw_memWf]

theorem copyPlace_memWf (s : State) (cl : Nat) (vd : Nat) (write : Bool) (a4 : CopySide) (h : s.memWf = true)
    : (copyPlace s cl vd write a4).1.memWf = true := by
  unfold copyPlace
  repeat' split
  all_goals grind [State.memWf, translateFor_memWf, mwriteN_wf, mwriteBytes_wf, mzero_wf, mfree_wf, filter_wf]

theorem copyFault_memWf (s : State) (cl : Nat) (k : Nat) (w : Waybill) (reason : Nat) (va : Word) (acc : Nat) (fail : Waybill → Waybill)
    {u : State} (h : s.memWf = true) (hu : copyFault s cl k w reason va acc fail = some u) : u.memWf = true := by
  grind [copyFault, State.memWf, takeFid_memWf, raise_memWf, setWb_memWf]

theorem copyPoison_memWf (s : State) (cl : Nat) (vd : Nat) (pa : Nat) (h : s.memWf = true) : (copyPoison s cl vd pa).memWf = true := by
  grind [copyPoison, State.memWf, State.modCluster_memWf, poisonSector_memWf, countHbm_memWf, State.emit_memWf]

theorem copySector_memWf (s : State) (cl : Nat) (k : Nat) (w : Waybill) (src : CopySide) (dst : CopySide) {u : State} (h : s.memWf = true)
    (hu : copySector s cl k w src dst = some u) : u.memWf = true := by
  unfold copySector at hu
  repeat' split at hu
  all_goals grind [State.memWf, copyPlace_memWf, copyFault_memWf, reaches_memWf, loadSector_memWf, setWb_memWf, copyPoison_memWf,
    performAll_memWf, mwriteN_wf, mwriteBytes_wf, mzero_wf, mfree_wf, filter_wf]

theorem stampWb_memWf (s : State) (cl : Nat) (k : Nat) (w : Waybill) (h : s.memWf = true) : (stampWb s cl k w).memWf = true := by
  grind [stampWb, State.memWf, State.modCluster_memWf, translate_memWf, copyFault_memWf, performAll_memWf]

theorem endCmd_memWf (s : State) (pa : Nat) (n : Nat) (v : Option Nat) (h : s.memWf = true) : (endCmd s pa n v).memWf = true := by
  unfold endCmd
  dsimp only
  refine devWrite_memWf _ _ _ _ ?_
  split
  · exact devWrite_memWf _ _ _ _ h
  · exact h

theorem countAll_memWf (s : State) (pls : List (Nat × Plane)) (h : s.memWf = true) : (countAll s pls).memWf = true := by
  unfold countAll
  exact foldl_memWf _ (fun t x ht => countDropped_memWf _ _ ht) _ _ h

theorem partitionReset_memWf (s : State) (p : Nat) (h : s.memWf = true) : (partitionReset s p).memWf = true := by
  have hd := State.draw_memWf s h
  unfold partitionReset
  generalize s.draw = x at hd
  obtain ⟨n, t⟩ := x
  have ht := fun pls hit => (memWf_iff _).1 (takeBackAll_memWf _ hit (addLog_memWf _ 3 p 0 0 0 (countAll_memWf t pls hd)))
  refine (memWf_iff _).2 ⟨foldl_mfree_wf _ _ _ _ ?_, ?_⟩
  · exact (ht _ _).1
  · exact (ht _ _).2

theorem clearGranule_memWf (s : State) (g : Nat) (h : s.memWf = true) : (clearGranule s g).memWf = true := by
  unfold clearGranule
  repeat' split
  all_goals grind [State.memWf, takeBackAll_memWf, mwriteN_wf, mwriteBytes_wf, mzero_wf, mfree_wf, filter_wf]

theorem stopCtx_memWf (s : State) (cid : Nat) (h : s.memWf = true) : (stopCtx s cid).memWf = true := by
  grind [stopCtx, State.memWf, dropFid_memWf, State.modCtx_memWf]

theorem releaseCtxStrands_memWf (s : State) (cid : Nat) (h : s.memWf = true) : (releaseCtxStrands s cid).memWf = true := by
  grind [releaseCtxStrands, State.memWf, toNet_memWf, State.modCtx_memWf, foldl_memWf]

theorem killCtx_memWf (s : State) (cid : Nat) (h : s.memWf = true) : (killCtx s cid).memWf = true := by
  grind [killCtx, State.memWf, stopCtx_memWf, releaseCtxStrands_memWf, abortSection_memWf, foldl_memWf]

theorem setLocks_memWf (s : State) (units : List Nat) (w : Option (BitVec 16)) (h : s.memWf = true) : (setLocks s units w).memWf = true := by
  grind [setLocks, State.memWf, dropTlb_memWf]

theorem dropUnits_memWf (s : State) (units : List Nat) (h : s.memWf = true) : (dropUnits s units).memWf = true := by
  grind [dropUnits, State.memWf]

theorem zeroUnits_memWf (s : State) (units : List Nat) (h : s.memWf = true) : (zeroUnits s units).memWf = true := by
  unfold zeroUnits
  extract_lets inUnits t hit u
  have hu : u.memWf = true := takeBackAll_memWf _ _ (dropUnits_memWf s units h)
  refine foldl_memWf _ ?_ _ _ hu
  intro t u ht
  rw [memWf_iff] at ht ⊢
  exact ⟨mzero_wf _ _ ht.1, ht.2⟩

theorem abortStrays_memWf (s : State) (v : Nat) (h : s.memWf = true) : (abortStrays s v).memWf = true := by
  unfold abortStrays
  exact foldl_memWf _ (fun t x ht => abortPlane_memWf _ _ (abortWaybills_memWf _ _ _ ht)) _ _ h

theorem coolDown_memWf (s : State) (h : s.memWf = true) : (coolDown s).memWf = true := by
  grind [coolDown, State.memWf, State.draw_memWf]

theorem putStatus_memWf (s : State) (pa : Nat) (n : Nat) (h : s.memWf = true) : (putStatus s pa n).memWf = true := by
  grind [putStatus, State.memWf, devWrite_memWf]

theorem readRecord_memWf (s : State) (pa : Nat) (h : s.memWf = true) : (readRecord s pa).1.memWf = true := by
  grind [readRecord, State.memWf, devReadF_memWf]

theorem enterStart_memWf (s : State) (vd : Nat) (pa : Nat) (h : s.memWf = true) : (enterStart s vd pa).memWf = true := by
  grind [enterStart, State.memWf, State.modVd_memWf]

theorem leaveStart_memWf (s : State) (vd : Nat) (pa : Nat) (h : s.memWf = true) : (leaveStart s vd pa).memWf = true := by
  grind [leaveStart, State.memWf, State.modVd_memWf]

theorem renumber_memWf (s : State) (cid : Nat) (h : s.memWf = true) : (renumber s cid).memWf = true := by
  grind [renumber, State.memWf, State.modCluster_memWf]

theorem startCtx_memWf (s : State) (cid : Nat) (pc : Nat) (arg : Nat) (h : s.memWf = true) : (startCtx s cid pc arg).memWf = true := by
  grind [startCtx, State.memWf, renumber_memWf, State.modCtx_memWf]

theorem answerWb_memWf (s : State) (cl : Nat) (vd : Nat) (fid : Nat) (failed : Bool) (h : s.memWf = true)
    : (answerWb s cl vd fid failed).memWf = true := by
  grind [answerWb, State.memWf, State.modCluster_memWf]

theorem beginShoot_memWf (s : State) (vd : Nat) (lo : Nat) (hi : Nat) (own : Bool) (h : s.memWf = true)
    : (beginShoot s vd lo hi own).memWf = true := by
  grind [beginShoot, State.memWf, State.modVd_memWf]

theorem fwStop_memWf (s : State) (cid : Nat) (h : s.memWf = true) : (fwStop s cid).memWf = true := by
  grind [fwStop, State.memWf, dropFid_memWf, State.modCtx_memWf]

theorem fwGo_memWf (s : State) (v : Nat) (h : s.memWf = true) : (fwGo s v).memWf = true := by
  grind [fwGo, State.memWf, State.modCtx_memWf, foldl_memWf]

theorem undoStop_memWf (s : State) (v : Nat) (h : s.memWf = true) : (undoStop s v).memWf = true := by
  grind [undoStop, State.memWf, State.modVd_memWf, fwGo_memWf, runAgain_memWf]

theorem stopStep_memWf (s : State) (v : Nat) (base : Nat) (len : Nat) (h : s.memWf = true) : (stopStep s v base len).1.memWf = true := by
  grind [stopStep, State.memWf, performAll_memWf, State.modVd_memWf, fwStop_memWf, markSecs_memWf, cutStep_memWf, saveArea_memWf,
    undoStop_memWf, carryAway_memWf, foldl_memWf]

theorem stopVd_memWf (s : State) (pa : Nat) (v : Nat) (base : Nat) (len : Nat) (h : s.memWf = true) : (stopVd s pa v base len).1.memWf = true := by
  grind [stopVd, State.memWf, stopStep_memWf, checkArea_memWf, State.modVd_memWf]

theorem setLeaf_memWf (s : State) (l : Leaf) (e : Nat) (h : s.memWf = true) : (setLeaf s l e).memWf = true := by
  grind [setLeaf, State.memWf, devWrite_memWf]

theorem readPage_memWf (pa : Nat) (kslot : Nat) (a2 : Nat) (a3 : State) (h : a3.memWf = true) : (readPage pa kslot a2 a3).1.memWf = true := by
  induction a2 generalizing a3 with
  | zero => exact h
  | succ n ih =>
    rw [readPage]
    have h1 := ih a3 h
    generalize readPage pa kslot n a3 = x at h1
    obtain ⟨s, l, bad⟩ := x
    exact plainSector_memWf (h := h1) ..

theorem writePage_memWf (s : State) (pa : Nat) (kslot : Nat) (l : Bytes) (bad : List Nat) (h : s.memWf = true)
    : (writePage s pa kslot l bad).memWf = true := by
  unfold writePage
  refine foldl_memWf _ (fun t o ht => ?_) _ _ (devWrite_memWf _ _ _ _ h)
  split
  · exact poisonSector_memWf _ _ ht
  · exact State.emit_memWf _ _ ht

theorem tagLeaf_memWf (s : State) (m : Leaf) (h : s.memWf = true) : (tagLeaf s m).memWf = true := by
  grind [tagLeaf, State.memWf, writeTags_memWf]

theorem takePage_memWf (s : State) (v : Vd) (level : Nat) (va : Nat) (l : Bytes) (bad : List Nat) (h : s.memWf = true)
    : (takePage s v level va l bad).memWf = true := by
  unfold takePage
  split
  · dsimp only
    have hw := fun (a k : Nat) (l : Bytes) (b : List Nat) => writePage_memWf s a k l b h
    split
    · exact tagLeaf_memWf _ _ (hw _ _ _ _)
    · exact hw _ _ _ _
  · exact h

theorem transferAll_memWf (vd : Nat) (v : Vd) (n : Nat) (l : Bytes) (s : State) {u : State} (h : s.memWf = true)
    (hu : transferAll vd v n l s = .inl u) : u.memWf = true := by
  induction n generalizing l s with
  | zero => cases hu; exact h
  | succ n ih =>
    rw [transferAll] at hu
    split at hu
    · exact ih _ _ (State.setSlot_memWf _ _ _ h) hu
    · cases hu

theorem ckptImage_wf (s : State) (a n : Nat) {m : Memory} (h : m.wf = true) : Memory.wf (ckptImage s a n m) = true := by
  induction n with
  | zero => exact h
  | succ n ih => exact mwriteBytes_wf _ _ ih
theorem ckptBack_wf (s : State) (key : BitVec 256) (a n : Nat) {m : Memory} (h : m.wf = true) : Memory.wf (ckptBack s key a n m) = true := by
  induction n with
  | zero => exact h
  | succ n ih => exact mwriteBytes_wf _ _ ih

theorem carryPage_memWf (s : State) (vd : Nat) (dest : Nat × Nat) (l : Leaf) (h : s.memWf = true) : (carryPage s vd dest l).memWf = true := by
  unfold carryPage
  have hp := readPage_memWf (leafBase l.level l.e) (eKslot l.e) (leafBytes l.level / 32) s h
  generalize readPage (leafBase l.level l.e) (eKslot l.e) (leafBytes l.level / 32) s = x at hp
  obtain ⟨s, b, bad⟩ := x
  dsimp only
  split
  · split
    · exact hp
    · exact takePage_memWf _ _ _ _ _ _ hp
  · exact State.emit_memWf _ _ hp

theorem passBegin_memWf (s : State) (vd : Nat) (v : Vd) (h : s.memWf = true) : (passBegin s vd v).memWf = true := by
  unfold passBegin
  generalize dirtyLog s v = x
  obtain ⟨ents, tail, ovf⟩ := x
  dsimp only
  refine State.modVd_memWf _ _ _ ?_
  have hu := fun l => foldl_memWf _ (fun x (l : Leaf) hx => beginShoot_memWf _ vd l.va (l.va + leafBytes l.level) true (setLeaf_memWf x l (clearBit l.e 6) hx)) l _ (State.draw_memWf s h)
  split
  · exact hu _
  · exact devWrite_memWf _ _ _ _ (hu _)

theorem clearOvf_memWf (s : State) (v : Vd) (h : s.memWf = true) : (clearOvf s v).memWf = true := by
  grind [clearOvf, State.memWf, State.draw_memWf, devWrite_memWf]

theorem passEnd_memWf (s : State) (vd : Nat) (v : Vd) (dest : Nat × Nat) {u : State} {n : Nat} (h : s.memWf = true)
    (hu : passEnd s vd v dest = some (u, n)) : u.memWf = true := by
  unfold passEnd at hu
  split at hu
  · cases hu
  · cases hu
    exact State.modVd_memWf _ _ _ (clearOvf_memWf _ _ (foldl_memWf _ (fun x l hx => carryPage_memWf _ _ _ _ hx) _ _ h))

theorem slotRecords_memWf (modulus : Nat) (v : Vd) (a2 : List (Nat × KeySlot)) (a3 : State) (h : a3.memWf = true)
    : (slotRecords modulus v a2 a3).1.memWf = true := by
  induction a2 generalizing a3 with
  | nil => exact h
  | cons x r ih => obtain ⟨n, y⟩ := x; rw [slotRecords]; exact ih _ (State.draw_memWf _ h)

theorem sendSlots_memWf (modulus : Nat) (v : Vd) (l : List (Nat × KeySlot)) (s : State) (h : s.memWf = true)
    : (sendSlots modulus v l s).memWf = true := by
  grind [sendSlots, State.memWf, slotRecords_memWf, State.emit_memWf]

theorem startLogging_memWf (s : State) (vd : Nat) (v : Vd) (h : s.memWf = true) : (startLogging s vd v).memWf = true := by
  grind [startLogging, State.memWf, beginShoot_memWf, setLeaf_memWf, foldl_memWf]

theorem finalStep_memWf (s : State) (vd : Nat) (d : Nat × Nat) (h : s.memWf = true) : (finalStep s vd d).1.memWf = true := by
  unfold finalStep
  split
  · exact h
  · split
    · exact passBegin_memWf _ _ _ h
    · extract_lets idle t
      have ht : t.memWf = true := by
        simp only [t]
        split
        · exact foldl_memWf _ (fun x c hx => releaseCtxStrands_memWf _ _ hx) _ _ h
        · exact h
      split
      · exact ht
      · split
        · exact ht
        · rename_i hx
          have hp := passEnd_memWf _ _ _ _ ht hx
          dsimp only
          split
          · exact hp
          · exact State.emit_memWf _ _ hp

theorem lockOpen_memWf (s : State) (units : List Nat) (state : Nat) (vd : Nat) (h : s.memWf = true) : (lockOpen s units state vd).memWf = true := by
  grind [lockOpen, State.memWf, setLocks_memWf]

theorem nextState_memWf (s : State) (k : Nat) (h : s.memWf = true) : (nextState s k).1.memWf = true := by
  grind [nextState, State.memWf, State.draw_memWf]

theorem ckptReserve_memWf (s : State) (n : Nat) (i : Nat) (h : s.memWf = true) : (ckptReserve s n i).memWf = true := by
  unfold ckptReserve
  rw [memWf_iff] at h ⊢
  exact ⟨mwriteN_wf _ _ _ (mfree_wf _ _ _ h.1), h.2⟩

theorem peerImage_memWf (s : State) (h : s.memWf = true) : (peerImage s).1.memWf = true := by
  grind [peerImage, State.memWf, State.draw_memWf]

theorem ckptCopy_memWf (s : State) (kind : Nat) (addr : Nat) (h : s.memWf = true) : (ckptCopy s kind addr).memWf = true := by
  unfold ckptCopy
  generalize hbmSectors = n
  split
  · rw [memWf_iff] at h ⊢; exact ⟨h.1, h.2.1, ckptImage_wf _ _ _ h.2.2.1, h.2.2.2⟩
  · exact State.emit_memWf _ _ h

theorem hread_memWf (s : State) (cid : Nat) (vd : Nat) (va : Nat) (n : Nat) (h : s.memWf = true) : (hread s cid vd va n).1.memWf = true := by
  grind [hread, State.memWf, vread_memWf]

theorem withBytes_memWf (s : State) (cid : Nat) (vd : Nat) (va : Nat) (n : Nat) (k : State → Bytes → State × Nat) (h : s.memWf = true)
    (hk : ∀ t x1, t.memWf = true → (k t x1).1.memWf = true) : (withBytes s cid vd va n k).1.memWf = true := by
  grind [withBytes, State.memWf, hread_memWf]

theorem withBlock_memWf (s : State) (cid : Nat) (vd : Nat) (a : Word) (n : Nat) (k : State → Bytes → State × Nat) (h : s.memWf = true)
    (hk : ∀ t x1, t.memWf = true → (k t x1).1.memWf = true) : (withBlock s cid vd a n k).1.memWf = true := by
  grind [withBlock, State.memWf, withBytes_memWf]

theorem withOut_memWf (s : State) (cid : Nat) (vd : Nat) (va : Nat) (l : Bytes) (k : State → (State → State) → State × Nat)
    (h : s.memWf = true) (hk : ∀ t (p : State → State), t.memWf = true → (∀ u, u.memWf = true → (p u).memWf = true) → (k t p).1.memWf = true) : (withOut s cid vd va l k).1.memWf = true := by
  grind [withOut, State.memWf, vplan_memWf]

theorem drawKey_memWf (s : State) (h : s.memWf = true) : (drawKey s).2.memWf = true := by
  grind [drawKey, State.memWf, State.draw_memWf]

theorem withKv_memWf (s : State) (cid : Nat) (vd : Nat) (v : Vd) (a : Word) (k : State → Nat → Nat → Nat → State × Nat)
    (h : s.memWf = true) (hk : ∀ t x1 x2 x3, t.memWf = true → (k t x1 x2 x3).1.memWf = true) : (withKv s cid vd v a k).1.memWf = true := by
  unfold withKv
  refine withBlock_memWf _ _ _ _ _ _ h ?_
  intro t l ht
  dsimp only
  split
  · exact ht
  · split
    · exact ht
    · split
      · exact ht
      · split
        · exact ht
        · exact hk _ _ _ _ ht

theorem hallmark_memWf (kind : Nat) (s : State) (cid : Nat) (vd : Nat) (v : Vd) (a : Word) (h : s.memWf = true)
    : (hallmark kind s cid vd v a).1.memWf = true := by
  grind [hallmark, State.memWf, withBlock_memWf, State.draw_memWf, withOut_memWf]

theorem withRecord_memWf (s : State) (cid : Nat) (vd : Nat) (v : Vd) (va : Nat) (k : State → Bytes → BitVec 256 → State × Nat)
    (h : s.memWf = true) (hk : ∀ t x1 x2, t.memWf = true → (k t x1 x2).1.memWf = true) : (withRecord s cid vd v va k).1.memWf = true := by
  grind [withRecord, State.memWf, withBytes_memWf]

theorem putPages_memWf (slot : Nat) (a1 : List (Nat × Nat)) (a2 : State) (a3 : Bytes) (h : a2.memWf = true)
    : (putPages slot a1 a2 a3).memWf = true := by
  fun_induction putPages slot a1 a2 a3 <;> grind [State.memWf, writeTags_memWf, devWrite_memWf]

theorem installWeights_memWf (s : State) (cid : Nat) (vd : Nat) (v : Vd) (x : Install) (pol : Bytes) (key : BitVec 256)
    (libs : List (BitVec 256)) (book : State → List Nat → State) (h : s.memWf = true) (hk : ∀ t x1, t.memWf = true → (book t x1).memWf = true) : (installWeights s cid vd v x pol key libs book).1.memWf = true := by
  unfold installWeights
  refine withBytes_memWf _ _ _ _ _ _ h ?_
  intro t l ht
  repeat' split
  all_goals grind [zeroUnits_memWf, putPages_memWf, State.setSlot_memWf, setLocks_memWf, dropUnits_memWf, drawKey_memWf]

theorem freeWeights_memWf (s : State) (slot : Nat) (us : List Nat) (h : s.memWf = true) : (freeWeights s slot us).memWf = true := by
  grind [freeWeights, State.memWf, setLocks_memWf, zeroUnits_memWf, State.setSlot_memWf]

theorem freeBase_memWf (s : State) (vd : Nat) (v : Vd) (base : BitVec 256) (h : s.memWf = true) : (freeBase s vd v base).memWf = true := by
  unfold freeBase
  exact State.modVd_memWf _ _ _ (foldl_memWf _ (fun t m ht => freeWeights_memWf _ _ _ (foldl_memWf _ (fun t e ht => freeWeights_memWf _ _ _ ht) _ _ ht)) _ _ h)

theorem retireBase_memWf (s : State) (vd : Nat) (v : Vd) (base : BitVec 256) (h : s.memWf = true) : (retireBase s vd v base).memWf = true := by
  grind [retireBase, State.memWf, State.modVd_memWf, freeBase_memWf]

theorem addUsage_memWf (s : State) (vd : Nat) (i : Nat) (n : Nat) (h : s.memWf = true) : (addUsage s vd i n).memWf = true := by
  grind [addUsage, State.memWf, State.modVd_memWf]

theorem reapModel_memWf (s : State) (vd : Nat) (m : Model) (h : s.memWf = true) : (reapModel s vd m).memWf = true := by
  grind [reapModel, State.memWf, State.modVd_memWf, freeWeights_memWf, foldl_memWf]

theorem reapBase_memWf (s : State) (vd : Nat) (m : Model) (h : s.memWf = true) : (reapBase s vd m).memWf = true := by
  grind [reapBase, State.memWf, freeBase_memWf]

theorem reapAdapters_memWf (s : State) (h : s.memWf = true) : (reapAdapters s).memWf = true := by
  grind [reapAdapters, State.memWf, reapBase_memWf, reapModel_memWf, foldl_memWf]

theorem setLink_memWf (s : State) (i : Nat) (x : Link) (h : s.memWf = true) : (setLink s i x).memWf = true := by
  grind [setLink, State.memWf, addLog_memWf]

theorem trainLink_memWf (s : State) (i : Nat) (h : s.memWf = true) : (trainLink s i).memWf = true := by
  grind [trainLink, State.memWf, State.draw_memWf, setLink_memWf]

theorem openHub_memWf (s : State) (h : s.memWf = true) : (openHub s).memWf = true := by
  grind [openHub, State.memWf]

theorem retest_memWf (passed : List Nat) (s : State) (h : s.memWf = true) : (retest passed s).memWf = true := by
  grind [retest, State.memWf, addLog_memWf, foldl_memWf]

theorem logLocked_memWf (s : State) (off : Nat) (k : Nat) (len : Nat) (h : s.memWf = true) : (logLocked s off k len).memWf = true := by
  grind [logLocked, State.memWf, addLog_memWf]

theorem thenRest_memWf (left : Nat) (i : Instr) (s : State) (h : s.memWf = true) : (thenRest left i s).memWf = true := by
  grind [thenRest, State.memWf]

theorem companionPut_memWf (s : State) (off : Nat) (l : Bytes) (h : s.memWf = true) : (companionPut s off l).memWf = true := by
  grind [companionPut, State.memWf, homeWrite_memWf]

theorem countIdle_memWf (s : State) (pl : Nat) (n : Nat) (h : s.memWf = true) : (countIdle s pl n).memWf = true := by
  grind [countIdle, State.memWf, State.setPlane_memWf]

theorem endPlane_memWf (n : Nat) (s : State) (pl : Nat) (h : s.memWf = true) : (endPlane n s pl).memWf = true := by
  grind [endPlane, State.memWf, State.modPlane_memWf, countIdle_memWf, drainWake_memWf, tryRetire_memWf]

theorem endFrame_memWf (s : State) (c : Nat) (h : s.memWf = true) : (endFrame s c).memWf = true := by
  grind [endFrame, State.memWf, State.modCluster_memWf]

theorem stuckDues_memWf (s : State) (d : Nat) (h : s.memWf = true)
    : (stuckDues s d).memWf = true := foldl_memWf _ (fun _ _ hx => reportStuck_memWf _ _ hx) _ _ h

theorem tick_memWf (s : State) (d : Nat) (h : s.memWf = true) : (tick s d).memWf = true := by
  grind [tick, State.memWf, endPlane_memWf, endFrame_memWf, reapAdapters_memWf, flushRemote_memWf, stuckDues_memWf, State.setDie_memWf, foldl_memWf]

theorem passAc_memWf (s : State) (h : s.memWf = true) : (passAc s).memWf = true := by
  grind [passAc, State.memWf, State.modCluster_memWf, tick_memWf, foldl_memWf]

theorem markIssue_memWf (s : State) (cid : Nat) (h : s.memWf = true) : (markIssue s cid).memWf = true := by
  grind [markIssue, State.memWf, State.modCluster_memWf]

theorem withSlot_memWf (s : State) (w : Nat) (h : s.memWf = true) : (withSlot s w).memWf = true := by
  grind [withSlot, State.memWf]

theorem withSeqWord_memWf (s : State) (w : Nat) (h : s.memWf = true) : (withSeqWord s w).memWf = true := by
  unfold withSeqWord
  repeat' split
  all_goals grind [State.memWf, mwriteN_wf, mwriteBytes_wf, mzero_wf, mfree_wf, filter_wf]

theorem placeWord_memWf (s : State) (nbits : Nat) (w : Nat) (h : s.memWf = true) : (placeWord s nbits w).memWf = true := by
  grind [placeWord, State.memWf, withSlot_memWf, withSeqWord_memWf]

end Sys2Proof.Machine
end

