-- ==== Sys2Proof/Tests/Slice0.lean ====
section
/-! SUPPORT. Tests: words from the spec's encodings, well-formedness refusals, results of the spec's worked examples, and for each statement
with hypotheses a concrete state that meets them. -/

-- One theorem at a time: many at once take a stack each, and the text as a whole then passes its memory limit.
set_option Elab.async false

namespace Sys2Proof.Tests

open Sys2Proof Sys2Proof.Machine Sys2Proof.Claim

/-- The fields of a slot that names nothing (R68). -/
def f0 : EFields := ⟨0, 0, 0, 0, 0, 0, .zero, .zero, .zero, 0, none, 0, 0, 0, 0, none, 0⟩

/-! ## Words (R68 to R82): the fields put together by hand from the tables -/

/-- R74. -/
theorem test_decode_elem_token_ptst : decodeElem 0x400000020010D96017E000000160000 = some (.elemPtst { f0 with opa := .head 1, inrdy := 2, deq := 2, pres := some 3 }) := by decide
/-- R74. -/
theorem test_decode_elem_integer_add : decodeElem 0x10200000000010760002000000000000 = some (.elemAdd { f0 with opa := .g 2, opb := .g 3, dst := some 1 } .i32) := by decide
/-- R74. -/
theorem test_decode_elem_lane_scan_xor : decodeElem 0x3D60000000019596003E000000000000 = some (.elemScan { f0 with opa := .k 2, dst := some 31 } .xor .n32) := by decide
/-- R75. -/
theorem test_decode_elem_float_fdiv_rdn : decodeElem 0x5F300000000155360008000000003C00 = some (.elemFdiv { f0 with opa := .lane, opb := .immH, dst := some 4, imm := 0x3C00 } .f16 .rdn false) := by decide
/-- R76. -/
theorem test_decode_elem_convert_pack : decodeElem 0x798000000000085600060000000000C9 = some (.elemPack { f0 with opa := .g 1, opb := .g 2, dst := some 3, imm := 0xC9 } .e4m3 .f32 .rne true) := by decide
/-- R77, R83. -/
theorem test_decode_elem_request_amo : decodeElem 0x84B000003001043601FE092000000000 = some (.elemAmo { f0 with opa := .head 0, opb := .head 1, inrdy := 3, deq := 3, omask := 4, otag := 9 } 0xB) := by decide
/-- R79. -/
theorem test_decode_elem_matrix_ldst : decodeElem 0x9000000800013D96407E000000000000 = some (.elemLdst { f0 with opa := .head 7, inrdy := 0x80, deq := 0x80 }) := by decide
/-- R80. -/
theorem test_decode_seq_integer_rem_n64 : decodeSeq 0x508870000000000 = some (.seqRem 1 2 3 true) := by decide
/-- R80. -/
theorem test_decode_seq_immediate_lih : decodeSeq 0x4829400070000000 = some (.seqLih 5 5 0x70000000) := by decide
/-- R80. -/
theorem test_decode_seq_branch_jali : decodeSeq 0x6918C00000FFFFFF = some (.seqJali 3 3 0xFFFFFF) := by decide
/-- R80. -/
theorem test_decode_seq_pages_place : decodeSeq 0x8008860000000000 = some (.seqPlace 1 2 3) := by decide
/-- R80. -/
theorem test_decode_seq_bank : decodeSeq 0x863800000000002F = some (.seqBankcfg 7 15 2) := by decide
/-- R80, R83. -/
theorem test_decode_seq_queue_amsend : decodeSeq 0x96010A0000000301 = some (.seqAmsend 0 4 5 1 3) := by decide
/-- R80. -/
theorem test_decode_seq_system_csrwr : decodeSeq 0xA301800000000104 = some (.seqCsrwr 6 0x104) := by decide
/-- R80, R248. -/
theorem test_decode_seq_thread_switch : decodeSeq 0xA301800000000008 = some (.threadSwitch 6) := by decide
/-- R81: the SZ of an architected handler, an unassigned OP, a shift count of 64, a bank mode 0b11 and a nonzero reserved field raise ILLEGAL. -/
theorem test_decode_seq_refused : ([0x7429CC6600000000, 0x1008860000000000, 0x4408800000000040, 0x863800000000003F, 0x8860000000001].all (fun w => (decodeSeq w).isNone)) = true := by decide
/-- R70, R74: an unassigned OP, a VAR without a row and a reserved selector fail with ENC. -/
theorem test_decode_elem_refused : ([0x800000000016596007E000000000000, 0x10800000000010760002000000000000, 0x10200000000168760002000000000000].all (fun w => (decodeElem w).isNone)) = true := by decide

/-! ## Well-formedness (R35, R70, R81): one ill-formed term for each check -/

theorem test_wf_pval_within_pmask : Instr.wf (.elemNop { f0 with pval := 1 }) = false := by decide
theorem test_wf_psetv_within_psetm : Instr.wf (.elemNop { f0 with psetv := 1 }) = false := by decide
theorem test_wf_tval_within_tmask : Instr.wf (.elemNop { f0 with tval := 1 }) = false := by decide
theorem test_wf_deq_within_inrdy : Instr.wf (.elemNop { f0 with deq := 1 }) = false := by decide
theorem test_wf_read_within_inrdy : Instr.wf (.elemPass { f0 with opa := .head 0 }) = false := by decide
theorem test_wf_tch_zero_without_tmask : Instr.wf (.elemNop { f0 with tch := 1 }) = false := by decide
theorem test_wf_tch_within_inrdy : Instr.wf (.elemNop { f0 with tmask := 1 }) = false := by decide
theorem test_wf_unread_operand_zero : Instr.wf (.elemNop { f0 with opa := .g 0 }) = false := by decide
theorem test_wf_head_operand : Instr.wf (.elemPass { f0 with opa := .g 0 }) = false := by decide
theorem test_wf_psn_operand : Instr.wf (.elemPsn { f0 with opa := .lane }) = false := by decide
theorem test_wf_no_immediate_address : Instr.wf (.elemLd { f0 with opa := .immS, omask := 1 } .blk) = false := by decide
theorem test_wf_accumulator_operand : Instr.wf (.elemAccz { f0 with opa := .lane }) = false := by decide
theorem test_wf_immediate_selector_needs_operand : Instr.wf (.elemClz { f0 with opa := .immS, imm := 0 } .i32) = false := by decide
theorem test_wf_dst_only_where_written : Instr.wf (.elemNop { f0 with dst := some 0 }) = false := by decide
theorem test_wf_omask_none : Instr.wf (.elemHalt { f0 with omask := 1 }) = false := by decide
theorem test_wf_omask_one : Instr.wf (.elemLd { f0 with omask := 3 } .blk) = false := by decide
theorem test_wf_omask_at_most_one : Instr.wf (.elemAmo { f0 with omask := 3 } 0) = false := by decide
theorem test_wf_omask_east : Instr.wf (.elemMma { f0 with opa := .head 0, inrdy := 1, omask := 16 } true true) = false := by decide
theorem test_wf_imm_zero : Instr.wf (.elemNop { f0 with imm := 1 }) = false := by decide
theorem test_wf_imm_only_where_read : Instr.wf (.elemAdd { f0 with imm := 1 } .i8) = false := by decide
theorem test_wf_imm_control : Instr.wf (.elemBcast { f0 with imm := 8 } .n32) = false := by decide
theorem test_wf_imm_conversion : Instr.wf (.elemCvt { f0 with imm := 0 } .f32 .i32 .rne false) = false := by decide
theorem test_wf_imm_memory : Instr.wf (.elemLd { f0 with omask := 1, imm := 1 } .blk) = false := by decide
theorem test_wf_imm_accumulator : Instr.wf (.elemAcca { f0 with imm := 0x800 } .f32) = false := by decide
theorem test_wf_reduction_type : Instr.wf (.elemLred f0 .and .f32) = false := by decide
theorem test_wf_pres_only_where_written : Instr.wf (.elemAdd { f0 with pres := some 0 } .i8) = false := by decide
theorem test_wf_ldst_dequeues : Instr.wf (.elemLdst { f0 with opa := .head 0, inrdy := 1 }) = false := by decide
theorem test_wf_amo_size : Instr.wf (.seqAmo 1 2 3 .b4 .cl .relaxed 0 0) = false := by decide
theorem test_wf_amo_installed_size : Instr.wf (.seqAmo 1 2 3 .b1 .cl .relaxed 16 0) = false := by decide
theorem test_wf_amsend_flags : Instr.wf (.seqAmsend 0 1 2 0 4) = false := by decide
theorem test_wf_amsend_w32 : Instr.wf (.seqAmsend 0 1 2 1 0) = false := by decide
theorem test_wf_amsend_no_result : Instr.wf (.seqAmsend 3 1 2 0 1) = false := by decide
theorem test_wf_fence_order : Instr.wf (.seqFence .pkg .relaxed) = false := by decide
theorem test_wf_bankcfg_mode : Instr.wf (.seqBankcfg 1 0 3) = false := by decide
theorem test_wf_csrwr_switch : Instr.wf (.seqCsrwr 1 0x008) = false := by decide
theorem test_wf_bar_scope : [Scope.el, .tl, .ln].all (fun sc => !Instr.wf (.seqBar 1 sc)) = true := by decide

/-! ## Small states -/

/-- A virtual device with 1 TiB of ranges, a fault queue of 4 slots, 16 key slots and 4 priority-queue entries. -/
def vd0 : Vd :=
  { ranges := [(0, 2 ^ 19)], ptroot := 0x10000, fqbase := 0x20000, dlbase := 0, ksbase := 16, kscnt := 16, pqshare := 4, fqlog2 := 2, conf := false, notify := false, nvec := 0 }
/-- It, with virtual addresses 0 to 2 MiB held by the TLBs of cluster 0 and of tile 0, writable, at the same physical addresses. -/
def hub0 : Hub := { Hub.reset with vds := [(0, vd0)], parts := [(0, 1)], tlb := [⟨2048, 0, 1, 0, 0x47⟩, ⟨0, 0, 1, 0, 0x47⟩] }
/-- A running context at a level. -/
def ctxAt (pl : BitVec 2) : Ctx := { Ctx.reset with vd := some 0, run := .running, pl := pl, pc := 0x1008 }
/-- The machine in which context 0 executes. -/
def sys (c : Ctx) : State := { State.reset with ctxs := [(0, c)], hub := hub0 }
/-- The state after an instruction, and register r of context 0 there. -/
def after (i : Instr) (s : State) : State := match exec i s with | .next t => t | _ => s
def xAfter (i : Instr) (s : State) (r : XReg) : Word := ((after i s).ctx 0).getX r

/-- A translation that a TLB holds, outside the FIFO banks, changes nothing. -/
theorem translate_hit (s : State) (unit vd : Nat) (va : Word) (w : Bool) (v : Vd) (t : TlbEntry) (pa : Nat) (hv : s.vd? vd = some v)
    (ha : va.toNat < 2 ^ 57) (ht : tlbHit s unit vd va.toNat w false = some t) (hr : leafRes t.level t.entry.toNat va.toNat = .ok pa 0 0 false)
    (hf : fifoBank s pa = none) : translate s unit vd va w false = (s, .ok pa 0 0 false) := by
  have h1 : translateAny s unit vd va w false = (s, .ok pa 0 0 false) := by
    simp only [translateAny, hv, ht, hr, if_neg (Nat.not_le.mpr ha)]
  unfold Sys2Proof.Machine.translate translateFor
  rw [h1]
  simp [hf]
/-- The same in the machine above. -/
theorem sys_hit (c : Ctx) (va : Word) (w : Bool) (pa : Nat) (hc : ((sys c).ctx 0).vdn = 0)
    (ht : tlbHit (sys c) 2048 0 va.toNat w false = some ⟨2048, 0, 1, 0, 0x47⟩) (ha : va.toNat < 2 ^ 57)
    (hr : leafRes 1 0x47 va.toNat = .ok pa 0 0 false) (hf : fifoBank (sys c) pa = none) :
    ctxTranslate (sys c) 0 va w = (sys c, .ok pa 0 0 false) := by
  unfold ctxTranslate
  rw [hc]
  exact translate_hit _ _ _ _ _ vd0 _ _ rfl ha ht hr hf

/-! ## Sequencer: results of the spec -/

/-- R209: LI and LIH put two halves together. -/
theorem test_li_lih : xAfter (.seqLih 5 5 0x70000000) (after (.seqLi 5 0x20) (sys (ctxAt 1))) 5 = 0x7000000000000020 := by decide
/-- R209: −7 / 2 = −3, remainder −1. -/
theorem test_div_signed : let s := sys ((((ctxAt 1).setX 1 (-7)).setX 2 2))
    xAfter (.seqDiv 3 1 2 false) s 3 = -3 ∧ xAfter (.seqRem 3 1 2 false) s 3 = -1 := by decide
/-- R209: the same bits as a natural number. -/
theorem test_div_natural : let s := sys ((((ctxAt 1).setX 1 (-7)).setX 2 2))
    xAfter (.seqDiv 3 1 2 true) s 3 = 0x7FFFFFFFFFFFFFFC ∧ xAfter (.seqRem 3 1 2 true) s 3 = 1 := by decide
/-- R209: division by zero. -/
theorem test_div_by_zero : let s := sys ((ctxAt 1).setX 1 5)
    xAfter (.seqDiv 3 1 2 false) s 3 = BitVec.allOnes 64 ∧ xAfter (.seqRem 3 1 2 false) s 3 = 5 := by decide
/-- R209: a shift of 64 leaves nothing. -/
theorem test_shift_full : let s := sys ((((ctxAt 1).setX 1 (-1)).setX 2 64))
    xAfter (.seqShl 3 1 2) s 3 = 0 ∧ xAfter (.seqSar 3 1 2) s 3 = -1 := by decide
/-- R211: JALI reads its source before it writes the link. -/
theorem test_jali_same_register : let s := after (.seqJali 3 3 0) (sys ((ctxAt 1).setX 3 0x2000))
    (s.ctx 0).pc = 0x2000 ∧ (s.ctx 0).getX 3 = 0x1040 := by decide
/-- R207: ERET from FIRM enables what the bank holds. -/
theorem test_eret_firm : let s := after .seqEret (sys { ctxAt 2 with fepc := 0x40, fppl := 0, fpeie := true })
    (s.ctx 0).pc = 0x40 ∧ (s.ctx 0).pl = 0 ∧ (s.ctx 0).eie = true := by decide

/-! ## Sequencer: the hypotheses of the statements hold somewhere -/

theorem wit_SeqIntegerResults : ∃ xd v, seqInteger (.seqMulh 0 31 1 true) = some (xd, v) := ⟨_, _, rfl⟩
theorem wit_SeqIntegerResultsFrame : ∃ xd v t, seqInteger (.seqSari 31 1 63) = some (xd, v) ∧ exec (.seqSari 31 1 63) (sys (ctxAt 0)) = .next t :=
  ⟨_, _, _, rfl, rfl⟩
theorem wit_ZeroRegister : (31 : XReg) ≠ 0 ∧ (0 : XReg) ≠ 31 := by decide
theorem wit_SeqBranches : (∃ off cond, seqBranch (.seqBgen 1 2 0x800000) = some (off, cond)) ∧
    ((ctxAt 0).getX 0 + (0x7FFFFF : BitVec 24).signExtend 64 * 64).extractLsb' 0 6 = 0 ∧
    (((ctxAt 0).setX 1 63).getX 1 + (0 : BitVec 24).signExtend 64 * 64).extractLsb' 0 6 ≠ 0 := ⟨⟨_, _, rfl⟩, by decide⟩
theorem wit_TrapEntry : 15 < 16 ∧ ((sys (ctxAt 0)).ctx 0).pl = user ∧ ((sys (ctxAt 1)).ctx 0).pl = super ∧ ((sys (ctxAt 2)).ctx 0).pl = firm := by
  decide
theorem wit_EretRestores : (curCtx (sys (ctxAt 0))).pl = user ∧ (curCtx (sys (ctxAt 1))).pl = super ∧ (curCtx (sys (ctxAt 2))).pl = firm := by decide
/-- R201: a number of each row of the match, at the edges. -/
theorem wit_CsrAccess : (curCtx (sys (ctxAt 2))).pl.toNat < 3 ∧ csrAllows 0x016 2 = none ∧ csrAllows 0x105 2 = none ∧ csrAllows 0x00B 1 = none ∧
    csrAllows 0x100 1 = some .priv ∧ csrAllows 0x001 0 = some .priv ∧ csrAllows 0x000 0 = some .ro ∧ csrAllows 0x011 2 = some .ro ∧
    csrAllows 0x00A 1 = some .rw ∧ csrAllows 0x104 2 = some .rw := by decide
theorem wit_PrivilegedOrMisaligned : seqLevel (.seqHalt) = some 1 ∧ seqLevel (.seqFwcall 1 2 0x8000) = some 1 ∧ seqLevel (.seqFwcall 1 2 0x7FFF) = none ∧
    seqLevel (.seqPlane 1 15) = some 2 ∧ (curCtx (sys (ctxAt 0))).pl.toNat < 1 ∧ (curCtx (sys (ctxAt 1))).pl.toNat < 2 := by decide
theorem wit_PrivilegedOrMisalignedAlign : let s := sys ((ctxAt 1).setX 1 0x1001)
    (∃ f, seqAddress (.seqLd 2 1 .b2 false 0) = some (f, 2) ∧ (f (curCtx s)).toNat % 2 ≠ 0) ∧
    (∃ f, seqAddress (.seqPlace 2 1 3) = some (f, 4096) ∧ (f (curCtx s)).toNat % 4096 ≠ 0) ∧
    ∀ lvl, seqLevel (.seqPlace 2 1 3) = some lvl → lvl ≤ (curCtx s).pl.toNat :=
  ⟨⟨_, rfl, by decide⟩, ⟨_, rfl, by decide⟩, by intro l h; cases h; decide⟩
/-- R70, R80: a word of each format that decodes, and a guard whose bits do not count. -/
theorem wit_DecodeLossless : (decodeSeq 0x4829400070000000).isSome = true ∧ bits 0x10200000000010760002000000000000 17 4 = 0 ∧
    (decodeElem 0x10200000000010760002000000000000).isSome = true := by decide
theorem wit_FirmwareAccess : let s := sys ((ctxAt 2).setX 1 0x40)
    s.fmem.wf = true ∧ (curCtx s).pl = firm ∧ (memAddr (curCtx s) 1 0xFFFFF8).toNat % szBytes .b8 = 0 ∧ ownAny s 0 = false ∧
    firmBad s (memAddr (curCtx s) 1 0xFFFFF8).toNat (szBytes .b8) = false ∧
    firmBad { s with fbad := [0x20] } (memAddr (curCtx s) 1 0xFFFFF8).toNat (szBytes .b8) = true := by decide
theorem wit_FirmwareAccessWaits : let s := { sys (ctxAt 2) with net := [⟨.ctx 0, 0, 0, 0, .fx (.store ⟨0, 0, 1, none, false, 0⟩) none, []⟩] }
    s.fmem.wf = true ∧ (curCtx s).pl = firm ∧ ownAny s 0 = true := by decide
theorem wit_VirtualLoad : let s := sys ((ctxAt 0).setX 1 0x40)
    (curCtx s).pl ≠ firm ∧ (memAddr (curCtx s) 1 8).toNat % szBytes .b8 = 0 ∧ ctxTranslate s 0 (memAddr (curCtx s) 1 8) false = (s, .ok 0x48 0 0 false) ∧
    ownPending s 0 0x40 = false ∧ reaches s (.ctx 0) 0x40 0 = (s, true) ∧ (∃ s2 v, loadSector s (.ctx 0) 0 0x40 0 0 = (s2, v, false)) ∧
    ∃ s2 v, loadSector s (.ctx 0) 0 0x40 0 0 (some .pod) = (s2, v, false) :=
  ⟨by decide, by decide, (sys_hit _ _ _ _ rfl (by decide) (by decide) (by decide) (by decide)), by decide, rfl,
    ⟨_, _, Prod.ext rfl (Prod.ext rfl (by decide))⟩, _, _, Prod.ext rfl (Prod.ext rfl (by decide))⟩
theorem wit_VirtualStore : let s := sys ((ctxAt 0).setX 1 0x1FFFF8)
    ctxTranslate s 0 (memAddr (curCtx s) 1 0) true = (s, .ok 0x1FFFF8 0 0 false) ∧ ctxRoom s 0 0x1FFFF8 (ctxStrand s 0 0x1FFFF8) = true :=
  ⟨(sys_hit _ _ _ _ rfl (by decide) (by decide) (by decide) (by decide)), by decide⟩
theorem wit_Invocations : let s := sys ((((ctxAt 0).setX 1 0x40).setX 2 0x50))
    ctxTranslate s 0 (memAddr (curCtx s) 1 0) ((11 : Fin 32).val != 15) = (s, .ok 0x40 0 0 false) ∧ 0x40 % handlerBytes 11 = 0 ∧
    ctxTranslate s 0 ((curCtx s).getX 2) true = (s, .ok 0x50 0 0 false) ∧ 0x50 % handlerBytes 14 = 0 ∧ handlerBytes 31 ≤ 16 :=
  ⟨(sys_hit _ _ _ _ rfl (by decide) (by decide) (by decide) (by decide)), by decide, (sys_hit _ _ _ _ rfl (by decide) (by decide) (by decide) (by decide)), by decide, by decide⟩
/-- A state with one packet that has arrived. -/
def netS (s : State) (b : Body) : State := { s with net := [⟨.ctx 0, 0, 0, 0, b, []⟩] }
theorem wit_AtomicResult : let s := netS (sys { ctxAt 0 with wait := .atomic 31 true 0x40 }) (.result (.ctx 0) 7 true none false 0x40)
    ∃ x, arriving s 0 = some x ∧ x.body = .result (.ctx 0) 7 true none false 0x40 ∧ (s.ctx 0).wait = .atomic 31 true 0x40 := ⟨_, rfl, rfl, rfl⟩
/-- The same with an error of the data, its record with a place in the queue and with none. -/
theorem wit_AtomicResultUe : let s := netS (sys { ctxAt 0 with wait := .atomic 31 true 0x40 }) (.result (.ctx 0) 7 false none true 0x40)
    (∃ x, arriving s 0 = some x ∧ x.body = .result (.ctx 0) 7 false none true 0x40) ∧ (s.ctx 0).wait = .atomic 31 true 0x40 ∧
    (s.ctx 0).run = .running ∧
    canRaise (s.dropPacket 0) 0 (seqFaultRec (s.dropPacket 0) 0 0 0 0x40 0 true true false 0 2) = true ∧
    ∀ rc, canRaise { s with hub := { s.hub with vds := [(0, { vd0 with fqTail := 4, fqHeld := List.replicate 64 rc })] } } 0 rc = false :=
  ⟨⟨_, rfl, rfl⟩, rfl, rfl, by decide, fun _ => rfl⟩
theorem wit_FenceAndMonitor : let s := sys { ctxAt 0 with wait := .mwait 3 5 0, mon := some 0x40 }
    ownAny s 0 = false ∧ ownAtomic s 0 = false ∧ ctxTranslate s 0 (memAddr (curCtx s) 1 0) false = (s, .ok 0 0 0 false) ∧
    (curCtx (sys (ctxAt 2))).pl = firm ∧ (curCtx (sys (ctxAt 2))).mon = none ∧ (s.ctx 0).mon ≠ none ∧ (s.ctx 0).monFired = false ∧
    (s.ctx 0).wait = .mwait 3 5 0 ∧ (s.ctx 0).run = .running ∧ 0 < 5 ∧ (0x40 / 2 ^ 44 = s.posN ∨ 2 ^ 60 ≤ 0x40) ∧
    ¬ (2 ^ 44 / 2 ^ 44 = s.posN ∨ 2 ^ 60 ≤ 2 ^ 44) := ⟨by decide, by decide, (sys_hit _ _ _ _ rfl (by decide) (by decide) (by decide) (by decide)), by decide⟩
theorem wit_FenceWaits : let s := netS (sys (ctxAt 0)) (.fx (.invoke ⟨0, none, false, false, 1, 0x40, 0, .none, 0, false, false, 0⟩) none)
    ownAny s 0 = true := by decide
theorem wit_FenceWaitsAtomic : let s := netS (sys (ctxAt 0)) (.fx (.invoke ⟨0, none, false, false, 1, 0x40, 0, .none, 0, false, false, 0⟩) none)
    ownAtomic s 0 = true := by decide
theorem wit_MwaitLimit : let s := { sys { ctxAt 0 with wait := .mwait 3 5 7, mon := some 0x40 } with dies := [(0, { ac := 12 })] }
    (s.ctx 0).wait = .mwait 3 5 7 ∧ (s.ctx 0).monFired = false ∧ 5 ≤ s.ac (clusterDie (ctxCluster 0)) - 7 := by decide
theorem wit_MwaitFired : let s := sys { ctxAt 0 with wait := .mwait 3 0 0, mon := some 0x40, monFired := true }
    (curCtx s).mon ≠ none ∧ (curCtx s).monFired = true := by decide
theorem wit_Strands : let s := sys ((ctxAt 0).setX 1 0x48)
    ctxTranslate s 0 ((curCtx s).getX 1) true = (s, .ok 0x48 0 0 false) ∧ dieKey 0x48 / 4 = s.posN ∧ 0x48 % 8 = 0 ∧
    ctxRoom s 0 0x48 (some (3 : Fin 4).val) = true ∧ strandIdle s 0 3 = true := ⟨(sys_hit _ _ _ _ rfl (by decide) (by decide) (by decide) (by decide)), by decide⟩
/-- R236: a strand held, one whose packets are on their way, one that may take a context, and a full clasp; and a context at FIRM. -/
theorem wit_StrandsOpen : let s := sys ((ctxAt 0).setX 1 0x48)
    let st := fun (c : Ctx) => sys { c with unack := [⟨.ctx 0, 0, 0, 0, .fx (.store ⟨0x40, 0, 1, none, false, 0⟩) (some ⟨35, 0, 0⟩), []⟩] }
    strandLow s (.ctx 0) 35 0 = none ∧ (takeClasp s 0 (strandKey s (.ctx 0) 35) 0).2 = true ∧ (strandLow (st (ctxAt 0)) (.ctx 0) 35 0).isSome = true ∧
    (curCtx (sys (ctxAt 2))).pl = firm ∧ ownAny (sys (ctxAt 2)) 0 = false ∧
    tfind (ctxAt 0).seen (strandIdx 3 4) = none ∧ (tfind [(strandIdx 3 4, ())] (strandIdx 3 4)).isSome = true := by decide
/-- Links all DOWN, and all UP. -/
theorem linkUp_all (s : State) (x : Link) (h : s.hub.links = List.replicate 16 x) : (s.linkUp).2 = (x.st == 3) := by
  have : Config.freePick s.free % 16 < 16 := Nat.mod_lt _ (by decide)
  simp only [State.linkUp, State.draw]
  rw [h, List.getD_eq_getElem?_getD, List.getElem?_replicate, if_pos this]
  rfl
/-- R236: a virtual address whose frame lies in another package, with links and with none. -/
theorem wit_StrandsRemote : let t : TlbEntry := ⟨2048, 0, 1, 0, 2 ^ 40 + 0x47⟩
    let s := { sys ((ctxAt 0).setX 1 0x48) with hub := { hub0 with tlb := [t] } }
    let up := { s with hub := { s.hub with links := List.replicate 16 { st := 3 } } }
    tlbHit s 2048 0 0x48 false false = some t ∧ leafRes 1 (2 ^ 40 + 0x47) 0x48 = .ok (2 ^ 44 + 0x48) 0 0 false ∧
    fifoBank s (2 ^ 44 + 0x48) = none ∧ dieKey (2 ^ 44 + 0x48) / 4 ≠ s.posN ∧ strandLow s (.ctx 0) 35 (dieKey (2 ^ 44 + 0x48)) = none ∧
    (s.linkUp).2 = false ∧ (State.linkUp up).2 = true :=
  ⟨by decide, by decide, by decide, by decide, by decide, linkUp_all _ {} rfl, linkUp_all _ { st := 3 } rfl⟩
theorem wit_StrandsBusy : let s := sys { ctxAt 0 with wait := .sbar 2, unack := [⟨.ctx 0, 0, 0, 0, .fx (.store ⟨0, 0, 1, none, false, 0⟩) (some ⟨34, 0, 0⟩), []⟩] }
    strandIdle s 0 2 = false ∧ strandIdle s 0 1 = true ∧ (s.ctx 0).wait = .sbar 2 := by decide
/-- Entries of virtual device 0, two of one key, and one of another device. -/
def pqS : State := { sys ((ctxAt 0).setX 1 5) with dies := [(0, { pq := [⟨9, 1, 0, 0⟩, ⟨4, 2, 0, 1⟩, ⟨4, 3, 0, 2⟩, ⟨1, 4, 1, 3⟩], pushes := 4 })] }
theorem wit_PriorityQueue : let mine := (pqS.die 0).pq.filter (fun e => e.vd == (curCtx pqS).vdn)
    (curCtx pqS).getX 1 ≠ BitVec.allOnes 64 ∧ mine.length < 4 ∧ pqS.vd? 0 = some vd0 ∧ ownAny pqS 0 = false ∧ mine ≠ [] ∧
    mine.Pairwise (fun y z => y.order < z.order) ∧ ((sys (ctxAt 0)).die 0).pq = [] :=
  ⟨by decide, by decide, rfl, by decide⟩
theorem wit_PriorityQueueBound : ((ctxAt 0).setX 1 (-1)).getX 1 = BitVec.allOnes 64 ∧
    4 ≤ ((⟨9, 1, 0, 0⟩ : PqEntry) :: (pqS.die 0).pq).countP (fun e => e.vd == 0) ∧
    65536 ≤ (List.replicate 65536 (⟨9, 1, 0, 0⟩ : PqEntry)).length := ⟨by decide, by decide, Nat.le_of_eq (List.length_replicate ..).symm⟩
/-- R239, R240: the smaller key first, and of two equal keys the one pushed first. -/
theorem test_pqpop_w1 : xAfter (.seqPqpopW1 6 7) pqS 6 = 4 ∧ xAfter (.seqPqpopW1 6 7) pqS 7 = 2 := by decide

/-- What a read or a plan of writes gives where it succeeds. -/
def isOk {α : Type} (r : VRes α) : Bool := match r with | .ok _ => true | _ => false
def okOf {α : Type} (r : VRes α) (d : α) : α := match r with | .ok x => x | _ => d
theorem ok_of {α : Type} (r : State × VRes α) (d : α) (h : isOk r.2 = true) : r = (r.1, .ok (okOf r.2 d)) := by
  obtain ⟨s, v⟩ := r
  cases v <;> simp_all [isOk, okOf]

/-! ## Pages, sections, waybills and services of the sequencer: hypotheses -/

/-- A page of empty slots, and the plane it makes. -/
def page0 : Page := ⟨[], [], [], List.replicate 12 0, List.replicate 16 0, 0, 0⟩
def elem0 : Elem := { g := Vector.replicate 32 0, p := 0, halted := false }
/-- A plane of an armed section of context 0 with the channels, outputs and operator blocks given. -/
def plane0 (blocks : List (BitVec 512)) (chans : Tab Chan) (outs : Tab Out) : Plane :=
  { vd := 0, cid := 0, sec := 0, pix := 0, tq := 1, aq := 16, signed := false, page := { page0 with blocks := blocks }, armed := true, elems := List.replicate 8 elem0, mx := List.replicate 8 mxZero, chans := chans, outs := outs, ops := {}, cElems := List.replicate 8 elem0, cOps := {} }
/-- A context with one armed section on plane 0. -/
def secCtx (pl : BitVec 2) : Ctx := { ctxAt pl with secs := [(0, { planes := [0], armed := true })] }
/-- The machine with a plane under way on tile 0. -/
def plS (p : Plane) : State := { sys (secCtx 1) with planes := [(0, p)], power := [(0, .on)] }

theorem wit_ArmDrain : let s := sys { ((ctxAt 0).setX 1 255).setX 2 1 with secs := [(255, { planes := [0] })] }
    secBusy s 0 255 = false ∧ ((curCtx s).sec 255).planes.length = ((curCtx s).getX 2).toNat ∧ ownAny s 0 = false ∧ ((curCtx s).sec 255).planes ≠ [] ∧
    ((curCtx s).sec 254).planes = [] ∧ ((curCtx s).sec 255).draining = false ∧
    (let x := { { planes := [0] : Section } with draining := true, drainNamed := true }
     x.draining = true ∧ (x.drainNamed = true ∨ x.closed = true)) := by decide
theorem wit_ArmDrainBusy : 256 ≤ (((ctxAt 0).setX 1 256).getX 1).toNat ∧ secBusy (sys (secCtx 0)) 0 0 = true ∧ ((curCtx (sys (secCtx 0))).sec 0).planes ≠ [] := by
  decide
/-- R10, R70: a page of version 1 whose slots hold the empty slot of the spec's NOP entry; and it parsed. -/
def pageL : Bytes := bytesLE 256 1 ++ (List.replicate 128 (bytesLE 16 0x000FFFF000016596007E000000000000)).flatten ++ List.replicate 1792 0
def pageG : Page := ⟨pageL, List.replicate 128 0x000FFFF000016596007E000000000000, [], List.replicate 12 0, List.replicate 16 0, 0, 0⟩
theorem bytesLE_length : ∀ n v, (bytesLE n v).length = n
  | 0, _ => rfl
  | n + 1, v => by rw [bytesLE, List.length_cons, bytesLE_length n]
theorem drop_past {α : Type} (a b : List α) (n j : Nat) (h : a.length = n) : (a ++ b).drop (n + j) = b.drop j := by
  rw [← h, ← List.drop_drop, List.drop_left]
theorem drop_flatten {α : Type} (x : List α) (n : Nat) : ∀ i, i ≤ n → ((List.replicate n x).flatten).drop (x.length * i) = (List.replicate (n - i) x).flatten := by
  induction n with
  | zero => intro i h; simp [Nat.le_zero.mp h]
  | succ n ih =>
    intro i h
    cases i with
    | zero => simp
    | succ i =>
      rw [List.replicate_succ, List.flatten_cons, Nat.mul_succ, Nat.add_comm, ← List.drop_drop, List.drop_left, ih i (Nat.le_of_succ_le_succ h),
        Nat.succ_sub_succ]
theorem ofBytesLE_zeros : ∀ n, ofBytesLE (List.replicate n 0) = 0
  | 0 => rfl
  | n + 1 => by rw [List.replicate_succ, ofBytesLE, ofBytesLE_zeros n]; rfl
/-- What the parser reads of a page: header, slot words, zeros. -/
theorem page_head (h sl z : Bytes) (o n : Nat) (hh : h.length = 256) (hn : o + n ≤ 256) : numAt (h ++ sl ++ z) o n = numAt h o n := by
  unfold numAt byteSlice
  rw [List.append_assoc, List.drop_append_of_le_length (by omega), List.take_append_of_le_length (by simp; omega)]
theorem page_slot (h x z : Bytes) (k i : Nat) (hh : h.length = 256) (hx : x.length = 16) (hi : i < k) :
    numAt (h ++ (List.replicate k x).flatten ++ z) (256 + 16 * i) 16 = ofBytesLE x := by
  have d := drop_flatten x k i (Nat.le_of_lt hi)
  rw [hx] at d
  obtain ⟨m, hm⟩ : ∃ m, k - i = m + 1 := ⟨k - 1 - i, by omega⟩
  unfold numAt byteSlice
  rw [List.append_assoc, drop_past _ _ _ _ hh, List.drop_append_of_le_length (by simp [hx]; omega), d,
    hm, List.replicate_succ, List.flatten_cons, List.append_assoc, List.take_append_of_le_length (by omega), List.take_of_length_le (by omega)]
theorem page_tail (a : Bytes) (j o n : Nat) (ha : a.length = 2304) (h : 2304 ≤ o) : numAt (a ++ List.replicate j 0) o n = 0 := by
  obtain ⟨k, rfl⟩ : ∃ k, o = 2304 + k := ⟨o - 2304, by omega⟩
  unfold numAt byteSlice
  rw [drop_past _ _ _ _ ha, List.drop_replicate, List.take_replicate, ofBytesLE_zeros]
theorem front_length : (bytesLE 256 1 ++ (List.replicate 128 (bytesLE 16 0x000FFFF000016596007E000000000000)).flatten).length = 2304 := by
  simp [bytesLE_length]
theorem pageL_routes : routeWords pageL = List.replicate 128 0 := by
  apply List.eq_replicate_iff.mpr
  simp only [routeWords, List.length_map, List.length_range, List.mem_map, List.mem_range]
  exact ⟨trivial, fun _ ⟨i, _, e⟩ => e ▸ page_tail _ 1792 _ _ front_length (by omega)⟩
theorem pageL_parses : parsePage pageL = pageG := by
  have hs : (List.range 128).map (fun i => numAt pageL (256 + 16 * i) 16) = List.replicate 128 0x000FFFF000016596007E000000000000 := by
    apply List.eq_replicate_iff.mpr
    simp only [List.length_map, List.length_range, List.mem_map, List.mem_range]
    exact ⟨trivial, fun _ ⟨i, h, e⟩ => e ▸ page_slot _ _ _ 128 i (bytesLE_length _ _) (bytesLE_length _ _) h⟩
  have hz : ∀ o n, 2304 ≤ o → numAt pageL o n = 0 := fun o n h => page_tail _ 1792 o n front_length h
  have hh : ∀ o n, o + n ≤ 256 → numAt pageL o n = numAt (bytesLE 256 1) o n := fun o n h => page_head _ _ _ o n (bytesLE_length _ _) h
  unfold parsePage
  rw [pageL_routes, hs, hh 16 8 (by decide), hh 8 8 (by decide)]
  have hb : ∀ i n, numAt pageL (2816 + i) n = 0 := fun i n => hz _ n (by omega)
  have hc : ∀ i n, numAt pageL (3584 + i) n = 0 := fun i n => hz _ n (by omega)
  simp only [hb, hc]
  unfold pageG
  congr 1
theorem pageL_imageErr : imageErr pageG 0 = none := by
  have hh : ∀ o n, o + n ≤ 256 → numAt pageL o n = numAt (bytesLE 256 1) o n := fun o n h => page_head _ _ _ o n (bytesLE_length _ _) h
  have h : headerOk pageG.bytes = true := by
    unfold headerOk
    simp only [show pageG.bytes = pageL from rfl, hh 0 2 (by decide), hh 2 6 (by decide), hh 24 8 (by decide), hh 32 1 (by decide), hh 48 208 (by decide)]
    decide +kernel
  have r : (routeWords pageG.bytes).all routeEnc = true := by
    rw [show pageG.bytes = pageL from rfl, pageL_routes]; decide
  unfold imageErr
  rw [h, r]
  decide +kernel
@[irreducible] def placeMem : Memory := mwriteBytes [] 0x2000 pageL
/-- R220: that page at address 0x2000 of the firmware space, and FIX for plane 3 of tile 0. -/
def placeS : State := { sys (((ctxAt 2).setX 1 0x2000).setX 2 0x8000060000000000) with fmem := placeMem, power := [(0, .on)] }
theorem pageL_length : pageL.length = 4096 := by unfold pageL; rw [List.length_append, front_length, List.length_replicate]
theorem read_stored (l : Bytes) (a n : Nat) (h : l.length = n) : mreadBytes (mwriteBytes [] a l) a n = l := by
  subst h
  exact mreadBytes_mwriteBytes l a rfl
theorem placeS_fmem : placeS.fmem = placeMem := rfl
theorem placeMem_reads : mreadBytes placeMem 0x2000 4096 = pageL := by
  delta placeMem
  exact read_stored pageL 0x2000 4096 pageL_length
theorem placeS_reads : mreadBytes placeS.fmem 0x2000 4096 = pageL := placeS_fmem.symm ▸ placeMem_reads
theorem page_passes (s : State) (vd : Nat) (g : Page) (d : PDesc) (h1 : imageErr g d.aq = none) (h2 : unsignedErr s vd g = false)
    (h3 : imageRouteErr g d.pix = none) (h4 : matchErr [] g d.pix = false) (h5 : extentErr g = false) : pageErr s vd [] g d = none := by
  simp [pageErr, h1, h2, h3, h4, h5]
theorem placeS_passes : pageErr placeS 0 [] pageG (pdesc 0x8000060000000000) = none :=
  page_passes _ _ _ _ pageL_imageErr (by decide +kernel) (by decide +kernel) (by decide +kernel) (by decide +kernel)
theorem wit_PlacePage : let c := curCtx placeS
    let d := pdesc 0x8000060000000000
    c.pl = firm ∧ (c.getX 1).toNat = 0x2000 ∧ (c.getX 2).toNat = 0x8000060000000000 ∧ pdescOk 0x8000060000000000 = true ∧
    secBusy placeS 0 d.sec = false ∧ secPages placeS 0 d.sec = [] ∧ (choosePlane placeS 0 d pageG).2 = .inr 3 := by
  refine ⟨by decide, by decide, by decide, by decide, by decide, by decide, by decide +kernel⟩
/-- R221: a reserved bit of the descriptor, an armed section, a page that is no page, no plane. -/
theorem wit_PlacePageFails : pdescOk 1 = false ∧ secBusy (sys (secCtx 2)) 0 0 = true ∧
    (pageErr placeS 0 [] { pageG with bytes := [] } (pdesc 0x8000060000000000)).isSome = true ∧
    (choosePlane { placeS with power := [] } 0 (pdesc 0) pageG).2.getLeft?.isSome = true := by
  refine ⟨by decide, by decide, by decide +kernel, by decide +kernel⟩
/-- A context that has read n sectors from an address on in earlier turns, all zero but those given. -/
def hadRead (c : Ctx) (va : Word) (n : Nat) (l : List (Word × Lanes)) : Ctx :=
  { c with part := l ++ (List.range n).map (fun i => (va + BitVec.ofNat 64 (32 * i), 0)) }
theorem wit_PlacePageVirtual : let s := sys (hadRead ((ctxAt 1).setX 1 0x2000) 0x2000 128 [])
    let r := vread s (.ctx 0) 0 0x2000 4096
    ctxHolds s 0 0x2000 4096 = false ∧ r = (r.1, .ok (okOf r.2 [])) := ⟨by decide +kernel, ok_of _ _ (by decide +kernel)⟩
/-- Channel 2 of element 0, in page 0 on plane 0. -/
def recfgS : State := { plS (plane0 [] [(2, { depth := 4 })] []) with ctxs := [(0, ((secCtx 1).setX 1 0x800000000).setX 2 64)] }
theorem wit_Recfg : let p := plane0 [] [(2, { depth := 4 })] []
    tileAt recfgS 0 0 = some 0 ∧ bits 0x800000000 0 34 = 0 ∧ 8 * bits 0x800000000 37 5 + bits 0x800000000 34 3 = 2 ∧
    recfgS.plane? 0 = some p ∧ (tfind p.chans 2).isSome = true ∧ poolUsed (p.setChan 2 { p.chan 2 with recfg := some (64, 0) }) ≤ 32 * (p.tq + 1) := by
  decide +kernel
theorem wit_RecfgDone : let p := plane0 [] [(2, { depth := 4, recfg := some (64, 0) })] []
    let u := takeDepth { plS p with ctxs := [(0, { secCtx 1 with wait := .recfg 3 0 2 })] } 0 2
    (u.ctx 0).wait = .recfg 3 0 2 ∧ (u.ctx 0).run = .running ∧ (u.plane? 0).map (fun p => (p.chan 2).recfg) = some none := by decide +kernel
theorem wit_BanksAndFrames : let s := sys (ctxAt 1)
    let owned := { s with clusters := [(0, { Cluster.reset with banks := List.replicate 16 { owner := some 0 } })] }
    (s.cluster 0).banks[15]? = some ({} : Bank) ∧ (owned.cluster 0).banks[15]? = some { owner := some 0 } ∧ (curCtx owned).vd = some 0 ∧
    owned.hub.retiredBanks.contains 15 = false ∧ (stagesIn owned 0 15 || feedsAgen owned 0 15) = false ∧ bankInUse owned 0 15 = false ∧
    (((ctxAt 2).setX 1 0x3FFFFFFFF).getX 1).toNat < 2 ^ 34 ∧ 2 ^ 34 ≤ (((ctxAt 2).setX 1 0x400000000).getX 1).toNat := by decide
/-- A COPY waybill under way. -/
def wb0 : Waybill := { num := 1, cid := 0, vd := 0, task := false, sec := 0, arg := 0, stampA := 0, stampV := 0, exts := [⟨0x1000, 64, true, false, false, 0, 0⟩, ⟨0x2000, 64, false, true, false, 0, 0⟩] }
/-- The state in which the dispatcher of cluster 0 holds waybills. -/
def wbS (c : Ctx) (l : List Waybill) : State := { sys c with clusters := [(0, { Cluster.reset with wbs := l })] }
theorem wit_BankBusy : let w := { wb0 with task := true, phase := .stageIn, exts := [⟨0x1000, 64, true, false, true, 3, 0⟩] }
    (stagesIn (wbS (ctxAt 1) [w]) 0 3 || feedsAgen (wbS (ctxAt 1) [w]) 0 3) = true := by decide
/-- R225: the TASK record of no extent at the firmware address 64, one of an extent at 2^57, and bytes that are no record. -/
def wbRecS (c : Ctx) (m : Memory) : State := { wbS (c.setX 1 64) [wb0] with fmem := m }
theorem wit_Waybills : let s := wbRecS { ctxAt 2 with wait := .wbill 3 64 } [(64, 1)]
    let l := mreadBytes s.fmem 64 192
    wbOpen (s.cluster 0) < 64 ∧ (curCtx s).pl = firm ∧ ((curCtx s).getX 1).toNat = 64 ∧ (s.ctx 0).wait = .wbill 3 64 ∧ (s.ctx 0).run = .running ∧
    wbForm l = true ∧ (wbExtents l).map extentOf = [] ∧ wbForm (mreadBytes [] 64 192) = false := by decide +kernel
theorem wit_WaybillsExtent : let l := mreadBytes [(64, 1), (68, 1), (131, 0x40), (132, 32), (143, 2)] 64 192
    wbForm l = true ∧ (wbExtents l).map extentOf = [⟨2 ^ 57, 32, true, false, false, 0, 0⟩] ∧ insideVd (2 ^ 57) (2 ^ 57 + 32) = false ∧
    ∀ e ∈ (wbExtents l).map extentOf, stageBankOk (sys (ctxAt 2)) 0 e = true := by decide +kernel
theorem wit_WaybillsVirtual : let s := wbRecS (hadRead (ctxAt 1) 64 6 []) []
    let r := vread s (.ctx 0) 0 64 192
    ctxHolds s 0 64 192 = false ∧ (curCtx s).vdn = 0 ∧ r = (r.1, .ok (okOf r.2 [])) :=
  ⟨by decide +kernel, by decide, ok_of _ _ (by decide +kernel)⟩
theorem wit_Waitw : let c := { ctxAt 2 with wbNext := 3, wbDone := [(1, 0)] }
    tfind c.wbDone 1 = some 0 ∧ ¬ (1 = 0 ∨ c.wbNext ≤ 1 ∨ 1 + 4096 < c.wbNext) ∧ c.wbNext ≤ 3 ∧ tfind c.wbDone 2 = none ∧
    ¬ (2 = 0 ∨ c.wbNext ≤ 2 ∨ 2 + 4096 < c.wbNext) ∧ ({ c with wbNext := 4098 }).wbNext = 1 + 4096 + 1 := by decide
theorem wit_WaybillsFull : ¬ wbOpen ((wbS (ctxAt 2) (List.replicate 64 wb0)).cluster 0) < 64 := by decide
theorem wit_WaitwDone : let c := { ctxAt 1 with wbNext := 2, wbDone := [(1, 4)], wait := .waitw 3 1 }
    c.wait = .waitw 3 1 ∧ c.run = .running ∧ ¬ (1 = 0 ∨ c.wbNext ≤ 1 ∨ 1 + 4096 < c.wbNext) ∧ tfind c.wbDone 1 = some 4 := by decide
theorem wit_SystemInstructions : fwDefined 0x0120 = true ∧ fwDefined 0x8000 = true ∧ fwDefined 0x0001 = false ∧ (ctxAt 1).pl ≠ user ∧
    (let d := { ctxAt 0 with eie := true, event := 0x8000000000000000, evmask := 0x8000000000000001 }
     d.pl ≠ firm ∧ d.wait = .none ∧ (d.event &&& d.evmask).getLsbD 63 = true ∧ ∀ j, j < 63 → (d.event &&& d.evmask).getLsbD j = false) := by
  decide
/-- R243: an object of three participants at address 0x40, one of them arrived. -/
def barS (c : Ctx) : State := { sys (c.setX 1 0x40) with fmem := [(0x40, 1), (0x48, 3)] }
theorem wit_Barrier : let s := barS (ctxAt 2)
    s.fmem.wf = true ∧ (curCtx s).bara ≠ (curCtx s).getX 1 ||| 1 ∧ ownAny s 0 = false ∧ firmBad s 0x40 16 = false ∧ bits (mreadN s.fmem 0x40 16) 64 32 = 3 ∧
    bits (mreadN s.fmem 0x60 16) 64 32 = 0 ∧ (curCtx { s with ctxs := [(0, { ctxAt 1 with bara := 0x41 }.setX 1 0x40)] }).bara = 0x40 ||| 1 := by
  decide
theorem wit_BarrierHeldBack : let s := netS (barS (ctxAt 2)) (.fx (.store ⟨0x80, 0, 1, none, false, 0⟩) none)
    ownAny s 0 = true ∧ (curCtx s).pl = firm ∧ (curCtx s).bara ≠ (curCtx s).getX 1 ||| 1 := by decide
theorem wit_BarrierEnds : let d := { ctxAt 2 with wait := .bar .pkg none, bara := 0x41, barg := 5 }
    let s := barS d
    (s.ctx 0).wait = .bar .pkg none ∧ (s.ctx 0).run = .running ∧ (s.ctx 0).pl = firm ∧ firmBad s ((d.bara &&& ~~~15#64).toNat + 12) 4 = false ∧
    BitVec.ofNat 64 (mreadN s.fmem ((d.bara &&& ~~~15#64).toNat + 12) 4) ≠ d.barg := by decide
theorem wit_BarrierVirtual : let c := (ctxAt 1).setX 1 0x40
    let s := sys c
    ctxTranslate s 0 (c.getX 1) true = (s, .ok 0x40 0 0 false) ∧ ownAny s 0 = false :=
  ⟨sys_hit _ _ _ _ rfl (by decide) (by decide) (by decide) (by decide), by decide⟩
theorem wit_BarrierResult : let s := netS (sys { ctxAt 1 with wait := .bar .pkg (some 0x40), bara := 0 }) (.result (.ctx 0) 0x100000000 false none false 0x40)
    ∃ x, arriving s 0 = some x ∧ x.body = .result (.ctx 0) 0x100000000 false none false 0x40 ∧ (s.ctx 0).wait = .bar .pkg (some 0x40) ∧
    (0x100000000 : Word).getLsbD 32 = true ∧ (0xFFFFFFFF : Word).getLsbD 32 = false := ⟨_, rfl, rfl, rfl, by decide⟩
theorem wit_BarrierPolls : let d := { ctxAt 1 with wait := .bar .pkg none, bara := 0x41, barg := 5 }
    let s := sys d
    let r := homeSector s (.ctx 0) 0 0x40 0
    ctxTranslate s 0 (d.bara &&& ~~~15#64) false = (s, .ok 0x40 0 0 false) ∧ reaches s (.ctx 0) 0x40 2 = (s, true) ∧ r = (r.1, r.2.1, false) ∧
    bits r.2.1.toNat (8 * (0x40 % 32) + 96) 32 ≠ d.barg.toNat :=
  ⟨sys_hit _ _ _ _ rfl (by decide) (by decide) (by decide) (by decide), rfl, Prod.ext rfl (Prod.ext rfl (by decide)), by decide⟩
theorem wit_ThreadSwitch : let s := sys { ctxAt 2 with save := 0x1000, next := 0x1100 }
    let l := mreadBytes (mwriteBytes s.fmem 0x1000 (threadArea (curCtx s))) 0x1100 320
    s.fmem.wf = true ∧ (curCtx s).pl = firm ∧ (∀ b ∈ l.drop 288, b = 0) ∧
    firmBad (firmWrite s 0x1000 (threadArea (curCtx s))) 0x1100 320 = false ∧
    firmBad (firmWrite { s with fbad := [0x1220] } 0x1000 (threadArea (curCtx s))) 0x1100 320 = true ∧
    ¬ ∀ b ∈ (mreadBytes (mwriteBytes [(0x3120, 1)] 0x1000 (threadArea (curCtx s))) 0x3000 320).drop 288, b = 0 := by decide +kernel
theorem wit_ThreadSwitchSuper : let c := { ctxAt 1 with save := 0x1000, next := 0x2000 }
    let s := sys c
    let r1 := vplan s 0 0 c.save (threadArea c)
    let r2 := vreadAll 0 0 c.next 320 16 (performAll r1.1 (.ctx 0) 0 (okOf r1.2 []))
    let bad := vreadAll 0 0 c.next 320 16 (performAll { r1.1 with mem := [(0x2120, 1)] } (.ctx 0) 0 (okOf r1.2 []))
    c.pl = super ∧ ownAny s 0 = false ∧ r1 = (r1.1, .ok (okOf r1.2 [])) ∧ r2 = (r2.1, .ok (okOf r2.2 [])) ∧
    (∀ b ∈ (okOf r2.2 []).drop 288, b = 0) ∧ ¬ ∀ b ∈ (okOf bad.2 []).drop 288, b = 0 :=
  ⟨rfl, by decide, ok_of _ _ (by decide +kernel), ok_of _ _ (by decide +kernel), by decide +kernel, by decide +kernel⟩
/-- R231: a section control record of a kind for section 0 at address 0x3000 of the firmware space, its save area of 64 bytes at
the virtual address 0x1000. -/
def secS (kind : Byte) (x : Section) : State :=
  { plS (plane0 [] [] []) with ctxs := [(0, ({ ctxAt 2 with secs := [(0, x)] }).setX 1 0x3000)], fmem := [(0x3000, kind), (0x3010, 64), (0x3019, 0x10), (0x3020, 1)].filter (fun e => e.2 != 0) }
theorem wit_Cut : let s := secS 0 { planes := [0], armed := true }
    let r := secRec (mreadBytes s.fmem 0x3000 64)
    (curCtx s).pl = firm ∧ firmBad s 0x3000 64 = false ∧ r = ⟨0, 0, 0x1000, 64, [0]⟩ ∧ ((s.ctx 0).sec 0).armed = true ∧ ((s.ctx 0).sec 0).planes ≠ [] ∧
    (secPlanes s [(0, 0)]).map (fun pl => (s.plane? pl).map (·.assay)) = [some false] := by decide +kernel
/-- The same at SUPER, the record's two sectors read from the virtual address 0x3000 on. -/
def secV : State :=
  let c := hadRead ((ctxAt 1).setX 1 0x3000) 0x3000 0 [(0x3000, BitVec.ofNat 256 (64 * 2 ^ 128 + 0x10 * 2 ^ 200)), (0x3020, 1)]
  { plS (plane0 [] [] []) with ctxs := [(0, { c with secs := [(0, { planes := [0], armed := true })] })] }
theorem wit_CutSuper : let s := secV
    let r1 := vread s (.ctx 0) 0 0x3000 64
    let r2 := checkArea r1.1 0 0 0x1000 64
    let r3 := translate r2.1 (tlbCluster 0) 0 0x3000 true false
    (curCtx s).pl = super ∧ ctxHolds s 0 0x3000 64 = false ∧ r1 = (r1.1, .ok (okOf r1.2 [])) ∧ secRec (okOf r1.2 []) = ⟨0, 0, 0x1000, 64, [0]⟩ ∧
    r2 = (r2.1, .ok (okOf r2.2 [])) ∧ r3.2 = .ok 0x3000 0 0 false ∧ ((r3.1.ctx 0).sec 0).armed = true ∧ ((r3.1.ctx 0).sec 0).planes = [0] ∧
    (r3.1.plane? 0).map (·.assay) = some false :=
  ⟨by decide, by decide +kernel, ok_of _ _ (by decide +kernel), by decide +kernel, ok_of _ _ (by decide +kernel), by decide +kernel,
    by decide +kernel, by decide +kernel, by decide +kernel⟩
theorem wit_ResumeContinueAbort : let s := secS 2 { planes := [0], armed := true }
    secRec (mreadBytes s.fmem 0x3000 64) = ⟨2, 0, 0x1000, 64, [0]⟩ ∧ ((curCtx s).sec 0).armed = true ∧ ((curCtx s).sec 0).planes ≠ [] ∧
    ((curCtx (secS 3 { away := true })).sec 0).away = true ∧ ((curCtx (secS 4 { planes := [0], inPlace := true })).sec 0).inPlace = true := by
  decide +kernel
/-- R233, R464: RESTORE of no section from a save area in the firmware space that holds none. -/
theorem wit_ResumeRestore : let s := { secS 1 {} with fmem := [(0x1000, 1), (0x3000, 1), (0x3010, 64), (0x3019, 0x10)] }
    let r := secRec (mreadBytes s.fmem 0x3000 64)
    let a := readArea fwReader s r.base r.len
    r = ⟨1, 0, 0x1000, 64, []⟩ ∧ a = (a.1, .ok (okOf a.2 none)) ∧ (okOf a.2 none).isSome = true ∧ (restoreAll a.1 (fun _ => 0) []).2 = none :=
  ⟨by decide +kernel, ok_of _ _ (by decide +kernel), by decide +kernel, rfl⟩
/-- R26, R199: the only context that runs is next, wherever the round stands, unless its sequencer has issued twice. -/
theorem nextUp_only (s : State) (i : Nat) (hi : i < 8) (ha : 8 * ctxCluster 0 + ((s.cluster (ctxCluster 0)).last + 1 + i) % 8 = 0)
    (hn : issuedIn s (ctxCluster 0) < 2) (hr : readyCtx (s.ctx 0))
    (ho : ∀ j, j < i → (s.ctx (8 * ctxCluster 0 + ((s.cluster (ctxCluster 0)).last + 1 + j) % 8)).run ≠ .running) : nextUp s 0 :=
  ⟨hn, i, hi, ha, hr, fun j h k => ho j h k.1⟩
/-- R34, R81, R82, R208: a word at the PC of each level, a context whose sequencer has issued both instructions of its ac. -/
theorem wit_StepRuns : let s := { sys (ctxAt 1) with mem := [(0x100F, 0xA0)] }
    let h := issuing s 0
    let r := loadSector h (.ctx 0) 0 0x1000 0 0
    readyCtx (s.ctx 0) ∧ nextUp s 0 ∧ nextUp (sys (ctxAt 2)) 0 ∧ firmBad (sys (ctxAt 2)) 0x1008 8 = false ∧
    firmBad { sys (ctxAt 2) with fbad := [0x1000] } 0x1008 8 = true ∧
    translate h (tlbCluster 0) 0 0x1008 false false = (h, .ok 0x1008 0 0 false) ∧ reaches h (.ctx 0) 0x1000 0 = (h, true) ∧ r = (r.1, r.2.1, false) ∧
    (decodeSeq (bits r.2.1.toNat (8 * (0x1008 % 32)) 64)).isSome = true ∧
    ¬ nextUp { s with clusters := [(0, { Cluster.reset with issue := (1, 2) })] } 0 :=
  ⟨⟨rfl, rfl, rfl, by decide⟩, nextUp_only _ 0 (by decide) (by decide) (by decide) ⟨rfl, rfl, rfl, by decide⟩ (by decide),
    nextUp_only _ 0 (by decide) (by decide) (by decide) ⟨rfl, rfl, rfl, by decide⟩ (by decide), by decide, by decide,
    translate_hit _ _ _ _ _ vd0 ⟨2048, 0, 1, 0, 0x47⟩ _ rfl (by decide) (by decide) (by decide) (by decide), rfl,
    Prod.ext rfl (Prod.ext rfl (by decide +kernel)), by decide +kernel, fun h => absurd h.1 (by decide)⟩
/-- R294: sectors left to write. R518: a message that asks for an instruction, and one that is none. -/
theorem wit_StepRunsPuts : let a : Access := ⟨0x40, 0, 1, none, false, 0⟩
    ({ ctxAt 1 with puts := [a] } : Ctx).run = .running ∧ ({ ctxAt 1 with puts := [a] } : Ctx).puts = a :: [] := ⟨rfl, rfl⟩
theorem wit_StepRunsMessage : messageInstr [6] = some .temprd ∧ messageInstr [7] = none ∧ State.reset.hub.booted = true ∧
    (hearMessage State.reset 0x7F [6] = .run State.reset.draw.2 .temprd ∨
      hearMessage State.reset 0x7F [6] = .ended (State.reset.draw.2.emit (.mgmt 1 []))) := by
  refine ⟨by decide, by decide, by decide, ?_⟩
  by_cases h : Config.freePick State.reset.free % 2 = 1
  · right
    simp only [hearMessage, State.draw, h]
    rfl
  · left
    simp only [hearMessage, State.draw, h]
    rfl
theorem wit_StepRunsElement : ∃ t, fetchSlot (withSlot State.reset 0x10200000000010760002000000000000) 0 0 = .word t 0x10200000000010760002000000000000 ∧
    (decodeElem 0x10200000000010760002000000000000).isSome = true := ⟨_, rfl, by decide⟩
theorem wit_StepRunsEvent : encode (.tileWake 0) = .event ∧ State.reset.fmem.wf = true ∧ (decodeSeq 0x9A00000000000000).isSome = false ∧
    (decodeSeq 0xA000000000000000).isSome = true := ⟨rfl, by decide⟩
theorem wit_StepKeepsMemory : State.reset.memWf = true ∧ ∃ t, step State.reset = .next t := ⟨by decide, _, rfl⟩
theorem wit_DecodeEncodeAgree : (Instr.seqLi 31 0xFFFFFFFF).wf = true := by decide

/-! ## Element firings: hypotheses -/

/-- A token at the head of a channel. -/
def atHead (t : Token) : Chan := { depth := 4, q := [⟨0, some t, 0, false, false, false, false, false⟩] }
def dTok (v : Lanes) : Token := dataTok v false 0
def sealed (v : Lanes) : Token := { data := v, tag := mkTag false false false 0 ||| 0x80, stream := some (0, 0, 0) }
/-- Element 0 of plane 0 with a token on channel 0. -/
def headP (t : Token) : Plane := plane0 [] [(0, atHead t)] [(1, { dest := .loc 8 })]
/-- The fields of an instruction that takes channel 0 as OPA and DEQs it. -/
def fHead : EFields := { f0 with opa := .head 0, inrdy := 1, deq := 1, dst := some 31, omask := 2, otag := 15 }

theorem wit_LowestReadySlot : ∃ t, fetchSlot (withSlot State.reset 0x10200000000010760002000000000000) 0 0 = .word t 0x10200000000010760002000000000000 := ⟨_, rfl⟩
/-- The converse: slot 15 of element 0 is the only one that is ready. -/
def slotP : Plane :=
  { slotPlane 0 with page := { page0 with slots := List.replicate 15 0x000FFFF000016596007E000000000000 ++ [0x10200000000010760002000000000000] } }
theorem wit_LowestReadySlotFires : let s := { withSlot State.reset 0 with planes := [(0, slotP)] }
    s.plane? 0 = some slotP ∧ isActive s 0 = true ∧ slotP.armed = true ∧ slotP.assay = false ∧ slotP.retiring = false ∧ (slotP.elem 0).halted = false ∧
    tget slotP.firedAt 0 0 ≤ s.planeAc 0 ∧ 0 ∉ slotP.stopped ∧ 0 ∉ slotP.drained ∧ 0 ∉ slotP.refill ∧
    (∀ k ∈ slotP.inputs 0, ∀ x ∈ (slotP.chan k).q, x.plain = false → s.planeAc 0 < x.vis) ∧ mustJoin slotP 0 = false ∧
    mustTake slotP 0 (s.planeAc 0) = false ∧ slotReady slotP 0 (s.planeAc 0) 15 = true ∧ ∀ k, k < 15 → slotReady slotP 0 (s.planeAc 0) k = false := by
  decide +kernel
theorem wit_FiringKind : (∃ t, some t ∈ [none, some (nullTok false 0)] ∧ t.nul = true) ∧ (∀ t, some t ∈ [none, some (dTok 1)] → t.nul = false ∧ t.psn = false) ∧
    (poisonTok 5 0).psn = true ∧ (poisonTok 5 0).nul = false := by
  refine ⟨⟨nullTok false 0, by decide, by decide⟩, ?_, by decide, by decide⟩
  intro t h
  obtain rfl : t = dTok 1 := by simpa using h
  decide
theorem wit_FiringEffect : let p := headP (dTok 7)
    (plS p).plane? 0 = some p ∧ 7 < p.elems.length ∧ chanKeys 0 2 = [1] ∧ tfind p.outs 1 = some { dest := .loc 8 } := by decide +kernel
theorem wit_PositionFirings : let p := headP (dTok 7)
    (∃ r, posRow (.elemClmul fHead .n64) = some r ∧ r.w = 64) ∧ (plS p).plane? (curPlane (plS p)) = some p ∧ unsealed (plS p) p fHead = true :=
  ⟨⟨_, rfl, rfl⟩, rfl, by decide +kernel⟩
theorem wit_FloatFirings : (∃ r, fltRow (.elemFrsq fHead .f64 true) = some r) ∧ unsealed (plS (headP (dTok 7))) (headP (dTok 7)) fHead = true :=
  ⟨⟨_, rfl⟩, by decide +kernel⟩
theorem wit_CompareSelect : let p := headP (nullTok false 0)
    (plS p).plane? (curPlane (plS p)) = some p ∧ unsealed (plS p) p fHead = true := ⟨rfl, by decide +kernel⟩
theorem wit_LaneFirings : ({ fHead with imm := 7 } : EFields).imm.toNat < 256 / natWidth .n32 ∧ unsealed (plS (headP (dTok 7))) (headP (dTok 7)) { fHead with imm := 7 } = true := by
  decide +kernel
theorem wit_Conversions : Ty.f32.width = Ty.i32.width ∧ Ty.e4m3.width < Ty.f64.width ∧ unsealed (plS (headP (dTok 7))) (headP (dTok 7)) fHead = true := by
  decide +kernel
theorem wit_TokenFirings : let p := headP (poisonTok 5 0)
    unsealed (plS p) p fHead = true ∧ (opA (plS p) p false fHead).2 = some (poisonTok 5 0) ∧ fHead.opa ≠ .zero ∧ f0.opa = .zero := by decide +kernel
/-- R55: a head that is there and one that is not. -/
theorem wit_SealAndTrapHeads : let p := headP (sealed 7)
    p.head 0 ((plS p).planeAc 0) = some (sealed 7) ∧ p.head 1 ((plS p).planeAc 0) = none ∧ (sealed 7).rpl = false := by decide +kernel
theorem wit_SealAndTrap : let p := headP (sealed 7)
    (∃ f, sealFields (.elemAdd fHead .i32) = some f ∧ unsealed (plS p) p f = false) ∧ 0 < p.elems.length ∧
    canRaise (plS p) p.vd (trapRecord (plS p) 0 0 15 7 0xFFFF p 1) = true := ⟨⟨_, rfl, by decide +kernel⟩, by decide +kernel, by decide +kernel⟩
/-- Operator blocks with one enabled, that of unit u. -/
def blk (u : Nat) (v : BitVec 512) : List (BitVec 512) := (List.replicate 12 0).set (u - 8) v
/-- R157: a block load at an address of a window of 2 MiB, the last that fits, and one at a misaligned address. -/
theorem wit_RequestFirings : let w := blk 9 (1 + 0x200000 * 2 ^ 128)
    let p := plane0 w [(0, atHead (dTok 0x1FFFE0))] []
    let q := plane0 w [(0, atHead (dTok 0x41))] []
    let op : ReqOp := .load .blk none
    unsealed (plS p) p fHead = true ∧ kind0 (plS p) p fHead = .data ∧ addrsOk p op (op.addrs (opA (plS p) p false fHead).1 (opB (plS p) p false fHead).1) = true ∧
    kind0 (plS q) q fHead = .data ∧ addrsOk q op (op.addrs (opA (plS q) q false fHead).1 (opB (plS q) q false fHead).1) = false := by decide +kernel
/-- A plane whose element 0 has a matrix state. -/
def mxP (t : Token) (m : Mx) : Plane := { headP t with mx := m :: List.replicate 7 mxZero }
theorem wit_WeightFirings : let p := mxP (sealed 7) { mxZero with sf := 4, af := true }
    let s := plS p
    s.plane? (curPlane s) = some p ∧ curElem s < p.elems.length ∧ curElem s < p.mx.length ∧ (opA s p false fHead).2 = some (sealed 7) ∧
    (sealed 7).nul = false ∧ (sealed 7).psn = false ∧ (sealed 7).seal = true ∧ (p.mxOf (curElem s)).sf = 4 ∧
    unsealed (plS (mxP (dTok 7) { mxZero with sf := 4 })) (mxP (dTok 7) { mxZero with sf := 4 }) f0 = true ∧ ((mxP (dTok 7) mxZero).mxOf 0).sf ≠ 4 := by
  decide +kernel
/-- R184: rows up to the last of the plane's. -/
theorem wit_MatrixFirings : let p := mxP (dTok 7) { mxZero with af := true }
    let s := plS p
    curElem s < p.mx.length ∧ unsealed s p fHead = true ∧ kind0 s p fHead = .data ∧ (p.mxOf (curElem s)).af = true ∧
    8 + (opA s p false fHead).1.toNat % 512 < p.aq ∧ 8 + (opC s p false fHead).1.toNat % 512 < p.aq ∧ (opB s p false fHead).1.toNat % 512 < p.aq := by
  decide +kernel
/-- A plane with one pending firing. -/
def pendP (w : Work) : Plane := { headP (dTok 7) with pend := [⟨0, 3, 15, false, false, w, false⟩] }
theorem wit_ResultsDue : ∀ w ∈ [Work.result (some 31) .data 5 0 [(8, 0)], .mmaSouth .data ⟨0, none, 0, 0, 0⟩ 3 [], .mmaRow .null ⟨0, none, 0, 0, 0⟩ 15 3,
      .acca .data .f32 0 0 1, .accd .data .f32 15 0 none 0 [], .accz 0 0xFFFF, .accs 0 15, .accNone],
    (plS (pendP w)).plane? 0 = some (pendP w) ∧ (∃ x, (pendP w).pend[0]? = some x ∧ x.work = w ∧ x.done = false ∧ x.due ≤ (plS (pendP w)).planeAc 0 ∧ x.elem < 8 ∧
      ∀ y ∈ (pendP w).pend, y.done = false → y.work.isAcc = true → x.due ≤ y.due ∧ (y.due = x.due → x.elem ≤ y.elem)) := by
  intro w _
  exact ⟨rfl, _, rfl, rfl, rfl, Nat.zero_le _, (by decide : 3 < 8), by intro y hy _ _; obtain rfl := List.mem_singleton.mp hy; exact ⟨Nat.le_refl _, fun _ => Nat.le_refl _⟩⟩

/-- R476: a row with an uncorrectable error that the operation on it reads; and one that none reads. -/
theorem wit_ResultsDueError : let p := { pendP (.accs 3 5) with rows := [(3, { data := 0, psn := false, oix := 0, ue := true })] }
    (Work.accs 3 5).rowRead = some 3 ∧ (p.row 3).ue = true ∧ 3 < p.aq ∧ (Work.accz 3 0).rowRead = none := by decide +kernel

/-! ## Element firings: results of the spec -/

/-- What register 31 of element 0 holds after an instruction on the head of channel 0. -/
def fires (i : Instr) (t : Token) : Option Lanes := ((after i (plS (headP t))).plane? 0).map (fun p => (p.elem 0).g.get 31)
/-- R123, R125: 32-bit positions wrap on their own. -/
theorem test_add_wraps : fires (.elemAdd { fHead with opb := .head 0 } .i32) (dTok 0x80000000800000017FFFFFFF) = some 0x00000002FFFFFFFE := by decide +kernel
/-- R128: a signed and a natural comparison of the same bits. -/
theorem test_cmp_sign : fires (.elemCmp fHead .lt .i32) (dTok 0xFFFFFFFF) = some 0xFFFFFFFF ∧ fires (.elemCmp fHead .lt .n32) (dTok 0xFFFFFFFF) = some 0 := by
  decide +kernel
/-- R98, R106: 300.0 in E4M3, rounded to nearest even, is 0x79. -/
theorem test_e4m3_300 : conv .e4m3 .f32 .rne false 0 0x43960000 = 0x79 := by decide +kernel

/-! ## Tokens, knots and drains: hypotheses -/

/-- A token that arrives at plane 0, channel 8, from port 1 of plane 4. -/
def tokS (fed : Option (Nat × Nat)) (t : Token) : State := netS (plS (plane0 [] [(8, { depth := 4, fed := fed })] [])) (.token 0 8 4 1 t)
theorem wit_TokenArrives : let s := tokS (some (4, 1)) (dTok 7)
    (∃ x, arriving s 0 = some x ∧ x.body = .token 0 8 4 1 (dTok 7)) ∧ tileHolds s (planeTile 0) = false ∧
    s.net.take 0 = [] ∧ misrouteCase s 0 8 4 1 = none ∧ (dTok 7).mrk = false ∧ (s.plane? 0).isSome = true :=
  ⟨⟨_, rfl, rfl⟩, by decide +kernel⟩
theorem wit_TokenHeld : let s := { tokS (some (4, 1)) (dTok 7) with power := [(0, .clockGated)] }
    tileHolds s (planeTile 0) = true ∧ ∃ x, arriving s 0 = some x ∧ x.toTile = some (planeTile 0) := ⟨by decide +kernel, _, rfl, rfl⟩
theorem wit_TokenMisrouted : misrouteCase (tokS none (dTok 7)) 0 8 4 1 = some 2 ∧ misrouteCase (tokS none (dTok 7)) 3 8 4 1 = some 1 ∧
    misrouteCase (tokS none (dTok 7)) 4 8 4 1 = some 0 := by decide
theorem wit_TokenMoves : let p := { headP (dTok 7) with idle := 4096, bal := 3 }
    let u := plS p
    let r := idleReported u 0 p
    p.idleSent = false ∧ 4096 ≤ p.idle ∧ (∃ e ∈ r.planes, e.2.cid = p.cid ∧ e.2.armed = true) ∧ allIdle r p.cid = true ∧
    (r.ctx p.cid).bal ≠ 0 ∧ canRaise r ((r.ctx p.cid).vd.getD 0) (stuckRecord r p.cid) = true := by
  refine ⟨by decide +kernel, by decide +kernel, ?_, by decide +kernel, by decide +kernel, by decide +kernel⟩
  exact ⟨_, List.mem_singleton.mpr rfl, rfl, rfl⟩
/-- The same with 64 records held. -/
theorem wit_TokenMovesFull : let p := { headP (dTok 7) with idle := 4096, bal := 3 }
    let u := plS p
    let r := idleReported { u with hub := { u.hub with vds := [(0, { vd0 with fqHeld := List.replicate 64 [] })] } } 0 p
    canRaise r ((r.ctx p.cid).vd.getD 0) (stuckRecord r p.cid) = false := by decide +kernel
theorem wit_Credit : let s := netS (plS (plane0 [] [] [(1, { dest := .exit 3 8 false, plane := some 4 })])) (.credit 0 1 4 8)
    ∃ x o, arriving s 0 = some x ∧ x.body = .credit 0 1 4 8 ∧ tfind (plane0 [] [] [(1, ({ dest := .exit 3 8 false, plane := some 4 } : Out))]).outs 1 = some o ∧
    o.leadsTo 4 8 = true ∧ o.leadsTo 5 8 = false := ⟨_, _, rfl, rfl, rfl, by decide⟩
theorem wit_TokenMovesIdle : let p := { headP (dTok 7) with idle := 4096 }
    ((idleReported (plS p) 0 p).ctx p.cid).bal = 0 := by decide +kernel
theorem wit_TokenResult : let p := plane0 [] [(8, { depth := 4, q := [⟨3, none, 0, true, false, false, false, false⟩] })] []
    let s := netS (plS p) (.result (.chan 0 8 3 0) 5 false none false 0)
    (∃ x, arriving s 0 = some x ∧ x.body = .result (.chan 0 8 3 0) 5 false none false 0) ∧ tileHolds s 0 = false ∧
    replyCase s 0 (fun p => p.placeOpen 8 3) = none ∧ (replyCase s 0 (fun p => p.placeOpen 8 4)).isSome = true :=
  ⟨⟨_, rfl, rfl⟩, by decide +kernel⟩
theorem wit_TileWakes : let s := netS { plS (headP (dTok 7)) with power := [(0, .clockGated)] } (.token 0 0 4 1 (dTok 7))
    s.powerOf 0 = .clockGated ∧ tileHolds (s.setPower 0 .on) 0 = false ∧ (nextToken s 0 s.net.length 0).isSome = true := by decide +kernel
theorem wit_Marker : let p := headP { data := 0, tag := 0x100 }
    (∃ y ∈ (p.chan 0).q, y.plain = false ∧ y.vis ≤ 0) ∧ 0 ∉ p.marked ∧ p.assay = false := by decide +kernel
/-- Unit 1 has one forward input and one output. -/
def knotP (t : Token) (k : Option Knot) : Plane := { plane0 [] [(0, { depth := 4 }), (8, atHead t)] [(8, { dest := .loc 0 })] with knot := k }
theorem wit_KnotTake : let p := knotP (knotTok false) none
    let s := plS p
    (s.plane? 0 = some p ∧ isActive s 0 = true ∧ 1 ∈ p.units) ∧ knotReady p 1 0 = true ∧ p.fwdInputs 1 = [8] ∧
    inputsKnot p 1 0 = true ∧ inputsDrain p 1 0 = false := ⟨⟨rfl, by decide +kernel⟩, by decide +kernel⟩
theorem wit_KnotJoin : let p := { plane0 [] [(8, { depth := 4 })] [(0, { dest := .loc 8 })] with knot := some ⟨false, [], true⟩ }
    knotReady p 0 0 = true ∧ joinsKnot p 0 = true ∧ 0 ∈ p.units := by decide +kernel
theorem wit_BackEdge : let p := plane0 [] [(8, { atHead (knotTok false) with back := true })] []
    8 ∈ p.backInputs 1 ∧ 1 ∉ p.stopped ∧ headKnot p 0 8 = true := by decide +kernel
theorem wit_KnotCommit : let p := knotP (dTok 7) (some ⟨false, [0, 1], false⟩)
    knotComplete p 0 = true ∧ p.cutDone = false ∧ p.assay = false := by decide +kernel
theorem wit_ImplicitKnot : let p := { knotP (dTok 7) none with held := [⟨.fx (.vamo 0 false 0 0) none, false, false⟩] }
    p.knot = none ∧ implicitDue p = true ∧ p.armed = true ∧ p.retiring = false ∧ p.stopped = [] ∧ p.assay = false ∧
    p.entries.all (fun e => entryRoom (plS p) e.2 0) = true := by decide +kernel
theorem wit_DrainTake : let p := knotP (knotTok true) none
    unitFree p 1 0 = true ∧ knotReady p 1 0 = true ∧ inputsKnot p 1 0 = true ∧ inputsDrain p 1 0 = true ∧ (∀ j, j < 16 → slotReady p 1 0 j = false) := by
  decide +kernel
/-- R50: an open source with one output leads to unit 1's first input; its second input holds the drain behind a surplus token. -/
theorem wit_DrainSurplus : let full : Chan := { depth := 4, fed := some (0, 0), q := [⟨0, some (dTok 1), 0, false, false, false, false, false⟩, ⟨1, some (knotTok true), 0, false, false, false, false, false⟩] }
    let p := { plane0 [] [(8, full), (9, atHead (knotTok true))] [(0, { dest := .loc 8 })] with draining := true }
    ¬ inputsKnot p 1 0 = true ∧ surplusDrain (plS p) p 1 0 = true ∧ knotReady p 1 0 = true := by decide +kernel
theorem wit_DrainPattern : let p := { plane0 (blk 18 (1 + 2 ^ 50)) [] [] with draining := true, ops := { ({} : OpSt) with rngN := 2 ^ 40 } }
    inputsKnot p 18 0 = false ∧ surplusDrain (plS p) p 18 0 = false ∧ closedSource p 18 = true ∧ patternDone p 18 = true ∧ knotReady p 18 0 = true ∧ p.knot = none ∧ kivDue p 18 = false := by
  decide +kernel
theorem wit_LateToken : let p := { knotP (dTok 7) none with drained := [1] }
    let s := plS p
    headData p 0 8 = true ∧ 8 ∈ p.inputs 1 ∧ canRaise s p.vd (misRecord true (newOrigin s 0 1 0 causeMisroute 0xFFFF) p.vd 1 0 0 0 (faX s 0) (faY s 0) (faX s 0) (faY s 0)) = true := by
  decide +kernel
theorem wit_OpenSourceDrain : let p := { plane0 [] [(8, { depth := 4 })] [(0, { dest := .loc 8 })] with draining := true, drainNamed := true, drained := [1] }
    let s := plS p
    let q := makeRoom s 0 p 0
    isActive s 0 = true ∧ openSource p 0 = true ∧ targetsDrained s p 0 0 = true ∧ (secOf s p).planes = [0] ∧ (∀ v ∈ p.units, closedSource p v = false) ∧
    ((q.plane? 0).map (fun q => knotReady { q with chans := tmap (fun _ c => { c with freed := 0 }) q.chans } 0 0)) = some true := by decide +kernel
theorem wit_Rollback : (plane0 [] [] []).armed = true ∧ (plane0 [] [] []).assay = false ∧ (plane0 [] [] []).cutDone = false ∧ (plS (plane0 [] [] [])).plane? 0 = some (plane0 [] [] []) :=
  ⟨rfl, rfl, rfl, rfl⟩

/-! ## Operators: hypotheses -/

/-- Unit u enabled with a block, tokens on its inputs, and two outputs that lead to free channels of element 0. -/
def opP (u : Nat) (v : BitVec 512) (ins : List Token) : Plane :=
  plane0 (blk u (v ||| 1)) ([(0, { depth := 4 }), (1, { depth := 4 })] ++ (List.range ins.length).map (fun i => (8 * u + i, atHead (ins.getD i (dTok 0))))) [(8 * u, { dest := .loc 0 }), (8 * u + 1, { dest := .loc 1 })]
/-- Whether operator u may take a step (R253), in the words of the statements. -/
def may (p : Plane) (u : Nat) : Bool :=
  isActive (plS p) 0 && p.units.contains u && unitFree p u 0 && !kivDue p u && !mustJoin p u
theorem opMay_of (p : Plane) (u : Nat) (h : may p u = true) : opMay (plS p) 0 u p := by
  simp only [may, Bool.and_eq_true, Bool.not_eq_true', List.contains_iff_mem] at h
  exact ⟨⟨rfl, h.1.1.1.1, h.1.1.1.2⟩, h.1.1.2, h.1.2, h.2⟩
def nTok : Token := nullTok false 0
theorem wit_Steer : let p := opP 11 0 [dTok 1, dTok 0]
    opMay (plS p) 0 11 p ∧ opHead p 11 0 0 = some (dTok 1) ∧ opHead p 11 1 0 = some (dTok 0) ∧ opRoom2 p 11 0 1 0 = true :=
  ⟨opMay_of _ _ (by decide +kernel), by decide +kernel⟩
theorem wit_Merge : let p := opP 12 2 [nTok, nTok]
    let q := opP 12 0 [nTok, dTok 3]
    opMay (plS p) 0 12 p ∧ opHead p 12 0 0 = some nTok ∧ opHead p 12 1 0 = some nTok ∧ opRoom p 12 0 0 = true ∧ fbit p 12 1 = true ∧
    opMay (plS q) 0 12 q ∧ fbit q 12 1 = false ∧ opHead q 12 1 0 = some (dTok 3) ∧ (dTok 3).nul = false :=
  ⟨opMay_of _ _ (by decide +kernel), by decide +kernel, by decide +kernel, by decide +kernel, by decide +kernel, opMay_of _ _ (by decide +kernel), by decide +kernel⟩
theorem wit_Scale : let p := opP 13 0x1000 [dTok 1, dTok 2]
    opMay (plS p) 0 13 p ∧ opHead p 13 0 0 = some (dTok 1) ∧ opRoom p 13 0 0 = true ∧ fbit p 13 12 = true ∧ opHead p 13 1 0 = some (dTok 2) ∧ fbit (opP 13 0 []) 13 12 = false :=
  ⟨opMay_of _ _ (by decide +kernel), by decide +kernel⟩
theorem wit_Bfly : let p := opP 14 (0x2000 + 4 * 64) [dTok 1]
    let q := { opP 14 0x2000 [] with ops := { ({} : OpSt) with bflyOut := [dTok 4] } }
    opMay (plS p) 0 14 p ∧ p.ops.bflyOut = [] ∧ opHead p 14 0 0 = some (dTok 1) ∧ fld p 14 12 4 = 2 ∧ p.ops.bflyIn.length + 1 < 2 ^ fld p 14 6 3 / (256 / 32) ∧
    opRoom p 14 0 0 = true ∧ opMay (plS q) 0 14 q ∧ q.ops.bflyOut = dTok 4 :: [] ∧ opHead (sendOp q 14 0 0 1 (dTok 4)) 14 0 0 = none :=
  ⟨opMay_of _ _ (by decide +kernel), by decide +kernel, by decide +kernel, by decide +kernel, by decide +kernel, by decide +kernel, opMay_of _ _ (by decide +kernel), by decide +kernel⟩
theorem wit_Conv : let p := opP 15 (2 ^ 32) [dTok 1, dTok 2]
    let q := opP 15 (2 ^ 32 + 2 ^ 18) [dTok 1]
    let r := { p with ops := { p.ops with conv := convTaken p (dTok 1) none } }
    opMay (plS p) 0 15 p ∧ opHead p 15 0 0 = some (dTok 1) ∧ convRsr p = false ∧ fbit p 15 18 = false ∧ (convEmit (plS p) 0 0 32 r).isSome = true ∧
    (opMay (plS q) 0 15 q ∧ fbit q 15 18 = true ∧ opHead q 15 0 0 = some (dTok 1)) ∧
    (quantEmit (plS q) 0 0 { q with ops := { q.ops with conv := convTaken q (dTok 1) none } } false).isSome = true :=
  ⟨opMay_of _ _ (by decide +kernel), by decide +kernel, by decide +kernel, by decide +kernel, by decide +kernel,
    ⟨opMay_of _ _ (by decide +kernel), by decide +kernel, by decide +kernel⟩, by decide +kernel⟩
theorem wit_Red : let p := opP 16 0 [dTok 1]
    let q := opP 16 (2 ^ 24) [dTok 1]
    opMay (plS p) 0 16 p ∧ opHead p 16 0 0 = some (dTok 1) ∧ opRoom p 16 0 0 = true ∧ (fld p 16 24 8 + 1) * (fld p 16 12 3 + 1) = 1 ∧
    opMay (plS q) 0 16 q ∧ (fld q 16 24 8 + 1) * (fld q 16 12 3 + 1) = 2 :=
  ⟨opMay_of _ _ (by decide +kernel), by decide +kernel, by decide +kernel, by decide +kernel, opMay_of _ _ (by decide +kernel), by decide +kernel⟩
theorem wit_Agen : let p := opP 8 0 []
    opMay (plS p) 0 8 p ∧ p.ops.agen.fin = false ∧ agenRoom p 0 = true ∧ p.fault = none ∧ agenTakes p 0 none ∧ agenMode p = 0 ∧
    (agenGive (plS p) 0 0 p (affStep (plS p) 0 p p.ops.agen)).isSome = true :=
  ⟨opMay_of _ _ (by decide +kernel), by decide +kernel, by decide +kernel, by decide +kernel, .inl ⟨rfl, .inl (by decide +kernel)⟩, by decide +kernel⟩
/-- R257, R258: a trigger at the head; a page of a chain in progress; a chain at its end. -/
theorem wit_AgenTriggered : let p := opP 8 (0x80 + 4) [dTok 0]
    let q := opP 8 (0x80 + 2) [nTok]
    let b := { opP 8 (0x80 + 2) [] with ops := { ({} : OpSt) with agen := { ({} : AgenSt) with busy := true, trig := some (dTok 0), ntok := 1 } } }
    opMay (plS p) 0 8 p ∧ agenTakes p 0 (some (dTok 0)) ∧ agenMode p = 2 ∧ agenTakes q 0 (some nTok) ∧ agenMode q = 1 ∧
    trigKind (agenTurn (plS q) 0 q (some nTok)).2.ops.agen ≠ .data ∧ opMay (plS b) 0 8 b ∧ agenTakes b 0 none ∧ trigKind b.ops.agen = .data ∧ b.ops.agen.row < b.ops.agen.ntok :=
  ⟨opMay_of _ _ (by decide +kernel), .inr ⟨by decide, by decide +kernel, by decide +kernel, by decide +kernel⟩, by decide +kernel,
    .inr ⟨by decide, by decide +kernel, by decide +kernel, by decide +kernel⟩, by decide +kernel, by decide +kernel, opMay_of _ _ (by decide +kernel), .inl ⟨rfl, .inr (by decide +kernel)⟩, by decide +kernel⟩
theorem wit_AgenChainEnds : let b := { opP 8 (0x80 + 2) [] with ops := { ({} : OpSt) with agen := { ({} : AgenSt) with busy := true, trig := some (dTok 0) } } }
    b.ops.agen.ntok ≤ b.ops.agen.row ∧ (linkPage (plS b) 0 0 b b.ops.agen).isSome = true := by decide +kernel
theorem wit_Wport : let p := opP 10 (2 ^ 40) []
    let r := wportTurn (plS p) 0 p none
    opMay (plS p) 0 10 p ∧ p.ops.wport.fin = false ∧ p.wfault = none ∧ p.outReady 80 0 = true ∧ (wpPorts p).getD 0 0 = 0 ∧ wportTakes p 0 none ∧
    r.2.ops.wport.kind = .data ∧ wportSel p = false ∧ (match (wportRead r.1 0 r.2 0x40).2 with | .ok _ => true | _ => false) = true :=
  ⟨opMay_of _ _ (by decide +kernel), by decide +kernel, by decide +kernel, by decide +kernel, by decide +kernel, .inl ⟨rfl, .inl (by decide +kernel)⟩, by decide +kernel⟩
theorem wit_WportSelected : let p := opP 10 (2 + 2 ^ 40) [nTok]
    wportTakes p 0 (some nTok) ∧ (wportTurn (plS p) 0 p (some nTok)).2.ops.wport.kind ≠ .data := ⟨.inr ⟨by decide, by decide +kernel, by decide +kernel, by decide +kernel⟩, by decide +kernel⟩
theorem wit_Mask : let p := opP 17 0 [dTok 5, dTok 0x100]
    let q := { opP 17 0 [dTok 5, dTok 0x100] with ops := { ({} : OpSt) with maskLeft := some 0 } }
    opMay (plS p) 0 17 p ∧ opHead p 17 1 0 = some (dTok 0x100) ∧ opHead p 17 0 0 = some (dTok 5) ∧ asksReload (dTok 0x100) = true ∧
    p.ops.maskLeft.getD 32 ≠ 0 ∧ opMay (plS q) 0 17 q ∧ q.ops.maskLeft = some 0 ∧ opRoom q 17 0 0 = true ∧ asksReload (dTok 0xFF) = false :=
  ⟨opMay_of _ _ (by decide +kernel), by decide +kernel, by decide +kernel, by decide +kernel, by decide +kernel, opMay_of _ _ (by decide +kernel), by decide +kernel⟩
theorem wit_Rng : let p := opP 18 0 []
    let q := opP 18 2 [dTok 9]
    opMay (plS p) 0 18 p ∧ opRoom p 18 0 0 = true ∧ rngReq p = false ∧ rngNtok p = 0 ∧ opMay (plS q) 0 18 q ∧ rngReq q = true ∧
    opHead q 18 0 0 = some (dTok 9) ∧ (tfind q.outs 145).isSome = true ∧ opRoom2 q 18 0 1 0 = true ∧ opRoom q 18 0 0 = true :=
  ⟨opMay_of _ _ (by decide +kernel), by decide +kernel, by decide +kernel, by decide +kernel, opMay_of _ _ (by decide +kernel), by decide +kernel⟩
/-- R290: pair 3 of CHECK with two equal tokens, and with two that differ. -/
def checkP (a b : Token) : Plane :=
  plane0 (blk 19 (1 + 3 * 16)) [(0, { depth := 4 }), (155, atHead a), (159, atHead b)] [(155, { dest := .loc 0 })]
theorem wit_Check : let p := checkP (dTok 1) (dTok 1)
    unitActs (plS p) 0 19 p ∧ unitFree p 19 0 = true ∧ 3 ≤ fld p 19 4 2 ∧ opHead p 19 3 0 = some (dTok 1) ∧
    opHead p 19 7 0 = some (dTok 1) ∧ checkMatch (dTok 1) (dTok 1) = true ∧ opRoom p 19 3 0 = true ∧ p.ops.check = 0 ∧
    checkMatch (dTok 1) (dTok 2) = false ∧ canRaise (plS p) p.vd (checkRecord (plS p) 0 p (dTok 1) (dTok 2) 3 0 false) = true :=
  ⟨⟨rfl, by decide +kernel, by decide +kernel⟩, by decide +kernel⟩

/-! ## Memory interface, homes and clasps: hypotheses -/

/-- Plane 0 with its MIF enabled and a request in its queue, in ac 1. -/
def mifP (r : Option Req) : Plane := { opP 9 (1 + 0x200000 * 2 ^ 128) [] with reqs := r.toList }
/-- Whether a translation answers l, or its first fault. -/
def transOk (r : State × (List (Word × Nat × Nat × Nat) ⊕ (Nat × Word × Nat × List (Word × Nat × Nat × Nat)))) (l : List (Word × Nat × Nat × Nat)) : Bool :=
  match r.2 with | .inl x => x == l | .inr _ => false
def transBad (r : State × (List (Word × Nat × Nat × Nat) ⊕ (Nat × Word × Nat × List (Word × Nat × Nat × Nat)))) (j : Nat) (va : Word) (e : Nat) : Bool :=
  match r.2 with | .inl _ => false | .inr y => y.1 == j && y.2.1 == va && y.2.2.1 == e && y.2.2.2.isEmpty
def mifS (p : Plane) : State := { plS p with dies := [(0, { ac := 1 })] }
def req0 (k : Kind) (a : Word) : Req := ⟨.load .blk none, [a], 0, none, k, 0, 0, some 1, 0, 0, false, false, 0⟩
theorem wit_MifTakes : let p := mifP (some (req0 .data 0x40))
    let s := mifS p
    let r := translateAll (tlbTile 0) p.vd false true [0x40] [] s
    s.plane? 0 = some p ∧ isActive s 0 = true ∧ mifFree p 1 = true ∧ p.stream = [] ∧ p.reqs = req0 .data 0x40 :: [] ∧ (req0 .data 0x40).ac < 1 ∧ p.fault = none ∧
    (req0 .data 0x40).write = false ∧ (req0 .data 0x40).blk = true ∧ transOk r [(0x40, 0x40, 0, 0)] = true ∧ (performReq r.1 0 p (req0 .data 0x40) [(0x40, 0x40, 0, 0)]).isSome = true := by
  refine ⟨rfl, ?_⟩
  decide +kernel
theorem wit_MifFaults : let p := mifP (some (req0 .data (2 ^ 57)))
    let s := mifS p
    let r := translateAll (tlbTile 0) p.vd false true [2 ^ 57] [] s
    gotOf p = [] ∧ transBad r 0 (2 ^ 57) rForbid = true ∧ (raisePlaneFault r.1 0 (2 ^ 57) 0 rForbid 0 0 0 0 []).isSome = true := by decide +kernel
/-- R267: after a resolved fault, what was translated ahead of it stands. -/
theorem wit_MifGoesOn : let f : Fault5 := { fid := 1, va := 0x60, src := 0, got := [(0x40, 0x40, 0, 0)] }
    let r : Req := { req0 .data 0x40 with addrs := [0x40, 0x60] }
    let p := { mifP (some r) with fault := some { f with retry := true } }
    mifFree p 1 = true ∧ r.addrs.drop (gotOf p).length = [0x60] ∧
    transOk (translateAll (tlbTile 0) p.vd r.write r.blk [0x60] (gotOf p) (mifS p)) [(0x40, 0x40, 0, 0), (0x60, 0x60, 0, 0)] = true := by decide +kernel
theorem wit_MifRefused : let p := { mifP (some (req0 .data 0x40)) with fault := some { fid := 1, va := 0, src := 0, failed := true } }
    let q := mifP (some (req0 .null 0x40))
    mifFree p 1 = true ∧ (p.fault.map Fault5.failed) = some true ∧ mifFree q 1 = true ∧ (req0 .null 0x40).kind ≠ .data ∧
    ¬ ∃ h org, (req0 .null 0x40).op = .amo h ∧ (req0 .null 0x40).kind = .poison org ∧ (req0 .null 0x40).port ≠ none := by
  refine ⟨by decide +kernel, by decide +kernel, by decide +kernel, by decide +kernel, ?_⟩
  rintro ⟨h, org, e, _⟩
  cases e
/-- R163: a poisoned AMO at an address that is readable, and at one that is not. -/
theorem wit_MifPoisoned : let r : Req := { req0 (.poison 5) 0x40 with op := .amo 4, data := 1, lsix := some 2 }
    let p := mifP (some r)
    let a := translateAll (tlbTile 0) p.vd false false r.addrs [] (mifS p)
    mifFree p 1 = true ∧ (∃ h org, r.op = .amo h ∧ r.kind = .poison org ∧ r.port ≠ none) ∧ transOk a [(0x40, 0x40, 0, 0)] = true ∧
    (performReq a.1 0 p { r with lsix := none } [(0x40, 0x40, 0, 0)]).isSome = true ∧
    transBad (translateAll (tlbTile 0) p.vd false false [2 ^ 57] [] (mifS p)) 0 (2 ^ 57) rForbid = true :=
  ⟨by decide +kernel, ⟨4, 5, rfl, rfl, by decide⟩, by decide +kernel⟩
theorem wit_MifStream : let g := QItem.group [0x40] .data 0
    let p := { opP 9 (1 + 32) [] with agq := [g] }
    let q := { opP 9 1 [] with stream := [.load 1 0x40 0 0 { va := 0x40 }] }
    let w := { opP 9 1 [] with stream := [.store ⟨0x40, 0, 1, none, false, 0⟩ none { va := 0x40 }] }
    mifFree p 1 = true ∧ p.reqs = [] ∧ mifSdir p = 1 ∧ (takeGroup (mifS p) 0 1 p [0x40] .data 0).isSome = true ∧
    (isActive (mifS q) 0 = true ∧ q.armed = true ∧ q.assay = false ∧ 9 ∉ q.stopped ∧ markerDue q 9 1 = false ∧ tget q.firedAt 9 0 ≤ 1) ∧
    q.restream = false ∧ w.restream = false ∧
    holdRoom w [(.store ⟨0x40, 0, 1, none, false, 0⟩, storeStrand (mifS w) 0 none 0x40)] = true := by decide +kernel
/-- R268: a restored group whose one sector is where it was. -/
theorem wit_MifRestream : let q : Plane := { opP 9 1 [] with stream := [.load 1 0x40 0 0 { va := 0x40 }], restream := true }
    let s := mifS q
    s.setPlane 0 q = s ∧ s.plane? 0 = some q ∧ isActive s 0 = true ∧ q.armed = true ∧ q.assay = false ∧ 9 ∉ q.stopped ∧ markerDue q 9 1 = false ∧
    tget q.firedAt 9 0 ≤ 1 ∧ q.fault = none ∧
    (match (translateStream (tlbTile (planeTile 0)) q q.stream [] s).2 with | .inl l => l == [(.load 1 0x40 0 0 { va := 0x40 }, 0x40, 0, 0)] | .inr _ => false) = true :=
  ⟨rfl, rfl, by decide +kernel⟩
theorem wit_MifOthers : let s := netS (plS (plane0 [] [] [])) (.reply 0 1 0x40 7 false false)
    let ld : Load := ⟨1, 1, 0, 0, [⟨0x40, 0, 32, 0⟩], [0x40], 0, false, 0, false, false⟩
    let t := netS (plS { plane0 [] [] [] with loads := [ld] }) (.reply 0 1 0x40 7 false false)
    let asks := fun (p : Plane) => p.loads.any (fun l => l.id == 1 && l.waiting.contains 0x40)
    (∃ x, arriving s 0 = some x ∧ x.body = .reply 0 1 0x40 7 false false) ∧ tileHolds s 0 = false ∧ replyCase s 0 asks = some 3 ∧ replyCase t 0 asks = none ∧
    tileHolds (plS { plane0 [] [] [] with assay := true }) 0 = true := ⟨⟨_, rfl, rfl⟩, by decide +kernel⟩
/-- R193, R271: an element without recorded indices; one whose token's page is not mapped; one of a plane with a lasting answer. -/
theorem wit_Refill : let p := { plane0 [] [] [] with refill := [0] }
    let e := { elem0 with widx := { ({} : WIdx) with cbx := some (0, 0, 0) } }
    let q := { plane0 (blk 10 (1 + 2 ^ 40 + 2 ^ 488)) [] [] with refill := [0], elems := e :: List.replicate 7 elem0 }
    isActive (plS p) 0 = true ∧ 0 ∈ p.refill ∧ p.wfault = none ∧ refillStall (plS p) 0 p 0 = none ∧ q.wfault = none ∧ 0 ∈ q.refill ∧
    q.fault = none ∧ (match refillStall (plS q) 0 q 0 with | some (va, e) => va == 2 ^ 40 && stalls e && canRaise (plS q) q.vd (planeFaultRec (plS q) 0 q va 0 (takeFid (plS q) q.vd (.wport 0)).1 false e 0 2 0 0) | none => false) = true := by decide +kernel
/-- R480, R481: an assay whose plane stands, for a result that lasts in the matrix unit, in a bank, and for one that does not last. -/
theorem wit_AssayEnds : let p := { plane0 [] [] [] with refill := [0], assay := true }
    (tilePlanes (plS p) 0).filter (fun pl => match (plS p).plane? pl with | some p => p.assay | none => false) = [0] ∧
    ([⟨false, 0, 0, 0⟩, ⟨true, 3, 5, 0⟩, ⟨true, 1, 0, 0⟩] : List AssayResult).all (fun res =>
      (assayVds (plS p) 0 (res.lasting && !(res.funit == 3))).all (fun y => canRaise (plS p) y.1 (assayRecord (plS p) 0 y.1 y.2 0 res))) = true := by decide +kernel

theorem wit_HomeLoad : let s := netS (plS (plane0 [] [] [])) (.load 0x40 0 1 0 none false)
    let r := loadSector (s.dropPacket 0) (.plane 0) 0 0x40 0 0
    (∃ x, performs s 0 x ∧ x.body = .load 0x40 0 1 0 none false) ∧ r = (r.1, r.2.1, false) :=
  ⟨⟨_, ⟨rfl, by decide +kernel⟩, rfl⟩, Prod.ext rfl (Prod.ext rfl (by decide +kernel))⟩
theorem wit_HomeWrite : let a : Access := ⟨0x40, 7, 0x80000001, none, false, 0⟩
    let s := netS (sys (ctxAt 0)) (.fx (.store a) none)
    (∃ x, performs s 0 x ∧ x.body = .fx (.store a) none) ∧ fifoFull s 0x40 = false ∧ s.mem.wf = true ∧ localOff s 0x40 = some 0x40 ∧ fifoBank s 0x40 = none ∧ 0x40 ∉ s.bad :=
  ⟨⟨_, ⟨rfl, by decide +kernel⟩, rfl⟩, by decide +kernel⟩
/-- A vector atomic at a sector of this package: one that is sound, and one with an uncorrectable error. -/
theorem wit_Vamo : let s := netS (sys (ctxAt 0)) (.fx (.vamo 0x40 true 7 0) none)
    (∃ x, performs s 0 x ∧ x.body = .fx (.vamo 0x40 true 7 0) none) ∧ localOff s 0x40 = some 0x40 ∧ 0x40 ∉ s.bad ∧ 0x40 ∈ ({ s with bad := [0x40] } : State).bad ∧
    ∃ x, performs { s with bad := [0x40] } 0 x ∧ x.body = .fx (.vamo 0x40 true 7 0) none :=
  ⟨⟨_, ⟨rfl, by decide +kernel⟩, rfl⟩, by decide +kernel, by decide +kernel, by decide +kernel, ⟨_, ⟨rfl, by decide +kernel⟩, rfl⟩⟩
/-- R165: handler 15 is the last of the architected ones, 1 and 11 have 32 bits. -/
theorem wit_Handler : let m : Msg := ⟨11, none, true, false, 0x3F800000, 0x44, 0, .ctx 0, 0, false, false, 0⟩
    let s := netS (sys (ctxAt 0)) (.fx (.invoke m) none)
    (∃ x, performs s 0 x ∧ x.body = .fx (.invoke m) none) ∧ m.handler < 16 ∧ m.psn = none ∧ m.bar = false ∧ m.w32 = decide (m.handler = 1 ∨ m.handler = 11) ∧
    localOff s (m.pa / 32 * 32) = some 0x40 ∧ 0x40 ∉ s.bad := ⟨⟨_, ⟨rfl, by decide +kernel⟩, rfl⟩, by decide +kernel⟩
/-- A store on strand 32 of context 0 with sequence number 5, and a clasp that expects e. -/
def fx0 : Fx := .store ⟨0x40, 7, 1, none, false, 0⟩
def claspS (e : Nat) (held : Tab Packet) : State :=
  let s := netS (sys (ctxAt 0)) (.fx fx0 (some ⟨32, 0, 5⟩))
  { s with dies := [(0, { clasp := [(strandKey s (.ctx 0) 32, ⟨e, held, 0⟩)] })] }
/-- What the clasp of die 0 has for that strand. -/
def claspHas (s : State) : Option ClaspCtx := claspGet s 0 (strandKey s (.ctx 0) 32)
theorem wit_Clasps : (∃ x, arriving (claspS 5 []) 0 = some x ∧ x.body = .fx fx0 (some ⟨32, 0, 5⟩) ∧ mayPerform (claspS 5 []) 0 x = true ∧
      (performFx ((claspS 5 []).dropPacket 0) x fx0).isSome = true) ∧
    claspHas (claspS 5 []) = some ⟨5, [], 0⟩ ∧ (5 + 65536 - 5) % 65536 = 0 ∧ claspHas (claspS 4 []) = some ⟨4, [], 0⟩ ∧
    claspHeld (claspS 4 []) 0 < 8192 ∧ (5 + 65536 - 6) % 65536 = 65535 ∧ (5 + 65536 - 32774) % 65536 = 32767 ∧ (5 + 65536 - 32773) % 65536 = 32768 :=
  ⟨⟨_, rfl, rfl, by decide +kernel, by decide +kernel⟩, by decide +kernel⟩
theorem wit_ClaspNone : (let s := netS (sys (ctxAt 0)) (.fx fx0 (some ⟨32, 0, 5⟩))
     claspGet s 0 (strandKey (s.dropPacket 0) (.ctx 0) 32) = none) ∧
    (claspHas (claspS 4 [(5, ⟨.ctx 0, 0, 0, 0, .fx fx0 (some ⟨32, 0, 5⟩), []⟩)])).map (fun c => (tfind c.held 5).isSome) = some true := by decide +kernel
theorem wit_ClaspMessages :
    (∃ x, arriving (netS (sys (ctxAt 0)) (.release 32 5)) 0 = some x ∧ x.body = .release 32 5) ∧
    (∃ x, arriving (netS (sys (ctxAt 0)) (.ack 32 0 5)) 0 = some x ∧ x.body = .ack 32 0 5) := ⟨⟨_, rfl, rfl⟩, ⟨_, rfl, rfl⟩⟩
/-- A sender with unacknowledged strand packets from number m on, and one more packet on the way. -/
def waitS (m : List Nat) (b : Body) : State :=
  netS (sys { ctxAt 0 with unack := m.map (fun n => ⟨.ctx 0, 0, 0, 0, .fx fx0 (some ⟨32, 0, n⟩), []⟩) }) b
/-- R306, R308: an OPEN of what the clasp expects next, one whose packets are all committed, one sent behind others, and a late one. -/
theorem wit_ClaspOpens : let o := fun m => waitS m (.strandOpen 32 5)
    (∃ x, arriving (o [5]) 0 = some x ∧ x.body = .strandOpen 32 5) ∧ strandLow (o [5, 6]) (.ctx 0) 32 0 = some 5 ∧ strandLow (o []) (.ctx 0) 32 0 = none ∧
    strandLow (o [4, 5]) (.ctx 0) 32 0 = some 4 ∧ (5 + 65536 - 4) % 65536 < 32768 ∧ strandLow (o [6]) (.ctx 0) 32 0 = some 6 ∧ ¬ (5 + 65536 - 6) % 65536 < 32768 ∧
    (takeClasp ((o [5]).dropPacket 0) 0 (strandKey (o [5]) (.ctx 0) 32) 5).2 = true := ⟨⟨_, rfl, rfl⟩, by decide +kernel⟩
/-- R307: after a RETRY, where the clasp holds a context, where an OPEN is on its way, where neither is so, and where nothing waits. -/
theorem wit_ClaspRetries : let r := waitS [5] (.retry 32 0 5 true)
    let key := strandKey r (.ctx 0) 32
    let y : Packet := ⟨.ctx 0, 0, 0, 0, .strandOpen 32 5, []⟩
    (∃ x, arriving r 0 = some x ∧ x.body = .retry 32 0 5 true) ∧ strandLow r (.ctx 0) 32 0 = some 5 ∧ claspGet r 0 key = none ∧ openComing r (.ctx 0) 32 0 5 = false ∧
    (claspGet { r with dies := [(0, { clasp := [(key, ⟨5, [], 0⟩)] })] } 0 key).isSome = true ∧ openComing { r with net := r.net ++ [y] } (.ctx 0) 32 0 5 = true ∧
    strandLow (waitS [] (.retry 32 0 5 false)) (.ctx 0) 32 0 = none := ⟨⟨_, rfl, rfl⟩, by decide +kernel⟩
theorem wit_BadPacket : (BitVec.extractLsb' 231 3 (BitVec.ofNat 256 (7 * 2 ^ 231))).toNat = 7 ∧
    (BitVec.extractLsb' 88 4 (BitVec.ofNat 256 (2 ^ 231 + 6 * 2 ^ 88))).toNat = 6 ∧ (BitVec.extractLsb' 231 3 (BitVec.ofNat 256 (2 ^ 231 + 6 * 2 ^ 88))).toNat = 1 := by
  decide +kernel
theorem wit_Dispatcher : let s := wbS (ctxAt 1) [wb0]
    let e : Extent := ⟨0x1000, 64, true, false, true, 3, 0⟩
    let t := { wb0 with task := true, exts := [e], arg := 1 }
    (s.cluster 0).wbs[0]? = some wb0 ∧ wbLive s wb0 = true ∧ depsRetired (s.cluster 0) 0 wb0 = true ∧ wb0.phase = .waiting ∧ wb0.task = false ∧
    hasStageIn t = true ∧ hasStageIn { t with exts := [] } = false ∧ wb0.todo = [] ∧ wb0.cur = none ∧
    (let y := { plS (plane0 [] [] []) with ctxs := [(0, { ctxAt 1 with secs := [(0, { planes := [0] })] })] }
     mayArm y 0 0 1 = true ∧ ownAny y 0 = false) ∧ mayArm s 0 0 1 = false := by decide +kernel
theorem wit_CopySector : let w := { wb0 with phase := .copying, todo := [(0, 1, 1)] }
    let s := wbS (ctxAt 1) [w]
    let y := chooseSector s w
    wbLive s w = true ∧ w.fid = none ∧ nextCopy 0 y.2 = some (.va 0x1020, .va 0x2020) ∧ w.failed = false ∧ (copySector y.1 0 0 y.2 (.va 0x1020) (.va 0x2020)).isSome = true := by
  decide +kernel
theorem wit_WaybillRetires : let w := { wb0 with phase := .copying }
    let s := wbS (ctxAt 1) [w]
    wbLive s w = true ∧ w.todo = [] ∧ w.cur = none ∧ w.fid = none ∧ (s.cluster 0).wbs[0]? = some w ∧
    wbLive (wbS (ctxAt 1) [{ wb0 with phase := .finished }]) { wb0 with phase := .finished } = true := by decide +kernel
theorem wit_Frames : let c := { Cluster.reset with left := 0 }
    frameDue c = true ∧ frameFrom c.frame (c.idx + 1) = none ∧ frameFrom [0, 0, 5] 1 = some 2 ∧ frameFrom (List.replicate 15 0 ++ [1]) 15 = some 15 := by decide +kernel

/-! ## Commands, control page and world: hypotheses -/

/-- Fused values with hub-reserved memory from offset 0x100000 on. -/
def fused0 : Fused := ⟨0, 0, 0, 0, 0, 0, 0, 0, 64, 0x100000, 0x100000⟩
/-- A command record at 0x8000. -/
def cmdMem (code : Byte) (a1 a2 a3 : Nat) (m : Memory) : Memory :=
  mwriteN (mwriteN (mwriteN (mwrite m 0x8000 code) 0x8008 8 a1) 0x8010 8 a2) 0x8018 8 a3
/-- The machine with a hub and a memory. -/
def hubS (h : Hub) (m : Memory) : State := { sys (ctxAt 1) with hub := { h with fused := fused0 }, mem := m }
def cmdS (code : Byte) (a1 a2 a3 : Nat) : State := hubS hub0 (cmdMem code a1 a2 a3 [])
theorem reads_of (s : State) (pa : Nat) (c : Cmd) (h : (s.hub.up && cmdAddrOk s pa && (s.hub.cmd == some pa || (s.hub.cmd == none && (s.hub.cmds.isEmpty || s.hub.cmds.head? == some pa))) && c.clean) = true)
    (hr : (devRead s pa 0 64).map cmdOf = some c) : cmdReads s pa c := by
  simp only [Bool.and_eq_true, Bool.or_eq_true, beq_iff_eq, List.isEmpty_iff] at h
  cases e : devRead s pa 0 64 with
  | none => simp [e] at hr
  | some l => exact ⟨h.1.1.1, h.1.1.2, h.1.2, h.2, l, e, by simpa [e] using hr⟩
theorem wit_Pcreate : let s := cmdS 1 2 0 0
    cmdReads s 0x8000 ⟨1, 2, 0, 0, true⟩ ∧ (∀ e ∈ s.hub.parts, e.2 &&& BitVec.ofNat 16 2 = 0) ∧ (BitVec.ofNat 16 2).getLsbD 1 = true ∧
    (∀ g, g < 1 → (BitVec.ofNat 16 2).getLsbD g = false) ∧ (∃ e ∈ s.hub.parts, e.2 &&& BitVec.ofNat 16 3 ≠ 0) :=
  ⟨reads_of _ _ _ (by decide +kernel) (by decide +kernel), by decide +kernel⟩
theorem wit_PresetPdestroy : let s := cmdS 3 0 0 0
    let t := hubS { hub0 with vds := [] } s.mem
    cmdReads (cmdS 2 0 0 0) 0x8000 ⟨2, 0, 0, 0, true⟩ ∧ partExists s 0 = true ∧ partExists s 15 = false ∧ cmdReads s 0x8000 ⟨3, 0, 0, 0, true⟩ ∧
    vdsOf s 0 ≠ [] ∧ cmdReads t 0x8000 ⟨3, 0, 0, 0, true⟩ ∧ vdsOf t 0 = [] :=
  ⟨reads_of _ _ _ (by decide +kernel) (by decide +kernel), by decide +kernel, by decide +kernel, reads_of _ _ _ (by decide +kernel) (by decide +kernel), by decide +kernel,
    reads_of _ _ _ (by decide +kernel) (by decide +kernel), by decide +kernel⟩
/-- R443: a descriptor at 0x9000 of one range of 2 GiB, above hub-reserved memory. -/
def descMem : Memory := mwriteN (mwriteN (mwriteN (cmdMem 4 0x10 0x9000 0 []) 0x9030 8 0x220000) 0x9038 8 0x210000) 0x9040 8 0x100000400
theorem wit_Vdcreate : let s := hubS hub0 descMem
    let l := (devRead s 0x9000 0 128).getD []
    cmdReads s 0x8000 ⟨4, 0x10, 0x9000, 0, true⟩ ∧ s.vd? 1 = none ∧ devRead s 0x9000 0 128 = some l ∧ descOk s 0 l (vdOf l) = true :=
  ⟨reads_of _ _ _ (by decide +kernel) (by decide +kernel), by decide +kernel⟩
theorem wit_VddestroyCtxassign : let s := cmdS 6 0x80 0 0
    let t := cmdS 5 0 0 0
    let u := fun (w : State) => abortStrays ((ctxsOf w 0).foldl (fun s c => if mayStop (s.ctx c) then killCtx s c else s) w) 0
    let left := fun (w : State) => (ctxsOf (u w) 0).any (fun c => ((u w).ctx c).run == .running) || (u w).planes.any (fun e => e.2.vd == 0)
    cmdReads t 0x8000 ⟨5, 0, 0, 0, true⟩ ∧ t.vd? 0 ≠ none ∧ partExists t 0 = true ∧ left t = false ∧
    left { t with ctxs := [(0, { ctxAt 1 with wait := .atomic 3 false 0x40 })] } = true ∧ cmdReads s 0x8000 ⟨6, 0x80, 0, 0, true⟩ ∧
    clusterVd s 0 0 = some 0 ∧ (bitsSet 8 (bits 0x80 6 8)).map (fun i => 8 * bits 0x80 0 6 + i) = [1] ∧ (s.ctx 1).run = .stopped :=
  ⟨reads_of _ _ _ (by decide +kernel) (by decide +kernel), by decide +kernel, by decide +kernel, by decide +kernel, by decide +kernel,
    reads_of _ _ _ (by decide +kernel) (by decide +kernel), by decide +kernel⟩
theorem wit_Bankassign : let s := cmdS 7 0x200000 0 0
    cmdReads s 0x8000 ⟨7, 0x200000, 0, 0, true⟩ ∧ clusterVd s 0 0 = some 0 ∧ bitsSet 16 (bits 0x200000 6 16) = [15] ∧ s.hub.retiredBanks.contains 15 = false ∧
    stagesIn s 0 15 = false ∧ feedsAgen s 0 15 = false ∧ bankInUse s 0 15 = false := ⟨reads_of _ _ _ (by decide +kernel) (by decide +kernel), by decide +kernel⟩
theorem wit_Tpower : let s := cmdS 8 0 0 0
    let t := { s with power := [(0, .on)] }
    cmdReads s 0x8000 ⟨8, 0, 0, 0, true⟩ ∧ tileAt s 0 0 = some 0 ∧ partOf s (tileGranule 0) ≠ none ∧ 0 ∉ s.hub.retiredTiles ∧ s.hub.cmd = none ∧
    s.powerOf 0 = .gated ∧ tilePlanes s 0 = [] ∧ bits 0x200000 20 2 = 2 ∧ t.powerOf 0 = .on ∧ tilePlanes { plS (plane0 [] [] []) with mem := s.mem } 0 ≠ [] :=
  ⟨reads_of _ _ _ (by decide +kernel) (by decide +kernel), by decide +kernel⟩
theorem wit_TpowerDone : let s := { cmdS 8 0 0 0 with power := [(0, .up 0x8000), (1, .down 0x8000)] }
    s.powerOf 0 = .up 0x8000 ∧ s.powerOf 1 = .down 0x8000 ∧ s.hub.hot = [] := by decide +kernel
theorem wit_Frameset : let s := cmdS 0x10 0 0x9000 0
    cmdReads s 0x8000 ⟨0x10, 0, 0x9000, 0, true⟩ ∧ partOf s (clusterGranule 0) ≠ none ∧ devRead s 0x9000 0 128 = some (List.replicate 128 0) ∧
    (List.range 16).all (fun i => decide ((BitVec.ofNat 64 (numAt (List.replicate 128 0) (8 * i) 8)).toNat < 2 ^ 34)) = true :=
  ⟨reads_of _ _ _ (by decide +kernel) (by decide +kernel), by decide +kernel, by decide +kernel, by decide +kernel⟩
/-- The same machine with virtual device 0 changed. -/
def vdS (v : Vd) (m : Memory) : State := hubS { hub0 with vds := [(0, v)] } m
theorem wit_Vdstop : let s := cmdS 9 0 0x1000 64
    let a := checkArea s (vdCluster s 0) 0 0x1000 64
    cmdReads s 0x8000 ⟨9, 0, 0x1000, 64, true⟩ ∧ vdKnown s 0 = true ∧ s.vd? 0 = some vd0 ∧ s.hub.cmd ≠ some 0x8000 ∧ vd0.stop = none ∧ a = (a.1, .ok (okOf a.2 [])) :=
  ⟨reads_of _ _ _ (by decide +kernel) (by decide +kernel), by decide +kernel, rfl, by decide +kernel, rfl, ok_of _ [] (by decide +kernel)⟩
/-- R294, R469: the last sector of a save area goes out; with one more behind it. -/
theorem wit_VdstopPuts : let a : Access := ⟨0x1000, 1, 0xFFFFFFFF, none, false, 0⟩
    ({ (cmdS 9 0 0x1000 64).hub with cmdPuts := [a] } : Hub).cmdPuts = a :: [] ∧ ({ (cmdS 9 0 0x1000 64).hub with cmdPuts := [a, a] } : Hub).cmdPuts = a :: [a] := ⟨rfl, rfl⟩
/-- R470: an area of no region, read in earlier turns, and one still to be read. -/
def vdstartS (part : List (Word × Lanes)) : State :=
  hubS { hub0 with vds := [(0, { vd0 with stop := some (0x1000, 64), stopped := true })], cmdPart := part } (cmdMem 10 0 0 0 [(0x1000, 1)])
theorem wit_Vdstart : let s := vdstartS [(0x1000, 1), (0x1020, 0)]
    let a := fun (s : State) => readArea (vreader (.cmd (vdCluster s 0)) 0) s 0x1000 64
    cmdReads s 0x8000 ⟨10, 0, 0, 0, true⟩ ∧ vdKnown s 0 = true ∧ a s = ((a s).1, .ok (okOf (a s).2 none)) ∧ (okOf (a s).2 none) = some [] ∧ (restoreAll s Region.cid []).2 = none ∧
    cmdReads (vdstartS []) 0x8000 ⟨10, 0, 0, 0, true⟩ ∧ (match (a (vdstartS [])).2 with | .pause => true | _ => false) = true :=
  ⟨reads_of _ _ _ (by decide +kernel) (by decide +kernel), by decide +kernel, ok_of _ _ (by decide +kernel), by decide +kernel, rfl,
    reads_of _ _ _ (by decide +kernel) (by decide +kernel), by decide +kernel⟩
theorem wit_Migbegin : let s := cmdS 11 0 0x1000 0
    let t := vdS { vd0 with migDest := some (0, 1) } (cmdMem 12 0 0 0 [])
    let own : Shoot := ⟨0, 4096, [], [], [], true⟩
    let busy := hubS { hub0 with cmd := some 0x8000 } s.mem
    cmdReads s 0x8000 ⟨11, 0, 0x1000, 0, true⟩ ∧ s.hub.cmd ≠ some 0x8000 ∧ bits 0x1000 0 4 + 16 * bits 0x1000 4 4 = s.posN ∧ 16 * bits 0x1000 8 4 + bits 0x1000 12 4 = 1 ∧
    vdKnown { s with hub := { s.hub with vds := [(0, vd0), (1, vd0)] } } 1 = true ∧ heldSlots s vd0 = [] ∧
    cmdReads busy 0x8000 ⟨11, 0, 0x1000, 0, true⟩ ∧ busy.hub.cmd = some 0x8000 ∧ ownShoots vd0 = false ∧ ownShoots { vd0 with shoots := [own] } = true ∧
    cmdReads t 0x8000 ⟨12, 0, 0, 0, true⟩ :=
  ⟨reads_of _ _ _ (by decide +kernel) (by decide +kernel), by decide +kernel, by decide +kernel, by decide +kernel, by decide +kernel, by decide +kernel,
    reads_of _ _ _ (by decide +kernel) (by decide +kernel), rfl, by decide +kernel, by decide +kernel, reads_of _ _ _ (by decide +kernel) (by decide +kernel)⟩
/-- A pass whose copies may be made, and one whose shoot-downs are not complete. -/
theorem wit_Migpass : (passEnd (cmdS 12 0 0 0) 0 { vd0 with migTodo := some [] } (0, 1)).isSome = true ∧
    (passEnd (cmdS 12 0 0 0) 0 { vd0 with shoots := [⟨0, 4096, [], [], [], true⟩] } (0, 1)).isNone = true := by decide +kernel
theorem wit_Migfinal : let s := vdS { vd0 with migDest := some (0, 1) } (cmdMem 13 0 0x1000 4096 [])
    let t := vdS { vd0 with migDest := some (0, 1), stop := some (0, 0) } (cmdMem 13 0 0x1000 4096 [])
    cmdReads s 0x8000 ⟨13, 0, 0x1000, 4096, true⟩ ∧ (match (stopVd t 0x8000 0 0x1000 4096).2 with | .status n => n | _ => 0) = 2 := by
  exact ⟨reads_of _ _ _ (by decide +kernel) (by decide +kernel), by decide +kernel⟩
/-- The end of a migration whose source is stopped: the last pass to begin, strands not yet released, and the transfer. -/
theorem wit_MigfinalEnds : let v := { vd0 with migDest := some (0, 1), stopped := true }
    let h := { hub0 with vds := [(0, v)], cmd := some 0x8000 }
    let s := hubS h (cmdMem 13 0 0x1000 4096 [])
    let t := (ctxsOf s 0).foldl releaseCtxStrands s
    let o := { s with ctxs := [(0, { ctxAt 1 with seen := [(0, ())] })] }
    cmdReads s 0x8000 ⟨13, 0, 0x1000, 4096, true⟩ ∧ v.migTodo = none ∧ (∀ i ∈ ctxsOf s 0, (s.ctx i).unack = []) ∧ strandsDone t 0 = true ∧
    (passEnd t 0 { v with migTodo := some [] } (0, 1)).isSome = true ∧ strandsDone ((ctxsOf o 0).foldl releaseCtxStrands o) 0 = false ∧ (0, 1).1 = t.posN :=
  ⟨reads_of _ _ _ (by decide +kernel) (by decide +kernel), by decide +kernel⟩
/-- R474: every virtual device stopped; an image that is none of this package's, and one whose number is 1. -/
def ckptS (code : Byte) (y : List Checkpoint) : State :=
  let s := hubS { hub0 with vds := [(0, { vd0 with stopped := true })], ckpt := y } (cmdMem code 0 0x1000 0 [])
  { s with hub := { s.hub with fused := { fused0 with rsvBase := hbmBytes } } }
theorem wit_Chkpt : let s := ckptS 14 []
    cmdReads s 0x8000 ⟨14, 0, 0x1000, 0, true⟩ ∧ ckptFormOk ⟨14, 0, 0x1000, 0, true⟩ = true ∧ (∀ e ∈ s.hub.vds, e.2.stopped = true) ∧
    (∀ e ∈ s.hub.slots, e.2.kind = .operand ∨ e.2.kind = .session → (e.2.policy.getD 5 0).getLsbD 1 = false) := by
  refine ⟨reads_of _ _ _ (by decide +kernel) (by decide +kernel), by decide +kernel, by decide +kernel, ?_⟩
  intro e he
  obtain rfl := List.mem_singleton.mp he
  rintro (h | h) <;> cases h
theorem xtsUnit_length (e : Bool) (k : BitVec 256) (n : Nat) (l : Bytes) : (xtsUnit e k n l).length ≤ 32 := by
  have h : ∀ (a : Bytes) (t : Nat), (xorB a (bytesLE 16 t)).length ≤ 16 := by
    intro a t
    simp only [xorB, List.length_zipWith, bytesLE_length]
    omega
  simp only [xtsUnit, List.length_append]
  exact Nat.add_le_add (h _ _) (h _ _)
theorem ckptBack_above (s : State) (key : BitVec 256) (a : Nat) (m : Memory) (h : m.wf = true) : ∀ n, Memory.wf (ckptBack s key a n m) = true ∧
    ∀ c, 32 * n ≤ c → mread (ckptBack s key a n m) c = mread m c
  | 0 => ⟨h, fun _ _ => rfl⟩
  | n + 1 => by
    obtain ⟨hw, hr⟩ := ckptBack_above s key a m h n
    refine ⟨mwriteBytes_wf _ _ hw, fun c hc => ?_⟩
    rw [ckptBack, mread_mwriteBytes_outside _ _ _ hw (.inr ?_), hr c (by omega)]
    exact Nat.le_trans (Nat.add_le_add_left (xtsUnit_length _ _ _ _) _) (by omega)
theorem findImage_first (s : State) (a : Nat) (y : Checkpoint) (r : List Checkpoint)
    (h : mreadN (ckptBack s (tget y.slots 0 {}).key a hbmSectors y.mem) s.hub.fused.rsvBase 8 = 1) : ∃ z, findImage s a (y :: r) 0 = some (y, z) := by
  rw [findImage]
  exact ⟨_, if_pos h⟩
theorem wit_Chkload : let y : Checkpoint := ⟨0, 0x1000, [(hbmBytes, 1)], [], [], [], [], [], [], [], [], [], [], [], []⟩
    let s := ckptS 15 [y]
    cmdReads s 0x8000 ⟨15, 0, 0x1000, 0, true⟩ ∧ ckptFormOk ⟨15, 0, 0x1000, 0, true⟩ = true ∧ (∀ e ∈ s.hub.vds, e.2.stopped = true) ∧
    (∃ z, findImage s 0x1000 s.hub.ckpt 0 = some (y, z)) ∧ findImage (ckptS 15 []) 0x1000 (ckptS 15 []).hub.ckpt 0 = none := by
  refine ⟨reads_of _ _ _ (by decide +kernel) (by decide +kernel), by decide +kernel, by decide +kernel, ?_, rfl⟩
  have hr : ∀ (s : State) (key : BitVec 256), mreadN (ckptBack s key 0x1000 hbmSectors [(hbmBytes, 1)]) hbmBytes 8 = 1 := by
    intro s key
    have h := (ckptBack_above s key 0x1000 [(hbmBytes, 1)] (by decide +kernel) hbmSectors).2
    have hb : 32 * hbmSectors ≤ hbmBytes := by decide +kernel
    simp only [mreadN]
    rw [h _ hb, h _ (by omega), h _ (by omega), h _ (by omega), h _ (by omega), h _ (by omega), h _ (by omega), h _ (by omega)]
    decide +kernel
  exact findImage_first _ _ _ _ (hr _ _)
theorem wit_SlotRecord : let rc := bytesLE 1024 (16 + 4 * 2 ^ 16)
    transferZeros rc = true ∧ rc.length = 1024 ∧ numAt rc 2 1 = 4 ∧ numAt rc 0 2 = 16 ∧ vd0.ksbase ≤ 16 ∧ 16 < vd0.ksbase + vd0.kscnt ∧
    ((hubS { hub0 with slots := [(16, { kind := .evict })] } []).slot 16).kind ≠ .free ∧ ((cmdS 0 0 0 0).slot 16).kind = .free := by decide +kernel
/-- Records of which one names slot 1, which is not the virtual device's. -/
theorem wit_SlotRecordsRefused : (match transferAll 0 vd0 1 (bytesLE 1024 (1 + 4 * 2 ^ 16)) (cmdS 0 0 0 0) with | .inr n => n | .inl _ => 0) = 4 := by decide +kernel
theorem wit_MigrationState : (hubS { hub0 with inbox := [⟨[], [], [], [], [], none, [], []⟩] } []).hub.inbox[0]? = some ⟨[], [], [], [], [], none, [], []⟩ := rfl
/-- R445: records of a START and of a STOP for context 1 at 0x8000. -/
def recMem (op : Nat) : Memory := mwriteN (mwriteN [] 0x8000 8 (0x80 + op)) 0x8008 8 0x4000
def recS (op : Nat) (c : Ctx) : State := { hubS hub0 (recMem op) with ctxs := [(1, { c with vd := some 0 })] }
/-- The state once the record has been read, and its words. -/
def recAfter (op : Nat) (c : Ctx) : State := enterStart (recS op c) 0 0x8000
def recWords (op : Nat) (c : Ctx) : Bytes := (devRead (recAfter op c) 0x8000 0 32).getD []
theorem records_of (op : Nat) (c : Ctx) (v : Vd) (hv : (recS op c).vd? 0 = some v) (h : recordPlace (recS op c) v 0x8000 = true) (hs : v.cstarts = [])
    (hp : 0x8000 / 2 ^ 44 = (recAfter op c).posN)
    (hr : (devRead (recAfter op c) 0x8000 0 32).isSome = true) (ho : recordOk (numAt (recWords op c) 0 8) = true) :
    recordReads (recS op c) 0 0x8000 (recAfter op c) (recWords op c) := by
  obtain ⟨l, e⟩ := Option.isSome_iff_exists.mp hr
  refine ⟨⟨v, hv, h, .inl hs⟩, ?_, by decide, ho⟩
  have e' : devRead (enterStart (recS op c) 0 0x8000) 0x8000 0 32 = some l := e
  have hp' : 0x8000 / 2 ^ 44 = (enterStart (recS op c) 0 0x8000).posN := hp
  rw [recWords, recAfter, readRecord, if_pos hp', e']
  rfl
theorem wit_ContextRecords : let l := recWords 1 Ctx.reset
    let u := recAfter 1 Ctx.reset
    let busy := recAfter 1 { Ctx.reset with run := .running }
    recordReads (recS 1 Ctx.reset) 0 0x8000 u l ∧ recordReads (recS 1 { Ctx.reset with run := .running }) 0 0x8000 busy (recWords 1 { Ctx.reset with run := .running }) ∧
    recordReads (recS 2 Ctx.reset) 0 0x8000 (recAfter 2 Ctx.reset) (recWords 2 Ctx.reset) ∧ bits (numAt l 0 8) 0 2 = 1 ∧ numAt l 8 8 % 64 = 0 ∧
    8 * bits (numAt l 0 8) 10 6 + bits (numAt l 0 8) 7 3 = 1 ∧ (u.ctx 1).vd = some 0 ∧ (u.ctx 1).run = .stopped ∧ ctxStrandsDone u 1 = true ∧ (busy.ctx 1).run ≠ .stopped ∧
    bits (numAt (recWords 2 Ctx.reset) 0 8) 0 2 = 2 ∧ mayStop ((recAfter 2 Ctx.reset).ctx 1) = true ∧
    mayStop ({ Ctx.reset with run := .running, wait := .atomic 3 false 0x40 } : Ctx) = false :=
  ⟨records_of _ _ vd0 rfl (by decide +kernel) rfl (by decide +kernel) (by decide +kernel) (by decide +kernel),
    records_of _ _ vd0 rfl (by decide +kernel) rfl (by decide +kernel) (by decide +kernel) (by decide +kernel),
    records_of _ _ vd0 rfl (by decide +kernel) rfl (by decide +kernel) (by decide +kernel) (by decide +kernel), by decide +kernel⟩
theorem wit_FaultAnswers : let v := { vd0 with fids := [(1, .ctx 0), (2, .plane 0), (3, .copy 0 1)] }
    let s := { vdS v [] with ctxs := [(0, { ctxAt 1 with wait := .stall 1 0x40 none })] }
    s.vd? 0 = some v ∧ tfind v.fids 1 = some (.ctx 0) ∧ (s.ctx 0).wait = .stall 1 0x40 none ∧ tfind v.fids 2 = some (.plane 0) ∧ tfind v.fids 3 = some (.copy 0 1) ∧
    ({ ctxAt 1 with wait := .stall 1 0x40 (some (3, 2)) } : Ctx).wait = .stall 1 0x40 (some (3, 2)) := by decide +kernel
theorem wit_Shootdowns : let v := { vd0 with shoots := [⟨0, 4096, [(0, 4096)], [], [], false⟩], fqHeld := [zerosB 32] }
    let s := vdS v []
    s.vd? 0 = some v ∧ (∀ k ∈ ([] : List Packet), k ∉ sentFx s 0 [(0, 4096)]) ∧
    (∀ e ∈ s.planes, e.2.vd = 0 → e.2.restream = false → ∀ a ∈ e.2.stream, accIn [(0, 4096)] a = false) ∧ mapsIn 0 4096 v.stopMaps = false ∧
    (∀ e ∈ s.ctxs, e.2.vd = some 0 → cutUses 0 4096 e.2 = false ∧ ∀ a ∈ e.2.puts, inFrames [(0, 4096)] a.sector = false) ∧
    (∀ a ∈ s.hub.cmdPuts ++ s.hub.svcPuts, inFrames [(0, 4096)] a.sector = false) ∧ recSlots (zerosB 32) ≤ fqFree s v ∧
    bits 12 6 6 = 0 ∧ bits (63 * 64) 6 6 = 63 ∧ bits (12 * 64) 6 6 = 12 ∧ bits (57 * 64) 0 6 = 0 := by
  refine ⟨rfl, ?_, ?_, by decide +kernel, by decide +kernel, by decide +kernel, by decide +kernel⟩
  · intro k hk; cases hk
  · intro e he; cases he
theorem wit_World : let lk : Link := { st := 2, policy := [7] }
    let s := hubS { hub0 with links := List.replicate 16 lk, booted := true } []
    (s.link 15).st = 2 ∧ (7 : BitVec 256) ∈ (s.link 15).policy ∧ (hubS { hub0 with links := List.replicate 16 { st := 3 } } []).link 0 = { st := 3 } ∧
    (hubS { hub0 with links := List.replicate 16 { st := 1 } } []).link 0 = { st := 1 } ∧ s.hub.booted = true ∧ ({ s with hub := { s.hub with booted := false } } : State).hub.booted = false ∧
    axanoUp s = true ∧ unitLocked s 64 = false ∧ 64 / 32 * 32 ∉ s.bad ∧ unitLocked { s with hub := { s.hub with locks := [(0, lockWord 1 0)] } } 64 = true ∧ 64 + 64 ≤ hbmBytes ∧ hbmBytes < hbmBytes + 1 ∧
    tileAt s 0 0 = some 0 ∧ 0 ∈ ({ hub0 with retiredTiles := [0], retiredBanks := [15] } : Hub).retiredTiles ∧
    16 * tileCluster 0 + 15 ∈ ({ hub0 with retiredTiles := [0], retiredBanks := [15] } : Hub).retiredBanks ∧ 105 < (106 : BitVec 8).toNat ∧ 115 ≤ (115 : BitVec 8).toNat ∧
    messageInstr [] = none := by
  decide +kernel

/-! ## Services: hypotheses -/

/-- A request for a service whose block stands at 0x4000. -/
def freq (num : Nat) : FwReq := ⟨0, 3, num, 0x4000⟩
/-- The tables at 0x10000 that map virtual addresses 0 to 4 MiB at the same physical addresses. -/
def walkMem : Memory :=
  mwriteN (mwriteN (mwriteN (mwriteN (mwriteN [] 0x10000 8 0x1101) 0x11000 8 0x1201) 0x12000 8 0x1301) 0x13000 8 0x47) 0x13008 8 0x20047
/-- n sectors at an address, of the value v, as a service has read them in earlier turns. -/
def readAt (a : Nat) : Nat → Nat → List (Word × Lanes)
  | 0, _ => []
  | n + 1, v => (BitVec.ofNat 64 a, BitVec.ofNat 256 v) :: readAt (a + 32) n (v / 2 ^ 256)
/-- The machine whose queue holds the request and whose service has read its block, the bytes of x, and the sectors of l. -/
def svcP (num x : Nat) (v : Vd) (h : Hub) (l : List (Word × Lanes)) : State :=
  hubS { h with vds := [(0, v)], fwq := [freq num], svcPart := readAt 0x4000 2 x ++ l } (mwriteN walkMem 0x4000 64 x)
def svcS (num x : Nat) (v : Vd) (h : Hub) : State := svcP num x v h []
def popped (s : State) : State := { s with hub := { s.hub with fwq := [] } }
/-- The state after the block is read, and the block. -/
def blkS (s : State) (n : Nat) : State := (hread (popped s) 0 0 0x4000 n).1
def blkL (s : State) (n : Nat) : Bytes := okOf (hread (popped s) 0 0 0x4000 n).2 []
theorem served_of (s : State) (num n : Nat) (v : Vd) (hq : s.hub.fwq = [freq num]) (hv : s.vd? 0 = some v) (hc : (s.ctx 0).vdn = 0)
    (he : s.hub.svcEnd = none) (hp : s.hub.svcPuts = []) (h : isOk (hread (popped s) 0 0 0x4000 n).2 = true) : served s num (freq num) n (blkS s n) 0 v (blkL s n) :=
  ⟨popped s, ⟨[], hq, rfl, rfl, hc.symm, hv, he, hp⟩, (by decide : (0x4000 : Word).toNat % 64 = 0), ok_of _ _ h⟩
/-- Output bytes that can be written are written. -/
theorem outputs_of (t u : State) (r : FwReq) (vd va : Nat) (l : Bytes) (h1 : isOk (vplan t (ctxCluster r.cid) vd (BitVec.ofNat 64 va) l).2 = true)
    (h2 : isOk (vplan u (ctxCluster r.cid) vd (BitVec.ofNat 64 va) l).2 = true) : ∃ w, outputs t u r vd va l w :=
  ⟨_, ⟨_, _, ok_of _ [] h1⟩, _, _, ok_of _ [] h2, rfl⟩
def isPause {α : Type} : VRes α → Bool
  | .pause => true
  | _ => false
theorem pause_of {α : Type} (x : State × VRes α) (h : isPause x.2 = true) : x = (x.1, .pause) := by
  obtain ⟨t, v⟩ := x
  cases v <;> simp_all [isPause]
def evS : Hub := { hub0 with slots := [(16, { kind := .evict })] }
/-- R294: a service that has still to read its block; one whose output stands of two sectors, and one whose output is out. -/
theorem wit_ServiceTurns : let s := hubS { hub0 with vds := [(0, vd0)], fwq := [freq 0x8005] } walkMem
    let e := { s with hub := { s.hub with svcEnd := some 0 } }
    let p := { s with hub := { s.hub with svcEnd := some 0, svcPuts := [⟨0x200000, 1, 0xFFFFFFFF, none, false, 0⟩] } }
    serves s 0x8005 (freq 0x8005) (popped s) 0 vd0 ∧ (freq 0x8005).arg.toNat % 64 = 0 ∧
    (∃ u, hread (popped s) 0 0 0x4000 16 = (u, .pause)) ∧ e.hub.fwq = freq 0x8005 :: [] ∧ e.vd? (e.ctx (freq 0x8005).cid).vdn = some vd0 ∧
    e.hub.svcEnd = some 0 ∧ e.hub.svcPuts = [] ∧ p.hub.svcEnd = some 0 ∧ p.hub.svcPuts = ⟨0x200000, 1, 0xFFFFFFFF, none, false, 0⟩ :: [] := by
  refine ⟨⟨[], rfl, rfl, rfl, rfl, rfl, rfl, rfl⟩, by decide, ⟨_, pause_of _ (by decide +kernel)⟩, rfl, rfl, rfl, rfl, rfl, rfl⟩
/-- R485: slot 16 is free; slot 16 is taken. -/
theorem wit_Keys : let s := svcS 0x8005 16 vd0 hub0
    let t := svcS 0x8009 16 vd0 evS
    served s 0x8005 (freq 0x8005) 16 (blkS s 16) 0 vd0 (blkL s 16) ∧ numAt (blkL s 16) 0 8 = 16 ∧ numAt (blkL s 16) 8 8 = 0 ∧ slotFree (blkS s 16) vd0 16 = true ∧
    served t 0x8009 (freq 0x8009) 8 (blkS t 8) 0 vd0 (blkL t 8) ∧ slotFree (blkS t 8) vd0 16 = false :=
  ⟨served_of _ _ _ _ rfl rfl rfl rfl rfl (by decide +kernel), by decide +kernel, by decide +kernel, by decide +kernel, served_of _ _ _ _ rfl rfl rfl rfl rfl (by decide +kernel), by decide +kernel⟩
/-- R438, R485: units 1 and 2, open and untouched; one of them locked; one of them named by a waybill. -/
theorem wit_Conflock : let x := 0x200000 + 2 * 2 ^ 64
    let s := svcS 0x8006 x vd0 hub0
    let t := svcS 0x8006 x vd0 { hub0 with locks := [(2, lockWord 1 0)] }
    served s 0x8006 (freq 0x8006) 16 (blkS s 16) 0 vd0 (blkL s 16) ∧ blockUnits (blkL s 16) = [1, 2] ∧ unitsInVd (blkS s 16) vd0 (blkL s 16) = true ∧
    [1, 2].all (unitOpen (blkS s 16)) = true ∧ wbTouches (blkS s 16) 0 vd0 [1, 2] = false ∧ [1, 2].all (unitOpen (blkS t 16)) = false :=
  ⟨served_of _ _ _ _ rfl rfl rfl rfl rfl (by decide +kernel), by decide +kernel⟩
theorem wit_ConflockBusy : let s := { svcS 0x8006 (0x200000 + 2 ^ 64) vd0 hub0 with clusters := [(0, { Cluster.reset with wbs := [{ wb0 with exts := [⟨0x200000, 64, true, true, false, 0, 0⟩] }] })] }
    wbTouches (blkS s 16) 0 vd0 [1] = true ∧ unitOpen (blkS s 16) 1 = true := by decide +kernel
theorem wit_Conffree : let s := svcS 0x8008 (0x200000 + 2 ^ 64 + 16 * 2 ^ 128) vd0 { hub0 with locks := [(1, lockWord 1 0)], slots := [(16, { kind := .vdkey })] }
    served s 0x8008 (freq 0x8008) 24 (blkS s 24) 0 vd0 (blkL s 24) ∧ unitsInVd (blkS s 24) vd0 (blkL s 24) = true ∧ blockUnits (blkL s 24) = [1] ∧
    lockOf (blkS s 24) 1 = (lockWord 1 0).toNat ∧ numAt (blkL s 24) 16 8 = 16 ∧ slotInRange vd0 16 = true ∧ ((blkS s 24).slot 16).kind = .vdkey ∧
    ((blkS s 24).slot 16).vd = 0 ∧ wbTouches (blkS s 24) 0 vd0 [1] = false := ⟨served_of _ _ _ _ rfl rfl rfl rfl rfl (by decide +kernel), by decide +kernel⟩
/-- R374 to R377: a KV page at 0x200000, companion memory at 0x40, slot 16. -/
theorem wit_KvEvict : let x := 0x200000 + 0x40 * 2 ^ 64 + 16 * 2 ^ 128
    let s := svcS 0x0120 x vd0 evS
    let u := blkS s 64
    let ps := (rawPages u vd0 0x200000 32768).getD []
    served s 0x0120 (freq 0x0120) 64 u 0 vd0 (blkL s 64) ∧ numAt (blkL s 64) 0 8 = 0x200000 ∧ numAt (blkL s 64) 8 8 = 0x40 ∧ bits (numAt (blkL s 64) 16 2) 0 12 = 16 ∧
    numAt (blkL s 64) 16 48 < 2 ^ 12 ∧ rawPages u vd0 0x200000 32768 = some ps ∧ (∀ p ∈ ps, eOpo p.2 = false) ∧ slotInRange vd0 16 = true ∧ (u.slot 16).kind = .evict ∧
    wbMeets u 0 0x200000 0x208000 true = false := ⟨served_of _ _ _ _ rfl rfl rfl rfl rfl (by decide +kernel), by decide +kernel⟩
/-- A read that finds all its sectors read in earlier turns is complete. -/
theorem vreadAux_had (w : Who) (vd : Nat) (s : State) (A B : Nat) (hA : A % 32 = 0) (hB : B < 2 ^ 64)
    (H : ∀ x : Word, x.toNat % 32 = 0 → A ≤ x.toNat → x.toNat < B → (partGet s w x).isSome = true) :
    ∀ (f : Nat) (va : Word) (n : Nat) (acc : Bytes), A ≤ va.toNat → va.toNat + n ≤ B → isOk (vreadAux w vd f s va n false acc).2 = true
  | 0, _, _, _, _, _ => rfl
  | f + 1, va, n, acc, h1, h2 => by
    rw [vreadAux]
    by_cases hn : n = 0
    · simp [hn, isOk]
    · have hlo : (va - BitVec.ofNat 64 (va.toNat % 32)).toNat = va.toNat - va.toNat % 32 := by
        have := va.isLt
        rw [BitVec.toNat_sub, BitVec.toNat_ofNat]
        omega
      have hs := H (va - BitVec.ofNat 64 (va.toNat % 32)) (by omega) (by omega) (by omega)
      obtain ⟨v, hv⟩ := Option.isSome_iff_exists.mp hs
      simp only [hn, if_false, readSector, hv, Option.isSome_some, Bool.not_true, Bool.or_false]
      have hk : (va + BitVec.ofNat 64 (min (32 - va.toNat % 32) n)).toNat = va.toNat + min (32 - va.toNat % 32) n := by
        rw [BitVec.toNat_add, BitVec.toNat_ofNat]
        omega
      exact vreadAux_had w vd s A B hA hB H f _ _ _ (by omega) (by omega)
/-- R374: the 1,024 sectors of the page read in earlier turns; the page is complete. -/
theorem wit_KvEvictRead : let s := svcP 0x0120 0x200000 vd0 evS ((List.range 1024).map (fun i => (BitVec.ofNat 64 (0x200000 + 32 * i), 0)))
    ∃ w pg, hread s 0 0 0x200000 32768 = (w, .ok pg) := by
  intro s
  refine ⟨_, _, ok_of _ [] (vreadAux_had _ _ _ 0x200000 0x208000 (by decide) (by decide) ?_ _ _ _ _ (by decide) (by decide))⟩
  intro x hx h1 h2
  simp only [partGet, Option.isSome_map, List.find?_isSome]
  refine ⟨(x, 0), ?_, by simp⟩
  refine List.mem_append_right _ (List.mem_map.mpr ⟨(x.toNat - 0x200000) / 32, List.mem_range.mpr (by omega), ?_⟩)
  refine Prod.ext (BitVec.eq_of_toNat_eq ?_) rfl
  simp only [BitVec.toNat_ofNat]
  omega
theorem wit_KvBusy : wbMeets { svcS 0x0120 0 vd0 evS with clusters := [(0, { Cluster.reset with wbs := [{ wb0 with exts := [⟨0x207FE0, 32, false, true, false, 0, 0⟩] }] })] } 0 0x200000 0x208000 true = true := by
  decide +kernel
theorem wit_KvPromote : let x := 0x200000 + 0x40 * 2 ^ 64 + 16 * 2 ^ 128
    let s := svcS 0x0121 x vd0 evS
    served s 0x0121 (freq 0x0121) 64 (blkS s 64) 0 vd0 (blkL s 64) ∧ wbMeets (blkS s 64) 0 0x200000 0x208000 false = false ∧
    bits (numAt (mreadBytes (blkS s 64).cmem 0x40 32832) 32792 8) 16 48 = 0 ∧ numAt (mreadBytes (blkS s 64).cmem 0x40 32832) 32800 32 = 0 ∧ (16, 5) ∉ vd0.evicted :=
  ⟨served_of _ _ _ _ rfl rfl rfl rfl rfl (by decide +kernel), by decide +kernel⟩
theorem wit_Hallmark : let s := svcS 0x0100 0 vd0 hub0
    served s 0x0100 (freq 0x0100) 40 (blkS s 40) 0 vd0 (blkL s 40) ∧ numAt (blkL s 40) 32 8 % 64 = 0 ∧
    isOk (vplan (blkS s 40) 0 0 0 (zerosB 128)).2 = true := ⟨served_of _ _ _ _ rfl rfl rfl rfl rfl (by decide +kernel), by decide +kernel⟩
/-- R506: a handler image of 64 bytes at 0x5000 with a signature that does not verify. -/
theorem wit_Hinstall : let s := svcP 0x8007 (0x5000 + 15 * 2 ^ 64) vd0 hub0 (readAt 0x5000 14 0)
    let r := hread (blkS s 16) 0 0 0x5000 448
    served s 0x8007 (freq 0x8007) 16 (blkS s 16) 0 vd0 (blkL s 16) ∧ numAt (blkL s 16) 8 8 < 16 ∧ (blkS s 16).hub.fused.handlerBytes + 384 = 448 ∧
    r = (r.1, .ok (okOf r.2 [])) ∧ pssVerify (blkS s 16).hub.fused.handlerN ((okOf r.2 []).take 64) 0 = false :=
  ⟨served_of _ _ _ _ rfl rfl rfl rfl rfl (by decide +kernel), by decide +kernel, by decide +kernel, ok_of _ _ (by decide +kernel), by decide +kernel⟩
/-- A model of base 7 with an adapter claimed in slot 3. -/
def model0 : Model := ⟨7, 0, [], 16, [1], false, [(3, { entry := 2 ^ 62, owner := 0, contract := 0, units := [] })]⟩
def vdM : Vd := { vd0 with models := [model0] }
theorem wit_Models : let s := svcS 0x8002 7 vdM hub0
    let t := svcS 0x8004 (7 + 3 * 2 ^ 256) vdM hub0
    let p := svcS 0x0130 (7 + 0x5000 * 2 ^ 256) vdM hub0
    served s 0x8002 (freq 0x8002) 32 (blkS s 32) 0 vdM (blkL s 32) ∧ modelOf vdM (digestAt (blkL s 32) 0) = some model0 ∧
    (sessionOn (blkS s 32) 0 7 || wbTouches (blkS s 32) 0 vdM (baseUnits vdM 7)) = false ∧ served t 0x8004 (freq 0x8004) 40 (blkS t 40) 0 vdM (blkL t 40) ∧
    numAt (blkL t 40) 32 8 = 3 ∧ (tfind model0.adapters 3).map (·.st) = some 1 ∧ served p 0x0130 (freq 0x0130) 40 (blkS p 40) 0 vdM (blkL p 40) ∧
    numAt (blkL p 40) 32 8 % 64 = 0 ∧ isOk (vplan (blkS p 40) 0 0 0x5000 (zerosB 64)).2 = true :=
  ⟨served_of _ _ _ _ rfl rfl rfl rfl rfl (by decide +kernel), by decide +kernel, by decide +kernel, served_of _ _ _ _ rfl rfl rfl rfl rfl (by decide +kernel), by decide +kernel, by decide +kernel,
    served_of _ _ _ _ rfl rfl rfl rfl rfl (by decide +kernel), by decide +kernel⟩
/-- A session in slot 16 whose policy names base 7 at byte 48. -/
def sesS : Hub := { hub0 with slots := [(16, { kind := .session, policy := bytesLE 512 (7 * 2 ^ 384), rlen := 64, rbase := 0x6000 })], locks := [(1, lockWord 1 0)] }
theorem wit_Sessions : let s := svcS 0x0113 16 vdM sesS
    served s 0x0113 (freq 0x0113) 8 (blkS s 8) 0 vdM (blkL s 8) ∧ isSession (blkS s 8) vdM 0 16 = true ∧ sealsUnder (blkS s 8) 0 16 = false ∧
    modelOf vdM (digestAt ((blkS s 8).slot 16).policy 48) = some model0 ∧ model0.retiring = false ∧ (sessionOn (blkS s 8) 0 7) = true :=
  ⟨served_of _ _ _ _ rfl rfl rfl rfl rfl (by decide +kernel), by decide +kernel⟩
theorem wit_ReplySeal : let s := svcP 0x0112 (16 + 64 * 2 ^ 64) vdM sesS (readAt 0x6000 2 0)
    served s 0x0112 (freq 0x0112) 16 (blkS s 16) 0 vdM (blkL s 16) ∧ numAt (blkL s 16) 8 8 ≤ ((blkS s 16).slot 16).rlen ∧ isOk (hread (blkS s 16) 0 0 0x6000 64).2 = true ∧
    isOk (vplan (blkS s 16) 0 0 0x4010 (zerosB 24)).2 = true ∧
    sealsUnder { s with planes := [(0, plane0 (blk 9 (1 + 2 ^ 11 + 16 * 2 ^ 192)) [] [])] } 0 16 = true := ⟨served_of _ _ _ _ rfl rfl rfl rfl rfl (by decide +kernel), by decide +kernel⟩
theorem wit_ReqOpen : let s := svcP 0x0111 (16 + 0x5000 * 2 ^ 64 + 0x200000 * 2 ^ 192 + 9 * 2 ^ 256) vdM sesS (readAt 0x5000 1 0)
    let u := blkS s 40
    served s 0x0111 (freq 0x0111) 40 u 0 vdM (blkL s 40) ∧ numAt (blkL s 40) 16 8 = 0 ∧ isSession u vdM 0 16 = true ∧
    framesAll u vdM 0x5000 16 (fun pa _ => unitOpen u (unitOf pa)) = true ∧ framesAll u vdM 0x200000 0 (fun pa _ => lockOf u (unitOf pa) == (lockWord 1 0).toNat) = true ∧
    isOk (hread u 0 0 0x5000 16).2 = true ∧ numAt (blkL s 40) 32 8 ≠ (u.slot 16).ctr := ⟨served_of _ _ _ _ rfl rfl rfl rfl rfl (by decide +kernel), by decide +kernel⟩

/-! ## Signed and sealed records: hypotheses -/

/-- Memory cells of a number's nonzero bytes, in little-endian order. -/
def cells (a : Nat) : Nat → Nat → Memory
  | 0, _ => []
  | n + 1, v => if v % 256 = 0 then cells (a + 1) n (v / 256) else (a, BitVec.ofNat 8 v) :: cells (a + 1) n (v / 256)
/-- R488, R489: a session's sealed key record for base 7 and library 5, its owner key of the modulus 2^3071 + 2291 (a prime); the parts
before the owner key, the signature, and the key wrapped under a modulus of 2^3072 − 1 with private exponent 1. -/
def recPolicy : Nat := 1 + 3 * 2 ^ 16 + 2 ^ 24 + 2 ^ 32 + 7 * 2 ^ 384 + 5 * 2 ^ 1664 + 2 ^ 128 * 0xACA007EBF3C70E58EA91D3F85F7D4E3094BEF0CA9B42BCEBE9D162B97FB817DD
def recSig : Nat := 0x4B7E99907C7DF0E2506C9F2A6D84499635BC0BA35280E0281AB07C07DB5F4039B19F8F46AAD80D01F09F69F20DA0CCFFAFA57A93734FD1B373BDE89B73FCE666DF4E7807E2F2AA2892F6513A7006F811585B73ED37F5DDC0C477993A43F6625A41C136ED79F0BB60A6C5983393BC589DC05956B83D4799784F91137CB670D86925A9D7F54C66347D7CE25E1ACC3F8B4706BC89B41ADBE8E4D517CB07366F8C641E5E1328D469CD8EFB8F1BA13CA33432389C3C304B4B1A74D73978433C174BB3017698AE4AA1FEA8C0E5C683EEB991C336476781AF1859DC5784D0D5BEA6764D5562D87AD1FB8DAE9BAC230C0264A71C9DA7BA3E370C95CD4FE1E89C301771C841C893C0E2633914D74321DB2976CE1C71E076D22CBECB61224482ACC6D23B6B043DAA51A5A4C041206A273904851BD323F53620E6F1DC157D8BBD926E3C7F2ADB37D7322AC0BF5522034AA7A20363C3F0FA8C0FF9511B7418B7B9747831DAD0E9FE502FF421D589315F25933261E6D4A18AA9856E5ACA1E65CCB635C7E2156A
def recWrapped : Nat := 0x867F0B36CA76A6DB59B6795763A5CB1BE546C49D25554165D0D410ABC21B94FEEA0119A0212FF964876D7FD99248199CA70EAEAE95BF6AB8C504ECB280292FB2158A8906D5E2C2BE001BAC943AB9CAB4063536E1C546B40221FDF8DB031A4BBE15F374423633701E04FE17C1D640B34F2E27B8F6AEC00E24F1DCF50AD0920B3B4E3C4FA0D93FD8ADB0E88D71F4614D018149A59F6A5ADBFBA1BD000D0E7C49AD584CE97EECE608FE0ED7F493162A4A9CBFCCD935DA0F8C3816090661597ACEB554A67CA9F52A771D26B79BB0B58882C94FB37DA5F1CCEACBCED4372168523F4A8482BA3887A4ABA03DAD0440851E9DE87B8037B7E8D3738A05301F17643CA07E42C0A057B28451002782F0F1F2FDC85198ED4637F67F2C27B27D1550DAF99F69E90141C741CB7624D65CAD22C2BD52625AC2F0DB32C4BC9AB2E2D0A73B71725535F9CC7C3B0ED4A235436B7B20CB3DBEAD3EF3C38E9F03EC449E6D2E113E0C399EE79D1712DC2A56F55F90A51834935E88F5184EB2D981E496B54DF13EC91
def recNat : Nat := recPolicy + (2 ^ 3071 + 2291 + 65537 * 2 ^ 3072) * 2 ^ 4096 + recSig * 2 ^ 8192 + recWrapped * 2 ^ 11264
def recL : Bytes := bytesLE 1792 recNat
theorem rec_form : policyOk (recL.take 512) = true ∧ numAt recL 896 4 = 65537 ∧ numAt recL 900 124 = 0 := by decide +kernel
theorem rec_owner : digestAt (recL.take 512) 16 = digest (byteSlice recL 512 384) := by decide +kernel
theorem rec_signed : pssVerify (numAt recL 512 384) (recL.take 1024) (numAt recL 1024 384) = true := by decide +kernel
theorem rec_wrapped : (oaepDecrypt (2 ^ 3072 - 1) 1 (recL.take 512) (numAt recL 1408 384)).isSome = true := by decide +kernel
/-- R482: an image under that key, the key's digest fused; and one of a lower version. -/
theorem rec_modulus : bytesLE 384 (numAt recL 512 384) = byteSlice recL 512 384 := by decide +kernel
theorem wit_ColdReset : let img : BootImage := ⟨recL.take 1024, numAt recL 512 384, numAt recL 1024 384, 3, []⟩
    let u : Fused := { fused0 with fwKey := digestAt (recL.take 512) 16, minSvn := 3 }
    (digest (bytesLE 384 img.modulus) = u.fwKey ∧ pssVerify img.modulus img.bytes img.sig = true ∧ u.minSvn ≤ img.svn) ∧
    ¬ ({ u with minSvn := 4 } : Fused).minSvn ≤ img.svn := by
  intro img u
  refine ⟨⟨?_, ?_, ?_⟩, ?_⟩
  · simp only [img, u, rec_modulus, rec_owner]
  · simp only [img, rec_signed]
  · simp only [img, u]; decide
  · simp only [img]; decide
/-! ## Numbers: hypotheses -/

/-- R90: a zero, one, minus one, an infinity and a NaN of .F32, and the largest value of .E4M3. -/
theorem wit_Numbers : fmtF32 ∈ formats ∧ fmtE4M3 ∈ formats ∧ (0xFF800000 : Nat) < 2 ^ fmtF32.w ∧ 0xFF < 2 ^ fmtE4M3.w ∧
    0x3F800000 % 2 ^ 31 ≤ topCode fmtF32 ∧ topCode fmtF32 < 0xFF800000 % 2 ^ 31 ∧ fmtF32.e4m3 = false ∧ 0xFF800000 % 2 ^ 31 = 2 ^ 31 - 2 ^ fmtF32.mb ∧
    0x7FC00000 ≠ 2 ^ 31 - 2 ^ fmtF32.mb ∧ topCode fmtE4M3 < 0xFF % 2 ^ 7 ∧ fmtE4M3.e4m3 = true ∧ topCode fmtF32 = 0x7F7FFFFF := by decide +kernel
theorem one_f32 : fmtF32.decode 0x3F800000 = .fin false (2 ^ 23) (-23) := by decide +kernel
theorem minus_f32 : fmtF32.decode 0xBF800000 = .fin true (2 ^ 23) (-23) := by decide +kernel
theorem zero_f32 : fmtF32.decode 0 = .fin false 0 (-149) := by decide +kernel
theorem one_rational : rational (.fin false (2 ^ 23) (-23)) = 1 ∧ rational (.fin true (2 ^ 23) (-23)) = -1 ∧ rational (.fin false 0 (-149)) = 0 := by decide +kernel
/-- Numbers, zeros, infinities and NaNs as the clauses on arithmetic take them. -/
theorem wit_Arithmetic : let d := fmtF32.decode
    FltTy.f32.fmt = fmtF32 ∧ d 0x7FC00000 = .nan ∧ infV (d 0x7F800000) ∧ d 0x7F800000 = .inf false ∧ d 0xFF800000 = .inf true ∧ finiteV (d 0x3F800000) ∧ ¬ zeroV (d 0x3F800000) ∧
    zeroV (d 0) ∧ finiteV (d 0) ∧ 0 < rational (d 0x3F800000) ∧ rational (d 0xBF800000) < 0 ∧ finiteV (d 0xBF800000) ∧
    rational (d 0x3F800000) * rational (d 0xBF800000) ≠ 0 ∧ rational (d 0) * rational (d 0x3F800000) = 0 ∧ before (d 0xBF800000) (d 0x3F800000) := by
  simp only [one_f32, minus_f32, zero_f32, finiteV, zeroV, infV, before, one_rational]
  refine ⟨rfl, by decide +kernel, ⟨false, by decide +kernel⟩, by decide +kernel, by decide +kernel, ⟨_, _, _, rfl⟩, ?_, ⟨⟨_, _, _, rfl⟩, trivial⟩, ⟨_, _, _, rfl⟩, by decide +kernel, by decide +kernel,
    ⟨_, _, _, rfl⟩, by decide +kernel, by decide +kernel, by decide +kernel⟩
  rintro ⟨_, h⟩
  exact absurd h (by decide +kernel)
/-- R101: a value above the range of .I8 whose cut off integer is known, and integers of two types. -/
theorem wit_Converts : Ty.i8.fmt = none ∧ Ty.f32.fmt = some fmtF32 ∧ 0x43800000 < 2 ^ fmtF32.w ∧ fmtF32.decode 0x43800000 = .fin false (2 ^ 23) (-15) ∧
    Rat.floor (((2 ^ 23 : Nat) : Rat) * (2 : Rat) ^ (-15 : Int)) = 256 ∧ intHigh .i8 = 127 ∧ intLow .i8 = -128 ∧ intValue .i8 0xFF = -1 ∧ 0xFF < 2 ^ Ty.width .i8 := by decide +kernel
/-- R188: the columns of a product of .F32 lanes and of .F64 lanes. -/
theorem wit_Columns : 0 < (mxGeom 0).2.2 ∧ (0 + 1) * 32 ≤ 256 ∧ 7 < 8 ∧ (7 + 1) * 32 ≤ 256 ∧ (3 + 1) * 64 ≤ 256 ∧ (7 + 1) * Ty.width .f32 ≤ 256 := by decide +kernel

end Sys2Proof.Tests
end

section
/-! The sequencer's integer instructions (R209), branches and jumps (R211) and ERET (R207). First what the model's arithmetic on words
computes, as operations on bit vectors; then one lemma for what the instructions of a group do; then the statements. -/

namespace Sys2Proof.Proofs

open Sys2Proof Sys2Proof.Machine Sys2Proof.Claim

/-! ## The model's numbers as bit vectors -/

@[simp] theorem sgn_toNat {w : Nat} (a : BitVec w) : sgn w a.toNat = a.toInt := by
  rw [sgn, Nat.mod_eq_of_lt a.isLt, BitVec.toInt_eq_toNat_cond]
  cases w with
  | zero => simp [BitVec.of_length_zero]
  | succ w =>
    have hsign : a.toNat < 2 ^ w ↔ 2 * a.toNat < 2 ^ (w + 1) := by omega
    simp [hsign]
@[simp] theorem ofNat_wrap (w : Nat) (z : Int) : BitVec.ofNat w (wrap w z) = BitVec.ofInt w z := by
  rw [wrap, ← BitVec.toNat_ofInt, BitVec.ofNat_toNat, BitVec.setWidth_eq]
@[simp] theorem toWord_eq (z : Int) : toWord z = BitVec.ofInt 64 z := ofNat_wrap 64 z
@[simp] theorem rd_signed (a : Word) : rd false a = a.toInt := sgn_toNat a
@[simp] theorem rd_natural (a : Word) : rd true a = a.toNat := rfl

/-- The high part of a number cut off at v + w bits is the number divided, rounding down: no bound on z is needed. -/
theorem extractLsb'_ofInt (v w : Nat) (z : Int) :
    (BitVec.ofInt (v + w) z).extractLsb' v w = BitVec.ofInt w (z / (2 ^ v : Nat)) := by
  have hpos (n : Nat) : ((2 ^ n : Nat) : Int) ≠ 0 := Int.natCast_ne_zero.mpr (Nat.ne_of_gt (Nat.two_pow_pos n))
  have hdiv : z % (2 ^ (v + w) : Nat) / (2 ^ v : Nat) = z / (2 ^ v : Nat) - (2 ^ w : Nat) * (z / (2 ^ (v + w) : Nat)) := by
    rw [Int.emod_def, Nat.pow_add, Int.natCast_mul, Int.mul_assoc, Int.sub_mul_ediv_left _ _ (hpos v)]
  apply BitVec.eq_of_toNat_eq
  apply Int.natCast_inj.mp
  rw [BitVec.extractLsb'_toNat, BitVec.toNat_ofInt, BitVec.toNat_ofInt, Nat.shiftRight_eq_div_pow, Int.natCast_emod,
    Int.natCast_ediv, Int.toNat_of_nonneg (Int.emod_nonneg _ (hpos _)), Int.toNat_of_nonneg (Int.emod_nonneg _ (hpos _)), hdiv,
    Int.sub_mul_emod_self_left]

/-! ## Shifts and counts -/

theorem ofNat_shlV {w : Nat} (a : BitVec w) (n : Nat) : BitVec.ofNat w (shlV w a.toNat n) = a <<< n := by
  rw [shlV]
  split
  · rw [← Nat.shiftLeft_eq, ← BitVec.toNat_shiftLeft, BitVec.ofNat_toNat, BitVec.setWidth_eq]
  · rw [BitVec.shiftLeft_eq_zero (by omega)]
theorem ofNat_shrV {w : Nat} (a : BitVec w) (n : Nat) : BitVec.ofNat w (shrV w a.toNat n) = a >>> n := by
  rw [shrV]
  split
  · rw [← Nat.shiftRight_eq_div_pow, ← BitVec.toNat_ushiftRight, BitVec.ofNat_toNat, BitVec.setWidth_eq]
  · rw [BitVec.ushiftRight_eq_zero (by omega)]
/-- A shift by w - 1 or more leaves only the sign. -/
theorem toInt_ediv_two_pow_min {w : Nat} (a : BitVec w) (n : Nat) :
    a.toInt / (2 ^ min n (w - 1) : Nat) = a.toInt / (2 ^ n : Nat) := by
  obtain hn | hn := Nat.le_total n (w - 1)
  · rw [Nat.min_eq_left hn]
  · have hpow : 2 ^ (w - 1) ≤ 2 ^ n := Nat.pow_le_pow_right (by decide) hn
    have hlow : -((2 ^ (w - 1) : Nat) : Int) ≤ a.toInt := BitVec.le_toInt a
    have hhigh : a.toInt < (2 ^ (w - 1) : Nat) := BitVec.toInt_lt
    rw [Nat.min_eq_right hn]
    by_cases hneg : a.toInt < 0
    · rw [Int.ediv_eq_neg_one_of_neg_of_le hneg (by omega), Int.ediv_eq_neg_one_of_neg_of_le hneg (by omega)]
    · have hpos := Int.not_lt.mp hneg
      rw [Int.ediv_eq_zero_of_lt hpos hhigh, Int.ediv_eq_zero_of_lt hpos (by omega)]
theorem ofNat_sarV {w : Nat} (a : BitVec w) (n : Nat) : BitVec.ofNat w (sarV w a.toNat n) = a.sshiftRight n := by
  rw [sarV, ofNat_wrap, sgn_toNat, toInt_ediv_two_pow_min, BitVec.sshiftRight, Int.shiftRight_eq_div_pow]

theorem clzV_toNat {w : Nat} (a : BitVec w) : clzV w a.toNat = a.clz.toNat := by
  rw [clzV]
  split
  next hzero =>
    rw [BitVec.clz_eq_iff_eq_zero.mpr (BitVec.eq_of_toNat_eq hzero), BitVec.natCast_eq_ofNat, BitVec.toNat_ofNat,
      Nat.mod_eq_of_lt Nat.lt_two_pow_self]
  next hne =>
    have ha : a ≠ 0#w := fun h => hne (congrArg BitVec.toNat h)
    have hlt : a.clz.toNat < w := by
      simpa [BitVec.lt_def, Nat.mod_eq_of_lt Nat.lt_two_pow_self] using BitVec.clz_lt_iff_ne_zero.mpr ha
    have hlog : a.toNat.log2 = w - 1 - a.clz.toNat := by
      refine (Nat.log2_eq_iff hne).mpr ⟨BitVec.two_pow_sub_clz_le_toNat_of_ne_zero (by omega) ha, ?_⟩
      rw [show w - 1 - a.clz.toNat + 1 = w - a.clz.toNat by omega]
      exact BitVec.toNat_lt_two_pow_sub_clz
    omega
theorem ofNat_clzV {w : Nat} (a : BitVec w) : BitVec.ofNat w (clzV w a.toNat) = a.clz := by
  rw [clzV_toNat, BitVec.ofNat_toNat, BitVec.setWidth_eq]
theorem popcV_toNat {w : Nat} (a : BitVec w) : popcV w a.toNat = (List.range w).countP (fun i => a.getLsbD i) :=
  List.countP_eq_length_filter.symm

/-! ## Products, quotients and comparisons -/

theorem toWord_product_high (n : Bool) (a b : Word) : toWord (rd n a * rd n b / 2 ^ 64) =
    if n then (a.setWidth 128 * b.setWidth 128).extractLsb' 64 64 else (a.signExtend 128 * b.signExtend 128).extractLsb' 64 64 := by
  have hpow : (2 : Int) ^ 64 = (2 ^ 64 : Nat) := rfl
  rw [toWord_eq, hpow, ← extractLsb'_ofInt, BitVec.ofInt_mul]
  cases n with
  | true => simp
  | false => simp [BitVec.signExtend]
theorem toWord_seqQuot (n : Bool) (a b : Word) : toWord (seqQuot n a b) =
    if b = 0 then BitVec.allOnes 64 else if n then a / b else a.sdiv b := by
  rw [toWord_eq, seqQuot]
  split
  · rfl
  · cases n with
    | true => rw [rd_natural, rd_natural, ← Int.ofNat_tdiv, BitVec.ofInt_natCast, if_pos rfl, BitVec.udiv_def]
    | false => exact BitVec.eq_of_toInt_eq (by simp [BitVec.toInt_sdiv])
theorem toWord_seqRemV (n : Bool) (a b : Word) : toWord (seqRemV n a b) =
    if b = 0 then a else if n then a % b else a.srem b := by
  rw [toWord_eq, seqRemV]
  cases n with
  | true =>
    rw [rd_natural, rd_natural, ← Int.ofNat_tmod, ← BitVec.toNat_umod]
    split <;> simp only [BitVec.ofInt_natCast, BitVec.ofNat_toNat, BitVec.setWidth_eq, if_true]
  | false => split <;> simp [← BitVec.toInt_srem]

theorem rd_signed_lt (a b : Word) : decide (rd false a < rd false b) = a.slt b := by rw [rd_signed, rd_signed, BitVec.slt]
theorem rd_signed_le (a b : Word) : decide (rd false a ≤ rd false b) = a.sle b := by rw [rd_signed, rd_signed, BitVec.sle]
theorem rd_natural_lt (a b : Word) : decide (rd true a < rd true b) = a.ult b := by simp [BitVec.ult]
theorem rd_natural_le (a b : Word) : decide (rd true a ≤ rd true b) = a.ule b := by simp [BitVec.ule]
theorem rd_le_iff (n : Bool) (a b : Word) : rd n a ≤ rd n b ↔ (if n then a.ule b else a.sle b) = true := by
  cases n with
  | true => rw [if_pos rfl, ← rd_natural_le, decide_eq_true_iff]
  | false => rw [if_neg Bool.false_ne_true, ← rd_signed_le, decide_eq_true_iff]

/-! ## The executing context -/

@[simp] theorem curCtx_putCur (s : State) (c : Ctx) : curCtx (putCur s c) = c := ctx_setCtx_same _ _ _
@[simp] theorem getX_seqOn (c : Ctx) (r : XReg) : (seqOn c).getX r = c.getX r := rfl
theorem seqOn_setX_frame (c : Ctx) (r : XReg) (v : Word) :
    { seqOn (c.setX r v) with x := c.x, pc := c.pc, wait := c.wait, part := c.part } = c := by
  rw [Ctx.setX_frame]; rfl

/-! ## Instructions that write one register (R209) -/

theorem writeX_unary {xd xa : XReg} {f g : Word → Word} (h : ∀ a, f a = g a) (s : State) :
    writeX xd (fun c => f (c.getX xa)) s = writeX xd (fun c => g (c.getX xa)) s := by
  rw [funext h]
theorem rrr_eq_writeX {xd xa xb : XReg} {f g : Word → Word → Word} (h : ∀ a b, f a b = g a b) (s : State) :
    rrr xd xa xb f s = writeX xd (fun c => g (c.getX xa) (c.getX xb)) s := by
  rw [rrr, funext fun a => funext (h a)]

/-- Every instruction of R209 writes the value of its row of the table to one register and goes on. -/
theorem exec_eq_writeX {i : Instr} {xd : XReg} {v : Ctx → Word} (h : seqInteger i = some (xd, v)) (s : State) :
    exec i s = writeX xd v s := by
  cases i with
  | seqMulh _ _ _ n => cases h; exact rrr_eq_writeX (toWord_product_high n) s
  | seqDiv _ _ _ n => cases h; exact rrr_eq_writeX (toWord_seqQuot n) s
  | seqRem _ _ _ n => cases h; exact rrr_eq_writeX (toWord_seqRemV n) s
  | seqShl => cases h; exact rrr_eq_writeX (fun a b => ofNat_shlV a b.toNat) s
  | seqShr => cases h; exact rrr_eq_writeX (fun a b => ofNat_shrV a b.toNat) s
  | seqSar => cases h; exact rrr_eq_writeX (fun a b => ofNat_sarV a b.toNat) s
  | seqMin _ _ _ n => cases h; exact rrr_eq_writeX (fun a b => ite_congr (propext (rd_le_iff n a b)) (fun _ => rfl) (fun _ => rfl)) s
  | seqMax _ _ _ n => cases h; exact rrr_eq_writeX (fun a b => ite_congr (propext (rd_le_iff n a b)) (fun _ => rfl) (fun _ => rfl)) s
  | seqClz => cases h; exact writeX_unary ofNat_clzV s
  | seqPopc => cases h; exact writeX_unary (fun a => congrArg _ (popcV_toNat a)) s
  | seqShli _ _ sh => cases h; exact writeX_unary (fun a => ofNat_shlV a sh.val) s
  | seqShri _ _ sh => cases h; exact writeX_unary (fun a => ofNat_shrV a sh.val) s
  | seqSari _ _ sh => cases h; exact writeX_unary (fun a => ofNat_sarV a sh.val) s
  | seqAdd | seqSub | seqMul | seqAnd | seqOr | seqXor | seqAddi | seqAndi | seqOri | seqXori | seqLi | seqLih => cases h; rfl
  | _ => cases h

/-- Settles O1: every row of R209 is one write of a register, and such a write has the frame of the statement. -/
theorem seqIntegerResults : Obligations.SeqIntegerResults := by
  refine ⟨fun i xd v s h => ⟨exec_eq_writeX h s, fun h0 => if_pos h0, fun h0 => ?_⟩, fun i xd v s t h ht => ?_⟩
  · exact Ctx.getX_setX_same _ _ (fun e => h0 (congrArg Fin.val e))
  · obtain rfl : putCur s (seqOn ((curCtx s).setX xd (v (curCtx s)))) = t :=
      Host.Outcome.next.inj ((exec_eq_writeX h s).symm.trans ht)
    refine ⟨fun r hr => ?_, ?_, fun c hc => ctx_setCtx_ne s _ hc, rfl, fun _ => rfl, fun _ => rfl⟩
    · rw [curCtx_putCur, getX_seqOn, Ctx.getX_setX_ne _ _ hr]
    · rw [curCtx_putCur, seqOn_setX_frame]

/-! ## Branches and jumps (R82, R211) -/

theorem blockOfPc_eq (pc : Word) : blockOfPc pc = blockStart pc := by
  have hmask : ~~~63#64 = BitVec.allOnes 58 ++ 0#6 := rfl
  have hpc : pc = pc.extractLsb' 6 58 ++ pc.extractLsb' 0 6 :=
    (BitVec.extractLsb'_append_extractLsb' (w := 58) (len := 6)).symm
  calc blockOfPc pc = pc &&& ~~~63#64 := rfl
    _ = (pc.extractLsb' 6 58 ++ pc.extractLsb' 0 6) &&& (BitVec.allOnes 58 ++ 0#6) := by rw [hmask, ← hpc]
    _ = pc.extractLsb' 6 58 ++ 0#6 := by rw [BitVec.and_append, BitVec.and_allOnes, BitVec.and_zero]
    _ = blockStart pc := rfl

/-- The state after a branch without a link whose condition came out as taken. -/
def branched (s : State) (off : BitVec 24) (taken : Bool) : State :=
  putCur s (if taken then { curCtx s with pc := blockStart (curCtx s).pc + off.signExtend 64 * 64 } else seqOn (curCtx s))

theorem branchIf_eq_branched {xa xb : XReg} {off : BitVec 24} {p q : Word → Word → Bool} (h : ∀ a b, p a b = q a b) (s : State) :
    branchIf xa xb off p s = .next (branched s off (q ((curCtx s).getX xa) ((curCtx s).getX xb))) := by
  rw [branched, ← h, ← blockOfPc_eq]; rfl

theorem exec_eq_branched {i : Instr} {off : BitVec 24} {cond : Ctx → Bool} (h : seqBranch i = some (off, cond)) (s : State) :
    exec i s = .next (branched s off (cond (curCtx s))) := by
  cases i with
  | seqBeq | seqBne => cases h; exact branchIf_eq_branched (fun _ _ => rfl) s
  | seqBlt => cases h; exact branchIf_eq_branched rd_signed_lt s
  | seqBge => cases h; exact branchIf_eq_branched (fun a b => rd_signed_le b a) s
  | seqBltn => cases h; exact branchIf_eq_branched rd_natural_lt s
  | seqBgen => cases h; exact branchIf_eq_branched (fun a b => rd_natural_le b a) s
  | seqJ => cases h; rw [branched, ← blockOfPc_eq]; rfl
  | _ => cases h

theorem exec_seqJal (xd : XReg) (off : BitVec 24) (s : State) : exec (.seqJal xd off) s = .next (putCur s
    { (curCtx s).setX xd (blockStart (curCtx s).pc + 64) with pc := blockStart (curCtx s).pc + off.signExtend 64 * 64 }) := by
  rw [← blockOfPc_eq]; rfl

/-- Where JI and JALI go (R82). -/
def jumpTarget (s : State) (xa : XReg) (off : BitVec 24) : Word := (curCtx s).getX xa + off.signExtend 64 * 64

theorem extractLsb'_eq_zero_iff_block_aligned (t : Word) : t.extractLsb' 0 6 = 0 ↔ t.toNat % 64 = 0 := by
  simp [← BitVec.toNat_inj]

theorem jumpTo_aligned {xd xa : XReg} {off : BitVec 24} (link : Bool) {s : State}
    (h : (jumpTarget s xa off).extractLsb' 0 6 = 0) :
    jumpTo xd xa off link s = .next (putCur s
      { (if link then (curCtx s).setX xd (blockStart (curCtx s).pc + 64) else curCtx s) with pc := jumpTarget s xa off }) := by
  rw [← blockOfPc_eq]
  exact congrArg _ (if_neg (fun hne => hne ((extractLsb'_eq_zero_iff_block_aligned _).mp h)))
theorem jumpTo_misaligned {xd xa : XReg} {off : BitVec 24} (link : Bool) {s : State}
    (h : (jumpTarget s xa off).extractLsb' 0 6 ≠ 0) :
    jumpTo xd xa off link s = .next (takeTrap s s.cur.cid 1 false (jumpTarget s xa off) (curCtx s).pc) :=
  congrArg _ (if_pos (mt (extractLsb'_eq_zero_iff_block_aligned _).mpr h))

/-- Settles O4: JI and JALI are one jump without and with a link. -/
theorem seqBranchesAndJumps : Obligations.SeqBranchesAndJumps :=
  ⟨fun _ _ _ s h => exec_eq_branched h s,
    fun s xd _ off => ⟨exec_seqJal xd off s,
      fun h => ⟨jumpTo_aligned false h, jumpTo_aligned true h⟩,
      fun h => ⟨jumpTo_misaligned false h, jumpTo_misaligned true h⟩⟩⟩

/-! ## Instructions that need a level (R200); ERET (R207) -/

theorem atLevel_below {lvl : BitVec 2} {s : State} (h : (curCtx s).pl.toNat < lvl.toNat) (i : Instr) (k : Nat → Ctx → State) :
    atLevel lvl i s k = .next (takeTrap s s.cur.cid 3 false (wordOf i) (curCtx s).pc) := if_pos h
theorem atLevel_granted {lvl : BitVec 2} {s : State} (h : lvl.toNat ≤ (curCtx s).pl.toNat) (i : Instr) (k : Nat → Ctx → State) :
    atLevel lvl i s k = .next (k s.cur.cid (curCtx s)) := if_neg (Nat.not_lt.mpr h)

theorem exec_seqEret_granted {s : State} (h : super.toNat ≤ (curCtx s).pl.toNat) :
    exec .seqEret s = .next (putCur s
      (if (curCtx s).pl = super then
        { curCtx s with pc := (curCtx s).epc, pl := if (curCtx s).ppl then super else user, eie := (curCtx s).peie }
      else { curCtx s with pc := (curCtx s).fepc, pl := (curCtx s).fppl, eie := (curCtx s).fpeie })) := by
  change execSeqEret s = _
  rw [execSeqEret, atLevel_granted h]
  split <;> rfl
theorem wordOf_seqEret : wordOf .seqEret = 0xA100000000000000#64 := by decide
theorem exec_seqEret_user {s : State} (h : (curCtx s).pl = user) :
    exec .seqEret s = .next (takeTrap s s.cur.cid 3 false 0xA100000000000000#64 (curCtx s).pc) := by
  change execSeqEret s = _
  rw [execSeqEret, atLevel_below (by rw [h]; decide), wordOf_seqEret]

/-- Settles O6, by the level of the executing context. -/
theorem eretRestores : Obligations.EretRestores := by
  intro s
  dsimp only
  refine ⟨fun hsuper => ?_, fun hfirm => ?_, exec_seqEret_user⟩
  · rw [exec_seqEret_granted (Nat.le_of_eq (by rw [hsuper])), if_pos hsuper]
  · rw [exec_seqEret_granted (by rw [hfirm]; decide), if_neg (by rw [hfirm]; decide)]

end Sys2Proof.Proofs
end

section
/-! What each instruction that the proofs below speak of is run by. -/

namespace Sys2Proof.Proofs

open Sys2Proof Sys2Proof.Machine

theorem exec_elemNop_eq (f : EFields) (s : State) : exec (.elemNop f) s = execElemNop f s := rfl
theorem exec_elemPass_eq (f : EFields) (s : State) : exec (.elemPass f) s = execElemPass f s := rfl
theorem exec_elemNullt_eq (f : EFields) (s : State) : exec (.elemNullt f) s = execElemNullt f s := rfl
theorem exec_elemTags_eq (f : EFields) (m : TagMode) (s : State) : exec (.elemTags f m) s = execElemTags f m s := rfl
theorem exec_elemPtst_eq (f : EFields) (s : State) : exec (.elemPtst f) s = execElemPtst f s := rfl
theorem exec_elemPsn_eq (f : EFields) (s : State) : exec (.elemPsn f) s = execElemPsn f s := rfl
theorem exec_elemTrapi_eq (f : EFields) (s : State) : exec (.elemTrapi f) s = execElemTrapi f s := rfl
theorem exec_elemHalt_eq (f : EFields) (s : State) : exec (.elemHalt f) s = execElemHalt f s := rfl
theorem exec_elemAdd_eq (f : EFields) (t : IntTy) (s : State) : exec (.elemAdd f t) s = execElemAdd f t s := rfl
theorem exec_elemSub_eq (f : EFields) (t : IntTy) (s : State) : exec (.elemSub f t) s = execElemSub f t s := rfl
theorem exec_elemMul_eq (f : EFields) (t : IntTy) (s : State) : exec (.elemMul f t) s = execElemMul f t s := rfl
theorem exec_elemMulh_eq (f : EFields) (t : IntTy) (s : State) : exec (.elemMulh f t) s = execElemMulh f t s := rfl
theorem exec_elemMad_eq (f : EFields) (t : IntTy) (s : State) : exec (.elemMad f t) s = execElemMad f t s := rfl
theorem exec_elemMin_eq (f : EFields) (t : IntTy) (s : State) : exec (.elemMin f t) s = execElemMin f t s := rfl
theorem exec_elemMax_eq (f : EFields) (t : IntTy) (s : State) : exec (.elemMax f t) s = execElemMax f t s := rfl
theorem exec_elemAbs_eq (f : EFields) (t : IntTy) (s : State) : exec (.elemAbs f t) s = execElemAbs f t s := rfl
theorem exec_elemAnd_eq (f : EFields) (s : State) : exec (.elemAnd f) s = execElemAnd f s := rfl
theorem exec_elemOr_eq (f : EFields) (s : State) : exec (.elemOr f) s = execElemOr f s := rfl
theorem exec_elemXor_eq (f : EFields) (s : State) : exec (.elemXor f) s = execElemXor f s := rfl
theorem exec_elemAndn_eq (f : EFields) (s : State) : exec (.elemAndn f) s = execElemAndn f s := rfl
theorem exec_elemShl_eq (f : EFields) (t : IntTy) (s : State) : exec (.elemShl f t) s = execElemShl f t s := rfl
theorem exec_elemShr_eq (f : EFields) (t : IntTy) (s : State) : exec (.elemShr f t) s = execElemShr f t s := rfl
theorem exec_elemSar_eq (f : EFields) (t : IntTy) (s : State) : exec (.elemSar f t) s = execElemSar f t s := rfl
theorem exec_elemRot_eq (f : EFields) (t : IntTy) (s : State) : exec (.elemRot f t) s = execElemRot f t s := rfl
theorem exec_elemClz_eq (f : EFields) (t : IntTy) (s : State) : exec (.elemClz f t) s = execElemClz f t s := rfl
theorem exec_elemPopc_eq (f : EFields) (t : IntTy) (s : State) : exec (.elemPopc f t) s = execElemPopc f t s := rfl
theorem exec_elemClmul_eq (f : EFields) (t : NatTy) (s : State) : exec (.elemClmul f t) s = execElemClmul f t s := rfl
theorem exec_elemSel_eq (f : EFields) (t : NatTy) (s : State) : exec (.elemSel f t) s = execElemSel f t s := rfl
theorem exec_elemMov_eq (f : EFields) (s : State) : exec (.elemMov f) s = execElemMov f s := rfl
theorem exec_elemShuf_eq (f : EFields) (t : NatTy) (s : State) : exec (.elemShuf f t) s = execElemShuf f t s := rfl
theorem exec_elemBcast_eq (f : EFields) (t : NatTy) (s : State) : exec (.elemBcast f t) s = execElemBcast f t s := rfl
theorem exec_elemCmp_eq (f : EFields) (c : Cond) (t : IntTy) (s : State) : exec (.elemCmp f c t) s = execElemCmp f c t s := rfl
theorem exec_elemLred_eq (f : EFields) (o : RedOp) (t : Ty) (s : State) : exec (.elemLred f o t) s = execElemLred f o t s := rfl
theorem exec_elemScan_eq (f : EFields) (o : RedOp) (t : Ty) (s : State) : exec (.elemScan f o t) s = execElemScan f o t s := rfl
theorem exec_elemFadd_eq (f : EFields) (t : FltTy) (r : Rnd) (np : Bool) (s : State) :
    exec (.elemFadd f t r np) s = execElemFadd f t r np s := rfl
theorem exec_elemFsub_eq (f : EFields) (t : FltTy) (r : Rnd) (np : Bool) (s : State) :
    exec (.elemFsub f t r np) s = execElemFsub f t r np s := rfl
theorem exec_elemFmul_eq (f : EFields) (t : FltTy) (r : Rnd) (np : Bool) (s : State) :
    exec (.elemFmul f t r np) s = execElemFmul f t r np s := rfl
theorem exec_elemFfma_eq (f : EFields) (t : FltTy) (r : Rnd) (np : Bool) (s : State) :
    exec (.elemFfma f t r np) s = execElemFfma f t r np s := rfl
theorem exec_elemFmin_eq (f : EFields) (t : FltTy) (np : Bool) (s : State) : exec (.elemFmin f t np) s = execElemFmin f t np s := rfl
theorem exec_elemFmax_eq (f : EFields) (t : FltTy) (np : Bool) (s : State) : exec (.elemFmax f t np) s = execElemFmax f t np s := rfl
theorem exec_elemFcmp_eq (f : EFields) (c : FCond) (t : FltTy) (np : Bool) (s : State) :
    exec (.elemFcmp f c t np) s = execElemFcmp f c t np s := rfl
theorem exec_elemFdiv_eq (f : EFields) (t : FltTy) (r : Rnd) (np : Bool) (s : State) :
    exec (.elemFdiv f t r np) s = execElemFdiv f t r np s := rfl
theorem exec_elemFsqrt_eq (f : EFields) (t : FltTy) (r : Rnd) (np : Bool) (s : State) :
    exec (.elemFsqrt f t r np) s = execElemFsqrt f t r np s := rfl
theorem exec_elemFrcp_eq (f : EFields) (t : FltTy) (np : Bool) (s : State) : exec (.elemFrcp f t np) s = execElemFrcp f t np s := rfl
theorem exec_elemFrsq_eq (f : EFields) (t : FltTy) (np : Bool) (s : State) : exec (.elemFrsq f t np) s = execElemFrsq f t np s := rfl
theorem exec_elemFexp2_eq (f : EFields) (t : FltTy) (np : Bool) (s : State) : exec (.elemFexp2 f t np) s = execElemFexp2 f t np s := rfl
theorem exec_elemFlog2_eq (f : EFields) (t : FltTy) (np : Bool) (s : State) : exec (.elemFlog2 f t np) s = execElemFlog2 f t np s := rfl
theorem exec_elemCvt_eq (f : EFields) (td ts : Ty) (r : Rnd) (sat : Bool) (s : State) :
    exec (.elemCvt f td ts r sat) s = execElemCvt f td ts r sat s := rfl
theorem exec_elemPack_eq (f : EFields) (td ts : Ty) (r : Rnd) (sat : Bool) (s : State) :
    exec (.elemPack f td ts r sat) s = execElemPack f td ts r sat s := rfl
theorem exec_elemUnpk_eq (f : EFields) (td ts : Ty) (s : State) : exec (.elemUnpk f td ts) s = execElemUnpk f td ts s := rfl
theorem exec_elemLd_eq (f : EFields) (sh : Shape) (s : State) : exec (.elemLd f sh) s = execElemLd f sh s := rfl
theorem exec_elemSt_eq (f : EFields) (sh : Shape) (s : State) : exec (.elemSt f sh) s = execElemSt f sh s := rfl
theorem exec_elemLda_eq (f : EFields) (sc : Scope) (s : State) : exec (.elemLda f sc) s = execElemLda f sc s := rfl
theorem exec_elemStl_eq (f : EFields) (sc : Scope) (s : State) : exec (.elemStl f sc) s = execElemStl f sc s := rfl
theorem exec_elemAmo_eq (f : EFields) (h : Fin 16) (s : State) : exec (.elemAmo f h) s = execElemAmo f h s := rfl
theorem exec_elemVamo_eq (f : EFields) (wide : Bool) (s : State) : exec (.elemVamo f wide) s = execElemVamo f wide s := rfl
theorem exec_elemCst_eq (f : EFields) (sc : Scope) (s : State) : exec (.elemCst f sc) s = execElemCst f sc s := rfl
theorem exec_elemLdst_eq (f : EFields) (s : State) : exec (.elemLdst f) s = execElemLdst f s := rfl
theorem exec_elemLdcb_eq (f : EFields) (s : State) : exec (.elemLdcb f) s = execElemLdcb f s := rfl
theorem exec_elemSwapw_eq (f : EFields) (s : State) : exec (.elemSwapw f) s = execElemSwapw f s := rfl
theorem exec_elemMma_eq (f : EFields) (zs : Bool) (tor : Bool) (s : State) : exec (.elemMma f zs tor) s = execElemMma f zs tor s := rfl
theorem exec_elemAcca_eq (f : EFields) (t : AccTy) (s : State) : exec (.elemAcca f t) s = execElemAcca f t s := rfl
theorem exec_elemAccd_eq (f : EFields) (t : Ty) (s : State) : exec (.elemAccd f t) s = execElemAccd f t s := rfl
theorem exec_elemAccz_eq (f : EFields) (s : State) : exec (.elemAccz f) s = execElemAccz f s := rfl
theorem exec_elemAccs_eq (f : EFields) (s : State) : exec (.elemAccs f) s = execElemAccs f s := rfl
theorem exec_elemAccl_eq (f : EFields) (s : State) : exec (.elemAccl f) s = execElemAccl f s := rfl
theorem exec_pipelinedResult_eq (pl : Nat) (k : Nat) (s : State) : exec (.pipelinedResult pl k) s = execPipelinedResult pl k s := rfl
theorem exec_accOperation_eq (pl : Nat) (k : Nat) (s : State) : exec (.accOperation pl k) s = execAccOperation pl k s := rfl
theorem exec_tokenArrive_eq (k : Nat) (s : State) : exec (.tokenArrive k) s = execTokenArrive k s := rfl
theorem exec_tileWake_eq (tile : Nat) (s : State) : exec (.tileWake tile) s = execTileWake tile s := rfl
theorem exec_knotTake_eq (pl : Nat) (unit : Nat) (s : State) : exec (.knotTake pl unit) s = execKnotTake pl unit s := rfl
theorem exec_backEdgeKnotDiscard_eq (pl : Nat) (unit : Nat) (ch : Nat) (s : State) :
    exec (.backEdgeKnotDiscard pl unit ch) s = execBackEdgeKnotDiscard pl unit ch s := rfl
theorem exec_knotCommit_eq (pl : Nat) (s : State) : exec (.knotCommit pl) s = execKnotCommit pl s := rfl
theorem exec_implicitKnot_eq (pl : Nat) (s : State) : exec (.implicitKnot pl) s = execImplicitKnot pl s := rfl
theorem exec_drainTake_eq (pl : Nat) (unit : Nat) (s : State) : exec (.drainTake pl unit) s = execDrainTake pl unit s := rfl
theorem exec_lateTokenDiscard_eq (pl : Nat) (unit : Nat) (ch : Nat) (s : State) :
    exec (.lateTokenDiscard pl unit ch) s = execLateTokenDiscard pl unit ch s := rfl
theorem exec_openSourceDrain_eq (pl : Nat) (unit : Nat) (s : State) :
    exec (.openSourceDrain pl unit) s = execOpenSourceDrain pl unit s := rfl
theorem exec_regionRollback_eq (pl : Nat) (s : State) : exec (.regionRollback pl) s = execRegionRollback pl s := rfl
theorem exec_weightRefill_eq (pl : Nat) (elem : Nat) (s : State) : exec (.weightRefill pl elem) s = execWeightRefill pl elem s := rfl
theorem exec_assayComplete_eq (tile : Nat) (r : AssayResult) (s : State) :
    exec (.assayComplete tile r) s = execAssayComplete tile r s := rfl
theorem exec_markerArrival_eq (pl : Nat) (unit : Nat) (ch : Nat) (s : State) :
    exec (.markerArrival pl unit ch) s = execMarkerArrival pl unit ch s := rfl
theorem exec_idleReport_eq (pl : Nat) (s : State) : exec (.idleReport pl) s = execIdleReport pl s := rfl
theorem exec_agenStep_eq (pl : Nat) (s : State) : exec (.agenStep pl) s = execAgenStep pl s := rfl
theorem exec_mifRequestTake_eq (pl : Nat) (s : State) : exec (.mifRequestTake pl) s = execMifRequestTake pl s := rfl
theorem exec_mifStreamAccess_eq (pl : Nat) (s : State) : exec (.mifStreamAccess pl) s = execMifStreamAccess pl s := rfl
theorem exec_memoryReply_eq (k : Nat) (s : State) : exec (.memoryReply k) s = execMemoryReply k s := rfl
theorem exec_wportToken_eq (pl : Nat) (s : State) : exec (.wportToken pl) s = execWportToken pl s := rfl
theorem exec_steerStep_eq (pl : Nat) (s : State) : exec (.steerStep pl) s = execSteerStep pl s := rfl
theorem exec_mergeStep_eq (pl : Nat) (s : State) : exec (.mergeStep pl) s = execMergeStep pl s := rfl
theorem exec_scaleStep_eq (pl : Nat) (s : State) : exec (.scaleStep pl) s = execScaleStep pl s := rfl
theorem exec_bflyStep_eq (pl : Nat) (s : State) : exec (.bflyStep pl) s = execBflyStep pl s := rfl
theorem exec_convStep_eq (pl : Nat) (s : State) : exec (.convStep pl) s = execConvStep pl s := rfl
theorem exec_redStep_eq (pl : Nat) (s : State) : exec (.redStep pl) s = execRedStep pl s := rfl
theorem exec_maskReload_eq (pl : Nat) (s : State) : exec (.maskReload pl) s = execMaskReload pl s := rfl
theorem exec_maskQuery_eq (pl : Nat) (s : State) : exec (.maskQuery pl) s = execMaskQuery pl s := rfl
theorem exec_rngToken_eq (pl : Nat) (s : State) : exec (.rngToken pl) s = execRngToken pl s := rfl
theorem exec_checkPair_eq (pl : Nat) (pair : Nat) (s : State) : exec (.checkPair pl pair) s = execCheckPair pl pair s := rfl
theorem exec_homeLoad_eq (k : Nat) (s : State) : exec (.homeLoad k) s = execHomeLoad k s := rfl
theorem exec_homeWrite_eq (k : Nat) (s : State) : exec (.homeWrite k) s = execHomeWrite k s := rfl
theorem exec_handlerApply_eq (k : Nat) (s : State) : exec (.handlerApply k) s = execHandlerApply k s := rfl
theorem exec_vamoApply_eq (k : Nat) (s : State) : exec (.vamoApply k) s = execVamoApply k s := rfl
theorem exec_claspOpen_eq (k : Nat) (s : State) : exec (.claspOpen k) s = execClaspOpen k s := rfl
theorem exec_claspPacket_eq (k : Nat) (s : State) : exec (.claspPacket k) s = execClaspPacket k s := rfl
theorem exec_claspRelease_eq (k : Nat) (s : State) : exec (.claspRelease k) s = execClaspRelease k s := rfl
theorem exec_strandAck_eq (k : Nat) (s : State) : exec (.strandAck k) s = execStrandAck k s := rfl
theorem exec_strandRetry_eq (k : Nat) (s : State) : exec (.strandRetry k) s = execStrandRetry k s := rfl
theorem exec_badPacketDiscard_eq (link : Fin 16) (flit : BitVec 256) (s : State) :
    exec (.badPacketDiscard link flit) s = execBadPacketDiscard link flit s := rfl
theorem exec_frameEntryAdvance_eq (cluster : Nat) (s : State) :
    exec (.frameEntryAdvance cluster) s = execFrameEntryAdvance cluster s := rfl
theorem exec_waybillStart_eq (cluster : Nat) (k : Nat) (s : State) : exec (.waybillStart cluster k) s = execWaybillStart cluster k s := rfl
theorem exec_copySector_eq (cluster : Nat) (k : Nat) (s : State) : exec (.copySector cluster k) s = execCopySector cluster k s := rfl
theorem exec_waybillRetire_eq (cluster : Nat) (k : Nat) (s : State) :
    exec (.waybillRetire cluster k) s = execWaybillRetire cluster k s := rfl
theorem exec_seqLd_eq (xd xa : XReg) (sz : Sz) (n : Bool) (disp : BitVec 24) (s : State) :
    exec (.seqLd xd xa sz n disp) s = execSeqLd xd xa sz n disp s := rfl
theorem exec_seqSt_eq (xa xb : XReg) (sz : Sz) (disp : BitVec 24) (s : State) :
    exec (.seqSt xa xb sz disp) s = execSeqSt xa xb sz disp s := rfl
theorem exec_seqLda_eq (xd xa : XReg) (sz : Sz) (n : Bool) (sc : Scope) (disp : BitVec 24) (s : State) :
    exec (.seqLda xd xa sz n sc disp) s = execSeqLda xd xa sz n sc disp s := rfl
theorem exec_seqStl_eq (xa xb : XReg) (sz : Sz) (sc : Scope) (disp : BitVec 24) (s : State) :
    exec (.seqStl xa xb sz sc disp) s = execSeqStl xa xb sz sc disp s := rfl
theorem exec_seqAmo_eq (xd xa xb : XReg) (sz : Sz) (sc : Scope) (o : Ord) (h : Fin 32) (disp : BitVec 24) (s : State) :
    exec (.seqAmo xd xa xb sz sc o h disp) s = execSeqAmo xd xa xb sz sc o h disp s := rfl
theorem exec_seqAtomicResult_eq (k : Nat) (s : State) : exec (.seqAtomicResult k) s = execSeqAtomicResult k s := rfl
theorem exec_seqFence_eq (sc : Scope) (o : Ord) (s : State) : exec (.seqFence sc o) s = execSeqFence sc o s := rfl
theorem exec_seqMon_eq (xa : XReg) (disp : BitVec 24) (s : State) : exec (.seqMon xa disp) s = execSeqMon xa disp s := rfl
theorem exec_seqMwait_eq (xd xb : XReg) (s : State) : exec (.seqMwait xd xb) s = execSeqMwait xd xb s := rfl
theorem exec_mwaitWake_eq (cid : Nat) (s : State) : exec (.mwaitWake cid) s = execMwaitWake cid s := rfl
theorem exec_mwaitLimit_eq (cid : Nat) (s : State) : exec (.mwaitLimit cid) s = execMwaitLimit cid s := rfl
theorem exec_seqPlace_eq (xd xa xb : XReg) (s : State) : exec (.seqPlace xd xa xb) s = execSeqPlace xd xa xb s := rfl
theorem exec_seqArm_eq (xa xb : XReg) (s : State) : exec (.seqArm xa xb) s = execSeqArm xa xb s := rfl
theorem exec_seqWbill_eq (xd xa : XReg) (s : State) : exec (.seqWbill xd xa) s = execSeqWbill xd xa s := rfl
theorem exec_wbillRoom_eq (cid : Nat) (s : State) : exec (.wbillRoom cid) s = execWbillRoom cid s := rfl
theorem exec_seqWaitw_eq (xd xa : XReg) (s : State) : exec (.seqWaitw xd xa) s = execSeqWaitw xd xa s := rfl
theorem exec_waitwComplete_eq (cid : Nat) (s : State) : exec (.waitwComplete cid) s = execWaitwComplete cid s := rfl
theorem exec_seqDrain_eq (xa : XReg) (s : State) : exec (.seqDrain xa) s = execSeqDrain xa s := rfl
theorem exec_seqRecfg_eq (xd xa xb : XReg) (s : State) : exec (.seqRecfg xd xa xb) s = execSeqRecfg xd xa xb s := rfl
theorem exec_recfgDepthChange_eq (cid : Nat) (s : State) : exec (.recfgDepthChange cid) s = execRecfgDepthChange cid s := rfl
theorem exec_seqBankcfg_eq (xd : XReg) (bank : Fin 16) (mode : BitVec 2) (s : State) :
    exec (.seqBankcfg xd bank mode) s = execSeqBankcfg xd bank mode s := rfl
theorem exec_seqPlane_eq (xa : XReg) (e : Fin 16) (s : State) : exec (.seqPlane xa e) s = execSeqPlane xa e s := rfl
theorem exec_seqCut_eq (xd xa : XReg) (s : State) : exec (.seqCut xd xa) s = execSeqCut xd xa s := rfl
theorem exec_resumeRestore_eq (xd xa : XReg) (s : State) : exec (.resumeRestore xd xa) s = execResumeRestore xd xa s := rfl
theorem exec_resumeRelease_eq (xd xa : XReg) (s : State) : exec (.resumeRelease xd xa) s = execResumeRelease xd xa s := rfl
theorem exec_resumeContinue_eq (xd xa : XReg) (s : State) : exec (.resumeContinue xd xa) s = execResumeContinue xd xa s := rfl
theorem exec_resumeAbort_eq (xd xa : XReg) (s : State) : exec (.resumeAbort xd xa) s = execResumeAbort xd xa s := rfl
theorem exec_seqSopen_eq (xd xa : XReg) (k : Fin 4) (s : State) : exec (.seqSopen xd xa k) s = execSeqSopen xd xa k s := rfl
theorem exec_seqSclose_eq (xa xb : XReg) (k : Fin 4) (s : State) : exec (.seqSclose xa xb k) s = execSeqSclose xa xb k s := rfl
theorem exec_seqSbar_eq (k : Fin 4) (s : State) : exec (.seqSbar k) s = execSeqSbar k s := rfl
theorem exec_sbarComplete_eq (cid : Nat) (s : State) : exec (.sbarComplete cid) s = execSbarComplete cid s := rfl
theorem exec_seqPqpush_eq (xa xb : XReg) (s : State) : exec (.seqPqpush xa xb) s = execSeqPqpush xa xb s := rfl
theorem exec_seqPqpop_eq (xd xc : XReg) (s : State) : exec (.seqPqpop xd xc) s = execSeqPqpop xd xc s := rfl
theorem exec_seqPqpopW1_eq (xd xc : XReg) (s : State) : exec (.seqPqpopW1 xd xc) s = execSeqPqpopW1 xd xc s := rfl
theorem exec_seqExpect_eq (xa xb : XReg) (s : State) : exec (.seqExpect xa xb) s = execSeqExpect xa xb s := rfl
theorem exec_seqAmsend_eq (xd xa xb : XReg) (h fl : BitVec 8) (s : State) :
    exec (.seqAmsend xd xa xb h fl) s = execSeqAmsend xd xa xb h fl s := rfl
theorem exec_seqBar_eq (xa : XReg) (sc : Scope) (s : State) : exec (.seqBar xa sc) s = execSeqBar xa sc s := rfl
theorem exec_barComplete_eq (cid : Nat) (s : State) : exec (.barComplete cid) s = execBarComplete cid s := rfl
theorem exec_seqTrap_eq (code : BitVec 16) (s : State) : exec (.seqTrap code) s = execSeqTrap code s := rfl
theorem exec_eventEntry_eq (cid : Nat) (s : State) : exec (.eventEntry cid) s = execEventEntry cid s := rfl
theorem exec_seqEret_eq (s : State) : exec (.seqEret) s = execSeqEret s := rfl
theorem exec_seqCsrrd_eq (xd : XReg) (csr : BitVec 12) (s : State) : exec (.seqCsrrd xd csr) s = execSeqCsrrd xd csr s := rfl
theorem exec_seqCsrwr_eq (xa : XReg) (csr : BitVec 12) (s : State) : exec (.seqCsrwr xa csr) s = execSeqCsrwr xa csr s := rfl
theorem exec_threadSwitch_eq (xa : XReg) (s : State) : exec (.threadSwitch xa) s = execThreadSwitch xa s := rfl
theorem exec_seqFwcall_eq (xd xa : XReg) (svc : BitVec 16) (s : State) : exec (.seqFwcall xd xa svc) s = execSeqFwcall xd xa svc s := rfl
theorem exec_seqHalt_eq (s : State) : exec (.seqHalt) s = execSeqHalt s := rfl
theorem exec_pcreate_eq (pa : Nat) (s : State) : exec (.pcreate pa) s = execPcreate pa s := rfl
theorem exec_preset_eq (pa : Nat) (s : State) : exec (.preset pa) s = execPreset pa s := rfl
theorem exec_pdestroy_eq (pa : Nat) (s : State) : exec (.pdestroy pa) s = execPdestroy pa s := rfl
theorem exec_vdcreate_eq (pa : Nat) (s : State) : exec (.vdcreate pa) s = execVdcreate pa s := rfl
theorem exec_vddestroy_eq (pa : Nat) (s : State) : exec (.vddestroy pa) s = execVddestroy pa s := rfl
theorem exec_ctxassign_eq (pa : Nat) (s : State) : exec (.ctxassign pa) s = execCtxassign pa s := rfl
theorem exec_bankassign_eq (pa : Nat) (s : State) : exec (.bankassign pa) s = execBankassign pa s := rfl
theorem exec_tpower_eq (pa : Nat) (s : State) : exec (.tpower pa) s = execTpower pa s := rfl
theorem exec_tpowerDone_eq (tile : Nat) (s : State) : exec (.tpowerDone tile) s = execTpowerDone tile s := rfl
theorem exec_vdstop_eq (pa : Nat) (s : State) : exec (.vdstop pa) s = execVdstop pa s := rfl
theorem exec_vdstart_eq (pa : Nat) (s : State) : exec (.vdstart pa) s = execVdstart pa s := rfl
theorem exec_migbegin_eq (pa : Nat) (s : State) : exec (.migbegin pa) s = execMigbegin pa s := rfl
theorem exec_migpass_eq (pa : Nat) (s : State) : exec (.migpass pa) s = execMigpass pa s := rfl
theorem exec_migfinal_eq (pa : Nat) (s : State) : exec (.migfinal pa) s = execMigfinal pa s := rfl
theorem exec_chkpt_eq (pa : Nat) (s : State) : exec (.chkpt pa) s = execChkpt pa s := rfl
theorem exec_chkload_eq (pa : Nat) (s : State) : exec (.chkload pa) s = execChkload pa s := rfl
theorem exec_frameset_eq (pa : Nat) (s : State) : exec (.frameset pa) s = execFrameset pa s := rfl
theorem exec_contextStart_eq (vd : Nat) (pa : Nat) (s : State) : exec (.contextStart vd pa) s = execContextStart vd pa s := rfl
theorem exec_contextKill_eq (vd : Nat) (pa : Nat) (s : State) : exec (.contextKill vd pa) s = execContextKill vd pa s := rfl
theorem exec_faultResolve_eq (vd : Nat) (fid : Nat) (s : State) : exec (.faultResolve vd fid) s = execFaultResolve vd fid s := rfl
theorem exec_faultFail_eq (vd : Nat) (fid : Nat) (s : State) : exec (.faultFail vd fid) s = execFaultFail vd fid s := rfl
theorem exec_shootdownRequest_eq (vd : Nat) (w : BitVec 64) (s : State) :
    exec (.shootdownRequest vd w) s = execShootdownRequest vd w s := rfl
theorem exec_shootdownComplete_eq (vd : Nat) (s : State) : exec (.shootdownComplete vd) s = execShootdownComplete vd s := rfl
theorem exec_faultRecordHeldWrite_eq (vd : Nat) (s : State) : exec (.faultRecordHeldWrite vd) s = execFaultRecordHeldWrite vd s := rfl
theorem exec_coldReset_eq (img : BootImage) (s : State) : exec (.coldReset img) s = execColdReset img s := rfl
theorem exec_partitionReset_eq (part : Nat) (s : State) : exec (.partitionReset part) s = execPartitionReset part s := rfl
theorem exec_thermalAlarm_eq (_die : Fin 5) (temp : BitVec 8) (s : State) :
    exec (.thermalAlarm _die temp) s = execThermalAlarm _die temp s := rfl
theorem exec_thermalTrip_eq (die : Fin 5) (temp : BitVec 8) (s : State) :
    exec (.thermalTrip die temp) s = execThermalTrip die temp s := rfl
theorem exec_linkTrained_eq (link : Fin 16) (s : State) : exec (.linkTrained link) s = execLinkTrained link s := rfl
theorem exec_linkAuthDone_eq (link : Fin 16) (peer : LinkPeer) (s : State) :
    exec (.linkAuthDone link peer) s = execLinkAuthDone link peer s := rfl
theorem exec_linkTagFail_eq (link : Fin 16) (s : State) : exec (.linkTagFail link) s = execLinkTagFail link s := rfl
theorem exec_companionRead_eq (off len : Nat) (s : State) : exec (.companionRead off len) s = execCompanionRead off len s := rfl
theorem exec_companionWrite_eq (off : Nat) (data : List (BitVec 8)) (s : State) :
    exec (.companionWrite off data) s = execCompanionWrite off data s := rfl
theorem exec_posset_eq (pos : BitVec 8) (s : State) : exec (.posset pos) s = execPosset pos s := rfl
theorem exec_podpol_eq (fwms : List (BitVec 256)) (s : State) : exec (.podpol fwms) s = execPodpol fwms s := rfl
theorem exec_lnktrain_eq (mask : BitVec 16) (s : State) : exec (.lnktrain mask) s = execLnktrain mask s := rfl
theorem exec_evread_eq (ctr : BitVec 32) (s : State) : exec (.evread ctr) s = execEvread ctr s := rfl
theorem exec_retclear_eq (bank : Bool) (tx ty b : BitVec 16) (s : State) :
    exec (.retclear bank tx ty b) s = execRetclear bank tx ty b s := rfl
theorem exec_temprd_eq (s : State) : exec (.temprd) s = execTemprd s := rfl
theorem exec_kvevict_eq (s : State) : exec (.kvevict) s = execKvevict s := rfl
theorem exec_kvpromote_eq (s : State) : exec (.kvpromote) s = execKvpromote s := rfl
theorem exec_hallmark_eq (s : State) : exec (.hallmark) s = execHallmark s := rfl
theorem exec_sessopen_eq (s : State) : exec (.sessopen) s = execSessopen s := rfl
theorem exec_reqopen_eq (s : State) : exec (.reqopen) s = execReqopen s := rfl
theorem exec_replyseal_eq (s : State) : exec (.replyseal) s = execReplyseal s := rfl
theorem exec_sessclose_eq (s : State) : exec (.sessclose) s = execSessclose s := rfl
theorem exec_adptable_eq (s : State) : exec (.adptable) s = execAdptable s := rfl
theorem exec_usage_eq (s : State) : exec (.usage) s = execUsage s := rfl
theorem exec_libload_eq (s : State) : exec (.libload) s = execLibload s := rfl
theorem exec_modelload_eq (s : State) : exec (.modelload) s = execModelload s := rfl
theorem exec_modelfree_eq (s : State) : exec (.modelfree) s = execModelfree s := rfl
theorem exec_adaptclaim_eq (s : State) : exec (.adaptclaim) s = execAdaptclaim s := rfl
theorem exec_adaptfree_eq (s : State) : exec (.adaptfree) s = execAdaptfree s := rfl
theorem exec_vdkey_eq (s : State) : exec (.vdkey) s = execVdkey s := rfl
theorem exec_conflock_eq (s : State) : exec (.conflock) s = execConflock s := rfl
theorem exec_conffree_eq (s : State) : exec (.conffree) s = execConffree s := rfl
theorem exec_evkey_eq (s : State) : exec (.evkey) s = execEvkey s := rfl
theorem exec_hinstall_eq (s : State) : exec (.hinstall) s = execHinstall s := rfl
theorem exec_creditReturn_eq (k : Nat) (s : State) : exec (.creditReturn k) s = execCreditReturn k s := rfl
theorem exec_clusterCacheEviction_eq (cluster : Nat) (sector : Nat) (s : State) :
    exec (.clusterCacheEviction cluster sector) s = execClusterCacheEviction cluster sector s := rfl
theorem exec_spdmAttestation_eq (req : List (BitVec 8)) (s : State) : exec (.spdmAttestation req) s = execSpdmAttestation req s := rfl
theorem exec_slotTransferRecord_eq (vd : Nat) (rc : List (BitVec 8)) (s : State) :
    exec (.slotTransferRecord vd rc) s = execSlotTransferRecord vd rc s := rfl
theorem exec_migrationStateTransfer_eq (vd : Nat) (k : Nat) (s : State) :
    exec (.migrationStateTransfer vd k) s = execMigrationStateTransfer vd k s := rfl
theorem exec_linkDown_eq (link : Fin 16) (s : State) : exec (.linkDown link) s = execLinkDown link s := rfl

end Sys2Proof.Proofs
end

section
/-! Decoder and encoder (R68 to R81): what an encoded instruction is read as, and what a word that is read encodes to. -/

namespace Sys2Proof.Proofs

open Sys2Proof Sys2Proof.Laws

/-! ## An encoded instruction is read back -/

/-- Settles O10: the agreement of decoder and encoder, instruction by instruction. -/
theorem decodeEncodeAgree : Obligations.DecodeEncodeAgree
  | .elemNop f => Encoding.elemNop f
  | .elemPass f => Encoding.elemPass f
  | .elemNullt f => Encoding.elemNullt f
  | .elemTags f m => Encoding.elemTags f m
  | .elemPtst f => Encoding.elemPtst f
  | .elemPsn f => Encoding.elemPsn f
  | .elemTrapi f => Encoding.elemTrapi f
  | .elemHalt f => Encoding.elemHalt f
  | .elemAdd f t => Encoding.elemAdd f t
  | .elemSub f t => Encoding.elemSub f t
  | .elemMul f t => Encoding.elemMul f t
  | .elemMulh f t => Encoding.elemMulh f t
  | .elemMad f t => Encoding.elemMad f t
  | .elemMin f t => Encoding.elemMin f t
  | .elemMax f t => Encoding.elemMax f t
  | .elemAbs f t => Encoding.elemAbs f t
  | .elemAnd f => Encoding.elemAnd f
  | .elemOr f => Encoding.elemOr f
  | .elemXor f => Encoding.elemXor f
  | .elemAndn f => Encoding.elemAndn f
  | .elemShl f t => Encoding.elemShl f t
  | .elemShr f t => Encoding.elemShr f t
  | .elemSar f t => Encoding.elemSar f t
  | .elemRot f t => Encoding.elemRot f t
  | .elemClz f t => Encoding.elemClz f t
  | .elemPopc f t => Encoding.elemPopc f t
  | .elemClmul f t => Encoding.elemClmul f t
  | .elemSel f t => Encoding.elemSel f t
  | .elemMov f => Encoding.elemMov f
  | .elemShuf f t => Encoding.elemShuf f t
  | .elemBcast f t => Encoding.elemBcast f t
  | .elemCmp f c t => Encoding.elemCmp f c t
  | .elemLred f o t => Encoding.elemLred f o t
  | .elemScan f o t => Encoding.elemScan f o t
  | .elemFadd f t r np => Encoding.elemFadd f t r np
  | .elemFsub f t r np => Encoding.elemFsub f t r np
  | .elemFmul f t r np => Encoding.elemFmul f t r np
  | .elemFfma f t r np => Encoding.elemFfma f t r np
  | .elemFmin f t np => Encoding.elemFmin f t np
  | .elemFmax f t np => Encoding.elemFmax f t np
  | .elemFcmp f c t np => Encoding.elemFcmp f c t np
  | .elemFdiv f t r np => Encoding.elemFdiv f t r np
  | .elemFsqrt f t r np => Encoding.elemFsqrt f t r np
  | .elemFrcp f t np => Encoding.elemFrcp f t np
  | .elemFrsq f t np => Encoding.elemFrsq f t np
  | .elemFexp2 f t np => Encoding.elemFexp2 f t np
  | .elemFlog2 f t np => Encoding.elemFlog2 f t np
  | .elemCvt f td ts r sat => Encoding.elemCvt f td ts r sat
  | .elemPack f td ts r sat => Encoding.elemPack f td ts r sat
  | .elemUnpk f td ts => Encoding.elemUnpk f td ts
  | .elemLd f sh => Encoding.elemLd f sh
  | .elemSt f sh => Encoding.elemSt f sh
  | .elemLda f sc => Encoding.elemLda f sc
  | .elemStl f sc => Encoding.elemStl f sc
  | .elemAmo f h => Encoding.elemAmo f h
  | .elemVamo f wide => Encoding.elemVamo f wide
  | .elemCst f sc => Encoding.elemCst f sc
  | .elemLdst f => Encoding.elemLdst f
  | .elemLdcb f => Encoding.elemLdcb f
  | .elemSwapw f => Encoding.elemSwapw f
  | .elemMma f zs tor => Encoding.elemMma f zs tor
  | .elemAcca f t => Encoding.elemAcca f t
  | .elemAccd f t => Encoding.elemAccd f t
  | .elemAccz f => Encoding.elemAccz f
  | .elemAccs f => Encoding.elemAccs f
  | .elemAccl f => Encoding.elemAccl f
  | .pipelinedResult pl k => Encoding.pipelinedResult pl k
  | .accOperation pl k => Encoding.accOperation pl k
  | .tokenArrive k => Encoding.tokenArrive k
  | .tileWake tile => Encoding.tileWake tile
  | .knotTake pl unit => Encoding.knotTake pl unit
  | .backEdgeKnotDiscard pl unit ch => Encoding.backEdgeKnotDiscard pl unit ch
  | .knotCommit pl => Encoding.knotCommit pl
  | .implicitKnot pl => Encoding.implicitKnot pl
  | .drainTake pl unit => Encoding.drainTake pl unit
  | .lateTokenDiscard pl unit ch => Encoding.lateTokenDiscard pl unit ch
  | .openSourceDrain pl unit => Encoding.openSourceDrain pl unit
  | .regionRollback pl => Encoding.regionRollback pl
  | .weightRefill pl elem => Encoding.weightRefill pl elem
  | .assayComplete tile r => Encoding.assayComplete tile r
  | .markerArrival pl unit ch => Encoding.markerArrival pl unit ch
  | .idleReport pl => Encoding.idleReport pl
  | .agenStep pl => Encoding.agenStep pl
  | .mifRequestTake pl => Encoding.mifRequestTake pl
  | .mifStreamAccess pl => Encoding.mifStreamAccess pl
  | .memoryReply k => Encoding.memoryReply k
  | .wportToken pl => Encoding.wportToken pl
  | .steerStep pl => Encoding.steerStep pl
  | .mergeStep pl => Encoding.mergeStep pl
  | .scaleStep pl => Encoding.scaleStep pl
  | .bflyStep pl => Encoding.bflyStep pl
  | .convStep pl => Encoding.convStep pl
  | .redStep pl => Encoding.redStep pl
  | .maskReload pl => Encoding.maskReload pl
  | .maskQuery pl => Encoding.maskQuery pl
  | .rngToken pl => Encoding.rngToken pl
  | .checkPair pl pair => Encoding.checkPair pl pair
  | .homeLoad k => Encoding.homeLoad k
  | .homeWrite k => Encoding.homeWrite k
  | .handlerApply k => Encoding.handlerApply k
  | .vamoApply k => Encoding.vamoApply k
  | .claspOpen k => Encoding.claspOpen k
  | .claspPacket k => Encoding.claspPacket k
  | .claspRelease k => Encoding.claspRelease k
  | .strandAck k => Encoding.strandAck k
  | .strandRetry k => Encoding.strandRetry k
  | .badPacketDiscard link flit => Encoding.badPacketDiscard link flit
  | .frameEntryAdvance cluster => Encoding.frameEntryAdvance cluster
  | .waybillStart cluster k => Encoding.waybillStart cluster k
  | .copySector cluster k => Encoding.copySector cluster k
  | .waybillRetire cluster k => Encoding.waybillRetire cluster k
  | .seqAdd xd xa xb => Encoding.seqAdd xd xa xb
  | .seqSub xd xa xb => Encoding.seqSub xd xa xb
  | .seqMul xd xa xb => Encoding.seqMul xd xa xb
  | .seqMulh xd xa xb n => Encoding.seqMulh xd xa xb n
  | .seqDiv xd xa xb n => Encoding.seqDiv xd xa xb n
  | .seqRem xd xa xb n => Encoding.seqRem xd xa xb n
  | .seqAnd xd xa xb => Encoding.seqAnd xd xa xb
  | .seqOr xd xa xb => Encoding.seqOr xd xa xb
  | .seqXor xd xa xb => Encoding.seqXor xd xa xb
  | .seqShl xd xa xb => Encoding.seqShl xd xa xb
  | .seqShr xd xa xb => Encoding.seqShr xd xa xb
  | .seqSar xd xa xb => Encoding.seqSar xd xa xb
  | .seqMin xd xa xb n => Encoding.seqMin xd xa xb n
  | .seqMax xd xa xb n => Encoding.seqMax xd xa xb n
  | .seqClz xd xa => Encoding.seqClz xd xa
  | .seqPopc xd xa => Encoding.seqPopc xd xa
  | .seqAddi xd xa imm => Encoding.seqAddi xd xa imm
  | .seqAndi xd xa imm => Encoding.seqAndi xd xa imm
  | .seqOri xd xa imm => Encoding.seqOri xd xa imm
  | .seqXori xd xa imm => Encoding.seqXori xd xa imm
  | .seqShli xd xa sh => Encoding.seqShli xd xa sh
  | .seqShri xd xa sh => Encoding.seqShri xd xa sh
  | .seqSari xd xa sh => Encoding.seqSari xd xa sh
  | .seqLi xd imm => Encoding.seqLi xd imm
  | .seqLih xd xa imm => Encoding.seqLih xd xa imm
  | .seqBeq xa xb off => Encoding.seqBeq xa xb off
  | .seqBne xa xb off => Encoding.seqBne xa xb off
  | .seqBlt xa xb off => Encoding.seqBlt xa xb off
  | .seqBge xa xb off => Encoding.seqBge xa xb off
  | .seqBltn xa xb off => Encoding.seqBltn xa xb off
  | .seqBgen xa xb off => Encoding.seqBgen xa xb off
  | .seqJ off => Encoding.seqJ off
  | .seqJal xd off => Encoding.seqJal xd off
  | .seqJi xa off => Encoding.seqJi xa off
  | .seqJali xd xa off => Encoding.seqJali xd xa off
  | .seqLd xd xa sz n disp => Encoding.seqLd xd xa sz n disp
  | .seqSt xa xb sz disp => Encoding.seqSt xa xb sz disp
  | .seqLda xd xa sz n sc disp => Encoding.seqLda xd xa sz n sc disp
  | .seqStl xa xb sz sc disp => Encoding.seqStl xa xb sz sc disp
  | .seqAmo xd xa xb sz sc o h disp => Encoding.seqAmo xd xa xb sz sc o h disp
  | .seqAtomicResult k => Encoding.seqAtomicResult k
  | .seqFence sc o => Encoding.seqFence sc o
  | .seqMon xa disp => Encoding.seqMon xa disp
  | .seqMwait xd xb => Encoding.seqMwait xd xb
  | .mwaitWake cid => Encoding.mwaitWake cid
  | .mwaitLimit cid => Encoding.mwaitLimit cid
  | .seqPlace xd xa xb => Encoding.seqPlace xd xa xb
  | .seqArm xa xb => Encoding.seqArm xa xb
  | .seqWbill xd xa => Encoding.seqWbill xd xa
  | .wbillRoom cid => Encoding.wbillRoom cid
  | .seqWaitw xd xa => Encoding.seqWaitw xd xa
  | .waitwComplete cid => Encoding.waitwComplete cid
  | .seqDrain xa => Encoding.seqDrain xa
  | .seqRecfg xd xa xb => Encoding.seqRecfg xd xa xb
  | .recfgDepthChange cid => Encoding.recfgDepthChange cid
  | .seqBankcfg xd bank mode => Encoding.seqBankcfg xd bank mode
  | .seqPlane xa e => Encoding.seqPlane xa e
  | .seqCut xd xa => Encoding.seqCut xd xa
  | .resumeRestore xd xa => Encoding.resumeRestore xd xa
  | .resumeRelease xd xa => Encoding.resumeRelease xd xa
  | .resumeContinue xd xa => Encoding.resumeContinue xd xa
  | .resumeAbort xd xa => Encoding.resumeAbort xd xa
  | .seqSopen xd xa k => Encoding.seqSopen xd xa k
  | .seqSclose xa xb k => Encoding.seqSclose xa xb k
  | .seqSbar k => Encoding.seqSbar k
  | .sbarComplete cid => Encoding.sbarComplete cid
  | .seqPqpush xa xb => Encoding.seqPqpush xa xb
  | .seqPqpop xd xc => Encoding.seqPqpop xd xc
  | .seqPqpopW1 xd xc => Encoding.seqPqpopW1 xd xc
  | .seqExpect xa xb => Encoding.seqExpect xa xb
  | .seqAmsend xd xa xb h fl => Encoding.seqAmsend xd xa xb h fl
  | .seqBar xa sc => Encoding.seqBar xa sc
  | .barComplete cid => Encoding.barComplete cid
  | .seqTrap code => Encoding.seqTrap code
  | .eventEntry cid => Encoding.eventEntry cid
  | .seqEret => Encoding.seqEret
  | .seqCsrrd xd csr => Encoding.seqCsrrd xd csr
  | .seqCsrwr xa csr => Encoding.seqCsrwr xa csr
  | .threadSwitch xa => Encoding.threadSwitch xa
  | .seqFwcall xd xa svc => Encoding.seqFwcall xd xa svc
  | .seqHalt => Encoding.seqHalt
  | .pcreate pa => Encoding.pcreate pa
  | .preset pa => Encoding.preset pa
  | .pdestroy pa => Encoding.pdestroy pa
  | .vdcreate pa => Encoding.vdcreate pa
  | .vddestroy pa => Encoding.vddestroy pa
  | .ctxassign pa => Encoding.ctxassign pa
  | .bankassign pa => Encoding.bankassign pa
  | .tpower pa => Encoding.tpower pa
  | .tpowerDone tile => Encoding.tpowerDone tile
  | .vdstop pa => Encoding.vdstop pa
  | .vdstart pa => Encoding.vdstart pa
  | .migbegin pa => Encoding.migbegin pa
  | .migpass pa => Encoding.migpass pa
  | .migfinal pa => Encoding.migfinal pa
  | .chkpt pa => Encoding.chkpt pa
  | .chkload pa => Encoding.chkload pa
  | .frameset pa => Encoding.frameset pa
  | .contextStart vd pa => Encoding.contextStart vd pa
  | .contextKill vd pa => Encoding.contextKill vd pa
  | .faultResolve vd fid => Encoding.faultResolve vd fid
  | .faultFail vd fid => Encoding.faultFail vd fid
  | .shootdownRequest vd w => Encoding.shootdownRequest vd w
  | .shootdownComplete vd => Encoding.shootdownComplete vd
  | .faultRecordHeldWrite vd => Encoding.faultRecordHeldWrite vd
  | .coldReset img => Encoding.coldReset img
  | .partitionReset part => Encoding.partitionReset part
  | .thermalAlarm die temp => Encoding.thermalAlarm die temp
  | .thermalTrip die temp => Encoding.thermalTrip die temp
  | .linkTrained link => Encoding.linkTrained link
  | .linkAuthDone link peer => Encoding.linkAuthDone link peer
  | .linkTagFail link => Encoding.linkTagFail link
  | .companionRead off len => Encoding.companionRead off len
  | .companionWrite off data => Encoding.companionWrite off data
  | .posset pos => Encoding.posset pos
  | .podpol fwms => Encoding.podpol fwms
  | .lnktrain mask => Encoding.lnktrain mask
  | .evread ctr => Encoding.evread ctr
  | .retclear bank tx ty b => Encoding.retclear bank tx ty b
  | .temprd => Encoding.temprd
  | .kvevict => Encoding.kvevict
  | .kvpromote => Encoding.kvpromote
  | .hallmark => Encoding.hallmark
  | .sessopen => Encoding.sessopen
  | .reqopen => Encoding.reqopen
  | .replyseal => Encoding.replyseal
  | .sessclose => Encoding.sessclose
  | .adptable => Encoding.adptable
  | .usage => Encoding.usage
  | .libload => Encoding.libload
  | .modelload => Encoding.modelload
  | .modelfree => Encoding.modelfree
  | .adaptclaim => Encoding.adaptclaim
  | .adaptfree => Encoding.adaptfree
  | .vdkey => Encoding.vdkey
  | .conflock => Encoding.conflock
  | .conffree => Encoding.conffree
  | .evkey => Encoding.evkey
  | .hinstall => Encoding.hinstall
  | .creditReturn k => Encoding.creditReturn k
  | .clusterCacheEviction cluster sector => Encoding.clusterCacheEviction cluster sector
  | .spdmAttestation req => Encoding.spdmAttestation req
  | .slotTransferRecord vd rec => Encoding.slotTransferRecord vd rec
  | .migrationStateTransfer vd k => Encoding.migrationStateTransfer vd k
  | .linkDown link => Encoding.linkDown link

/-! ## The spec's worked encodings -/

/-- Settles O12: the decoder is evaluated on each word. -/
theorem decodeWords : Obligations.DecodeWords := by
  refine ⟨?_, ?_, ?_, ?_, ?_, ?_, ?_, ?_, ?_, ?_, ?_, ?_, ?_⟩ <;> decide

/-! ## A sequencer word that decodes encodes to itself -/

theorem bits_lt (w lo n : Nat) : bits w lo n < 2 ^ n := Nat.mod_lt _ (Nat.two_pow_pos n)
@[simp] theorem xreg_bits_val (w lo : Nat) : (xreg (bits w lo 5)).val = bits w lo 5 := Nat.mod_eq_of_lt (bits_lt w lo 5)
@[simp] theorem ofNat_bits_toNat (w lo n : Nat) : (BitVec.ofNat n (bits w lo n)).toNat = bits w lo n :=
  Nat.mod_eq_of_lt (bits_lt w lo n)
@[simp] theorem flag_toNat (w lo : Nat) : (bits w lo 1 == 1).toNat = bits w lo 1 := by
  have h := bits_lt w lo 1
  obtain h0 | h1 : bits w lo 1 = 0 ∨ bits w lo 1 = 1 := by omega
  · rw [h0]; rfl
  · rw [h1]; rfl
theorem flag_eq_false (w lo : Nat) : (bits w lo 1 == 1) = false ↔ bits w lo 1 = 0 := by
  have h := bits_lt w lo 1
  rw [beq_eq_false_iff_ne]; omega
theorem code_of_szOf {n : Nat} {z : Sz} (h : szOf n = some z) : z.code = n := by
  unfold szOf at h; split at h <;> cases h <;> rfl
theorem code_of_scopeOf {n : Nat} {z : Scope} (h : scopeOf n = some z) : z.code = n := by
  unfold scopeOf at h; split at h <;> cases h <;> rfl
theorem code_ordOf {n : Nat} (h : n < 4) : (ordOf n).code = n := by
  match n, h with
  | 0, _ | 1, _ | 2, _ | 3, _ => rfl

/-- A word is its opcode, its destination register and the rest; the rest of each format is put together from its fields (R80). -/
theorem seqWord_eq {w : Nat} (hw : w < 2 ^ 64) : w = bits w 56 8 * 2 ^ 56 + bits w 51 5 * 2 ^ 51 + bits w 0 51 := by
  unfold bits; omega
theorem rest_eq_I (w : Nat) : bits w 0 51 = bits w 46 5 * 2 ^ 46 + bits w 0 46 ∧ bits w 0 46 = bits w 32 14 * 2 ^ 32 + bits w 0 32 ∧
    bits w 0 46 = bits w 6 40 * 2 ^ 6 + bits w 0 6 ∧ bits w 0 51 = bits w 32 19 * 2 ^ 32 + bits w 0 32 := by
  unfold bits; omega
theorem rest_eq_A (w : Nat) : bits w 0 46 = bits w 41 5 * 2 ^ 41 + bits w 0 41 ∧
    bits w 0 41 = bits w 40 1 * 2 ^ 40 + bits w 0 40 := by
  unfold bits; omega
theorem rest_eq_M (w : Nat) : bits w 0 41 = bits w 38 3 * 2 ^ 38 + bits w 35 3 * 2 ^ 35 + bits w 33 2 * 2 ^ 33 + bits w 32 1 * 2 ^ 32 +
    bits w 27 5 * 2 ^ 27 + bits w 24 3 * 2 ^ 24 + bits w 0 24 ∧ bits w 0 41 = bits w 24 17 * 2 ^ 24 + bits w 0 24 := by
  unfold bits; omega
theorem rest_eq_F (w : Nat) : bits w 0 41 = bits w 36 5 * 2 ^ 36 + bits w 33 3 * 2 ^ 33 + bits w 32 1 * 2 ^ 32 + bits w 0 32 := by
  unfold bits; omega

theorem encodeSeq_of_seqIntOf {w : Nat} {i : Instr} (hw : w < 2 ^ 64) (h : seqIntOf w = some i) : encodeSeq i = some w := by
  unfold seqIntOf at h
  have e := seqWord_eq hw
  obtain ⟨e1, e2, e3, e4⟩ := rest_eq_I w
  obtain ⟨e5, e6⟩ := rest_eq_A w
  have hsh := bits_lt w 0 6
  dsimp only at h
  split at h
  case h_26 => cases h
  all_goals
    simp only [Option.ite_none_right_eq_some, Option.some.injEq, flag_eq_false] at h
    obtain ⟨hz, rfl⟩ := h
    refine congrArg some ?_
    simp only [wA, wI, xreg_bits_val, ofNat_bits_toNat, flag_toNat, Fin.val_zero, Bool.toNat_false, Fin.ofNat]
    omega

theorem encodeSeq_of_seqMemOf {w : Nat} {i : Instr} (hw : w < 2 ^ 64) (h : seqMemOf w = some i) : encodeSeq i = some w := by
  unfold seqMemOf at h
  have e := seqWord_eq hw
  obtain ⟨e1, -, -, -⟩ := rest_eq_I w
  obtain ⟨e5, -⟩ := rest_eq_A w
  obtain ⟨e7, e8⟩ := rest_eq_M w
  have ho := code_ordOf (bits_lt w 33 2)
  have hfn := bits_lt w 27 5
  have hdisp : (0 : BitVec 24).toNat = 0 := rfl
  dsimp only at h
  split at h
  case h_19 => cases h
  case h_11 | h_12 =>
    split at h
    case h_2 => cases h
    case h_1 hsz =>
      simp only [Option.ite_none_right_eq_some, Option.some.injEq, Bool.and_eq_true, beq_iff_eq] at h
      obtain ⟨hz, rfl⟩ := h
      refine congrArg some ?_
      simp only [wM, code_of_szOf hsz, xreg_bits_val, ofNat_bits_toNat, flag_toNat, Fin.val_zero, Bool.toNat_false]
      omega
  case h_13 | h_14 | h_15 =>
    split at h
    case h_2 => cases h
    case h_1 hsz hsc =>
      simp only [Option.ite_none_right_eq_some, Option.some.injEq, Bool.and_eq_true, beq_iff_eq] at h
      obtain ⟨hz, rfl⟩ := h
      refine congrArg some ?_
      simp only [wM, code_of_szOf hsz, code_of_scopeOf hsc, ho, xreg_bits_val, ofNat_bits_toNat, flag_toNat, Fin.val_zero,
        Bool.toNat_false, Fin.ofNat]
      omega
  case h_16 =>
    split at h
    case h_2 => cases h
    case h_1 hsc =>
      simp only [Option.ite_none_right_eq_some, Option.some.injEq, Bool.and_eq_true, beq_iff_eq] at h
      obtain ⟨hz, rfl⟩ := h
      refine congrArg some ?_
      simp only [wM, code_of_scopeOf hsc, ho, hdisp, Fin.val_zero, Bool.toNat_false]
      omega
  all_goals
    simp only [Option.ite_none_right_eq_some, Option.some.injEq, Bool.and_eq_true, beq_iff_eq] at h
    obtain ⟨hz, rfl⟩ := h
    refine congrArg some ?_
    simp only [wB, wM, hdisp, xreg_bits_val, ofNat_bits_toNat, Fin.val_zero, Bool.toNat_false]
    omega

theorem encodeSeq_of_seqFabOf {w : Nat} {i : Instr} (hw : w < 2 ^ 64) (h : seqFabOf w = some i) : encodeSeq i = some w := by
  unfold seqFabOf at h
  have e := seqWord_eq hw
  obtain ⟨e1, -, -, -⟩ := rest_eq_I w
  obtain ⟨e5, -⟩ := rest_eq_A w
  have e9 := rest_eq_F w
  have hx := bits_lt w 32 1
  dsimp only at h
  split at h
  case h_25 => cases h
  case h_18 =>
    split at h
    case h_2 => cases h
    case h_1 hsc =>
      simp only [Option.ite_none_right_eq_some, Option.some.injEq, Bool.and_eq_true, beq_iff_eq] at h
      obtain ⟨hz, rfl⟩ := h
      refine congrArg some ?_
      simp only [wF, code_of_scopeOf hsc, xreg_bits_val, Fin.val_zero, Bool.toNat_false]
      omega
  case h_15 =>
    simp only [Option.ite_none_right_eq_some, Option.some.injEq, Bool.and_eq_true, beq_iff_eq] at h
    obtain ⟨hz, rfl⟩ := h
    split
    all_goals
      refine congrArg some ?_
      simp only [wF, xreg_bits_val, Fin.val_zero, Bool.toNat_false, Bool.toNat_true]
      omega
  case h_22 =>
    simp only [Option.ite_none_right_eq_some, Option.some.injEq, Bool.and_eq_true, beq_iff_eq, decide_eq_true_eq] at h
    obtain ⟨hz, rfl⟩ := h
    split
    all_goals
      refine congrArg some ?_
      simp only [wF, xreg_bits_val, Fin.val_zero, Bool.toNat_false, BitVec.toNat_ofNat]
      omega
  all_goals
    simp only [Option.ite_none_right_eq_some, Option.some.injEq, Bool.and_eq_true, beq_iff_eq, decide_eq_true_eq] at h
    obtain ⟨hz, rfl⟩ := h
    refine congrArg some ?_
    simp only [wF, xreg_bits_val, Fin.val_zero, Bool.toNat_false, BitVec.toNat_ofNat, Fin.ofNat]
    omega

theorem decodeSeq_lossless {w : Nat} {i : Instr} (hw : w < 2 ^ 64) (h : decodeSeq w = some i) : i.wf = true ∧ encodeSeq i = some w := by
  unfold decodeSeq at h
  obtain ⟨hraw, hwf⟩ := Option.filter_eq_some_iff.mp h
  refine ⟨hwf, ?_⟩
  split at hraw
  · exact encodeSeq_of_seqIntOf hw hraw
  · split at hraw
    · exact encodeSeq_of_seqMemOf hw hraw
    · exact encodeSeq_of_seqFabOf hw hraw

/-! ## A slot word that decodes encodes to itself -/

theorem code_of_selOf {n : Nat} {x : Sel} (h : selOf n = some x) : x.code = n := by
  unfold selOf at h
  repeat' split at h
  all_goals cases h
  all_goals simp only [Sel.code] <;> omega
theorem code_of_dstOf {n : Nat} {d : Option (Fin 32)} (h : dstOf n = some d) : dstCode d = n := by
  unfold dstOf at h
  split at h
  next hn => cases h; exact Nat.mod_eq_of_lt hn
  next => split at h <;> cases h; exact Eq.symm ‹_›
theorem code_presOf {n : Nat} (hn : n < 16) (h : n = 0 ∨ 8 ≤ n) : presCode (presOf n) = n := by
  unfold presOf
  split
  · exact (h.resolve_right (by omega)).symm
  · simp only [presCode, fin8, Fin.ofNat]; omega
theorem code_of_intTyOf {n : Nat} {t : IntTy} (h : intTyOf n = some t) : t.code = n := by
  unfold intTyOf at h; split at h <;> cases h <;> rfl
theorem code_of_natTyOf {n : Nat} {t : NatTy} (h : natTyOf n = some t) : t.code = n := by
  unfold natTyOf at h; split at h <;> cases h <;> rfl
theorem code_of_tyOf {n : Nat} {t : Ty} (h : tyOf n = some t) : t.code = n := by
  unfold tyOf at h; split at h <;> cases h <;> rfl
theorem code_of_rndOf {n : Nat} {r : Rnd} (h : rndOf n = some r) : r.code = n := by
  unfold rndOf at h; split at h <;> cases h <;> rfl
theorem code_of_condOf {n : Nat} {c : Cond} (h : condOf n = some c) : c.code = n := by
  unfold condOf at h; split at h <;> cases h <;> rfl
theorem code_of_redOpOf {n : Nat} {o : RedOp} (h : redOpOf n = some o) : o.code = n := by
  unfold redOpOf at h; split at h <;> cases h <;> rfl
theorem code_of_tagModeOf {n : Nat} {m : TagMode} (h : tagModeOf n = some m) : m.code = n := by
  unfold tagModeOf at h; split at h <;> cases h <;> rfl
theorem code_of_shapeOf {n : Nat} {z : Shape} (h : shapeOf n = some z) : z.code = n := by
  unfold shapeOf at h; split at h <;> cases h <;> rfl
theorem code_of_accTyOf {n : Nat} {t : AccTy} (h : accTyOf n = some t) : t.code = n := by
  unfold accTyOf at h; split at h <;> cases h <;> rfl
theorem code_fltOf {n : Nat} (h : n < 4) : (fltOf n).code = n := by
  match n, h with
  | 0, _ | 1, _ | 2, _ | 3, _ => rfl
theorem code_fcondOf {n : Nat} (h : n < 8) : (fcondOf n).code = n := by
  match n, h with
  | 0, _ | 1, _ | 2, _ | 3, _ | 4, _ | 5, _ | 6, _ | 7, _ => rfl

theorem bits_split (w lo n m : Nat) : bits w lo (n + m) = bits w lo n + 2 ^ n * bits w (lo + n) m := by
  unfold bits
  rw [Nat.pow_add, Nat.mod_mul, Nat.pow_add, Nat.div_div_eq_div_mul]
/-- Opcode, variant and fields of a slot word are all of its bits, but PRES[2:0] where PRES[3] is 0 (R68). -/
theorem word_of_fieldsOf {w : Nat} {f : EFields} (hw : w < 2 ^ 128) (hp : bits w 17 4 = 0 ∨ 8 ≤ bits w 17 4) (h : fieldsOf w = some f) :
    f.word (bits w 120 8) (bits w 116 4) = w := by
  unfold fieldsOf at h
  split at h
  case h_2 => cases h
  case h_1 ha hb hc hd =>
    simp only [Option.ite_none_right_eq_some, Option.some.injEq] at h
    obtain ⟨h16, rfl⟩ := h
    have e : w = bits w 0 128 := (Nat.mod_eq_of_lt hw).symm.trans (by rw [bits, Nat.pow_zero, Nat.div_one])
    have e0 := bits_split w 0 16 112
    have e1 := bits_split w 16 1 111
    have e2 := bits_split w 17 4 107
    have e3 := bits_split w 21 8 99
    have e4 := bits_split w 29 8 91
    have e5 := bits_split w 37 4 87
    have e6 := bits_split w 41 8 79
    have e7 := bits_split w 49 6 73
    have e8 := bits_split w 55 8 65
    have e9 := bits_split w 63 6 59
    have e10 := bits_split w 69 6 53
    have e11 := bits_split w 75 6 47
    have e12 := bits_split w 81 4 43
    have e13 := bits_split w 85 4 39
    have e14 := bits_split w 89 3 36
    have e15 := bits_split w 92 8 28
    have e16 := bits_split w 100 8 20
    have e17 := bits_split w 108 8 12
    have e18 := bits_split w 116 4 8
    have htch : (fin8 (bits w 89 3)).val = bits w 89 3 := Nat.mod_eq_of_lt (bits_lt w 89 3)
    simp only [EFields.word, BitVec.toNat_ofNat, Nat.mod_eq_of_lt (bits_lt w _ _), code_of_selOf ha, code_of_selOf hb, code_of_selOf hc,
      code_of_dstOf hd, code_presOf (bits_lt w 17 4) hp, htch]
    simp only [Nat.reduceAdd] at *
    omega

theorem opVar_of_floatOf {f : EFields} {op v : Nat} {i : Instr} (hv : v < 16) (h : floatOf f op v = some i) :
    i.opVar = some (op, v) ∧ i.fields? = some f := by
  have ht := code_fltOf (Nat.mod_lt op (by decide : 4 > 0))
  have hc := code_fcondOf (Nat.mod_lt v (by decide : 8 > 0))
  have hnp : (decide (8 ≤ v)).toNat = v / 8 := by
    by_cases h8 : 8 ≤ v
    · rw [decide_eq_true h8, Bool.toNat_true]; omega
    · rw [decide_eq_false h8, Bool.toNat_false]; omega
  unfold floatOf at h
  dsimp only at h
  split at h
  case h_14 => cases h
  case h_1 | h_2 | h_3 | h_4 | h_8 | h_9 =>
    obtain ⟨r, hr, rfl⟩ := Option.map_eq_some_iff.mp h
    have hr := code_of_rndOf hr
    refine ⟨congrArg some (Prod.ext ?_ ?_), rfl⟩ <;> dsimp only <;> omega
  case h_7 =>
    cases h
    refine ⟨congrArg some (Prod.ext ?_ ?_), rfl⟩ <;> dsimp only <;> omega
  all_goals
    obtain ⟨hz, hi⟩ := Option.ite_none_right_eq_some.mp h
    cases hi
    refine ⟨congrArg some (Prod.ext ?_ ?_), rfl⟩ <;> dsimp only <;> omega

theorem opVar_of_integerOf {f : EFields} {op v : Nat} {i : Instr} (h : integerOf f op v = some i) :
    i.opVar = some (op, v) ∧ i.fields? = some f := by
  unfold integerOf at h
  split at h
  case h_24 =>
    split at h
    case h_4 => cases h
    case h_1 hop ht =>
      obtain ⟨c, hc, rfl⟩ := Option.map_eq_some_iff.mp h
      have hc := code_of_condOf hc
      obtain rfl := code_of_intTyOf ht
      refine ⟨congrArg some (Prod.ext ?_ rfl), rfl⟩; dsimp only; omega
    case h_2 hop ht | h_3 hop ht =>
      obtain ⟨c, hc, rfl⟩ := Option.map_eq_some_iff.mp h
      have hc := code_of_redOpOf hc
      obtain rfl := code_of_tyOf ht
      refine ⟨congrArg some (Prod.ext ?_ rfl), rfl⟩; dsimp only; omega
  case h_9 | h_10 | h_11 | h_12 | h_21 =>
    obtain ⟨rfl, hi⟩ := Option.ite_none_right_eq_some.mp h
    cases hi; exact ⟨rfl, rfl⟩
  case h_19 | h_20 | h_22 | h_23 =>
    obtain ⟨t, ht, rfl⟩ := Option.map_eq_some_iff.mp h
    obtain rfl := code_of_natTyOf ht
    exact ⟨rfl, rfl⟩
  all_goals
    obtain ⟨t, ht, rfl⟩ := Option.map_eq_some_iff.mp h
    obtain rfl := code_of_intTyOf ht
    exact ⟨rfl, rfl⟩

theorem opVar_of_controlOf {f : EFields} {op v : Nat} {i : Instr} (hv : v < 16) (h : controlOf f op v = some i) :
    i.opVar = some (op, v) ∧ i.fields? = some f := by
  have hflag : (decide (8 ≤ v)).toNat = v / 8 := by
    by_cases h8 : 8 ≤ v
    · rw [decide_eq_true h8, Bool.toNat_true]; omega
    · rw [decide_eq_false h8, Bool.toNat_false]; omega
  unfold controlOf at h
  split at h
  case h_28 => cases h
  case h_4 =>
    obtain ⟨m, hm, rfl⟩ := Option.map_eq_some_iff.mp h
    obtain rfl := code_of_tagModeOf hm
    exact ⟨rfl, rfl⟩
  case h_9 | h_10 =>
    split at h
    case h_2 => cases h
    case h_1 hr =>
      cases h
      have hr := code_of_rndOf hr
      refine ⟨congrArg some (Prod.ext rfl ?_), rfl⟩; dsimp only; omega
  case h_11 =>
    split at h
    case h_2 => cases h
    case h_1 =>
      obtain ⟨rfl, hi⟩ := Option.ite_none_right_eq_some.mp h
      cases hi; exact ⟨rfl, rfl⟩
  case h_12 | h_13 =>
    obtain ⟨z, hz, rfl⟩ := Option.map_eq_some_iff.mp h
    obtain rfl := code_of_shapeOf hz
    exact ⟨rfl, rfl⟩
  case h_14 | h_15 | h_18 =>
    obtain ⟨z, hz, rfl⟩ := Option.map_eq_some_iff.mp h
    obtain rfl := code_of_scopeOf hz
    exact ⟨rfl, rfl⟩
  case h_16 =>
    cases h
    exact ⟨congrArg some (Prod.ext rfl (Nat.mod_eq_of_lt hv)), rfl⟩
  case h_17 =>
    obtain ⟨hz, hi⟩ := Option.ite_none_right_eq_some.mp h
    cases hi
    match v, hz with
    | 0, _ | 1, _ => exact ⟨rfl, rfl⟩
  case h_22 => split at h <;> cases h <;> exact ⟨rfl, rfl⟩
  case h_23 =>
    obtain ⟨t, ht, rfl⟩ := Option.map_eq_some_iff.mp h
    obtain rfl := code_of_accTyOf ht
    exact ⟨rfl, rfl⟩
  case h_24 =>
    obtain ⟨t, ht, rfl⟩ := Option.map_eq_some_iff.mp h
    obtain rfl := code_of_tyOf ht
    exact ⟨rfl, rfl⟩
  all_goals
    obtain ⟨rfl, hi⟩ := Option.ite_none_right_eq_some.mp h
    cases hi; exact ⟨rfl, rfl⟩

theorem decodeElem_lossless {w : Nat} {i : Instr} (hw : w < 2 ^ 128) (hp : bits w 17 4 = 0 ∨ 8 ≤ bits w 17 4)
    (h : decodeElem w = some i) : i.wf = true ∧ encodeElem i = some w := by
  unfold decodeElem at h
  split at h
  case h_2 => cases h
  case h_1 f hf =>
    obtain ⟨hi, hwf⟩ := Option.filter_eq_some_iff.mp h
    have hv := bits_lt w 116 4
    obtain ⟨hop, hfields⟩ : i.opVar = some (bits w 120 8, bits w 116 4) ∧ i.fields? = some f := by
      unfold elemOf at hi
      split at hi
      · exact opVar_of_floatOf hv hi
      · split at hi
        · exact opVar_of_integerOf hi
        · exact opVar_of_controlOf hv hi
    refine ⟨hwf, ?_⟩
    simp only [encodeElem, hop, hfields, word_of_fieldsOf hw hp hf]

/-- Settles O11, for each of the two word formats. -/
theorem decodeLossless : Obligations.DecodeLossless :=
  ⟨fun _ _ => decodeSeq_lossless, fun _ _ => decodeElem_lossless⟩

end Sys2Proof.Proofs
end

section
/-! Every step keeps the memories of the package in their canonical form: one lemma per shared course of a meaning, one per meaning of its
own, then the turn that runs it. -/

namespace Sys2Proof.Proofs

open Sys2Proof Sys2Proof.Machine

/-! ## Answers, and the courses that meanings share -/

/-- Every state that an answer goes on with has its memories in their canonical form. -/
def MemKept (a : Ans) : Prop := ∀ t, a = .next t → t.memWf = true

theorem memKept_next {t : State} (h : t.memWf = true) : MemKept (.next t) := by rintro _ ⟨⟩; exact h

theorem withOperands_memKept {f : EFields} {wide : Bool} {s : State} {k : Nat → Nat → Nat → Plane → List (Lanes × Option Token) → Ans}
    (h : s.memWf = true) (hk : ∀ pl e slot p l, MemKept (k pl e slot p l)) : MemKept (withOperands f wide s k) := by
  unfold withOperands
  dsimp only
  split
  · exact memKept_next h
  · split
    · exact memKept_next (elemTrap_memWf _ _ _ _ _ _ _ h)
    · exact hk _ _ _ _ _
theorem fireAlu_memKept {f : EFields} {wide : Bool} {cls : ScaleCls} {ta tb tc : Bool} {lat : Nat} {iter np : Bool}
    {op : Lanes → Lanes → Lanes → Result} {s : State} (h : s.memWf = true) :
    MemKept (fireAlu f wide cls ta tb tc lat iter np op s) := by
  unfold fireAlu
  dsimp only
  split
  · exact memKept_next h
  · split
    · exact memKept_next (elemTrap_memWf _ _ _ _ _ _ _ h)
    · exact memKept_next (completeFiring_memWf _ _ _ _ _ _ _ _ _ _ h)
theorem fireRequest_memKept {f : EFields} {op : ReqOp} {val : List (Lanes × Option Token) → Lanes} {s : State} (h : s.memWf = true) :
    MemKept (fireRequest f op val s) := by
  refine withOperands_memKept h (fun pl e slot p l => ?_)
  dsimp only
  split
  · exact memKept_next (elemTrap_memWf _ _ _ _ _ _ _ h)
  · exact memKept_next (State.modPlane_memWf _ _ _ (finishFiring_memWf _ _ _ _ _ _ h))
theorem fireAcc_memKept {f : EFields} {second : Bool} {work : Kind → Nat → List (Lanes × Option Token) → Work} {s : State}
    (h : s.memWf = true) : MemKept (fireAcc f second work s) := by
  refine withOperands_memKept h (fun pl e slot p l => ?_)
  dsimp only
  split
  · exact memKept_next (elemTrap_memWf _ _ _ _ _ _ _ h)
  · exact memKept_next (State.modPlane_memWf _ _ _ (finishFiring_memWf _ _ _ _ _ _ h))
theorem fireLoadWeight_memKept {f : EFields} {g : Word → Token → Mx → WIdx → Mx × WIdx} {s : State} (h : s.memWf = true) :
    MemKept (fireLoadWeight f g s) := by
  grind [MemKept, fireLoadWeight, completeFiring_memWf, elemTrap_memWf, State.modPlane_memWf]
theorem runOp_memKept {pl u : Nat} {s : State} {k : Plane → Nat → Option State} (h : s.memWf = true)
    (hk : ∀ p n t, k p n = some t → t.memWf = true) : MemKept (runOp pl u s k) := by
  unfold runOp
  dsimp only
  split
  · exact memKept_next h
  · split
    · split
      next hs => exact memKept_next (State.modPlane_memWf _ _ _ (hk _ _ _ hs))
      next => exact memKept_next h
    · exact memKept_next h
theorem anyLevel_memKept {s : State} {k : Nat → Ctx → State} (hk : ∀ cid c, (k cid c).memWf = true) : MemKept (anyLevel s k) :=
  memKept_next (hk _ _)
theorem atLevel_memKept {lvl : BitVec 2} {i : Instr} {s : State} {k : Nat → Ctx → State} (h : s.memWf = true)
    (hk : ∀ cid c, (k cid c).memWf = true) : MemKept (atLevel lvl i s k) := by
  unfold atLevel
  dsimp only
  split
  · exact memKept_next (trapHere_memWf _ _ _ _ h)
  · exact memKept_next (hk _ _)
theorem writeX_memKept {xd : XReg} {v : Ctx → Word} {s : State} (h : s.memWf = true) : MemKept (writeX xd v s) :=
  anyLevel_memKept (fun _ _ => State.setCtx_memWf _ _ _ h)
theorem branchIf_memKept {xa xb : XReg} {off : BitVec 24} {p : Word → Word → Bool} {s : State} (h : s.memWf = true) :
    MemKept (branchIf xa xb off p s) :=
  anyLevel_memKept (fun _ _ => State.setCtx_memWf _ _ _ h)
theorem jumpTo_memKept {xd xa : XReg} {off : BitVec 24} {link : Bool} {s : State} (h : s.memWf = true) :
    MemKept (jumpTo xd xa off link s) := by
  grind [MemKept, jumpTo, anyLevel, trapHere_memWf, State.setCtx_memWf]
theorem firmwareDoes_memKept {s : State} {a : Ans} (h : s.memWf = true) (ha : MemKept a) : MemKept (firmwareDoes s a) := by
  unfold firmwareDoes
  split
  · exact ha
  · exact memKept_next h
theorem answer_memKept {s : State} {status : Nat} {data : Bytes} (h : s.memWf = true) : MemKept (answer s status data) :=
  memKept_next (State.emit_memWf _ _ h)
theorem memWf_hub {s : State} {x : Hub} (h : s.memWf = true) (hx : x.ckpt = s.hub.ckpt) : ({ s with hub := x } : State).memWf = true := by
  unfold State.memWf at h ⊢
  rw [hx]; exact h
theorem runCmd_memKept {code pa : Nat} {s : State} {k : State → Cmd → State × CmdEnd} (h : s.memWf = true)
    (hk : ∀ c, (k s c).1.memWf = true) : MemKept (runCmd code pa s k) := by
  unfold runCmd
  split
  · exact memKept_next h
  · split
    · exact memKept_next (addLog_memWf _ _ _ _ _ _ h)
    · split
      · exact memKept_next (memWf_hub h rfl)
      · split
        · exact memKept_next (endCmd_memWf _ _ _ _ h)
        next l _ =>
          dsimp only
          split
          · split
            · exact memKept_next (endCmd_memWf _ _ _ _ h)
            · exact memKept_next h
          · split
            · exact memKept_next (endCmd_memWf _ _ _ _ h)
            · have hc := hk (cmdOf l)
              split
              next he => rw [he] at hc; exact memKept_next (endCmd_memWf _ _ _ _ hc)
              next he => rw [he] at hc; exact memKept_next (endCmd_memWf _ _ _ _ hc)
              next he => rw [he] at hc; exact memKept_next (memWf_hub hc rfl)
theorem service_memKept {num : Nat} {s : State} {k : State → Nat → Nat → Vd → Word → State × Nat} (h : s.memWf = true)
    (hk : ∀ u cid vd v a, u.memWf = true → (k u cid vd v a).1.memWf = true) : MemKept (service num s k) := by
  unfold service
  split
  · exact memKept_next h
  next r rest _ =>
    dsimp only
    split
    · exact memKept_next h
    · split
      · exact memKept_next (memWf_hub h rfl)
      next vd _ =>
        split
        · exact memKept_next (performAll_memWf _ _ _ _ (memWf_hub h rfl))
        · exact memKept_next (finishX_memWf _ _ _ _ (memWf_hub h rfl))
        · have hu := hk _ r.cid (s.ctx r.cid).vdn vd r.arg (memWf_hub (x := { s.hub with fwq := rest }) h rfl)
          refine memKept_next ?_
          split
          · exact memWf_hub hu rfl
          · split
            · exact finishX_memWf _ _ _ _ (memWf_hub hu rfl)
            · exact memWf_hub hu rfl
theorem ctxRecord_memKept {op vd pa : Nat} {s : State} {k : State → Nat → Nat → Nat → State × Option Nat} (h : s.memWf = true)
    (hk : ∀ u cid pc arg, u.memWf = true → (k u cid pc arg).1.memWf = true) : MemKept (ctxRecord op vd pa s k) := by
  grind [MemKept, ctxRecord, putStatus_memWf, leaveStart_memWf, enterStart_memWf, readRecord_memWf]
theorem pqPop_memKept {xd xc : XReg} {pick : State → List PqEntry → State × Nat} {s : State}
    (hp : ∀ l, (pick s l).1.memWf = true) : MemKept (pqPop xd xc pick s) := by
  grind [MemKept, pqPop, anyLevel, invalidate_memWf, State.modCtx_memWf, State.setDie_memWf]

theorem ite_memKept {c : Prop} [Decidable c] {a b : Ans} (ha : MemKept a) (hb : MemKept b) : MemKept (if c then a else b) := by
  split
  · exact ha
  · exact hb

theorem seqLoad_memKept (xd xa : XReg) (sz : Sz) (n : Bool) (acq : Option Scope) (disp : BitVec 24) (s : State) (h : s.memWf = true) :
    MemKept (seqLoad xd xa sz n acq disp s) := by
  grind [MemKept, seqLoad, State.memWf, ctxAccess_memWf, ctxUe_memWf, firmUe_memWf, invalidate_memWf, loadDone_memWf, loadSector_memWf,
    reaches_memWf, trapHere_memWf, anyLevel]

theorem memWf_fmem {s : State} {m : Memory} (h : s.memWf = true) (hm : s.fmem.wf = true → m.wf = true) :
    ({ s with fmem := m } : State).memWf = true := by
  obtain ⟨h1, h2, h3, h4⟩ := (memWf_iff s).mp h
  exact (memWf_iff _).mpr ⟨h1, hm h2, h3, h4⟩

theorem memWf_cmem {s : State} {m : Memory} (h : s.memWf = true) (hm : s.cmem.wf = true → m.wf = true) :
    ({ s with cmem := m } : State).memWf = true := by
  obtain ⟨h1, h2, h3, h4⟩ := (memWf_iff s).mp h
  exact (memWf_iff _).mpr ⟨h1, h2, hm h3, h4⟩

theorem memWf_of_fst {α : Type} {x : State × α} {t : State} {a : α} (hx : x.1.memWf = true) (e : x = (t, a)) : t.memWf = true := by
  rw [e] at hx; exact hx

theorem seqStore_memKept (xa xb : XReg) (sz : Sz) (rel : Option Scope) (disp : BitVec 24) (s : State) (h : s.memWf = true) :
    MemKept (seqStore xa xb sz rel disp s) := by
  refine anyLevel_memKept (fun cid c => ?_)
  dsimp only
  split
  · exact trapHere_memWf _ _ _ _ h
  · split
    · split
      · exact h
      · exact finish_memWf _ _ (fireMonitors_memWf _ _ (memWf_fmem h (mwriteN_wf _ _ _)))
    · refine ctxAccess_memWf _ _ _ _ _ h (fun t pa kslot _ ht => ?_)
      split
      · exact finish_memWf _ _ (issueCtx_memWf _ _ _ _ ht)
      · exact ht

theorem resume_memKept (xd xa : XReg) (i : Instr) (s : State) (h : s.memWf = true) :
    MemKept (resume xd xa i s) := by
  unfold resume
  refine atLevel_memKept h (fun cid c => ?_)
  grind [abortEnd_memWf, abortSection_memWf, continueSec_memWf, ctxBytes_memWf, finishX_memWf, foldl_memWf, resumeRestore_memWf,
    runAgain_memWf, trapHere_memWf]

/-! ## Meanings -/

theorem execElemNullt_memKept (f : EFields) (s : State) (h : s.memWf = true) :
    MemKept (execElemNullt f s) := by
  unfold execElemNullt
  refine withOperands_memKept h (fun pl e slot p l => ?_)
  grind [MemKept, completeFiring_memWf]

theorem execElemPtst_memKept (f : EFields) (s : State) (h : s.memWf = true) :
    MemKept (execElemPtst f s) := by
  unfold execElemPtst
  refine withOperands_memKept h (fun pl e slot p l => ?_)
  grind [MemKept, completeFiring_memWf]

theorem execElemPsn_memKept (f : EFields) (s : State) (h : s.memWf = true) :
    MemKept (execElemPsn f s) := by
  unfold execElemPsn
  refine withOperands_memKept h (fun pl e slot p l => ?_)
  grind [MemKept, completeFiring_memWf]

theorem execElemTrapi_memKept (f : EFields) (s : State) (h : s.memWf = true) :
    MemKept (execElemTrapi f s) := by
  grind [MemKept, execElemTrapi, State.memWf, elemTrap_memWf, withOperands]

theorem execElemHalt_memKept (f : EFields) (s : State) (h : s.memWf = true) :
    MemKept (execElemHalt f s) := by
  unfold execElemHalt
  refine withOperands_memKept h (fun pl e slot p l => ?_)
  grind [MemKept, completeFiring_memWf, haltElem_memWf]

theorem execElemSwapw_memKept (f : EFields) (s : State) (h : s.memWf = true) :
    MemKept (execElemSwapw f s) := by
  grind [MemKept, execElemSwapw, State.memWf, State.modPlane_memWf, completeFiring_memWf, elemTrap_memWf, withOperands]

theorem execElemMma_memKept (f : EFields) (zs : Bool) (tor : Bool) (s : State) (h : s.memWf = true) :
    MemKept (execElemMma f zs tor s) := by
  grind [MemKept, execElemMma, State.memWf, State.modPlane_memWf, elemTrap_memWf, finishFiring_memWf, withOperands]

theorem execElemAccd_memKept (f : EFields) (t : Ty) (s : State) (h : s.memWf = true) :
    MemKept (execElemAccd f t s) := by
  grind [MemKept, execElemAccd, State.memWf, State.modPlane_memWf, elemTrap_memWf, finishFiring_memWf, withOperands]

theorem execPipelinedResult_memKept (pl : Nat) (k : Nat) (s : State) (h : s.memWf = true) :
    MemKept (execPipelinedResult pl k s) := by
  grind [MemKept, execPipelinedResult, State.memWf, State.setPlane_memWf, countMac_memWf]

theorem execAccOperation_memKept (pl : Nat) (k : Nat) (s : State) (h : s.memWf = true) :
    MemKept (execAccOperation pl k s) := by
  grind [MemKept, execAccOperation, State.memWf, State.setPlane_memWf, countMac_memWf]

theorem execTokenArrive_memKept (k : Nat) (s : State) (h : s.memWf = true) :
    MemKept (execTokenArrive k s) := by
  grind [MemKept, execTokenArrive, State.memWf, deliver_memWf]

theorem execTileWake_memKept (tile : Nat) (s : State) (h : s.memWf = true) :
    MemKept (execTileWake tile s) := by
  grind [MemKept, execTileWake, State.memWf, State.setPower_memWf, deliverHeld_memWf, wakeTile_memWf]

theorem execKnotTake_memKept (pl : Nat) (unit : Nat) (s : State) (h : s.memWf = true) :
    MemKept (execKnotTake pl unit s) := by
  grind [MemKept, execKnotTake, State.memWf, takeKnot_memWf]

theorem execBackEdgeKnotDiscard_memKept (pl : Nat) (unit : Nat) (ch : Nat) (s : State) (h : s.memWf = true) :
    MemKept (execBackEdgeKnotDiscard pl unit ch s) := by
  grind [MemKept, execBackEdgeKnotDiscard, State.memWf, dequeue_memWf]

theorem execKnotCommit_memKept (pl : Nat) (s : State) (h : s.memWf = true) :
    MemKept (execKnotCommit pl s) := by
  grind [MemKept, execKnotCommit, State.memWf, commitGroup_memWf, tryRetire_memWf]

theorem execImplicitKnot_memKept (pl : Nat) (s : State) (h : s.memWf = true) :
    MemKept (execImplicitKnot pl s) := by
  grind [MemKept, execImplicitKnot, State.memWf, State.modPlane_memWf, foldl_memWf, takeEntry_memWf]

theorem execDrainTake_memKept (pl : Nat) (unit : Nat) (s : State) (h : s.memWf = true) :
    MemKept (execDrainTake pl unit s) := by
  unfold execDrainTake
  split
  · exact memKept_next h
  · extract_lets n noPlain
    split
    · exact memKept_next h
    · split
      · exact memKept_next (takeKnot_memWf _ _ _ _ h)
      · split
        · exact memKept_next (takeKnot_memWf _ _ _ _ (foldl_memWf _ (fun t k ht => dropSurplus_memWf _ _ _ _ ht) _ _ h))
        · split
          · exact memKept_next (takeKnot_memWf _ _ _ _ h)
          · exact memKept_next h

theorem execLateTokenDiscard_memKept (pl : Nat) (unit : Nat) (ch : Nat) (s : State) (h : s.memWf = true) :
    MemKept (execLateTokenDiscard pl unit ch s) := by
  grind [MemKept, execLateTokenDiscard, State.memWf, dequeue_memWf, raise_memWf, setEvent_memWf]

theorem execOpenSourceDrain_memKept (pl : Nat) (unit : Nat) (s : State) (h : s.memWf = true) :
    MemKept (execOpenSourceDrain pl unit s) := by
  grind [MemKept, execOpenSourceDrain, State.memWf, State.setPower_memWf, makeRoom_memWf, takeKnot_memWf]

theorem execRegionRollback_memKept (pl : Nat) (s : State) (h : s.memWf = true) :
    MemKept (execRegionRollback pl s) := by
  grind [MemKept, execRegionRollback, State.memWf, rollbackLinked_memWf, startAssay_memWf]

theorem execWeightRefill_memKept (pl : Nat) (elem : Nat) (s : State) (h : s.memWf = true) :
    MemKept (execWeightRefill pl elem s) := by
  unfold execWeightRefill
  split
  · exact memKept_next h
  next p _ =>
    split
    · exact memKept_next h
    · split
      · split
        · exact memKept_next (State.setPlane_memWf _ _ _ h)
        · split
          · exact memKept_next (refillElem_memWf _ _ _ _ h)
          · exact memKept_next h
      · split
        · exact memKept_next (refillElem_memWf _ _ _ _ h)
        · split
          next fid t he =>
          have ht : t.memWf = true := by
            have hf := takeFid_memWf s p.vd (.wport pl) h
            rwa [he] at hf
          refine ite_memKept ?_ ?_
          · exact memKept_next (raise_memWf _ _ _ (State.modPlane_memWf _ _ _ ht))
          · exact memKept_next h

theorem execAssayComplete_memKept (tile : Nat) (r : AssayResult) (s : State) (h : s.memWf = true) :
    MemKept (execAssayComplete tile r s) := by
  unfold execAssayComplete
  extract_lets pls bankOnly vds trig rc secs t u cleared
  refine ite_memKept (memKept_next h) ?_
  · have ht : t.memWf = true := foldl_memWf _ (fun t x ht => setEvent_memWf _ _ _ (raise_memWf _ _ _ ht)) _ _ h
    have hc : cleared.memWf = true :=
      foldl_memWf _ (fun t x ht => State.modPlane_memWf _ _ _ ht) _ _ (addLog_memWf _ _ _ _ _ _ ht)
    split
    · exact memKept_next hc
    · split
      · exact memKept_next (memWf_hub hc rfl)
      · have ha := foldl_memWf _ (fun t (x : Nat × Nat) ht => abortSection_memWf t x.1 x.2 ht) secs cleared hc
        exact memKept_next (memWf_hub (State.setPower_memWf _ _ _ ha) rfl)

theorem execMarkerArrival_memKept (pl : Nat) (unit : Nat) (ch : Nat) (s : State) (h : s.memWf = true) :
    MemKept (execMarkerArrival pl unit ch s) := by
  grind [MemKept, execMarkerArrival, State.memWf, State.modPlane_memWf, stopUnit_memWf]

theorem execIdleReport_memKept (pl : Nat) (s : State) (h : s.memWf = true) :
    MemKept (execIdleReport pl s) := by
  grind [MemKept, execIdleReport, State.memWf, State.modCtx_memWf, State.setPlane_memWf, State.setPower_memWf, reportStuck_memWf]

theorem dequeueIf_memWf {s : State} (h : s.memWf = true) (b : Bool) (pl k : Nat) : (if b then dequeue s pl k else s).memWf = true := by
  split
  · exact dequeue_memWf _ _ _ h
  · exact h

theorem execAgenStep_memKept (pl : Nat) (s : State) (h : s.memWf = true) : MemKept (execAgenStep pl s) := by
  refine runOp_memKept h (fun p n t ht => ?_)
  extract_lets a mine failed retry start at ht
  split at ht
  · cases ht
  · split at ht
    · cases ht
    next u _ _ _ _ =>
      have hu : u.memWf = true := dequeueIf_memWf h start pl 64
      split at ht
      · cases ht
      · extract_lets a1 p0 p1 u1 k at ht
        have h1 : u1.memWf = true := State.setPlane_memWf _ _ _ hu
        clear_value u1
        split at ht
        · exact agenGive_memWf _ _ _ _ _ h1 ht
        · exact agenGive_memWf _ _ _ _ _ h1 ht
        · repeat' split at ht
          any_goals exact agenGive_memWf _ _ _ _ _ h1 ht
          · obtain ⟨w, hw, rfl⟩ := Option.map_eq_some_iff.mp ht
            exact linkAhead_memWf _ _ _ (agenGive_memWf _ _ _ _ _ h1 hw)
          · exact linkPage_memWf _ _ _ _ _ h1 ht

theorem execMifRequestTake_memKept (pl : Nat) (s : State) (h : s.memWf = true) : MemKept (execMifRequestTake pl s) := by
  unfold execMifRequestTake
  split
  · exact memKept_next h
  next p _ =>
    extract_lets n stream groupFirst res
    refine ite_memKept (memKept_next h) ?_
    · have hstream : ∀ t, stream () = some t → t.memWf = true := by
        intro t ht
        simp only [stream] at ht
        split at ht
        · split at ht
          · cases ht
          · exact takeGroup_memWf _ _ _ _ _ _ _ h ht
        · cases ht
      have hres : ∀ t, res = some t → t.memWf = true := by
        intro t ht
        simp only [res] at ht
        split at ht
        · split at ht
          · exact takeRequest_memWf _ _ _ _ h ht
          · exact hstream _ ht
        · exact hstream _ ht
      clear_value res
      cases res with
      | none => exact memKept_next h
      | some t => exact memKept_next (hres t rfl)

theorem execMifStreamAccess_memKept (pl : Nat) (s : State) (h : s.memWf = true) : MemKept (execMifStreamAccess pl s) := by
  unfold execMifStreamAccess
  split
  · exact memKept_next h
  · extract_lets n
    split
    · exact memKept_next h
    · split
      · exact memKept_next (restream_memWf _ _ _ h)
      · split
        · exact memKept_next h
        · exact memKept_next (mifUsed_memWf _ _ (askSector_memWf _ _ _ _ _ _ _ (State.setPlane_memWf _ _ _ h)))
        · extract_lets f
          split
          · exact memKept_next (mifUsed_memWf _ _ (State.setPlane_memWf _ _ _ h))
          · exact memKept_next h

theorem execMemoryReply_memKept (k : Nat) (s : State) (h : s.memWf = true) :
    MemKept (execMemoryReply k s) := by
  grind [MemKept, execMemoryReply, State.memWf, State.dropPacket_memWf, misroute_memWf, takeSector_memWf]

theorem execWportToken_memKept (pl : Nat) (s : State) (h : s.memWf = true) : MemKept (execWportToken pl s) := by
  refine runOp_memKept h (fun p n t ht => ?_)
  extract_lets w sel failed start at ht
  split at ht
  · cases ht
  · split at ht
    · cases ht
    next u _ _ tok _ =>
      have hu : u.memWf = true := dequeueIf_memWf h _ pl 80
      revert ht
      cases u.plane? pl with
      | none => intro ht; cases ht
      | some q =>
        intro ht
        dsimp -zeta only at ht
        extract_lets w1 p0 p1 u1 otag port va bad final at ht
        have h1 : u1.memWf = true := State.setPlane_memWf _ _ _ hu
        have hbad : ∀ x c, x.memWf = true → (bad x c).memWf = true := fun x c hx => wportGive_memWf _ _ _ _ hx
        have hfinal : ∀ x r c, x.memWf = true → ∀ y, final x r c = some y → y.memWf = true := by
          intro x r c hx y hy
          simp only [final] at hy
          split at hy
          · cases hy; exact hbad _ _ (raise_memWf _ _ _ hx)
          · cases hy
        have hread := wportRead_memWf u1 pl p1 va h1
        clear_value bad final
        split at ht
        · cases ht; exact wportGive_memWf _ _ _ _ h1
        · split at ht
          · split at ht
            · cases ht; exact hbad _ _ h1
            · exact hfinal _ _ _ (State.setPlane_memWf _ _ _ h1) _ ht
          · split at ht
            · cases ht; exact hbad _ _ h1
            · split at ht
              next he => cases ht; exact wportGive_memWf _ _ _ _ (memWf_of_fst hread he)
              next he => cases ht; exact hbad _ _ (memWf_of_fst hread he)
              next he => exact hfinal _ _ _ (memWf_of_fst hread he) _ ht
              next he =>
                have hf := takeFid_memWf _ p1.vd (.wport pl) (memWf_of_fst hread he)
                extract_lets at ht
                split at ht
                · cases ht; exact raise_memWf _ _ _ (State.modPlane_memWf _ _ _ hf)
                · cases ht

theorem execSteerStep_memKept (pl : Nat) (s : State) (h : s.memWf = true) :
    MemKept (execSteerStep pl s) := by
  grind [MemKept, execSteerStep, State.memWf, State.modPlane_memWf, dequeueAll_memWf, runOp]

theorem execMergeStep_memKept (pl : Nat) (s : State) (h : s.memWf = true) :
    MemKept (execMergeStep pl s) := by
  unfold execMergeStep
  refine runOp_memKept h (fun p n t ht => ?_)
  grind [State.modPlane_memWf, dequeueAll_memWf]

theorem execScaleStep_memKept (pl : Nat) (s : State) (h : s.memWf = true) :
    MemKept (execScaleStep pl s) := by
  grind [MemKept, execScaleStep, State.memWf, State.modPlane_memWf, dequeueAll_memWf, runOp]

theorem execBflyStep_memKept (pl : Nat) (s : State) (h : s.memWf = true) :
    MemKept (execBflyStep pl s) := by
  unfold execBflyStep
  refine runOp_memKept h (fun p n t ht => ?_)
  grind [State.modPlane_memWf, State.setPlane_memWf, dequeue_memWf]

theorem execConvStep_memKept (pl : Nat) (s : State) (h : s.memWf = true) : MemKept (execConvStep pl s) := by
  refine runOp_memKept h (fun p n t ht => ?_)
  extract_lets rsr at ht
  split at ht
  · extract_lets at ht
    have hq := dequeueAll_memWf s pl (120 :: (if rsr then [121] else [])) h
    split at ht
    · cases ht
    · obtain ⟨q, -, rfl⟩ := Option.map_eq_some_iff.mp ht
      exact State.setPlane_memWf _ _ _ hq
  · cases ht

theorem execRedStep_memKept (pl : Nat) (s : State) (h : s.memWf = true) :
    MemKept (execRedStep pl s) := by
  grind [MemKept, execRedStep, State.memWf, State.modPlane_memWf, dequeue_memWf, runOp]

theorem execMaskReload_memKept (pl : Nat) (s : State) (h : s.memWf = true) :
    MemKept (execMaskReload pl s) := by
  grind [MemKept, execMaskReload, State.memWf, State.modPlane_memWf, dequeue_memWf, foldl_memWf, runOp]

theorem execMaskQuery_memKept (pl : Nat) (s : State) (h : s.memWf = true) :
    MemKept (execMaskQuery pl s) := by
  grind [MemKept, execMaskQuery, State.memWf, State.modPlane_memWf, dequeue_memWf, runOp]

theorem execRngToken_memKept (pl : Nat) (s : State) (h : s.memWf = true) :
    MemKept (execRngToken pl s) := by
  grind [MemKept, execRngToken, State.memWf, State.modPlane_memWf, dequeue_memWf, runOp]

theorem execCheckPair_memKept (pl : Nat) (pair : Nat) (s : State) (h : s.memWf = true) : MemKept (execCheckPair pl pair s) := by
  unfold execCheckPair
  split
  · exact memKept_next h
  · extract_lets
    split
    · exact memKept_next h
    · split
      · extract_lets rc u w
        have hw : w.memWf = true := State.modPlane_memWf _ _ _ (rollbackLinked_memWf _ pl (raise_memWf _ _ rc h))
        refine ite_memKept (ite_memKept ?_ (memKept_next h)) (ite_memKept (memKept_next ?_) (memKept_next h))
        · exact memKept_next (State.modPlane_memWf _ _ _ (dequeueAll_memWf _ _ _ h))
        · split
          · exact foldl_memWf _ (fun t q ht => startAssay_memWf _ _ _ _ ht) _ _ hw
          · exact hw
      · exact memKept_next h

theorem execHomeLoad_memKept (k : Nat) (s : State) (h : s.memWf = true) :
    MemKept (execHomeLoad k s) := by
  grind [MemKept, execHomeLoad, State.memWf, State.dropPacket_memWf, State.send_memWf, invalidate_memWf, loadSector_memWf]

theorem execHomeWrite_memKept (k : Nat) (s : State) (h : s.memWf = true) :
    MemKept (execHomeWrite k s) := by
  grind [MemKept, execHomeWrite, State.memWf, State.dropPacket_memWf, performStore_memWf]

theorem execHandlerApply_memKept (k : Nat) (s : State) (h : s.memWf = true) :
    MemKept (execHandlerApply k s) := by
  grind [MemKept, execHandlerApply, State.memWf, State.dropPacket_memWf, applyInvoke_memWf, invoke_memWf]

theorem execVamoApply_memKept (k : Nat) (s : State) (h : s.memWf = true) :
    MemKept (execVamoApply k s) := by
  grind [MemKept, execVamoApply, State.memWf, State.dropPacket_memWf, applyVamo_memWf]

theorem execClaspOpen_memKept (k : Nat) (s : State) (h : s.memWf = true) : MemKept (execClaspOpen k s) := by
  have hd := State.dropPacket_memWf s k h
  unfold execClaspOpen
  split
  · split
    · split
      · exact memKept_next hd
      · split
        next x _ _ six seq _ _ _ _ _ =>
          have hc := takeClasp_memWf (s.dropPacket k) (x.die % 4) (strandKey s x.src six) seq hd
          split
          next he => exact memKept_next (memWf_of_fst hc he)
          next he => exact memKept_next (claspAnswer_memWf _ _ _ (memWf_of_fst hc he))
        · split
          · exact memKept_next h
          · exact memKept_next hd
    · exact memKept_next h
  · exact memKept_next h

theorem execClaspPacket_memKept (k : Nat) (s : State) (h : s.memWf = true) : MemKept (execClaspPacket k s) := by
  have hd := State.dropPacket_memWf s k h
  unfold execClaspPacket
  split
  · exact memKept_next h
  · split
    · extract_lets d key
      split
      · exact memKept_next (claspAnswer_memWf _ _ _ hd)
      · extract_lets gap
        split
        · split
          · exact memKept_next h
          · split
            · exact memKept_next h
            next he => exact memKept_next (commitHeld_memWf _ _ _ _ (afterCommit_memWf _ _ _ _ _ (performFx_memWf _ _ _ hd he)))
        · split
          · split
            · exact memKept_next hd
            · split
              · exact memKept_next (claspSet_memWf _ _ _ _ hd)
              · exact memKept_next (claspAnswer_memWf _ _ _ hd)
          · exact memKept_next (claspAnswer_memWf _ _ _ hd)
    · exact memKept_next h

theorem execClaspRelease_memKept (k : Nat) (s : State) (h : s.memWf = true) :
    MemKept (execClaspRelease k s) := by
  grind [MemKept, execClaspRelease, State.memWf, State.dropPacket_memWf, freeClasp_memWf]

theorem execStrandAck_memKept (k : Nat) (s : State) (h : s.memWf = true) :
    MemKept (execStrandAck k s) := by
  grind [MemKept, execStrandAck, State.memWf, State.dropPacket_memWf, fireRemote_memWf, foldl_memWf, setUnack_memWf, tryRetire_memWf]

theorem execStrandRetry_memKept (k : Nat) (s : State) (h : s.memWf = true) :
    MemKept (execStrandRetry k s) := by
  grind [MemKept, execStrandRetry, State.memWf, State.dropPacket_memWf, foldl_memWf, reopen_memWf, toNet_memWf]

theorem execBadPacketDiscard_memKept (link : Fin 16) (flit : BitVec 256) (s : State) (h : s.memWf = true) :
    MemKept (execBadPacketDiscard link flit s) := by
  grind [MemKept, execBadPacketDiscard, State.memWf, State.emit_memWf]

theorem execFrameEntryAdvance_memKept (cluster : Nat) (s : State) (h : s.memWf = true) :
    MemKept (execFrameEntryAdvance cluster s) := by
  grind [MemKept, execFrameEntryAdvance, State.memWf, State.modCluster_memWf]

theorem execWaybillStart_memKept (cluster : Nat) (k : Nat) (s : State) (h : s.memWf = true) :
    MemKept (execWaybillStart cluster k s) := by
  grind [MemKept, execWaybillStart, State.memWf, invalidate_memWf, setWb_memWf, startTask_memWf]

theorem execCopySector_memKept (cluster : Nat) (k : Nat) (s : State) (h : s.memWf = true) :
    MemKept (execCopySector cluster k s) := by
  grind [MemKept, execCopySector, State.memWf, chooseSector_memWf, copySector_memWf, setWb_memWf]

theorem execWaybillRetire_memKept (cluster : Nat) (k : Nat) (s : State) (h : s.memWf = true) :
    MemKept (execWaybillRetire cluster k s) := by
  grind [MemKept, execWaybillRetire, State.memWf, State.modCtx_memWf, setWb_memWf, stampWb_memWf]

theorem execSeqJ_memKept (off : BitVec 24) (s : State) (h : s.memWf = true) :
    MemKept (execSeqJ off s) := by
  grind [MemKept, execSeqJ, State.memWf, State.setCtx_memWf, anyLevel]

theorem execSeqJal_memKept (xd : XReg) (off : BitVec 24) (s : State) (h : s.memWf = true) :
    MemKept (execSeqJal xd off s) := by
  grind [MemKept, execSeqJal, State.memWf, State.setCtx_memWf, anyLevel]

theorem execSeqAmo_memKept (xd xa xb : XReg) (sz : Sz) (sc : Scope) (o : Ord) (hd : Fin 32) (disp : BitVec 24) (s : State) (h : s.memWf = true) :
    MemKept (execSeqAmo xd xa xb sz sc o hd disp s) := by
  grind [MemKept, execSeqAmo, State.memWf, invoke_memWf, trapHere_memWf, anyLevel]

theorem execSeqAtomicResult_memKept (k : Nat) (s : State) (h : s.memWf = true) :
    MemKept (execSeqAtomicResult k s) := by
  grind [MemKept, execSeqAtomicResult, State.memWf, State.dropPacket_memWf, State.setCtx_memWf, amoDone_memWf, ctxUe_memWf,
    invalidate_memWf, trapHere_memWf]

theorem execSeqFence_memKept (sc : Scope) (o : Ord) (s : State) (h : s.memWf = true) :
    MemKept (execSeqFence sc o s) := by
  grind [MemKept, execSeqFence, State.memWf, finish_memWf, invalidate_memWf, anyLevel]

theorem execSeqMon_memKept (xa : XReg) (disp : BitVec 24) (s : State) (h : s.memWf = true) :
    MemKept (execSeqMon xa disp s) := by
  grind [MemKept, execSeqMon, State.memWf, State.modCtx_memWf, ctxAccess_memWf, anyLevel]

theorem execSeqMwait_memKept (xd xb : XReg) (s : State) (h : s.memWf = true) :
    MemKept (execSeqMwait xd xb s) := by
  grind [MemKept, execSeqMwait, State.memWf, State.setCtx_memWf, monitorFired_memWf, mwaitDone_memWf, anyLevel]

theorem execMwaitWake_memKept (cid : Nat) (s : State) (h : s.memWf = true) :
    MemKept (execMwaitWake cid s) := by
  grind [MemKept, execMwaitWake, State.memWf, monitorFired_memWf, mwaitDone_memWf]

theorem execMwaitLimit_memKept (cid : Nat) (s : State) (h : s.memWf = true) :
    MemKept (execMwaitLimit cid s) := by
  grind [MemKept, execMwaitLimit, State.memWf, mwaitDone_memWf]

theorem execSeqPlace_memKept (xd xa xb : XReg) (s : State) (h : s.memWf = true) :
    MemKept (execSeqPlace xd xa xb s) := by
  grind [MemKept, execSeqPlace, State.memWf, State.modCtx_memWf, firmUe_memWf, placePage_memWf, trapHere_memWf, vread_memWf, atLevel]

theorem execSeqArm_memKept (xa xb : XReg) (s : State) (h : s.memWf = true) :
    MemKept (execSeqArm xa xb s) := by
  grind [MemKept, execSeqArm, State.memWf, armSection_memWf, finish_memWf, trapHere_memWf, anyLevel]

theorem execSeqWbill_memKept (xd xa : XReg) (s : State) (h : s.memWf = true) :
    MemKept (execSeqWbill xd xa s) := by
  grind [MemKept, execSeqWbill, State.memWf, submit_memWf, trapHere_memWf, anyLevel]

theorem execWbillRoom_memKept (cid : Nat) (s : State) (h : s.memWf = true) :
    MemKept (execWbillRoom cid s) := by
  grind [MemKept, execWbillRoom, State.memWf, submit_memWf]

theorem execSeqWaitw_memKept (xd xa : XReg) (s : State) (h : s.memWf = true) :
    MemKept (execSeqWaitw xd xa s) := by
  grind [MemKept, execSeqWaitw, State.memWf, State.setCtx_memWf, waitwEnd_memWf, anyLevel]

theorem execWaitwComplete_memKept (cid : Nat) (s : State) (h : s.memWf = true) :
    MemKept (execWaitwComplete cid s) := by
  grind [MemKept, execWaitwComplete, State.memWf, waitwEnd_memWf]

theorem execSeqDrain_memKept (xa : XReg) (s : State) (h : s.memWf = true) :
    MemKept (execSeqDrain xa s) := by
  grind [MemKept, execSeqDrain, State.memWf, State.modPlane_memWf, State.modSec_memWf, finish_memWf, foldl_memWf, freePlane_memWf,
    trapHere_memWf, wakeTile_memWf, anyLevel]

theorem execSeqRecfg_memKept (xd xa xb : XReg) (s : State) (h : s.memWf = true) :
    MemKept (execSeqRecfg xd xa xb s) := by
  unfold execSeqRecfg
  refine atLevel_memKept h (fun cid c => ?_)
  grind [State.modCtx_memWf, State.setPlane_memWf, finishX_memWf]

theorem execRecfgDepthChange_memKept (cid : Nat) (s : State) (h : s.memWf = true) :
    MemKept (execRecfgDepthChange cid s) := by
  grind [MemKept, execRecfgDepthChange, State.memWf, finishX_memWf, foldl_memWf, takeDepth_memWf]

theorem execSeqBankcfg_memKept (xd : XReg) (bank : Fin 16) (mode : BitVec 2) (s : State) (h : s.memWf = true) :
    MemKept (execSeqBankcfg xd bank mode s) := by
  grind [MemKept, execSeqBankcfg, State.memWf, finishX_memWf, setBankMode_memWf, trapHere_memWf, atLevel]

theorem execSeqPlane_memKept (xa : XReg) (e : Fin 16) (s : State) (h : s.memWf = true) :
    MemKept (execSeqPlane xa e s) := by
  grind [MemKept, execSeqPlane, State.memWf, State.modCluster_memWf, finish_memWf, trapHere_memWf, atLevel]

theorem execSeqCut_memKept (xd xa : XReg) (s : State) (h : s.memWf = true) :
    MemKept (execSeqCut xd xa s) := by
  unfold execSeqCut
  refine atLevel_memKept h (fun cid c => ?_)
  grind [checkArea_memWf, ctxAccessS_memWf, ctxBytes_memWf, ctxFaultS_memWf, cutBegin_memWf, finishX_memWf, trapHere_memWf]

theorem execSeqSopen_memKept (xd xa : XReg) (k : Fin 4) (s : State) (h : s.memWf = true) :
    MemKept (execSeqSopen xd xa k s) := by
  grind [MemKept, execSeqSopen, State.memWf, State.draw_memWf, State.emitPacket_memWf, State.linkUp_memWf, State.modCtx_memWf,
    ctxAccessS_memWf, finishX_memWf, takeClasp_memWf, anyLevel]

theorem execSeqSclose_memKept (xa xb : XReg) (k : Fin 4) (s : State) (h : s.memWf = true) : MemKept (execSeqSclose xa xb k s) := by
  refine anyLevel_memKept (fun cid c => ?_)
  dsimp only
  split
  · exact trapHere_memWf _ _ _ _ h
  · split
    · split
      · exact h
      · exact finish_memWf _ _ (fireMonitors_memWf _ _ (memWf_fmem h (mwriteN_wf _ _ _)))
    · refine ctxAccess_memWf _ _ _ _ _ h (fun t pa kslot _ ht => ?_)
      split
      · exact finish_memWf _ _ (issueCtx_memWf _ _ _ _ ht)
      · exact ht

theorem execSeqSbar_memKept (k : Fin 4) (s : State) (h : s.memWf = true) :
    MemKept (execSeqSbar k s) := by
  grind [MemKept, execSeqSbar, State.memWf, State.modCtx_memWf, finish_memWf, anyLevel]

theorem execSbarComplete_memKept (cid : Nat) (s : State) (h : s.memWf = true) :
    MemKept (execSbarComplete cid s) := by
  grind [MemKept, execSbarComplete, State.memWf, finish_memWf]

theorem execSeqPqpush_memKept (xa xb : XReg) (s : State) (h : s.memWf = true) :
    MemKept (execSeqPqpush xa xb s) := by
  grind [MemKept, execSeqPqpush, State.memWf, State.setDie_memWf, finish_memWf, trapHere_memWf, anyLevel]

theorem execSeqPqpop_memKept (xd xc : XReg) (s : State) (h : s.memWf = true) :
    MemKept (execSeqPqpop xd xc s) := by
  unfold execSeqPqpop
  refine pqPop_memKept (fun l => ?_)
  grind [State.draw_memWf]

theorem execSeqPqpopW1_memKept (xd xc : XReg) (s : State) (h : s.memWf = true) :
    MemKept (execSeqPqpopW1 xd xc s) := by
  unfold execSeqPqpopW1
  refine pqPop_memKept (fun l => ?_)
  grind

theorem execSeqExpect_memKept (xa xb : XReg) (s : State) (h : s.memWf = true) :
    MemKept (execSeqExpect xa xb s) := by
  grind [MemKept, execSeqExpect, State.memWf, invoke_memWf, anyLevel]

theorem execSeqAmsend_memKept (xd xa xb : XReg) (hd fl : BitVec 8) (s : State) (h : s.memWf = true) :
    MemKept (execSeqAmsend xd xa xb hd fl s) := by
  grind [MemKept, execSeqAmsend, State.memWf, invoke_memWf, trapHere_memWf, anyLevel]

theorem execSeqBar_memKept (xa : XReg) (sc : Scope) (s : State) (h : s.memWf = true) : MemKept (execSeqBar xa sc s) := by
  refine anyLevel_memKept (fun cid c => ?_)
  dsimp only
  split
  · exact trapHere_memWf _ _ _ _ h
  · split
    · exact State.setCtx_memWf _ _ _ h
    · split
      · split
        · exact h
        · split
          · exact firmUe_memWf _ _ _ h
          · split
            · exact trapHere_memWf _ _ _ _ h
            · exact State.modCtx_memWf _ _ _ (fireMonitors_memWf _ _ (memWf_fmem h (mwriteN_wf _ _ _)))
      · refine ctxAccess_memWf _ _ _ _ _ h (fun t pa kslot _ ht => ?_)
        split
        · exact ht
        · exact State.modCtx_memWf _ _ _ (issueCtx_memWf _ _ _ _ ht)

theorem execBarComplete_memKept (cid : Nat) (s : State) (h : s.memWf = true) : MemKept (execBarComplete cid s) := by
  unfold execBarComplete
  extract_lets c a done
  split
  · have hdone : ∀ t, t.memWf = true → (done t).memWf = true := fun t ht => State.modCtx_memWf _ _ _ (invalidate_memWf _ _ ht)
    clear_value done
    split
    · exact memKept_next h
    · split
      · refine memKept_next ?_
        split
        · exact firmUe_memWf _ _ _ h
        · split
          · exact h
          · exact hdone _ h
      · refine memKept_next (ctxAccess_memWf _ _ _ _ _ h (fun t pa kslot _ ht => ?_))
        have h1 := reaches_memWf t (.ctx cid) (pa / 32 * 32) cpUncached ht
        split
        next he => exact memWf_of_fst h1 he
        next u he =>
          have h2 := homeSector_memWf u (.ctx cid) c.vdn (pa / 32 * 32) kslot none (memWf_of_fst h1 he)
          split
          next he => exact ctxUe_memWf _ _ _ _ (memWf_of_fst h2 he)
          next he =>
            split
            · exact memWf_of_fst h2 he
            · exact hdone _ (memWf_of_fst h2 he)
  · exact memKept_next h

theorem execSeqTrap_memKept (code : BitVec 16) (s : State) (h : s.memWf = true) :
    MemKept (execSeqTrap code s) := by
  grind [MemKept, execSeqTrap, State.memWf, takeTrap_memWf, anyLevel]

theorem execEventEntry_memKept (cid : Nat) (s : State) (h : s.memWf = true) :
    MemKept (execEventEntry cid s) := by
  grind [MemKept, execEventEntry, State.memWf, enterEvent_memWf]

theorem execSeqEret_memKept (s : State) (h : s.memWf = true) :
    MemKept (execSeqEret s) := by
  unfold execSeqEret
  refine atLevel_memKept h (fun cid c => ?_)
  grind [State.setCtx_memWf]

theorem execSeqCsrrd_memKept (xd : XReg) (csr : BitVec 12) (s : State) (h : s.memWf = true) :
    MemKept (execSeqCsrrd xd csr s) := by
  grind [MemKept, execSeqCsrrd, State.memWf, State.setCtx_memWf, trapHere_memWf, anyLevel]

theorem execSeqCsrwr_memKept (xa : XReg) (csr : BitVec 12) (s : State) (h : s.memWf = true) :
    MemKept (execSeqCsrwr xa csr s) := by
  grind [MemKept, execSeqCsrwr, State.memWf, State.setCtx_memWf, trapHere_memWf, anyLevel]

theorem execThreadSwitch_memKept (xa : XReg) (s : State) (h : s.memWf = true) :
    MemKept (execThreadSwitch xa s) := by
  grind [MemKept, execThreadSwitch, State.memWf, State.modCtx_memWf, ctxFault_memWf, ctxUe_memWf, firmUe_memWf, firmWrite_memWf,
    performAll_memWf, trapHere_memWf, vplan_memWf, vreadAll_memWf, atLevel]

theorem execSeqFwcall_memKept (xd xa : XReg) (svc : BitVec 16) (s : State) (h : s.memWf = true) :
    MemKept (execSeqFwcall xd xa svc s) := by
  refine atLevel_memKept h (fun cid c => ?_)
  split
  · exact memWf_hub (State.setCtx_memWf _ _ _ h) rfl
  · exact State.setCtx_memWf _ _ _ h

theorem execSeqHalt_memKept (s : State) (h : s.memWf = true) :
    MemKept (execSeqHalt s) := by
  unfold execSeqHalt
  refine atLevel_memKept h (fun cid c => ?_)
  grind [State.setCtx_memWf]

theorem execPcreate_memKept (pa : Nat) (s : State) (h : s.memWf = true) : MemKept (execPcreate pa s) := by
  refine runCmd_memKept h (fun c => ?_)
  dsimp only
  split
  · exact h
  · split
    · exact h
    · exact memWf_hub h rfl

theorem execPreset_memKept (pa : Nat) (s : State) (h : s.memWf = true) :
    MemKept (execPreset pa s) := by
  unfold execPreset
  refine runCmd_memKept h (fun c => ?_)
  grind [partitionReset_memWf]

theorem execPdestroy_memKept (pa : Nat) (s : State) (h : s.memWf = true) : MemKept (execPdestroy pa s) := by
  refine runCmd_memKept h (fun c => ?_)
  dsimp only
  split
  · exact h
  · split
    · exact h
    · split
      · exact h
      · refine memWf_hub (s := List.foldl _ s (List.range 16)) (foldl_memWf _ (fun t g ht => ?_) _ s h) rfl
        split
        · exact clearGranule_memWf _ _ ht
        · exact ht

theorem execVdcreate_memKept (pa : Nat) (s : State) (h : s.memWf = true) :
    MemKept (execVdcreate pa s) := by
  unfold execVdcreate
  refine runCmd_memKept h (fun c => ?_)
  grind [State.setVd_memWf, devWrite_memWf]

theorem execVddestroy_memKept (pa : Nat) (s : State) (h : s.memWf = true) : MemKept (execVddestroy pa s) := by
  refine runCmd_memKept h (fun c => ?_)
  dsimp only
  split
  · exact h
  · split
    · exact h
    · have hkill : ∀ t cid, t.memWf = true → (if mayStop (t.ctx cid) then killCtx t cid else t).memWf = true := by
        intro t cid ht
        split
        · exact killCtx_memWf _ _ ht
        · exact ht
      have h1 := abortStrays_memWf _ (16 * bits c.a1 0 4 + bits c.a1 4 4)
        (foldl_memWf _ hkill (ctxsOf s (16 * bits c.a1 0 4 + bits c.a1 4 4)) s h)
      split
      · exact h1
      · refine memWf_hub (s := List.foldl _ _ _) (foldl_memWf _ (fun t x ht => ?_) _ _
          (setLocks_memWf _ _ _ (zeroUnits_memWf _ _ h1))) rfl
        exact State.modCluster_memWf _ _ _ (setBankMode_memWf _ _ _ _ ht)

theorem execCtxassign_memKept (pa : Nat) (s : State) (h : s.memWf = true) :
    MemKept (execCtxassign pa s) := by
  unfold execCtxassign
  refine runCmd_memKept h (fun c => ?_)
  grind [State.modCtx_memWf, foldl_memWf]

theorem execBankassign_memKept (pa : Nat) (s : State) (h : s.memWf = true) :
    MemKept (execBankassign pa s) := by
  unfold execBankassign
  refine runCmd_memKept h (fun c => ?_)
  grind [State.draw_memWf, State.modCluster_memWf, foldl_memWf, setBankMode_memWf]

theorem execTpower_memKept (pa : Nat) (s : State) (h : s.memWf = true) :
    MemKept (execTpower pa s) := by
  unfold execTpower
  refine runCmd_memKept h (fun c => ?_)
  grind [State.setPower_memWf, wakeTile_memWf]

theorem execTpowerDone_memKept (tile : Nat) (s : State) (h : s.memWf = true) :
    MemKept (execTpowerDone tile s) := by
  grind [MemKept, execTpowerDone, State.memWf, State.setPower_memWf, coolDown_memWf, endCmd_memWf]

theorem execVdstop_memKept (pa : Nat) (s : State) (h : s.memWf = true) :
    MemKept (execVdstop pa s) := by
  unfold execVdstop
  refine runCmd_memKept h (fun c => ?_)
  grind [stopVd_memWf]

theorem execVdstart_memKept (pa : Nat) (s : State) (h : s.memWf = true) :
    MemKept (execVdstart pa s) := by
  unfold execVdstart
  refine runCmd_memKept h (fun c => ?_)
  grind [State.modVd_memWf, fwGo_memWf, readArea_memWf, restoreAll_memWf, vreader_memWf]

theorem execMigbegin_memKept (pa : Nat) (s : State) (h : s.memWf = true) :
    MemKept (execMigbegin pa s) := by
  unfold execMigbegin
  refine runCmd_memKept h (fun c => ?_)
  grind [State.draw_memWf, State.modVd_memWf, carryPage_memWf, foldl_memWf, sendSlots_memWf, startLogging_memWf]

theorem execMigpass_memKept (pa : Nat) (s : State) (h : s.memWf = true) :
    MemKept (execMigpass pa s) := by
  unfold execMigpass
  refine runCmd_memKept h (fun c => ?_)
  grind [passBegin_memWf, passEnd_memWf]

theorem execMigfinal_memKept (pa : Nat) (s : State) (h : s.memWf = true) :
    MemKept (execMigfinal pa s) := by
  unfold execMigfinal
  refine runCmd_memKept h (fun c => ?_)
  grind [finalStep_memWf, stopVd_memWf]

theorem memWf_ckpt {s : State} {l : List Checkpoint} (h : s.memWf = true) (hl : l.all (fun c => c.mem.wf) = true) :
    ({ s with hub := { s.hub with ckpt := l } } : State).memWf = true := by
  obtain ⟨h1, h2, h3, -⟩ := (memWf_iff s).mp h
  exact (memWf_iff _).mpr ⟨h1, h2, h3, hl⟩

theorem execChkpt_memKept (pa : Nat) (s : State) (h : s.memWf = true) : MemKept (execChkpt pa s) := by
  refine runCmd_memKept h (fun c => ?_)
  dsimp only
  split
  · exact h
  · split
    · exact h
    · split
      · exact h
      · have hs := ckptReserve_memWf s.draw.2 s.draw.1 s.draw.2.hub.ckpt.length (State.draw_memWf s h)
        obtain ⟨hm, -, -, hc⟩ := (memWf_iff _).mp hs
        obtain ⟨h1, h2, h3, -⟩ := (memWf_iff _).mp (ckptCopy_memWf _ (ckptKind c) c.a2 hs)
        refine (memWf_iff _).mpr ⟨h1, h2, h3, ?_⟩
        rw [List.all_append, hc]
        simp only [List.all_cons, List.all_nil, Bool.true_and, Bool.and_true]
        exact hm

theorem findImage_wf (s : State) (a : Nat) (l : List Checkpoint) (hl : ∀ c ∈ l, c.mem.wf = true) (i : Nat) {x : Checkpoint × Memory}
    (h : findImage s a l i = some x) : x.2.wf = true := by
  induction l generalizing i with
  | nil => cases h
  | cons y r ih =>
    rw [findImage] at h
    split at h
    · cases h; exact ckptBack_wf _ _ _ _ (hl y List.mem_cons_self)
    · exact ih (fun c hc => hl c (List.mem_cons_of_mem _ hc)) _ h

theorem ckpt_wf {s : State} (h : s.memWf = true) : ∀ c ∈ s.hub.ckpt, c.mem.wf = true :=
  List.all_eq_true.mp ((memWf_iff s).mp h).2.2.2

theorem peerImage_wf {s t : State} {x : Checkpoint × Memory} (h : s.memWf = true) (hx : peerImage s = (t, some x)) : x.2.wf = true := by
  unfold peerImage at hx
  simp only [Prod.mk.injEq] at hx
  obtain ⟨-, hx⟩ := hx
  split at hx
  · cases hx
  · obtain ⟨y, hy, rfl⟩ := Option.map_eq_some_iff.mp hx
    have hw := ckpt_wf h y (List.mem_of_getElem? hy)
    dsimp only
    split
    · exact hw
    · exact mfree_wf _ _ _ hw

theorem execChkload_memKept (pa : Nat) (s : State) (h : s.memWf = true) : MemKept (execChkload pa s) := by
  refine runCmd_memKept h (fun c => ?_)
  dsimp only
  split
  · exact h
  · split
    · exact h
    · split
      next => exact h
      next t x mem he =>
        have ht : t.memWf = true ∧ mem.wf = true := by
          split at he
          · obtain ⟨rfl, hf⟩ := Prod.mk.inj he
            exact ⟨h, findImage_wf _ _ _ (ckpt_wf h) _ hf⟩
          · exact ⟨memWf_of_fst (peerImage_memWf s h) he, peerImage_wf h he⟩
        obtain ⟨-, h2, h3, h4⟩ := (memWf_iff _).mp (takeBackAll_memWf t isHbm ht.1)
        exact (memWf_iff _).mpr ⟨ht.2, h2, h3, h4⟩

theorem execFrameset_memKept (pa : Nat) (s : State) (h : s.memWf = true) :
    MemKept (execFrameset pa s) := by
  unfold execFrameset
  refine runCmd_memKept h (fun c => ?_)
  grind [State.modCluster_memWf]

theorem execContextStart_memKept (vd : Nat) (pa : Nat) (s : State) (h : s.memWf = true) :
    MemKept (execContextStart vd pa s) := by
  unfold execContextStart
  refine ctxRecord_memKept h (fun u cid pc arg hu => ?_)
  grind [releaseCtxStrands_memWf, startCtx_memWf]

theorem execContextKill_memKept (vd : Nat) (pa : Nat) (s : State) (h : s.memWf = true) :
    MemKept (execContextKill vd pa s) := by
  unfold execContextKill
  refine ctxRecord_memKept h (fun u cid pc arg hu => ?_)
  grind [killCtx_memWf]

theorem execFaultResolve_memKept (vd : Nat) (fid : Nat) (s : State) (h : s.memWf = true) :
    MemKept (execFaultResolve vd fid s) := by
  grind [MemKept, execFaultResolve, State.memWf, State.modCtx_memWf, State.modPlane_memWf, answerWb_memWf, dropFid_memWf]

theorem execFaultFail_memKept (vd : Nat) (fid : Nat) (s : State) (h : s.memWf = true) : MemKept (execFaultFail vd fid s) := by
  have hd := dropFid_memWf s vd fid h
  unfold execFaultFail
  split
  · exact memKept_next h
  · extract_lets t mark
    refine memKept_next ?_
    split
    · exact State.modPlane_memWf _ _ _ hd
    · exact State.modPlane_memWf _ _ _ hd
    · split
      · split
        · exact hd
        · split
          · exact finishX_memWf _ _ _ _ hd
          · exact takeTrap_memWf _ _ _ _ _ _ hd
      · exact hd
    · exact answerWb_memWf _ _ _ _ _ hd

theorem execShootdownRequest_memKept (vd : Nat) (w : BitVec 64) (s : State) (h : s.memWf = true) :
    MemKept (execShootdownRequest vd w s) := by
  grind [MemKept, execShootdownRequest, State.memWf, State.modVd_memWf, beginShoot_memWf]

theorem execShootdownComplete_memKept (vd : Nat) (s : State) (h : s.memWf = true) :
    MemKept (execShootdownComplete vd s) := by
  grind [MemKept, execShootdownComplete, State.memWf, State.setVd_memWf]

theorem execFaultRecordHeldWrite_memKept (vd : Nat) (s : State) (h : s.memWf = true) :
    MemKept (execFaultRecordHeldWrite vd s) := by
  grind [MemKept, execFaultRecordHeldWrite, State.memWf, fqWrite_memWf]

theorem execColdReset_memKept (img : BootImage) (s : State) (h : s.memWf = true) : MemKept (execColdReset img s) := by
  obtain ⟨-, -, -, hk⟩ := (memWf_iff s).mp h
  have hd := State.draw_memWf s h
  unfold execColdReset
  extract_lets x
  split
  next n t he =>
  rw [he] at hd
  obtain ⟨-, hf, hc, -⟩ := (memWf_iff t).mp hd
  extract_lets ok u
  have hu : u.memWf = true := (memWf_iff _).mpr ⟨rfl, hf, hc, hk⟩
  refine memKept_next ?_
  split
  · exact openHub_memWf _ (foldl_memWf _ (fun t i ht => trainLink_memWf _ _ ht) _ _ (retest_memWf _ _ hu))
  · exact hu

theorem execPartitionReset_memKept (part : Nat) (s : State) (h : s.memWf = true) :
    MemKept (execPartitionReset part s) := by
  grind [MemKept, execPartitionReset, State.memWf, partitionReset_memWf]

theorem execThermalAlarm_memKept (_die : Fin 5) (temp : BitVec 8) (s : State) (h : s.memWf = true) :
    MemKept (execThermalAlarm _die temp s) := by
  grind [MemKept, execThermalAlarm, State.memWf, addLog_memWf, firmwareDoes]

theorem execThermalTrip_memKept (die : Fin 5) (temp : BitVec 8) (s : State) (h : s.memWf = true) :
    MemKept (execThermalTrip die temp s) := by
  grind [MemKept, execThermalTrip, State.memWf, endCmd_memWf, foldl_memWf, partitionReset_memWf]

theorem execLinkTrained_memKept (link : Fin 16) (s : State) (h : s.memWf = true) :
    MemKept (execLinkTrained link s) := by
  grind [MemKept, execLinkTrained, State.memWf, setLink_memWf, firmwareDoes]

theorem execLinkAuthDone_memKept (link : Fin 16) (peer : LinkPeer) (s : State) (h : s.memWf = true) :
    MemKept (execLinkAuthDone link peer s) := by
  grind [MemKept, execLinkAuthDone, State.memWf, openHub_memWf, setLink_memWf, firmwareDoes]

theorem execLinkTagFail_memKept (link : Fin 16) (s : State) (h : s.memWf = true) :
    MemKept (execLinkTagFail link s) := by
  grind [MemKept, execLinkTagFail, State.memWf, State.draw_memWf, setLink_memWf]

theorem execCompanionRead_memKept (off len : Nat) (s : State) (h : s.memWf = true) :
    MemKept (execCompanionRead off len s) := by
  grind [MemKept, execCompanionRead, State.memWf, State.draw_memWf, State.emit_memWf, correct_memWf, logLocked_memWf, thenRest_memWf,
    touchLine_memWf]

theorem execCompanionWrite_memKept (off : Nat) (data : List (BitVec 8)) (s : State) (h : s.memWf = true) :
    MemKept (execCompanionWrite off data s) := by
  grind [MemKept, execCompanionWrite, State.memWf, companionPut_memWf, logLocked_memWf, thenRest_memWf]

theorem execPosset_memKept (pos : BitVec 8) (s : State) (h : s.memWf = true) : MemKept (execPosset pos s) :=
  firmwareDoes_memKept h (answer_memKept (memWf_hub h rfl))

theorem execPodpol_memKept (fwms : List (BitVec 256)) (s : State) (h : s.memWf = true) : MemKept (execPodpol fwms s) := by
  refine firmwareDoes_memKept h ?_
  split
  · exact answer_memKept h
  · exact answer_memKept (memWf_hub h rfl)

theorem execLnktrain_memKept (mask : BitVec 16) (s : State) (h : s.memWf = true) :
    MemKept (execLnktrain mask s) := by
  unfold execLnktrain
  refine firmwareDoes_memKept h ?_
  grind [MemKept, foldl_memWf, trainLink_memWf, answer_memKept]

theorem execEvread_memKept (ctr : BitVec 32) (s : State) (h : s.memWf = true) :
    MemKept (execEvread ctr s) := by
  unfold execEvread
  refine firmwareDoes_memKept h ?_
  grind [MemKept, answer_memKept]

theorem execRetclear_memKept (bank : Bool) (tx ty b : BitVec 16) (s : State) (h : s.memWf = true) :
    MemKept (execRetclear bank tx ty b s) := by
  refine firmwareDoes_memKept h ?_
  split
  · exact answer_memKept h
  · extract_lets i known k
    split
    · exact answer_memKept (memWf_hub h rfl)
    · exact answer_memKept h

theorem execTemprd_memKept (s : State) (h : s.memWf = true) : MemKept (execTemprd s) :=
  firmwareDoes_memKept h (answer_memKept (State.draw_memWf s h))

theorem execKvevict_memKept (s : State) (h : s.memWf = true) : MemKept (execKvevict s) := by
  refine service_memKept h (fun u cid vd v a hu => withKv_memWf _ _ _ _ _ _ hu (fun t dev comp slot ht => ?_))
  dsimp only
  split
  · exact ht
  · split
    · exact ht
    · exact withBytes_memWf _ _ _ _ _ _ ht (fun t l ht =>
        memWf_cmem (State.modVd_memWf _ _ _ (State.setSlot_memWf _ _ _ ht)) (mwriteBytes_wf _ _))

theorem execKvpromote_memKept (s : State) (h : s.memWf = true) : MemKept (execKvpromote s) := by
  refine service_memKept h (fun u cid vd v a hu => withKv_memWf _ _ _ _ _ _ hu (fun t dev comp slot ht => ?_))
  dsimp only
  split
  · exact ht
  · split
    · exact ht
    · split
      · exact ht
      · split
        · exact addLog_memWf _ _ _ _ _ _ ht
        · exact withOut_memWf _ _ _ _ _ _ ht (fun t put ht hput => State.modVd_memWf _ _ _ (hput _ ht))

theorem execHallmark_memKept (s : State) (h : s.memWf = true) :
    MemKept (execHallmark s) := by
  unfold execHallmark
  refine service_memKept h (fun u cid vd v a hu => ?_)
  grind [hallmark_memWf]

theorem execSessopen_memKept (s : State) (h : s.memWf = true) : MemKept (execSessopen s) := by
  refine service_memKept h (fun u cid vd v a hu => withBlock_memWf _ _ _ _ _ _ hu (fun t l ht => ?_))
  dsimp only
  split
  · exact ht
  · refine withRecord_memWf _ _ _ _ _ _ ht (fun t pol key ht => ?_)
    repeat' split
    any_goals exact ht
    all_goals exact withOut_memWf _ _ _ _ _ _ ht (fun t put ht hput => hput _ (State.setSlot_memWf _ _ _ (memWf_hub ht rfl)))

theorem execReqopen_memKept (s : State) (h : s.memWf = true) :
    MemKept (execReqopen s) := by
  unfold execReqopen
  refine service_memKept h (fun u cid vd v a hu => ?_)
  grind [State.setSlot_memWf, addUsage_memWf, withBlock_memWf, withBytes_memWf, withOut_memWf]

theorem execReplyseal_memKept (s : State) (h : s.memWf = true) :
    MemKept (execReplyseal s) := by
  unfold execReplyseal
  refine service_memKept h (fun u cid vd v a hu => ?_)
  grind [State.setSlot_memWf, addUsage_memWf, withBlock_memWf, withBytes_memWf, withOut_memWf]

theorem execSessclose_memKept (s : State) (h : s.memWf = true) :
    MemKept (execSessclose s) := by
  unfold execSessclose
  refine service_memKept h (fun u cid vd v a hu => ?_)
  grind [State.setSlot_memWf, freeBase_memWf, withBlock_memWf]

theorem execAdptable_memKept (s : State) (h : s.memWf = true) :
    MemKept (execAdptable s) := by
  unfold execAdptable
  refine service_memKept h (fun u cid vd v a hu => ?_)
  grind [withBlock_memWf, withOut_memWf]

theorem execUsage_memKept (s : State) (h : s.memWf = true) :
    MemKept (execUsage s) := by
  unfold execUsage
  refine service_memKept h (fun u cid vd v a hu => ?_)
  grind [hallmark_memWf]

theorem execLibload_memKept (s : State) (h : s.memWf = true) : MemKept (execLibload s) := by
  refine service_memKept h (fun u cid vd v a hu => withBlock_memWf _ _ _ _ _ _ hu (fun t blk ht => ?_))
  dsimp only
  split
  · exact ht
  · refine withBytes_memWf _ _ _ _ _ _ ht (fun t hd ht => ?_)
    split
    · exact ht
    · refine withBytes_memWf _ _ _ _ _ _ ht (fun t l ht => ?_)
      repeat' split
      any_goals exact ht
      exact withOut_memWf _ _ _ _ _ _ ht (fun t put ht hput => hput _ (memWf_hub ht rfl))

theorem execModelload_memKept (s : State) (h : s.memWf = true) :
    MemKept (execModelload s) := by
  unfold execModelload
  refine service_memKept h (fun u cid vd v a hu => ?_)
  grind [State.modVd_memWf, installWeights_memWf, withBlock_memWf, withOut_memWf, withRecord_memWf]

theorem execModelfree_memKept (s : State) (h : s.memWf = true) :
    MemKept (execModelfree s) := by
  unfold execModelfree
  refine service_memKept h (fun u cid vd v a hu => ?_)
  grind [retireBase_memWf, withBlock_memWf]

theorem execAdaptclaim_memKept (s : State) (h : s.memWf = true) :
    MemKept (execAdaptclaim s) := by
  unfold execAdaptclaim
  refine service_memKept h (fun u cid vd v a hu => ?_)
  grind [State.modVd_memWf, installWeights_memWf, withBlock_memWf, withRecord_memWf]

theorem execAdaptfree_memKept (s : State) (h : s.memWf = true) :
    MemKept (execAdaptfree s) := by
  unfold execAdaptfree
  refine service_memKept h (fun u cid vd v a hu => ?_)
  grind [State.modVd_memWf, reapAdapters_memWf, withBlock_memWf]

theorem execVdkey_memKept (s : State) (h : s.memWf = true) :
    MemKept (execVdkey s) := by
  unfold execVdkey
  refine service_memKept h (fun u cid vd v a hu => ?_)
  grind [State.setSlot_memWf, drawKey_memWf, withBlock_memWf]

theorem execConflock_memKept (s : State) (h : s.memWf = true) :
    MemKept (execConflock s) := by
  unfold execConflock
  refine service_memKept h (fun u cid vd v a hu => ?_)
  grind [setLocks_memWf, withBlock_memWf, zeroUnits_memWf]

theorem execConffree_memKept (s : State) (h : s.memWf = true) :
    MemKept (execConffree s) := by
  unfold execConffree
  refine service_memKept h (fun u cid vd v a hu => ?_)
  grind [State.setSlot_memWf, setLocks_memWf, withBlock_memWf, zeroUnits_memWf]

theorem execEvkey_memKept (s : State) (h : s.memWf = true) :
    MemKept (execEvkey s) := by
  unfold execEvkey
  refine service_memKept h (fun u cid vd v a hu => ?_)
  grind [State.setSlot_memWf, drawKey_memWf, withBlock_memWf]

theorem execHinstall_memKept (s : State) (h : s.memWf = true) : MemKept (execHinstall s) := by
  refine service_memKept h (fun u cid vd v a hu => withBlock_memWf _ _ _ _ _ _ hu (fun t l ht => ?_))
  dsimp only
  split
  · exact ht
  · refine withBytes_memWf _ _ _ _ _ _ ht (fun t img ht => ?_)
    split
    · exact ht
    · split
      · exact ht
      · exact memWf_hub ht rfl

theorem execCreditReturn_memKept (k : Nat) (s : State) (h : s.memWf = true) :
    MemKept (execCreditReturn k s) := by
  grind [MemKept, execCreditReturn, State.memWf, State.dropPacket_memWf, State.modPlane_memWf, drainWake_memWf]

theorem execClusterCacheEviction_memKept (cluster : Nat) (sector : Nat) (s : State) (h : s.memWf = true) :
    MemKept (execClusterCacheEviction cluster sector s) := by
  grind [MemKept, execClusterCacheEviction, State.memWf, State.modCluster_memWf]

theorem execSpdmAttestation_memKept (req : List (BitVec 8)) (s : State) (h : s.memWf = true) :
    MemKept (execSpdmAttestation req s) := by
  grind [MemKept, execSpdmAttestation, State.memWf, State.draw_memWf, State.emit_memWf, firmwareDoes]

theorem execSlotTransferRecord_memKept (vd : Nat) (rc : List (BitVec 8)) (s : State) (h : s.memWf = true) :
    MemKept (execSlotTransferRecord vd rc s) := by
  grind [MemKept, execSlotTransferRecord, State.memWf, State.emit_memWf, transferAll_memWf]

theorem execMigrationStateTransfer_memKept (vd : Nat) (k : Nat) (s : State) (h : s.memWf = true) :
    MemKept (execMigrationStateTransfer vd k s) := by
  grind [MemKept, execMigrationStateTransfer, State.memWf, State.draw_memWf, State.modCluster_memWf, State.setCtx_memWf,
    State.setDie_memWf, State.setVd_memWf, foldl_memWf, lockOpen_memWf, nextState_memWf, takePage_memWf]

theorem execLinkDown_memKept (link : Fin 16) (s : State) (h : s.memWf = true) :
    MemKept (execLinkDown link s) := by
  grind [MemKept, execLinkDown, State.memWf, setLink_memWf]

/-- Every meaning keeps the memories' canonical form. -/
theorem exec_memKept {s : State} (h : s.memWf = true) (i : Instr) : MemKept (exec i s) := by
  cases i with
  | elemNop | elemPass | elemTags | elemAdd | elemSub | elemMul | elemMulh | elemMad | elemMin | elemMax | elemAbs | elemAnd | elemOr
  | elemXor | elemAndn | elemShl | elemShr | elemSar | elemRot | elemClz | elemPopc | elemClmul | elemSel | elemMov | elemShuf
  | elemBcast | elemCmp | elemLred | elemScan | elemFadd | elemFsub | elemFmul | elemFfma | elemFmin | elemFmax | elemFcmp | elemFdiv
  | elemFsqrt | elemFrcp | elemFrsq | elemFexp2 | elemFlog2 | elemCvt | elemPack | elemUnpk =>
    unfold exec
    simp only [execElemNop, execElemPass, execElemTags, execElemAdd, execElemSub, execElemMul, execElemMulh, execElemMad, execElemMin,
    execElemMax, execElemAbs, execElemAnd, execElemOr, execElemXor, execElemAndn, execElemShl, execElemShr, execElemSar, execElemRot,
    execElemClz, execElemPopc, execElemClmul, execElemSel, execElemMov, execElemShuf, execElemBcast, execElemCmp, execElemLred,
    execElemScan, execElemFadd, execElemFsub, execElemFmul, execElemFfma, execElemFmin, execElemFmax, execElemFcmp, execElemFdiv,
    execElemFsqrt, execElemFrcp, execElemFrsq, execElemFexp2, execElemFlog2, execElemCvt, execElemPack, execElemUnpk, fire1, fire2,
    fire3, fireArith, fireIter, fireMinMax]
    exact fireAlu_memKept h
  | elemLd | elemSt | elemLda | elemStl | elemAmo | elemVamo | elemCst =>
    unfold exec
    simp only [execElemLd, execElemSt, execElemLda, execElemStl, execElemAmo, execElemVamo, execElemCst]
    exact fireRequest_memKept h
  | elemLdst | elemLdcb =>
    unfold exec
    simp only [execElemLdst, execElemLdcb]
    exact fireLoadWeight_memKept h
  | elemAcca | elemAccz | elemAccs | elemAccl =>
    unfold exec
    simp only [execElemAcca, execElemAccz, execElemAccs, execElemAccl]
    exact fireAcc_memKept h
  | seqAdd | seqSub | seqMul | seqMulh | seqDiv | seqRem | seqAnd | seqOr | seqXor | seqShl | seqShr | seqSar | seqMin | seqMax | seqClz
  | seqPopc | seqAddi | seqAndi | seqOri | seqXori | seqShli | seqShri | seqSari | seqLi | seqLih =>
    unfold exec
    simp only [execSeqAdd, execSeqSub, execSeqMul, execSeqMulh, execSeqDiv, execSeqRem, execSeqAnd, execSeqOr, execSeqXor, execSeqShl,
    execSeqShr, execSeqSar, execSeqMin, execSeqMax, execSeqClz, execSeqPopc, execSeqAddi, execSeqAndi, execSeqOri, execSeqXori,
    execSeqShli, execSeqShri, execSeqSari, execSeqLi, execSeqLih, rri, rrr]
    exact writeX_memKept h
  | seqBeq | seqBne | seqBlt | seqBge | seqBltn | seqBgen =>
    unfold exec
    simp only [execSeqBeq, execSeqBne, execSeqBlt, execSeqBge, execSeqBltn, execSeqBgen]
    exact branchIf_memKept h
  | seqJi | seqJali =>
    unfold exec
    simp only [execSeqJi, execSeqJali]
    exact jumpTo_memKept h
  | seqLd | seqLda =>
    unfold exec
    simp only [execSeqLd, execSeqLda]
    exact seqLoad_memKept _ _ _ _ _ _ _ h
  | seqSt | seqStl =>
    unfold exec
    simp only [execSeqSt, execSeqStl]
    exact seqStore_memKept _ _ _ _ _ _ h
  | resumeRestore | resumeRelease | resumeContinue | resumeAbort =>
    unfold exec
    simp only [execResumeRestore, execResumeRelease, execResumeContinue, execResumeAbort]
    exact resume_memKept _ _ _ _ h
  | elemNullt => exact execElemNullt_memKept _ _ h
  | elemPtst => exact execElemPtst_memKept _ _ h
  | elemPsn => exact execElemPsn_memKept _ _ h
  | elemTrapi => exact execElemTrapi_memKept _ _ h
  | elemHalt => exact execElemHalt_memKept _ _ h
  | elemSwapw => exact execElemSwapw_memKept _ _ h
  | elemMma => exact execElemMma_memKept _ _ _ _ h
  | elemAccd => exact execElemAccd_memKept _ _ _ h
  | pipelinedResult => exact execPipelinedResult_memKept _ _ _ h
  | accOperation => exact execAccOperation_memKept _ _ _ h
  | tokenArrive => exact execTokenArrive_memKept _ _ h
  | tileWake => exact execTileWake_memKept _ _ h
  | knotTake => exact execKnotTake_memKept _ _ _ h
  | backEdgeKnotDiscard => exact execBackEdgeKnotDiscard_memKept _ _ _ _ h
  | knotCommit => exact execKnotCommit_memKept _ _ h
  | implicitKnot => exact execImplicitKnot_memKept _ _ h
  | drainTake => exact execDrainTake_memKept _ _ _ h
  | lateTokenDiscard => exact execLateTokenDiscard_memKept _ _ _ _ h
  | openSourceDrain => exact execOpenSourceDrain_memKept _ _ _ h
  | regionRollback => exact execRegionRollback_memKept _ _ h
  | weightRefill => exact execWeightRefill_memKept _ _ _ h
  | assayComplete => exact execAssayComplete_memKept _ _ _ h
  | markerArrival => exact execMarkerArrival_memKept _ _ _ _ h
  | idleReport => exact execIdleReport_memKept _ _ h
  | agenStep => exact execAgenStep_memKept _ _ h
  | mifRequestTake => exact execMifRequestTake_memKept _ _ h
  | mifStreamAccess => exact execMifStreamAccess_memKept _ _ h
  | memoryReply => exact execMemoryReply_memKept _ _ h
  | wportToken => exact execWportToken_memKept _ _ h
  | steerStep => exact execSteerStep_memKept _ _ h
  | mergeStep => exact execMergeStep_memKept _ _ h
  | scaleStep => exact execScaleStep_memKept _ _ h
  | bflyStep => exact execBflyStep_memKept _ _ h
  | convStep => exact execConvStep_memKept _ _ h
  | redStep => exact execRedStep_memKept _ _ h
  | maskReload => exact execMaskReload_memKept _ _ h
  | maskQuery => exact execMaskQuery_memKept _ _ h
  | rngToken => exact execRngToken_memKept _ _ h
  | checkPair => exact execCheckPair_memKept _ _ _ h
  | homeLoad => exact execHomeLoad_memKept _ _ h
  | homeWrite => exact execHomeWrite_memKept _ _ h
  | handlerApply => exact execHandlerApply_memKept _ _ h
  | vamoApply => exact execVamoApply_memKept _ _ h
  | claspOpen => exact execClaspOpen_memKept _ _ h
  | claspPacket => exact execClaspPacket_memKept _ _ h
  | claspRelease => exact execClaspRelease_memKept _ _ h
  | strandAck => exact execStrandAck_memKept _ _ h
  | strandRetry => exact execStrandRetry_memKept _ _ h
  | badPacketDiscard => exact execBadPacketDiscard_memKept _ _ _ h
  | frameEntryAdvance => exact execFrameEntryAdvance_memKept _ _ h
  | waybillStart => exact execWaybillStart_memKept _ _ _ h
  | copySector => exact execCopySector_memKept _ _ _ h
  | waybillRetire => exact execWaybillRetire_memKept _ _ _ h
  | seqJ => exact execSeqJ_memKept _ _ h
  | seqJal => exact execSeqJal_memKept _ _ _ h
  | seqAmo => exact execSeqAmo_memKept _ _ _ _ _ _ _ _ _ h
  | seqAtomicResult => exact execSeqAtomicResult_memKept _ _ h
  | seqFence sc o => exact execSeqFence_memKept sc o _ h
  | seqMon => exact execSeqMon_memKept _ _ _ h
  | seqMwait => exact execSeqMwait_memKept _ _ _ h
  | mwaitWake => exact execMwaitWake_memKept _ _ h
  | mwaitLimit => exact execMwaitLimit_memKept _ _ h
  | seqPlace => exact execSeqPlace_memKept _ _ _ _ h
  | seqArm => exact execSeqArm_memKept _ _ _ h
  | seqWbill => exact execSeqWbill_memKept _ _ _ h
  | wbillRoom => exact execWbillRoom_memKept _ _ h
  | seqWaitw => exact execSeqWaitw_memKept _ _ _ h
  | waitwComplete => exact execWaitwComplete_memKept _ _ h
  | seqDrain => exact execSeqDrain_memKept _ _ h
  | seqRecfg => exact execSeqRecfg_memKept _ _ _ _ h
  | recfgDepthChange => exact execRecfgDepthChange_memKept _ _ h
  | seqBankcfg => exact execSeqBankcfg_memKept _ _ _ _ h
  | seqPlane => exact execSeqPlane_memKept _ _ _ h
  | seqCut => exact execSeqCut_memKept _ _ _ h
  | seqSopen => exact execSeqSopen_memKept _ _ _ _ h
  | seqSclose => exact execSeqSclose_memKept _ _ _ _ h
  | seqSbar => exact execSeqSbar_memKept _ _ h
  | sbarComplete => exact execSbarComplete_memKept _ _ h
  | seqPqpush => exact execSeqPqpush_memKept _ _ _ h
  | seqPqpop => exact execSeqPqpop_memKept _ _ _ h
  | seqPqpopW1 => exact execSeqPqpopW1_memKept _ _ _ h
  | seqExpect => exact execSeqExpect_memKept _ _ _ h
  | seqAmsend => exact execSeqAmsend_memKept _ _ _ _ _ _ h
  | seqBar => exact execSeqBar_memKept _ _ _ h
  | barComplete => exact execBarComplete_memKept _ _ h
  | seqTrap => exact execSeqTrap_memKept _ _ h
  | eventEntry => exact execEventEntry_memKept _ _ h
  | seqEret => exact execSeqEret_memKept _ h
  | seqCsrrd => exact execSeqCsrrd_memKept _ _ _ h
  | seqCsrwr => exact execSeqCsrwr_memKept _ _ _ h
  | threadSwitch => exact execThreadSwitch_memKept _ _ h
  | seqFwcall => exact execSeqFwcall_memKept _ _ _ _ h
  | seqHalt => exact execSeqHalt_memKept _ h
  | pcreate => exact execPcreate_memKept _ _ h
  | preset => exact execPreset_memKept _ _ h
  | pdestroy => exact execPdestroy_memKept _ _ h
  | vdcreate => exact execVdcreate_memKept _ _ h
  | vddestroy => exact execVddestroy_memKept _ _ h
  | ctxassign => exact execCtxassign_memKept _ _ h
  | bankassign => exact execBankassign_memKept _ _ h
  | tpower => exact execTpower_memKept _ _ h
  | tpowerDone => exact execTpowerDone_memKept _ _ h
  | vdstop => exact execVdstop_memKept _ _ h
  | vdstart => exact execVdstart_memKept _ _ h
  | migbegin => exact execMigbegin_memKept _ _ h
  | migpass => exact execMigpass_memKept _ _ h
  | migfinal => exact execMigfinal_memKept _ _ h
  | chkpt => exact execChkpt_memKept _ _ h
  | chkload => exact execChkload_memKept _ _ h
  | frameset => exact execFrameset_memKept _ _ h
  | contextStart => exact execContextStart_memKept _ _ _ h
  | contextKill => exact execContextKill_memKept _ _ _ h
  | faultResolve => exact execFaultResolve_memKept _ _ _ h
  | faultFail => exact execFaultFail_memKept _ _ _ h
  | shootdownRequest => exact execShootdownRequest_memKept _ _ _ h
  | shootdownComplete => exact execShootdownComplete_memKept _ _ h
  | faultRecordHeldWrite => exact execFaultRecordHeldWrite_memKept _ _ h
  | coldReset => exact execColdReset_memKept _ _ h
  | partitionReset => exact execPartitionReset_memKept _ _ h
  | thermalAlarm die temp => exact execThermalAlarm_memKept die temp _ h
  | thermalTrip => exact execThermalTrip_memKept _ _ _ h
  | linkTrained => exact execLinkTrained_memKept _ _ h
  | linkAuthDone => exact execLinkAuthDone_memKept _ _ _ h
  | linkTagFail => exact execLinkTagFail_memKept _ _ h
  | companionRead => exact execCompanionRead_memKept _ _ _ h
  | companionWrite => exact execCompanionWrite_memKept _ _ _ h
  | posset => exact execPosset_memKept _ _ h
  | podpol => exact execPodpol_memKept _ _ h
  | lnktrain => exact execLnktrain_memKept _ _ h
  | evread => exact execEvread_memKept _ _ h
  | retclear => exact execRetclear_memKept _ _ _ _ _ h
  | temprd => exact execTemprd_memKept _ h
  | kvevict => exact execKvevict_memKept _ h
  | kvpromote => exact execKvpromote_memKept _ h
  | hallmark => exact execHallmark_memKept _ h
  | sessopen => exact execSessopen_memKept _ h
  | reqopen => exact execReqopen_memKept _ h
  | replyseal => exact execReplyseal_memKept _ h
  | sessclose => exact execSessclose_memKept _ h
  | adptable => exact execAdptable_memKept _ h
  | usage => exact execUsage_memKept _ h
  | libload => exact execLibload_memKept _ h
  | modelload => exact execModelload_memKept _ h
  | modelfree => exact execModelfree_memKept _ h
  | adaptclaim => exact execAdaptclaim_memKept _ h
  | adaptfree => exact execAdaptfree_memKept _ h
  | vdkey => exact execVdkey_memKept _ h
  | conflock => exact execConflock_memKept _ h
  | conffree => exact execConffree_memKept _ h
  | evkey => exact execEvkey_memKept _ h
  | hinstall => exact execHinstall_memKept _ h
  | creditReturn => exact execCreditReturn_memKept _ _ h
  | clusterCacheEviction => exact execClusterCacheEviction_memKept _ _ _ h
  | spdmAttestation => exact execSpdmAttestation_memKept _ _ h
  | slotTransferRecord => exact execSlotTransferRecord_memKept _ _ _ h
  | migrationStateTransfer => exact execMigrationStateTransfer_memKept _ _ _ h
  | linkDown => exact execLinkDown_memKept _ _ h

/-! ## A turn -/

def fetchedState : Fetched → State
  | .ended s => s
  | .word s _ => s
theorem fetchSlot_memWf {s : State} (h : s.memWf = true) (tile e : Nat) : (fetchedState (fetchSlot s tile e)).memWf = true := by
  unfold fetchSlot
  dsimp only
  repeat' split
  all_goals exact h
theorem fetchVirtual_memWf {s : State} (h : s.memWf = true) (cid : Nat) (c : Ctx) :
    (fetchedState (fetchVirtual s cid c)).memWf = true := by
  unfold fetchVirtual
  have h1 := translate_memWf s (tlbCluster (ctxCluster cid)) c.vdn c.pc false false h
  split
  next he => exact ctxFault_memWf _ _ _ _ _ (memWf_of_fst h1 he)
  next t pa kslot cp dirty he =>
    have h2 := reaches_memWf t (.ctx cid) (pa / 32 * 32) cp (memWf_of_fst h1 he)
    split
    next he => exact memWf_of_fst h2 he
    next u he =>
      have h3 := loadSector_memWf u (.ctx cid) c.vdn (pa / 32 * 32) kslot cp none (memWf_of_fst h2 he)
      split
      next he => exact ctxUe_memWf _ _ _ _ (memWf_of_fst h3 he)
      next he => exact memWf_of_fst h3 he
theorem fetchSeq_memWf {s : State} (h : s.memWf = true) (cid : Nat) : (fetchedState (fetchSeq s cid)).memWf = true := by
  have h0 : ({ s with cur := { plane := 0, elem := 0, slot := 0, cid := cid } } : State).memWf = true := h
  unfold fetchSeq
  extract_lets t c
  split
  · exact h0
  · split
    · exact performAll_memWf _ _ _ _ (State.setCtx_memWf _ _ _ h0)
    · split
      · exact enterEvent_memWf _ _ h0
      · split
        · split
          · exact h0
          · have h1 := markIssue_memWf t cid h0
            split
            · split
              · exact firmUe_memWf _ _ _ h1
              · exact h1
            · exact fetchVirtual_memWf h1 cid c
        · exact ctxProgress_memWf _ _ h0
        · exact ctxProgress_memWf _ _ h0
        · exact h0

def heardState : Heard → State
  | .ended s => s
  | .run s _ => s
  | .spdm s _ => s
theorem hearMessage_memWf {s : State} (h : s.memWf = true) (ty : Nat) (l : Bytes) : (heardState (hearMessage s ty l)).memWf = true := by
  have hd := State.draw_memWf s h
  unfold hearMessage
  split
  · exact h
  · split
    · exact h
    · split
      · exact h
      · dsimp only
        split
        · exact State.emit_memWf _ _ hd
        · split
          · exact hd
          · exact State.emit_memWf _ _ hd

theorem runTurn_memKept {s : State} (h : s.memWf = true) (t : Turn) : MemKept (runTurn t s) := by
  cases t with
  | tick d => exact memKept_next (tick_memWf _ _ h)
  | element tile e =>
    have hf := fetchSlot_memWf h tile e
    unfold runTurn
    dsimp only
    generalize fetchSlot s tile e = x at hf
    cases x with
    | ended u => exact memKept_next hf
    | word u w =>
      dsimp only
      split
      · exact exec_memKept hf _
      · exact memKept_next hf
  | context cid =>
    have hf := fetchSeq_memWf h cid
    unfold runTurn
    dsimp only
    generalize fetchSeq s cid = x at hf
    cases x with
    | ended u => exact memKept_next hf
    | word u w =>
      dsimp only
      split
      · exact exec_memKept hf _
      · exact memKept_next (trapHere_memWf _ _ _ _ hf)
  | event i =>
    unfold runTurn
    dsimp only
    split
    · exact exec_memKept h i
    · exact memKept_next h
  | message ty l =>
    have hm := hearMessage_memWf h ty l
    unfold runTurn
    dsimp only
    generalize hearMessage s ty l = x at hm
    cases x with
    | ended u => exact memKept_next hm
    | run u i => exact exec_memKept hm i
    | spdm u r => exact execSpdmAttestation_memKept _ _ hm

/-- Settles O15: every meaning keeps the form, so every turn does, and so does an ac that passes. -/
theorem stepKeepsMemory : Obligations.StepKeepsMemory := by
  intro s t h ht
  unfold step at ht
  split at ht
  · cases ht; exact passAc_memWf _ h
  next turn r _ => exact runTurn_memKept (s := { s with agenda := r }) h turn t ht

end Sys2Proof.Proofs
end

section
/-! The registers of a context (R81, R209), its control registers (R201 to R204), traps (R200, R205, R212) and what a reset leaves
(R201, R434). -/

namespace Sys2Proof.Proofs

open Sys2Proof Sys2Proof.Machine Sys2Proof.Claim

/-- The two branches and the condition of a conditional, each for what it equals. -/
theorem ite_eq_of_iff {α : Type _} {a b : Prop} [Decidable a] [Decidable b] {x y u v : α} (h : a ↔ b) (hx : x = u) (hy : y = v) :
    (if a then x else y) = if b then u else v :=
  ite_congr (propext h) (fun _ => hx) fun _ => hy

theorem ite_eq_or {α : Type _} {a : Prop} [Decidable a] {x y z : α} : (if a then x else y) = z ↔ (a ∧ x = z) ∨ (¬ a ∧ y = z) := by
  by_cases h : a <;> simp only [h, if_true, if_false, true_and, false_and, not_true_eq_false, not_false_eq_true, or_false, false_or]

/-- An entry that is there is what a default would stand for. -/
theorem getD_eq_get_of_lt {α : Type _} {l : List α} {i : Nat} (d : α) (h : i < l.length) : l.getD i d = l[i] := by
  rw [List.getD_eq_getElem?_getD, List.getElem?_eq_getElem h, Option.getD_some]

theorem getD_append_of_lt {α : Type _} {l r : List α} {d : α} {i : Nat} (h : i < l.length) : (l ++ r).getD i d = l.getD i d := by
  rw [List.getD_eq_getElem?_getD, List.getD_eq_getElem?_getD, List.getElem?_append_left h]
theorem getD_append_of_ge {α : Type _} {l r : List α} {d : α} {i : Nat} (h : l.length ≤ i) :
    (l ++ r).getD i d = r.getD (i - l.length) d := by
  rw [List.getD_eq_getElem?_getD, List.getD_eq_getElem?_getD, List.getElem?_append_right h]

/-- Settles O3, by the laws of a register read after a write. -/
theorem zeroRegister : Obligations.ZeroRegister := fun c _ _ v =>
  ⟨rfl, rfl, Ctx.getX_setX_same c v, Ctx.getX_setX_ne c v⟩

/-! ## Traps -/

theorem causeWord_eq (ue : Bool) {cause : Nat} (h : cause < 16) : causeWord ue cause = BitVec.ofNat 64 (ue.toNat * 2 ^ 62 + cause) := by
  have hpack : pack [(62, 1, ue.toNat), (0, 4, cause)] = ue.toNat * 2 ^ 62 + cause := by
    simp [pack, Nat.mod_eq_of_lt h, Nat.mod_eq_of_lt (Bool.toNat_lt ue)]
  rw [causeWord, hpack]

theorem takeTrap_user {s : State} {cid : Nat} (h : (s.ctx cid).pl = user) (cause : Nat) (ue : Bool) (v epc : Word) :
    takeTrap s cid cause ue v epc = s.setCtx cid { s.ctx cid with
      epc := epc, cause := causeWord ue cause, tval := v, ppl := false, peie := (s.ctx cid).eie, eie := false, pl := super,
      pc := (s.ctx cid).tvec, wait := .none, part := [] } := if_pos h
theorem takeTrap_super {s : State} {cid : Nat} (h : (s.ctx cid).pl = super) (cause : Nat) (ue : Bool) (v epc : Word) :
    takeTrap s cid cause ue v epc = s.setCtx cid { s.ctx cid with
      fepc := epc, fcause := causeWord ue cause, ftval := v, fppl := super, fpeie := (s.ctx cid).eie, eie := false, pl := firm,
      pc := (s.ctx cid).ftvec, wait := .none, part := [] } := by
  unfold takeTrap
  dsimp only
  rw [h, if_neg (by decide), if_pos rfl]
theorem takeTrap_firm {s : State} {cid : Nat} (h : (s.ctx cid).pl = firm) (cause : Nat) (ue : Bool) (v epc : Word) :
    takeTrap s cid cause ue v epc =
      (s.setCtx cid { s.ctx cid with run := .stopped, wait := .none, part := [] }).emit (.hubReport cid cause v) := by
  unfold takeTrap
  dsimp only
  rw [h, if_neg (by decide), if_neg (by decide)]
theorem ctx_takeTrap_ne (s : State) {cid d : Nat} (h : d ≠ cid) (cause : Nat) (ue : Bool) (v epc : Word) :
    (takeTrap s cid cause ue v epc).ctx d = s.ctx d := by
  unfold takeTrap
  dsimp only
  split
  · exact State.ctx_setCtx_ne s _ h
  · split
    · exact State.ctx_setCtx_ne s _ h
    · exact State.ctx_setCtx_ne s _ h

/-- Settles O5, by the level at which the trap is raised. -/
theorem trapEntry : Obligations.TrapEntry := by
  intro s cid cause ue v epc hcause
  refine ⟨fun h => ?_, fun h => ?_, fun h => ?_, fun d hd => ctx_takeTrap_ne s hd cause ue v epc⟩
  · rw [takeTrap_user h, causeWord_eq ue hcause]
    exact ⟨State.ctx_setCtx .., rfl⟩
  · rw [takeTrap_super h, causeWord_eq ue hcause]
    exact ⟨State.ctx_setCtx .., rfl⟩
  · rw [takeTrap_firm h]
    exact ⟨State.ctx_setCtx .., rfl, rfl⟩

/-! ## Instructions below their level, and misaligned addresses -/

/-- An instruction that needs a level starts by comparing it with the context's. -/
theorem exec_eq_atLevel {i : Instr} {n : Nat} (h : seqLevel i = some n) (s : State) :
    ∃ (lvl : BitVec 2) (k : Nat → Ctx → State), lvl.toNat = n ∧ exec i s = atLevel lvl i s k := by
  cases i with
  | seqFwcall xd xa svc =>
    obtain ⟨hsvc, hn⟩ := Option.ite_none_right_eq_some.mp h
    exact ⟨if 0x8000 ≤ svc.toNat then super else user, _, (congrArg BitVec.toNat (if_pos hsvc)).trans (Option.some.inj hn),
      exec_seqFwcall_eq xd xa svc s⟩
  | seqPlane xa e => cases h; exact ⟨firm, _, rfl, exec_seqPlane_eq xa e s⟩
  | seqPlace xd xa xb => cases h; exact ⟨super, _, rfl, exec_seqPlace_eq xd xa xb s⟩
  | seqRecfg xd xa xb => cases h; exact ⟨super, _, rfl, exec_seqRecfg_eq xd xa xb s⟩
  | seqBankcfg xd b m => cases h; exact ⟨super, _, rfl, exec_seqBankcfg_eq xd b m s⟩
  | seqCut xd xa => cases h; exact ⟨super, _, rfl, exec_seqCut_eq xd xa s⟩
  | resumeRestore xd xa => cases h; refine ⟨super, ?_, rfl, ?_⟩; rotate_left; rw [exec_resumeRestore_eq, execResumeRestore, resume]
  | resumeRelease xd xa => cases h; refine ⟨super, ?_, rfl, ?_⟩; rotate_left; rw [exec_resumeRelease_eq, execResumeRelease, resume]
  | resumeContinue xd xa => cases h; refine ⟨super, ?_, rfl, ?_⟩; rotate_left; rw [exec_resumeContinue_eq, execResumeContinue, resume]
  | resumeAbort xd xa => cases h; refine ⟨super, ?_, rfl, ?_⟩; rotate_left; rw [exec_resumeAbort_eq, execResumeAbort, resume]
  | seqEret => cases h; exact ⟨super, _, rfl, exec_seqEret_eq s⟩
  | threadSwitch xa => cases h; exact ⟨super, _, rfl, exec_threadSwitch_eq xa s⟩
  | seqHalt => cases h; exact ⟨super, _, rfl, exec_seqHalt_eq s⟩
  | _ => cases h

theorem encodeSeq_of_seqLevel {i : Instr} {n : Nat} (h : seqLevel i = some n) : ∃ w, encodeSeq i = some w := by
  cases i with
  | seqFwcall | seqPlane | seqPlace | seqRecfg | seqBankcfg | seqCut | resumeRestore | resumeRelease | resumeContinue | resumeAbort
  | seqEret | threadSwitch | seqHalt => exact ⟨_, rfl⟩
  | _ => cases h

theorem exec_below_level {i : Instr} {n : Nat} {s : State} (h : seqLevel i = some n) (hlt : (curCtx s).pl.toNat < n) :
    ∃ w, encodeSeq i = some w ∧ exec i s = .next (takeTrap s s.cur.cid 3 false (BitVec.ofNat 64 w) (curCtx s).pc) := by
  obtain ⟨lvl, k, rfl, hexec⟩ := exec_eq_atLevel h s
  obtain ⟨w, hw⟩ := encodeSeq_of_seqLevel h
  refine ⟨w, hw, ?_⟩
  rw [hexec, atLevel_below hlt, wordOf, hw, Option.getD_some]

/-- An instruction with an address checks its alignment before anything but its level. -/
theorem exec_misaligned {i : Instr} {addr : Ctx → Word} {n : Nat} {s : State} (h : seqAddress i = some (addr, n))
    (hlvl : ∀ lvl, seqLevel i = some lvl → lvl ≤ (curCtx s).pl.toNat) (hmis : (addr (curCtx s)).toNat % n ≠ 0) :
    exec i s = .next (takeTrap s s.cur.cid 1 false (addr (curCtx s)) (curCtx s).pc) := by
  have hsuper : seqLevel i = some 1 → super.toNat ≤ (curCtx s).pl.toNat := hlvl 1
  cases i with
  | seqLd xd xa sz nat disp =>
    cases h
    rw [exec_seqLd_eq, execSeqLd, seqLoad]
    cases sz <;> exact congrArg _ (if_pos hmis)
  | seqLda xd xa sz nat sc disp =>
    cases h
    rw [exec_seqLda_eq, execSeqLda, seqLoad]
    cases sz <;> exact congrArg _ (if_pos hmis)
  | seqSt xa xb sz disp =>
    cases h
    rw [exec_seqSt_eq, execSeqSt, seqStore]
    cases sz <;> exact congrArg _ (if_pos hmis)
  | seqStl xa xb sz sc disp =>
    cases h
    rw [exec_seqStl_eq, execSeqStl, seqStore]
    cases sz <;> exact congrArg _ (if_pos hmis)
  | seqWbill xd xa => cases h; rw [exec_seqWbill_eq]; exact congrArg _ (if_pos hmis)
  | seqSclose xa xb k => cases h; rw [exec_seqSclose_eq]; exact congrArg _ (if_pos hmis)
  | seqExpect xa xb => cases h; rw [exec_seqExpect_eq]; exact congrArg _ (if_pos hmis)
  | seqBar xa sc => cases h; rw [exec_seqBar_eq]; exact congrArg _ (if_pos hmis)
  | seqPlace xd xa xb => cases h; rw [exec_seqPlace_eq, execSeqPlace, atLevel_granted (hsuper rfl)]; exact congrArg _ (if_pos hmis)
  | seqCut xd xa => cases h; rw [exec_seqCut_eq, execSeqCut, atLevel_granted (hsuper rfl)]; exact congrArg _ (if_pos hmis)
  | resumeRestore xd xa =>
    cases h; rw [exec_resumeRestore_eq, execResumeRestore, resume, atLevel_granted (hsuper rfl)]; exact congrArg _ (if_pos hmis)
  | resumeRelease xd xa =>
    cases h; rw [exec_resumeRelease_eq, execResumeRelease, resume, atLevel_granted (hsuper rfl)]; exact congrArg _ (if_pos hmis)
  | resumeContinue xd xa =>
    cases h; rw [exec_resumeContinue_eq, execResumeContinue, resume, atLevel_granted (hsuper rfl)]; exact congrArg _ (if_pos hmis)
  | resumeAbort xd xa =>
    cases h; rw [exec_resumeAbort_eq, execResumeAbort, resume, atLevel_granted (hsuper rfl)]; exact congrArg _ (if_pos hmis)
  | _ => cases h

/-- Settles O8: the level goes ahead of the alignment. -/
theorem privilegedOrMisaligned : Obligations.PrivilegedOrMisaligned :=
  ⟨fun _ _ _ h hlt => exec_below_level h hlt, fun _ _ _ _ h hlvl hmis => exec_misaligned h hlvl hmis⟩

/-! ## Control and status registers -/

theorem pl_cases {pl : BitVec 2} (h : pl.toNat < 3) : pl = user ∨ pl = super ∨ pl = firm := by
  revert h; revert pl; decide

theorem csrAcc_eq_csrAllows {pl : BitVec 2} (hpl : pl.toNat < 3) {n : Nat} (hn : n ≠ 8) : csrAcc pl n = csrAllows n pl.toNat := by
  have hsup : (0x001 ≤ n ∧ n ≤ 0x00A) ↔ n ∈ [0x001, 0x002, 0x003, 0x004, 0x005, 0x006, 0x007, 0x009, 0x00A] := by
    simp only [List.mem_cons, List.not_mem_nil, or_false]; omega
  have hro : (n = 0x010 ∨ n = 0x011) ↔ n ∈ [0x010, 0x011] := by simp
  have hbar : (0x013 ≤ n ∧ n ≤ 0x015) ↔ n ∈ [0x013, 0x014, 0x015] := by
    simp only [List.mem_cons, List.not_mem_nil, or_false]; omega
  have hfirm : (0x100 ≤ n ∧ n ≤ 0x104) ↔ n ∈ [0x100, 0x101, 0x102, 0x103, 0x104] := by
    simp only [List.mem_cons, List.not_mem_nil, or_false]; omega
  unfold csrAcc csrAllows
  dsimp only
  rw [ite_eq_of_iff hsup rfl rfl, ite_eq_of_iff hro rfl rfl, ite_eq_of_iff hbar rfl rfl, ite_eq_of_iff hfirm rfl rfl]
  obtain rfl | rfl | rfl := pl_cases hpl <;> rfl

/-- What the words of CSRRD and CSRWR are. -/
theorem wF_of_read (op : Nat) (xd : XReg) (i : Nat) : wF op xd 0 0 0 0 false i = op * 2 ^ 56 + xd.val * 2 ^ 51 + i := by
  have h0 : (0 : XReg).val = 0 := rfl
  have h1 : Bool.toNat false = 0 := rfl
  unfold wF
  omega
theorem wF_of_write (op : Nat) (xa : XReg) (i : Nat) : wF op 0 xa 0 0 0 false i = op * 2 ^ 56 + xa.val * 2 ^ 46 + i := by
  have h0 : (0 : XReg).val = 0 := rfl
  have h1 : Bool.toNat false = 0 := rfl
  unfold wF
  omega
theorem wordOf_seqCsrrd (xd : XReg) (n : BitVec 12) :
    wordOf (.seqCsrrd xd n) = BitVec.ofNat 64 (0xA2 * 2 ^ 56 + xd.val * 2 ^ 51 + n.toNat) :=
  congrArg (BitVec.ofNat 64) (wF_of_read 0xA2 xd n.toNat)
theorem wordOf_seqCsrwr (xa : XReg) (n : BitVec 12) :
    wordOf (.seqCsrwr xa n) = BitVec.ofNat 64 (0xA3 * 2 ^ 56 + xa.val * 2 ^ 46 + n.toNat) :=
  congrArg (BitVec.ofNat 64) (wF_of_write 0xA3 xa n.toNat)

@[simp] theorem csrWrite_x (c : Ctx) (n : Nat) (v : Word) : (csrWrite c n v).x = c.x := by unfold csrWrite; split <;> rfl
@[simp] theorem csrWrite_pc (c : Ctx) (n : Nat) (v : Word) : (csrWrite c n v).pc = c.pc := by unfold csrWrite; split <;> rfl
@[simp] theorem csrWrite_pl (c : Ctx) (n : Nat) (v : Word) : (csrWrite c n v).pl = c.pl := by unfold csrWrite; split <;> rfl

/-- A mask that has only low bits sees only those of a word. -/
theorem and_setWidth_low {w k : Nat} (v : BitVec w) (m : BitVec k) : v &&& m.setWidth w = (v.setWidth k &&& m).setWidth w := by
  refine BitVec.eq_of_getLsbD_eq fun i hi => ?_
  by_cases hk : i < k
  · simp [hk, hi]
  · simp [hk, BitVec.getLsbD_of_ge m i (Nat.not_lt.mp hk)]
theorem getLsbD_low {w k : Nat} (v : BitVec w) {i : Nat} (h : i < k) : v.getLsbD i = (v.setWidth k).getLsbD i := by
  simp [h]

def statusOf (peie eie ppl : Bool) (pl : BitVec 2) : Word :=
  BitVec.ofNat 64 (pack [(4, 1, peie.toNat), (3, 1, eie.toNat), (2, 1, ppl.toNat), (0, 2, pl.toNat)])
theorem statusWord_eq (c : Ctx) : statusWord c = statusOf c.peie c.eie c.ppl c.pl := rfl
theorem statusOf_write (peie eie ppl : Bool) (pl : BitVec 2) (v : Word) :
    statusOf (v.getLsbD 4) (v.getLsbD 3) (v.getLsbD 2) pl = (statusOf peie eie ppl pl &&& 3#64) ||| (v &&& 0x1C#64) := by
  have hlevel : ∀ (a b c : Bool) (pl : BitVec 2), statusOf a b c pl &&& 3#64 = pl.setWidth 64 := by decide
  have hfields : ∀ (x : BitVec 5) (pl : BitVec 2),
      statusOf (x.getLsbD 4) (x.getLsbD 3) (x.getLsbD 2) pl = pl.setWidth 64 ||| (x &&& 0x1C#5).setWidth 64 := by decide
  rw [hlevel, show (0x1C#64 : Word) = (0x1C#5).setWidth 64 from rfl, and_setWidth_low, ← hfields,
    getLsbD_low (k := 5) v (i := 4) (by decide), getLsbD_low (k := 5) v (i := 3) (by decide), getLsbD_low (k := 5) v (i := 2) (by decide)]

def fstatusOf (fpeie : Bool) (fppl : BitVec 2) : Word := BitVec.ofNat 64 (pack [(2, 1, fpeie.toNat), (0, 2, fppl.toNat)])
theorem fstatusOf_write (fpeie : Bool) (fppl : BitVec 2) (v : Word) :
    fstatusOf (v.getLsbD 2) (if v.setWidth 2 = 3#2 then fppl else v.setWidth 2) =
      if v &&& 3#64 = 3#64 then (v &&& 4#64) ||| (fstatusOf fpeie fppl &&& 3#64) else v &&& 7#64 := by
  have hlow : ∀ (x : BitVec 3) (a : Bool) (l : BitVec 2), fstatusOf (x.getLsbD 2) (if x.setWidth 2 = 3#2 then l else x.setWidth 2) =
      if (x &&& 3#3).setWidth 64 = 3#64 then (x &&& 4#3).setWidth 64 ||| (fstatusOf a l &&& 3#64) else (x &&& 7#3).setWidth 64 := by
    decide
  have htwo : v.setWidth 2 = (v.setWidth 3).setWidth 2 := by
    rw [BitVec.setWidth_setWidth_of_le]; decide
  rw [show (3#64 : Word) = (3#3).setWidth 64 from rfl, show (4#64 : Word) = (4#3).setWidth 64 from rfl,
    show (7#64 : Word) = (7#3).setWidth 64 from rfl, and_setWidth_low v 3#3, and_setWidth_low v 4#3, and_setWidth_low v 7#3,
    getLsbD_low (k := 3) v (i := 2) (by decide), htwo]
  exact hlow (v.setWidth 3) fpeie fppl

/-- The registers that some level may write. -/
theorem csr_writable {n lvl : Nat} (h : csrAllows n lvl = some .rw) :
    n ∈ [0x000, 0x001, 0x002, 0x003, 0x004, 0x005, 0x006, 0x007, 0x009, 0x00A, 0x012, 0x013, 0x014, 0x015,
      0x100, 0x101, 0x102, 0x103, 0x104] := by
  simp only [List.mem_cons, List.not_mem_nil, or_false]
  unfold csrAllows at h
  simp only [List.mem_cons, List.not_mem_nil, or_false] at h
  grind

theorem csrRead_write {s : State} {n lvl : Nat} (v : Word) (hn : csrAllows n lvl = some .rw) :
    csrRead (putCur s (seqOn (csrWrite (curCtx s) n v))) s.cur.cid n = csrAfter n (csrRead s s.cur.cid n) v := by
  have hctx : (putCur s (seqOn (csrWrite (curCtx s) n v))).ctx s.cur.cid = seqOn (csrWrite (curCtx s) n v) := curCtx_putCur _ _
  simp only [csrRead, hctx]
  have hmem := csr_writable hn
  clear hn hctx
  simp only [List.mem_cons, List.not_mem_nil, or_false] at hmem
  obtain rfl | rfl | rfl | rfl | rfl | rfl | rfl | rfl | rfl | rfl | rfl | rfl | rfl | rfl | rfl | rfl | rfl | rfl | rfl := hmem
  case inl => exact statusOf_write _ _ _ _ v
  case inr.inr.inr.inr.inr.inr.inr.inr.inr.inr.inr.inr.inr.inr.inl => exact fstatusOf_write _ _ v
  all_goals rfl

/-- Settles O7: an access not granted traps; one that is granted reads, or writes the bits that a write may change. -/
theorem csrAccess : Obligations.CsrAccess := by
  intro s xd xa n hpl hn
  have hn' : n.toNat ≠ 8 := fun h => hn (BitVec.eq_of_toNat_eq h)
  have hacc : csrAcc (s.ctx s.cur.cid).pl n.toNat = csrAllows n.toNat (curCtx s).pl.toNat := csrAcc_eq_csrAllows hpl hn'
  generalize hall : csrAllows n.toNat (curCtx s).pl.toNat = acc at hacc
  simp only [exec_seqCsrrd_eq, exec_seqCsrwr_eq, execSeqCsrrd, execSeqCsrwr, anyLevel, hacc, hall, wordOf_seqCsrrd, wordOf_seqCsrwr]
  cases acc with
  | none => exact ⟨rfl, rfl⟩
  | some acc =>
    cases acc with
    | priv => exact ⟨rfl, rfl⟩
    | ro => exact ⟨rfl, rfl⟩
    | rw => exact ⟨rfl, _, rfl, csrWrite_x .., csrWrite_pc .., csrWrite_pl .., csrRead_write _ hall⟩

/-! ## Reset -/

/-- Settles O14. -/
theorem resetValues : Obligations.ResetValues := by
  refine ⟨rfl, rfl, rfl, fun _ => rfl, rfl, fun k => ?_, fun _ => rfl, fun _ => rfl, fun _ => rfl, fun k b hb => ?_, rfl, rfl⟩
  · have hctx : State.reset.ctx k = ctxInit k := rfl
    rw [hctx]
    repeat' constructor
  · have hbanks : (State.reset.cluster k).banks = List.replicate 16 {} := rfl
    rw [hbanks] at hb
    rw [List.eq_of_mem_replicate hb]
end Sys2Proof.Proofs
end

section
/-! Loads, stores and atomics of the sequencer (R212 to R215, R241, R242). -/

namespace Sys2Proof.Proofs

open Sys2Proof Sys2Proof.Machine Sys2Proof.Claim

/-! ## What the model and the statements call the same -/

theorem szBytes_eq (sz : Sz) : Sys2Proof.Claim.szBytes sz = sz.bytes := by cases sz <;> rfl
theorem finish_eq_done (s : State) (cid : Nat) : finish s cid = done s cid := rfl
theorem finishX_eq_doneX (s : State) (cid : Nat) (xd : XReg) (v : Nat) : finishX s cid xd v = doneX s cid xd (BitVec.ofNat 64 v) := rfl
theorem loadDone_eq_doneX (s : State) (cid : Nat) (xd : XReg) (v : Word) : loadDone s cid xd v = doneX s cid xd v := rfl

theorem extendTo_eq_loaded (k : Nat) (n : Bool) (v : Nat) : extendTo k n v = loaded k n v := by
  unfold extendTo loaded
  split
  · rfl
  · have hsgn : sgn (8 * k) v = (BitVec.ofNat (8 * k) v).toInt := by
      rw [← sgn_toNat, BitVec.toNat_ofNat, sgn, sgn, Nat.mod_mod]
    rw [ofNat_wrap, hsgn, BitVec.signExtend]

/-! ## Bytes of a stored word -/

theorem mread_mwriteN_inside (n : Nat) : ∀ {m : Memory} (a v j : Nat), m.wf = true → j < n →
    mread (mwriteN m a n v) (a + j) = BitVec.ofNat 8 (v / 256 ^ j) := by
  induction n with
  | zero => intro m a v j _ hj; exact absurd hj (Nat.not_lt_zero j)
  | succ n ih =>
    intro m a v j h hj
    have hw := mwrite_wf a (BitVec.ofNat 8 v) h
    cases j with
    | zero =>
      calc mread (mwriteN (mwrite m a (BitVec.ofNat 8 v)) (a + 1) n (v / 256)) a
          = mread (mwrite m a (BitVec.ofNat 8 v)) a := mread_mwriteN_outside _ _ _ _ hw (Or.inl (Nat.lt_succ_self a))
        _ = BitVec.ofNat 8 (v / 256 ^ 0) := by rw [mread_mwrite_same a _ h, Nat.pow_zero, Nat.div_one]
    | succ j =>
      have hadd : a + (j + 1) = a + 1 + j := by omega
      rw [mwriteN, hadd, ih (a + 1) (v / 256) j hw (Nat.lt_of_succ_lt_succ hj), Nat.div_div_eq_div_mul, Nat.pow_succ']
theorem extractLsb'_byte (x : Word) (j : Nat) : x.extractLsb' (8 * j) 8 = BitVec.ofNat 8 (x.toNat / 256 ^ j) := by
  apply BitVec.eq_of_toNat_eq
  rw [BitVec.extractLsb'_toNat, BitVec.toNat_ofNat, Nat.shiftRight_eq_div_pow, Nat.pow_mul]

/-! ## A translation: its walk writes to the page tables and fires monitors, and nothing else of a context changes -/

/-- A context without the mark that its monitor has fired. -/
def unwatched (s : State) (k : Nat) : Ctx := { s.ctx k with monFired := false }

theorem unwatched_congr {s t : State} (h : t.ctxs = s.ctxs) (k : Nat) : unwatched t k = unwatched s k := by
  unfold unwatched State.ctx; rw [h]
theorem tfind_tmap {α : Type} (f : Nat → α → α) (t : Tab α) (k : Nat) : tfind (tmap f t) k = (tfind t k).map (f k) := by
  induction t with
  | nil => rfl
  | cons x r ih =>
    obtain ⟨j, v⟩ := x
    rw [tmap, List.map_cons, tfind, tfind]
    split
    next h => subst h; rfl
    · exact ih
theorem unwatched_fireMonitors (s : State) (sec k : Nat) : unwatched (fireMonitors s sec) k = unwatched s k := by
  have hctx : (fireMonitors s sec).ctx k =
      ((tfind s.ctxs k).map (fun c => if c.mon = some sec then { c with monFired := true } else c)).getD (ctxInit k) := by
    simp only [State.ctx, fireMonitors, tget, tfind_tmap]
  unfold unwatched
  rw [hctx, State.ctx, tget]
  cases tfind s.ctxs k with
  | none => rfl
  | some c =>
    simp only [Option.map_some, Option.getD_some]
    split
    · rfl
    · rfl
theorem unwatched_touchLine (s : State) (o k : Nat) : unwatched (touchLine s o) k = unwatched s k := by
  unfold touchLine
  refine unwatched_congr ?_ k
  dsimp only
  split
  · rfl
  · split
    · rfl
    · rfl
theorem unwatched_homeWrite (s : State) (off mask data kslot k : Nat) : unwatched (homeWrite s off mask data kslot) k = unwatched s k := by
  have h : unwatched (fireMonitors (touchLine s off) (paOf s off)) k = unwatched s k := by
    rw [unwatched_fireMonitors, unwatched_touchLine]
  rw [← h]
  refine unwatched_congr ?_ k
  unfold homeWrite
  dsimp only
  split
  · rfl
  · split
    · rfl
    · rfl
theorem unwatched_homePut (s : State) (off mask data kslot k : Nat) : unwatched (homePut s off mask data kslot) k = unwatched s k := by
  rw [homePut, unwatched_homeWrite]
  refine unwatched_congr ?_ k
  unfold takeBack
  split
  · rfl
  · rfl
theorem unwatched_devWriteAux (fuel : Nat) (s : State) (pa kslot : Nat) (l : Bytes) (k : Nat) :
    unwatched (devWriteAux fuel s pa kslot l) k = unwatched s k := by
  fun_induction devWriteAux fuel s pa kslot l with
  | case1 => rfl
  | case2 => rfl
  | case3 n s pa kslot l _ lo m mask data t ih =>
    rw [ih]
    simp only [t]
    split
    · exact unwatched_homePut ..
    · cases s.linkUp.2
      · rfl
      · rfl
theorem unwatched_devReadF (s : State) (pa kslot n k : Nat) : unwatched (devReadF s pa kslot n).1 k = unwatched s k := by
  unfold devReadF
  split
  · rfl
  · rfl
theorem unwatched_devWrite (s : State) (pa kslot : Nat) (l : Bytes) (k : Nat) : unwatched (devWrite s pa kslot l) k = unwatched s k :=
  unwatched_devWriteAux ..
theorem unwatched_dlogAppend (s : State) (v : Vd) (level e k : Nat) : unwatched (dlogAppend s v level e) k = unwatched s k := by
  grind [dlogAppend, unwatched_devReadF, unwatched_devWrite]
theorem unwatched_setDirty (s : State) (v : Vd) (ea level e k : Nat) : unwatched (setDirty s v ea level e) k = unwatched s k := by
  grind [setDirty, unwatched_dlogAppend, unwatched_devWrite]
theorem unwatched_draw (s : State) (k : Nat) : unwatched s.draw.2 k = unwatched s k := rfl
theorem unwatched_readEntry (s : State) (w vd level va ea k : Nat) : unwatched (readEntry s w vd level va ea).1 k = unwatched s k := by
  grind [readEntry, unwatched_devReadF, unwatched_draw]
theorem unwatched_walkPut (s : State) (w vd level va e k : Nat) : unwatched (walkPut s w vd level va e) k = unwatched s k := rfl
theorem unwatched_walkFrom (s : State) (w vd : Nat) (v : Vd) (va : Nat) (write wport : Bool) (fuel table k : Nat) :
    unwatched (walkFrom s w vd v va write wport fuel table).1 k = unwatched s k := by
  fun_induction walkFrom s w vd v va write wport fuel table <;>
    grind [unwatched_readEntry, unwatched_draw, unwatched_setDirty, unwatched_walkPut]
theorem unwatched_tlbPut (s : State) (a : Nat) (t : TlbEntry) (k : Nat) : unwatched (tlbPut s a t) k = unwatched s k := by
  refine unwatched_congr ?_ k
  unfold tlbPut
  dsimp only
  split
  · rfl
  · rfl
theorem unwatched_tlbFill (s : State) (a : Nat) (t : TlbEntry) (k : Nat) : unwatched (tlbFill s a t) k = unwatched s k := by
  grind [tlbFill, unwatched_tlbPut]
theorem unwatched_walkMiss (s : State) (unit vd : Nat) (v : Vd) (a : Nat) (write wport : Bool) (k : Nat) :
    unwatched (walkMiss s unit vd v a write wport).1 k = unwatched s k := by
  grind [walkMiss, unwatched_walkFrom, unwatched_tlbFill]
theorem unwatched_translateAny (s : State) (unit vd : Nat) (va : Word) (write wport : Bool) (k : Nat) :
    unwatched (translateAny s unit vd va write wport).1 k = unwatched s k := by
  grind [translateAny, unwatched_walkMiss, unwatched_tlbPut]
theorem unwatched_translateFor (s : State) (unit vd : Nat) (va : Word) (write wport blk : Bool) (k : Nat) :
    unwatched (translateFor s unit vd va write wport blk).1 k = unwatched s k := by
  grind [translateFor, unwatched_translateAny]
theorem unwatched_ctxTranslate (s : State) (cid : Nat) (va : Word) (write : Bool) (k : Nat) :
    unwatched (ctxTranslate s cid va write).1 k = unwatched s k := unwatched_translateFor ..
theorem vdn_ctxTranslate {s s1 : State} {cid : Nat} {va : Word} {write : Bool} {r : TRes} (h : ctxTranslate s cid va write = (s1, r))
    (k : Nat) : (s1.ctx k).vdn = (s.ctx k).vdn := by
  have hk := unwatched_ctxTranslate s cid va write k
  rw [h] at hk
  have hvd : (unwatched s1 k).vdn = (unwatched s k).vdn := congrArg Ctx.vdn hk
  exact hvd

/-! ## At FIRM (R208) -/

section Firm
variable {s : State} {xa : XReg} {disp : BitVec 24} {sz : Sz}
  (hfirm : (curCtx s).pl = firm) (hal : (memAddr (curCtx s) xa disp).toNat % Sys2Proof.Claim.szBytes sz = 0)
include hfirm hal

theorem seqLoad_firm (xd : XReg) (n : Bool) (acq : Option Scope) :
    seqLoad xd xa sz n acq disp s = .next
      (if firmBad s (memAddr (curCtx s) xa disp).toNat (Sys2Proof.Claim.szBytes sz) then
        takeTrap s s.cur.cid 4 true (memAddr (curCtx s) xa disp) (curCtx s).pc
      else doneX (if acq.isSome then invalidate s (ctxCluster s.cur.cid) else s) s.cur.cid xd
        (loaded (Sys2Proof.Claim.szBytes sz) n (mreadN s.fmem (memAddr (curCtx s) xa disp).toNat (Sys2Proof.Claim.szBytes sz)))) := by
  rw [szBytes_eq] at hal ⊢
  rw [← extendTo_eq_loaded]
  exact congrArg _ ((if_neg (not_not_intro hal)).trans (if_pos hfirm))

theorem seqStore_firm (xb : XReg) (rel : Option Scope) :
    seqStore xa xb sz rel disp s = .next
      (if rel.isSome && ownAny s s.cur.cid then s
      else done (firmPut s (memAddr (curCtx s) xa disp) (Sys2Proof.Claim.szBytes sz) ((curCtx s).getX xb).toNat) s.cur.cid) := by
  rw [szBytes_eq] at hal ⊢
  exact congrArg _ ((if_neg (not_not_intro hal)).trans (if_pos hfirm))
end Firm

/-- Settles O16. -/
theorem firmwareAccess : Obligations.FirmwareAccess := by
  intro s xd xa xb sz n sc disp
  dsimp only
  intro hwf hfirm hal
  rw [exec_seqLd_eq, exec_seqLda_eq, exec_seqSt_eq, exec_seqStl_eq, execSeqLd, execSeqLda, execSeqSt, execSeqStl,
    seqLoad_firm hfirm hal, seqLoad_firm hfirm hal, seqStore_firm hfirm hal, seqStore_firm hfirm hal]
  refine ⟨fun h => ?_, fun h => ?_, fun h => ?_, _, rfl, fun h => ?_, rfl, fun j hj => ?_, fun b hb => ?_, rfl⟩
  · rw [h]; exact ⟨rfl, rfl⟩
  · rw [h]; exact ⟨rfl, rfl⟩
  · rw [h]; rfl
  · rw [h]; rfl
  · rw [extractLsb'_byte]
    exact mread_mwriteN_inside _ _ _ _ hwf hj
  · exact mread_mwriteN_outside _ _ _ _ hwf hb

/-! ## At USER and SUPER -/

section Virtual
variable {s s1 : State} {xa : XReg} {disp : BitVec 24} {sz : Sz} {pa kslot cp : Nat} {opo : Bool}

theorem ctxAccess_ok {s s1 : State} {cid : Nat} {va : Word} {acc pa kslot cp : Nat} {opo : Bool}
    (h : ctxTranslate s cid va (acc == faWrite || acc == faAtomic) = (s1, .ok pa kslot cp opo)) (k : State → Nat → Nat → Nat → State) :
    ctxAccess s cid va acc k = k s1 pa kslot cp := by
  unfold ctxAccess ctxAccessS
  unfold ctxTranslate at h
  rw [h]

theorem seqLoad_virtual {s2 s3 : State} {v : Lanes} {xd : XReg} {n : Bool} {acq : Option Scope} (hv : (curCtx s).pl ≠ firm)
    (hal : (memAddr (curCtx s) xa disp).toNat % Sys2Proof.Claim.szBytes sz = 0)
    (ht : ctxTranslate s s.cur.cid (memAddr (curCtx s) xa disp) false = (s1, .ok pa kslot cp opo))
    (hown : ownPending s1 s.cur.cid (pa / 32 * 32) = false) (hr : reaches s1 (.ctx s.cur.cid) (pa / 32 * 32) cp = (s2, true))
    (hl : loadSector s2 (.ctx s.cur.cid) (curCtx s).vdn (pa / 32 * 32) kslot cp acq = (s3, v, false)) :
    seqLoad xd xa sz n acq disp s = .next (doneX (if acq.isSome then invalidate s3 (ctxCluster s.cur.cid) else s3) s.cur.cid xd
      (loaded (Sys2Proof.Claim.szBytes sz) n
        (v.extractLsb' (8 * (pa % 32)) (8 * Sys2Proof.Claim.szBytes sz)).toNat)) := by
  rw [szBytes_eq] at hal ⊢
  have hbits : (v.extractLsb' (8 * (pa % 32)) (8 * sz.bytes)).toNat = bits v.toNat (8 * (pa % 32)) (8 * sz.bytes) := by
    rw [BitVec.extractLsb'_toNat, Nat.shiftRight_eq_div_pow]; rfl
  rw [hbits, ← extendTo_eq_loaded]
  refine congrArg _ ((if_neg (not_not_intro hal)).trans ((if_neg hv).trans ((ctxAccess_ok ht _).trans ?_)))
  dsimp only
  rw [hown, hr]
  dsimp only
  rw [show loadSector s2 (.ctx s.cur.cid) (s.ctx s.cur.cid).vdn (pa / 32 * 32) kslot cp acq = (s3, v, false) from hl]
  rfl

/-- Settles O17. -/
theorem virtualLoad : Obligations.VirtualLoad := by
  intro s s1 s2 s3 s4 xd xa sz n sc disp pa kslot cp opo v w
  dsimp only
  intro hv hal ht hown hr
  rw [exec_seqLd_eq, exec_seqLda_eq]
  exact ⟨fun hl => seqLoad_virtual hv hal ht hown hr hl, fun hl => seqLoad_virtual (acq := some sc) hv hal ht hown hr hl⟩

/-! ### What an access on its way leaves in memory -/

theorem answerLoad_mems (s : State) (p : Packet) (v : Lanes) (ue : Bool) :
    (answerLoad s p v ue).mem = s.mem ∧ (answerLoad s p v ue).fmem = s.fmem := by
  grind [answerLoad, invalidate, State.modCluster_mem, State.modCluster_fmem, State.send_mem, State.send_fmem]
theorem cachePut_mems (s : State) (c sec : Nat) (v : Lanes) : (cachePut s c sec v).mem = s.mem ∧ (cachePut s c sec v).fmem = s.fmem := by
  unfold cachePut
  dsimp only
  split
  · exact ⟨rfl, rfl⟩
  · exact ⟨rfl, rfl⟩
theorem remoteAnswer_mems (s : State) (p : Packet) : (remoteAnswer s p).mem = s.mem ∧ (remoteAnswer s p).fmem = s.fmem := by
  grind [remoteAnswer, cachePut_mems, answerLoad_mems, State.draw_state, State.send_mem, State.send_fmem]
theorem remoteCopy_mems (s : State) (p : Packet) : (remoteCopy s p).mem = s.mem ∧ (remoteCopy s p).fmem = s.fmem := by
  grind [remoteCopy, updateCopy, State.modCluster_mem, State.modCluster_fmem]
theorem toNet_mems (s : State) (p : Packet) : (toNet s p).mem = s.mem ∧ (toNet s p).fmem = s.fmem := by
  grind [toNet, leave, State.linkUp, State.draw_state, State.emitPacket, answerLoad_mems, remoteAnswer_mems, remoteCopy_mems,
    State.send_mem, State.send_fmem, State.emit_mem, State.emit_fmem]
theorem issueCtx_mems (s : State) (cid : Nat) (f : Fx) (k : Option Nat) :
    (issueCtx s cid f k).mem = s.mem ∧ (issueCtx s cid f k).fmem = s.fmem := by
  cases k with
  | none => exact toNet_mems ..
  | some k =>
    unfold issueCtx
    grind [toNet_mems, State.setCtx_mem, State.setCtx_fmem]

theorem seqStore_virtual {xb : XReg} {rel : Option Scope} (hv : (curCtx s).pl ≠ firm)
    (hal : (memAddr (curCtx s) xa disp).toNat % Sys2Proof.Claim.szBytes sz = 0)
    (ht : ctxTranslate s s.cur.cid (memAddr (curCtx s) xa disp) true = (s1, .ok pa kslot cp opo))
    (hroom : ctxRoom s1 s.cur.cid pa (ctxStrand s1 s.cur.cid pa) = true) :
    seqStore xa xb sz rel disp s = .next (done (issueCtx s1 s.cur.cid
      (.store (subAccess pa (Sys2Proof.Claim.szBytes sz) kslot ((curCtx s).getX xb) rel false)) (ctxStrand s1 s.cur.cid pa)) s.cur.cid) := by
  rw [szBytes_eq] at hal ⊢
  exact congrArg _ ((if_neg (not_not_intro hal)).trans ((if_neg hv).trans ((ctxAccess_ok ht _).trans (if_pos hroom))))

/-- Settles O18. -/
theorem virtualStore : Obligations.VirtualStore := by
  intro s s1 xa xb sz sc disp pa kslot cp opo
  dsimp only
  intro hv hal ht hroom
  rw [exec_seqSt_eq, exec_seqStl_eq]
  exact ⟨_, _, seqStore_virtual hv hal ht hroom, seqStore_virtual hv hal ht hroom, rfl, rfl,
    (issueCtx_mems ..).1, (issueCtx_mems ..).2, (issueCtx_mems ..).1, (issueCtx_mems ..).2⟩

/-! ### Invocations -/

theorem invoke_virtual {s s1 : State} {xd : XReg} {a op : Word} {h pa kslot cp : Nat} {opo : Bool} (w32 waits acq rel : Bool)
    (hv : (curCtx s).pl ≠ firm) (hal : a.toNat % handlerBytes h = 0) (ht : ctxTranslate s s.cur.cid a (h != 15) = (s1, .ok pa kslot cp opo)) :
    invoke s s.cur.cid xd a h op w32 waits acq rel =
      let t := issueCtx s1 s.cur.cid (.invoke (ctxMsg s1 s.cur.cid h op w32 waits rel false pa kslot)) none
      if waits then t.setCtx s.cur.cid { t.ctx s.cur.cid with wait := .atomic xd acq a } else done t s.cur.cid := by
  refine (if_neg (not_not_intro hal)).trans ((if_neg hv).trans ?_)
  rw [show translate s (tlbCluster (ctxCluster s.cur.cid)) (s.ctx s.cur.cid).vdn a (h != 15) false = (s1, .ok pa kslot cp opo) from ht]
  rw [ctxMsg, vdn_ctxTranslate ht]
  rfl

theorem handler32_eq (n : Nat) : handler32 n = decide (n = 1 ∨ n = 11) := by simp [handler32, Bool.beq_eq_decide_eq]
/-- The operand size that AMO needs is that of its handler. -/
theorem amo_operand {sz : Sz} {n : Nat} (h : if n < 16 then (sz = .b4 ↔ n = 1 ∨ n = 11) ∧ (sz = .b8 ↔ ¬ (n = 1 ∨ n = 11)) else sz = .b4 ∨ sz = .b8) :
    (if n < 16 then sz == (if handler32 n then .b4 else .b8) else sz == .b4 || sz == .b8) = true ∧
    (sz == .b4 && decide (n < 16)) = decide (n = 1 ∨ n = 11) := by
  rw [handler32_eq]
  by_cases hn : n < 16
  · rw [if_pos hn] at h ⊢
    by_cases hw : n = 1 ∨ n = 11
    · obtain rfl := h.1.mpr hw
      simp [hn, hw]
    · obtain rfl := h.2.mpr hw
      simp [hw]
  · have hw : ¬ (n = 1 ∨ n = 11) := by omega
    rw [if_neg hn] at h ⊢
    obtain rfl | rfl := h
    · simp [hn, hw]
    · simp [hn, hw]

/-- Settles O19. -/
theorem invocations : Obligations.Invocations := by
  intro s s1 xd xa xb sz sc o h disp fl pa kslot cp opo
  dsimp only
  intro hv
  refine ⟨fun hsz hal ht => ?_, fun hal ht => ?_, fun hfl hw hnr hal ht => ?_⟩
  · obtain ⟨hok, hw32⟩ := amo_operand hsz
    have hacq : (o == .acq || o == .ar) = decide (o = .acq ∨ o = .ar) := by simp [Bool.beq_eq_decide_eq]
    have hrel : (o == .rel || o == .ar) = decide (o = .rel ∨ o = .ar) := by simp [Bool.beq_eq_decide_eq]
    have hwaits : (decide (o = .acq ∨ o = .ar) || xd.val != 0) = decide (xd.val ≠ 0 ∨ o = .acq ∨ o = .ar) := by
      simp [Bool.or_comm, bne, Bool.beq_eq_decide_eq]
    rw [exec_seqAmo_eq, execSeqAmo, anyLevel]
    dsimp only
    rw [hok, hw32, hacq, hrel, hwaits]
    refine congrArg _ ((invoke_virtual _ _ _ _ hv hal ht).trans ?_)
    by_cases hx : xd.val ≠ 0 ∨ o = .acq ∨ o = .ar
    · rw [decide_eq_true hx, if_pos hx]; rfl
    · rw [decide_eq_false hx, if_neg hx]; rfl
  · rw [exec_seqExpect_eq, execSeqExpect, anyLevel]
    exact congrArg _ (invoke_virtual (h := 14) false false false false hv hal ht)
  · have hn : (BitVec.ofNat 8 h.val).toNat = h.val := by rw [BitVec.toNat_ofNat]; omega
    have hw32 : fl.getLsbD 1 = decide (h.val = 1 ∨ h.val = 11) := by rw [Bool.eq_iff_iff, hw, decide_eq_true_iff]
    have hsize : (handler32 h.val && decide (h.val < 16)) = decide (h.val = 1 ∨ h.val = 11) := by
      rw [handler32_eq, ← Bool.decide_and, decide_eq_decide]; omega
    have hok : ¬ (31 < h.val ∨ 4 ≤ fl.toNat ∨ fl.getLsbD 1 ≠ (handler32 h.val && decide (h.val < 16)) ∨ (fl.getLsbD 0 = true ∧ xd.val ≠ 0)) := by
      rw [hw32, hsize]
      rintro (h31 | h4 | hne | ⟨h0, hx⟩)
      · omega
      · omega
      · exact hne rfl
      · exact hx (hnr h0)
    rw [exec_seqAmsend_eq, execSeqAmsend, anyLevel]
    dsimp only
    rw [hn, if_neg hok, hw32]
    refine congrArg _ ((invoke_virtual _ _ _ _ hv hal ht).trans ?_)
    cases fl.getLsbD 0
    · rfl
    · rfl
end Virtual

end Sys2Proof.Proofs
end

section
/-! What sequencers wait for: results of atomics, fences, monitors, strands, barriers and events (R206, R215 to R218, R236 to R238, R243
to R247). -/

namespace Sys2Proof.Proofs

open Sys2Proof Sys2Proof.Machine Sys2Proof.Claim

/-! ## Results of atomics (R215, R212) -/

@[simp] theorem wait_takeTrap (s : State) (cid cause : Nat) (ue : Bool) (v epc : Word) :
    ((takeTrap s cid cause ue v epc).ctx cid).wait = .none := by
  unfold takeTrap
  dsimp only
  split
  · rw [State.ctx_setCtx]
  · split
    · rw [State.ctx_setCtx]
    · exact congrArg Ctx.wait (State.ctx_setCtx ..)

theorem ctxUe_raised {s : State} {cid acc : Nat} {va : Word}
    (h : canRaise s (s.ctx cid).vdn (seqFaultRec s (ctxCluster cid) (s.ctx cid).vdn cid va 0 true true false 0 acc) = true) :
    ctxUe s cid va acc = takeTrap (raise s (s.ctx cid).vdn (seqFaultRec s (ctxCluster cid) (s.ctx cid).vdn cid va 0 true true false 0 acc))
      cid 4 true va (s.ctx cid).pc := if_pos h
theorem ctxUe_held {s : State} {cid acc : Nat} {va : Word}
    (h : canRaise s (s.ctx cid).vdn (seqFaultRec s (ctxCluster cid) (s.ctx cid).vdn cid va 0 true true false 0 acc) = false) :
    ctxUe s cid va acc = s := if_neg (by rw [h]; exact Bool.false_ne_true)

/-- Settles O20. -/
theorem atomicResult : Obligations.AtomicResult := by
  intro s k cid x val null psn pa xd acq va ue hx hbody hwait
  dsimp only
  rw [exec_seqAtomicResult_eq, execSeqAtomicResult, hx]
  dsimp only
  rw [hbody]
  dsimp only
  rw [hwait]
  dsimp only
  refine ⟨fun hue => ?_, fun hue hcan => ?_, fun hue hcan hrun => ?_⟩
  · rw [if_neg (by rw [hue]; exact Bool.false_ne_true)]
    rfl
  · rw [if_pos hue, ctxUe_raised (acc := faAtomic) hcan, if_pos (Or.inl (wait_takeTrap ..))]
    rfl
  · have hstays : ¬ (((s.dropPacket k).ctx cid).wait = .none ∨ ((s.dropPacket k).ctx cid).run ≠ .running) := by
      rintro (h | h)
      · exact absurd (hwait.symm.trans h) Wait.noConfusion
      · exact h hrun
    rw [if_pos hue, ctxUe_held (acc := faAtomic) hcan, if_neg hstays]

/-! ## FENCE, MON and MWAIT -/

theorem exec_seqFence (sc : Scope) (o : Ord) (s : State) : exec (.seqFence sc o) s = .next
    (if (if o = .rel ∨ o = .ar then ownAny s s.cur.cid else ownAtomic s s.cur.cid) then s
      else done (if o = .acq ∨ o = .ar then invalidate s (ctxCluster s.cur.cid) else s) s.cur.cid) := by
  rw [exec_seqFence_eq]
  cases o <;> rfl

theorem monitorFired_fired {s : State} {cid : Nat} (h : (s.ctx cid).monFired = true) : monitorFired s cid = (s, true) := by
  unfold monitorFired
  simp only [h]
  split
  · rfl
  · rfl
theorem monitorFired_near {s : State} {cid sec : Nat} (hm : (s.ctx cid).mon = some sec) (h : (s.ctx cid).monFired = false)
    (hsec : sec / 2 ^ 44 = s.posN ∨ 2 ^ 60 ≤ sec) : monitorFired s cid = (s, false) := by
  unfold monitorFired
  simp only [hm, h]
  exact if_pos (by simpa using hsec)
/-- On a sector of another package the answer is free (log entry 4). -/
theorem monitorFired_far {s : State} {cid sec : Nat} (hm : (s.ctx cid).mon = some sec) (h : (s.ctx cid).monFired = false)
    (hsec : ¬ (sec / 2 ^ 44 = s.posN ∨ 2 ^ 60 ≤ sec)) : ∃ b, monitorFired s cid = ({ s with free := s.free + 1 }, b) := by
  unfold monitorFired
  simp only [hm, h]
  exact ⟨_, if_neg (by simpa using hsec)⟩

/-- The monitor disarmed, the status of R218 written and the instruction done. -/
def mwaitEnds (s : State) (cid : Nat) (xd : XReg) (st : Nat) : State :=
  s.setCtx cid { seqOn ((s.ctx cid).setX xd (BitVec.ofNat 64 st)) with mon := none, monFired := false }

theorem exec_seqMwait {s : State} {xd xb : XReg} (h : (curCtx s).mon ≠ none) : exec (.seqMwait xd xb) s = .next
    (match monitorFired s s.cur.cid with
      | (t, true) => mwaitEnds t s.cur.cid xd 0
      | (t, false) => t.setCtx s.cur.cid
          { curCtx s with wait := .mwait xd ((curCtx s).getX xb).toNat (t.ac (clusterDie (ctxCluster s.cur.cid))) }) := by
  have hn : (s.ctx s.cur.cid).mon.isNone = false := Option.isNone_eq_false_iff.mpr (Option.isSome_iff_ne_none.mpr h)
  rw [exec_seqMwait_eq, execSeqMwait, anyLevel, hn, if_neg Bool.false_ne_true]
  rfl
theorem exec_mwaitWake {s : State} {w limit since : Nat} {xd : XReg} (hw : (s.ctx w).wait = .mwait xd limit since)
    (hr : (s.ctx w).run = .running) : exec (.mwaitWake w) s = .next
    (match monitorFired s w with
      | (t, true) => mwaitEnds t w xd 0
      | (t, false) => t) := by
  rw [exec_mwaitWake_eq, execMwaitWake, hw]
  dsimp only
  rw [if_pos hr]
  rfl

/-- Settles O21: what MWAIT and its wake do is what the monitor answers. -/
theorem fenceAndMonitor : Obligations.FenceAndMonitor := by
  refine ⟨fun s sc o => ⟨fun h => ?_, fun h => ?_⟩, fun s xd xa xb disp w limit since => ?_⟩
  · rw [exec_seqFence, h]; rfl
  · rw [exec_seqFence, h]; rfl
  refine ⟨fun h => ?_, fun h s1 pa kslot cp opo ht => ?_, fun h => ?_, fun h hf => ?_, fun sec hm hf hs => ?_, fun sec hm hf hs => ?_,
    fun hw hr hf => ?_, fun sec hw hr hm hf => ⟨fun hs => ?_, fun hs => ?_⟩, fun hw hr hf h0 hl => ?_⟩
  · rw [exec_seqMon_eq]
    exact congrArg _ (if_pos h)
  · rw [exec_seqMon_eq]
    exact congrArg _ ((if_neg h).trans (ctxAccess_ok ht _))
  · rw [exec_seqMwait_eq]
    exact congrArg _ (if_pos (Option.isNone_iff_eq_none.mpr h))
  · rw [exec_seqMwait h, monitorFired_fired hf]
    rfl
  · rw [exec_seqMwait (hm ▸ Option.some_ne_none sec), monitorFired_near hm hf hs]
    rfl
  · obtain ⟨b, hb⟩ := monitorFired_far hm hf hs
    rw [exec_seqMwait (hm ▸ Option.some_ne_none sec), hb]
    cases b
    · exact Or.inl rfl
    · exact Or.inr rfl
  · rw [exec_mwaitWake hw hr, monitorFired_fired hf]
    rfl
  · rw [exec_mwaitWake hw hr, monitorFired_near hm hf hs]
  · obtain ⟨b, hb⟩ := monitorFired_far hm hf hs
    rw [exec_mwaitWake hw hr, hb]
    cases b
    · exact Or.inl rfl
    · exact Or.inr rfl
  · rw [exec_mwaitLimit_eq, execMwaitLimit, hw]
    exact congrArg _ (if_pos ⟨Nat.pos_iff_ne_zero.mp h0, hl, hf, hr⟩)

/-! ## Strands -/

/-- A translation that goes through, for an access that may end with a status. -/
theorem ctxAccessS_ok {s s1 : State} {cid : Nat} {va : Word} {acc pa kslot cp : Nat} {opo : Bool} {soft : Option (XReg × Nat)}
    (h : ctxTranslate s cid va (acc == faWrite || acc == faAtomic) = (s1, .ok pa kslot cp opo)) (k : State → Nat → Nat → Nat → State) :
    ctxAccessS s cid va acc soft k = k s1 pa kslot cp := by
  unfold ctxAccessS
  unfold ctxTranslate at h
  rw [h]

/-- A clasp that is not full takes a strand (R306). -/
theorem takeClasp_taken {s : State} {d key seq : Nat} (h : ¬ ((claspGet s d key).isNone = true ∧ 4096 ≤ (s.die d).clasp.length)) :
    (takeClasp s d key seq).2 = true := by
  unfold takeClasp
  split
  · rfl
  next hn =>
    have hnone : (claspGet s d key).isNone = true := by simpa using hn
    rw [if_neg (fun hlen => h ⟨hnone, hlen⟩)]

/-- Settles O22. -/
theorem strands : Obligations.Strands := by
  intro s s1 s2 xd xa xb k pa kslot cp opo w j
  dsimp only
  refine ⟨fun hv ht hdie => ?_, fun hv ht hdie => ?_, fun h => ?_, fun h hal hown => ?_, fun hv hal ht hroom => ?_, fun h => ?_, fun h => ?_,
    fun hw hr hi => ?_⟩
  · rw [exec_seqSopen_eq, execSeqSopen, anyLevel]
    refine congrArg _ ((if_neg hv).trans ((ctxAccessS_ok ht _).trans ?_))
    dsimp only
    rw [if_neg (not_not_intro hdie)]
    refine ite_congr (Bool.and_eq_true ..) (fun _ => rfl) (fun _ => ite_congr ?_ (fun _ => rfl) (fun hfull => ?_))
    · rw [Bool.and_eq_true, decide_eq_true_iff]; rfl
    · refine ite_congr rfl (fun _ => rfl) (fun _ => ?_)
      have htaken := takeClasp_taken (seq := tget (curCtx s).seqs (strandIdx k.val (dieKey pa)) 0) hfull
      simp only [ctxSix, curCtx] at htaken ⊢
      generalize takeClasp s1 (dieKey pa % 4) _ _ = r at htaken ⊢
      obtain ⟨t, b⟩ := r
      obtain rfl : b = true := htaken
      rfl
  · rw [exec_seqSopen_eq, execSeqSopen, anyLevel]
    refine ⟨fun hs => ?_, fun hs hl => ?_, fun hs hl => ⟨fun hup => ?_, fun hup => ?_⟩⟩
    · refine congrArg _ ((if_neg hv).trans ((ctxAccessS_ok ht _).trans ((if_pos hdie).trans (if_pos hs))))
    · have hseen := Option.not_isSome_iff_eq_none.mpr hs
      exact congrArg _ ((if_neg hv).trans ((ctxAccessS_ok ht _).trans ((if_pos hdie).trans ((if_neg hseen).trans (if_pos hl)))))
    · have hseen := Option.not_isSome_iff_eq_none.mpr hs
      have hlow := Option.not_isSome_iff_eq_none.mpr hl
      refine congrArg _ ((if_neg hv).trans ((ctxAccessS_ok ht _).trans ((if_pos hdie).trans ((if_neg hseen).trans ((if_neg hlow).trans ?_)))))
      rw [hup]
    · have hseen := Option.not_isSome_iff_eq_none.mpr hs
      have hlow := Option.not_isSome_iff_eq_none.mpr hl
      obtain h0 | h1 := Nat.mod_two_eq_zero_or_one (Config.freePick s2.free)
      · refine Or.inl (congrArg _ ((if_neg hv).trans ((ctxAccessS_ok ht _).trans ((if_pos hdie).trans ((if_neg hseen).trans
          ((if_neg hlow).trans ?_))))))
        simp only [hup, State.draw, State.emitPacket, State.emit, h0, if_true]
        rfl
      · refine Or.inr (congrArg _ ((if_neg hv).trans ((ctxAccessS_ok ht _).trans ((if_pos hdie).trans ((if_neg hseen).trans
          ((if_neg hlow).trans ?_))))))
        simp only [hup, State.draw, State.emitPacket, State.emit, h1, Nat.one_ne_zero, if_false]
        rfl
  · rw [exec_seqSopen_eq]
    exact congrArg _ (if_pos h)
  · rw [exec_seqSclose_eq]
    exact ⟨_, congrArg _ ((if_neg (not_not_intro hal)).trans ((if_pos h).trans (if_neg (by rw [hown]; exact Bool.false_ne_true)))), rfl⟩
  · rw [exec_seqSclose_eq]
    exact congrArg _ ((if_neg (not_not_intro hal)).trans ((if_neg hv).trans ((ctxAccess_ok ht _).trans (if_pos hroom))))
  · rw [exec_seqSbar_eq]
    exact congrArg _ (if_pos h)
  · rw [exec_seqSbar_eq]
    exact congrArg _ (if_neg (by rw [h]; exact Bool.false_ne_true))
  · rw [exec_sbarComplete_eq, execSbarComplete, hw]
    exact congrArg _ (if_pos ⟨hi, hr⟩)


/-! ## TRAP, FWCALL, HALT and events -/

theorem super_le_of_ne_user {pl : BitVec 2} (h : pl ≠ user) : super.toNat ≤ pl.toNat :=
  Nat.one_le_iff_ne_zero.mpr (fun h0 => h (BitVec.eq_of_toNat_eq h0))
theorem exec_seqFwcall {s : State} {svc : BitVec 16} (h : (curCtx s).pl ≠ user ∨ svc.toNat < 0x8000) (xd xa : XReg) :
    exec (.seqFwcall xd xa svc) s = .next
      (if fwDefined svc.toNat then
        { s.setCtx s.cur.cid { curCtx s with wait := .fwcall xd } with
          hub := { s.hub with fwq := s.hub.fwq ++ [⟨s.cur.cid, xd, svc.toNat, (curCtx s).getX xa⟩] } }
      else doneX s s.cur.cid xd (BitVec.allOnes 64)) := by
  have hlvl : (if 0x8000 ≤ svc.toNat then super else user).toNat ≤ (curCtx s).pl.toNat := by
    split
    next hsvc =>
      obtain hpl | hlt := h
      · exact super_le_of_ne_user hpl
      · omega
    next => exact Nat.zero_le _
  rw [exec_seqFwcall_eq, execSeqFwcall, atLevel_granted hlvl]
  rfl

/-- The lowest pending event is found when none below it is pending. -/
theorem find?_range_lowest {p : Nat → Bool} {n i : Nat} (hi : i < n) (hp : p i = true) (hlow : ∀ j, j < i → p j = false) :
    (List.range n).find? p = some i := by
  rw [List.find?_range_eq_some]
  exact ⟨hp, List.mem_range.mpr hi, fun j hj => by rw [hlow j hj]; rfl⟩

/-- Settles O29. -/
theorem systemInstructions : Obligations.SystemInstructions := by
  intro s xd xa code svc w i
  dsimp only
  refine ⟨exec_seqTrap_eq code s, fun hl hd => ?_, fun hl hd => ?_, fun hl => ?_, fun hrun heie hpl hwait hi hev hlow => ?_⟩
  · rw [exec_seqFwcall hl, if_pos hd]
    exact ⟨_, rfl, State.ctx_setCtx .., rfl⟩
  · rw [exec_seqFwcall hl, if_neg (by rw [hd]; exact Bool.false_ne_true)]
  · rw [exec_seqHalt_eq, execSeqHalt, atLevel_granted (super_le_of_ne_user hl)]
    rfl
  · have hne : (s.ctx w).event &&& (s.ctx w).evmask ≠ 0 := fun h0 => by rw [h0] at hev; simp at hev
    have hdue : eventDue (s.ctx w) = some i := (if_pos ⟨heie, hpl, hne⟩).trans (find?_range_lowest hi hev hlow)
    have hopen : ¬ ((s.ctx w).run ≠ .running ∨ (s.ctx w).wait.open = false) := by
      rw [hwait]
      exact fun h => h.elim (fun hr => hr hrun) Bool.noConfusion
    have hcause : pack [(63, 1, 1), (8, 4, i)] = 2 ^ 63 + i % 16 * 2 ^ 8 := by simp [pack]
    rw [exec_eventEntry_eq, execEventEntry, enterEvent]
    dsimp only
    rw [hdue]
    dsimp only
    rw [if_neg hopen, hwait, hcause]

/-! ## Barriers -/

/-- The barrier object after one more arrival (R243). -/
def arrived (v : Nat) : Nat :=
  let g := bits v 96 32
  let n := bits v 64 32
  let arr := bits v 0 32
  if (arr + 1) % 2 ^ 32 = n then pack [(96, 32, g + 1), (64, 32, n), (32, 32, bits v 32 32)]
  else pack [(96, 32, g), (64, 32, n), (32, 32, bits v 32 32), (0, 32, arr + 1)]

theorem bits_lt_pow (v lo n : Nat) : bits v lo n < 2 ^ n := Nat.mod_lt _ (Nat.two_pow_pos n)
theorem arrived_lt (v : Nat) : arrived v < 256 ^ 16 := by
  have hg := bits_lt_pow v 96 32
  simp only [arrived, pack]
  split <;> omega
theorem bits_arrived_generation (v : Nat) : bits (arrived v) 96 32 =
    if (bits v 0 32 + 1) % 2 ^ 32 = bits v 64 32 then (bits v 96 32 + 1) % 2 ^ 32 else bits v 96 32 := by
  have hg := bits_lt_pow v 96 32
  have hn := bits_lt_pow v 64 32
  simp only [arrived, pack]
  generalize bits v 96 32 = g at *
  generalize bits v 64 32 = n at *
  split <;> (unfold bits; omega)
theorem bits_arrived_participants (v : Nat) : bits (arrived v) 64 32 = bits v 64 32 := by
  have hg := bits_lt_pow v 96 32
  have hn := bits_lt_pow v 64 32
  simp only [arrived, pack]
  generalize bits v 96 32 = g at *
  generalize bits v 64 32 = n at *
  split <;> (unfold bits; omega)
theorem bits_arrived_arrivals (v : Nat) : bits (arrived v) 0 32 =
    if (bits v 0 32 + 1) % 2 ^ 32 = bits v 64 32 then 0 else (bits v 0 32 + 1) % 2 ^ 32 := by
  have hg := bits_lt_pow v 96 32
  have hn := bits_lt_pow v 64 32
  simp only [arrived, pack]
  generalize bits v 96 32 = g at *
  generalize bits v 64 32 = n at *
  split <;> (unfold bits; omega)

/-- The state in which an arrival at FIRM is counted and the context waits. -/
def arrivedFirm (s : State) (cid : Nat) (a : Word) (sc : Scope) : State :=
  (fireMonitors { s with fmem := mwriteN s.fmem a.toNat 16 (arrived (mreadN s.fmem a.toNat 16)) } (firmSector a)).modCtx cid
    (fun c => { c with wait := .bar sc none, bara := a ||| 1, barg := BitVec.ofNat 64 (bits (mreadN s.fmem a.toNat 16) 96 32) })
theorem fmem_arrivedFirm (s : State) (cid : Nat) (a : Word) (sc : Scope) :
    (arrivedFirm s cid a sc).fmem = mwriteN s.fmem a.toNat 16 (arrived (mreadN s.fmem a.toNat 16)) := by
  rw [arrivedFirm, State.modCtx_fmem, fireMonitors]
theorem mreadN_arrivedFirm {s : State} (h : s.fmem.wf = true) (cid : Nat) (a : Word) (sc : Scope) :
    mreadN (arrivedFirm s cid a sc).fmem a.toNat 16 = arrived (mreadN s.fmem a.toNat 16) := by
  rw [fmem_arrivedFirm, mreadN_mwriteN _ _ _ h, Nat.mod_eq_of_lt (arrived_lt _)]
theorem ctx_fireMonitors_fmem (s : State) (m : Memory) (sec k : Nat) :
    (fireMonitors { s with fmem := m } sec).ctx k = (fireMonitors s sec).ctx k := rfl
theorem ctx_firmPut (s : State) (a : Word) (n v k : Nat) : (firmPut s a n v).ctx k = (fireMonitors s (firmSector a)).ctx k :=
  ctx_fireMonitors_fmem ..
theorem ctx_arrivedFirm (s : State) (cid : Nat) (a : Word) (sc : Scope) : (arrivedFirm s cid a sc).ctx cid =
    { (firmPut s a 16 0).ctx cid with
      wait := .bar sc none, bara := a ||| 1, barg := BitVec.ofNat 64 (bits (mreadN s.fmem a.toNat 16) 96 32) } := by
  rw [arrivedFirm, State.ctx_modCtx, ctx_fireMonitors_fmem, ctx_firmPut]
theorem exec_seqBar_arrives {s : State} {xa : XReg} {sc : Scope} (hal : ((curCtx s).getX xa).toNat % 16 = 0)
    (hb : (curCtx s).bara ≠ (curCtx s).getX xa ||| 1) (hf : (curCtx s).pl = firm) (hown : ownAny s s.cur.cid = false)
    (hbad : firmBad s ((curCtx s).getX xa).toNat 16 = false) (hn : bits (mreadN s.fmem ((curCtx s).getX xa).toNat 16) 64 32 ≠ 0) :
    exec (.seqBar xa sc) s = .next (arrivedFirm s s.cur.cid ((curCtx s).getX xa) sc) := by
  unfold curCtx at *
  rw [exec_seqBar_eq, execSeqBar, anyLevel, arrivedFirm]
  dsimp only
  rw [if_neg (not_not_intro hal), if_neg hb, if_pos hf, if_neg (Bool.not_eq_true _ ▸ hown), if_neg (Bool.not_eq_true _ ▸ hbad), if_neg hn]
  simp only [arrived]

/-- Settles O30. -/
theorem barrier : Obligations.Barrier := by
  refine ⟨fun s xa sc sc' w => ?_, fun s s1 s2 s3 xa sc sc' pa kslot cp opo w k x val null psn ra v b => ?_⟩
  · dsimp only
    refine ⟨fun hwf hal hb hf hown hbad hn => ?_, fun hal hb hf hown hbad hn => ?_, fun hal hb hf hown => ?_, fun hw hr hf hbad hg => ?_⟩
    · rw [exec_seqBar_arrives hal hb hf hown hbad hn]
      refine ⟨_, rfl, ctx_arrivedFirm .., ?_, ?_, ?_⟩
      · rw [mreadN_arrivedFirm hwf, bits_arrived_generation]
      · rw [mreadN_arrivedFirm hwf, bits_arrived_participants]
      · rw [mreadN_arrivedFirm hwf, bits_arrived_arrivals]
    · rw [exec_seqBar_eq]
      exact congrArg _ ((if_neg (not_not_intro hal)).trans ((if_neg hb).trans ((if_pos hf).trans ((if_neg (Bool.not_eq_true _ ▸ hown)).trans
        ((if_neg (Bool.not_eq_true _ ▸ hbad)).trans (if_pos hn))))))
    · rw [exec_seqBar_eq]
      exact congrArg _ ((if_neg (not_not_intro hal)).trans ((if_neg hb).trans ((if_pos hf).trans (if_pos hown))))
    · rw [exec_barComplete_eq, execBarComplete]
      dsimp only
      rw [hw]
      exact (if_neg (not_not_intro hr)).trans ((if_pos hf).trans (congrArg _
        ((if_neg (Bool.not_eq_true _ ▸ hbad)).trans (if_neg hg))))
  · dsimp only
    refine ⟨fun hal hb hv ht hown => ?_, fun hal hb => ?_, fun hx hbody hwait => ⟨fun hbit => ?_, fun hbit => ?_⟩, fun hw hr hv ht hreach hsec hg => ?_⟩
    · rw [exec_seqBar_eq, ctxMsg, vdn_ctxTranslate ht]
      exact congrArg _ ((if_neg (not_not_intro hal)).trans ((if_neg hb).trans ((if_neg hv).trans ((ctxAccess_ok ht _).trans
        (if_neg (Bool.not_eq_true _ ▸ hown))))))
    · rw [exec_seqBar_eq]
      exact congrArg _ ((if_neg (not_not_intro hal)).trans (if_pos hb))
    · rw [exec_seqAtomicResult_eq, execSeqAtomicResult, hx]
      dsimp only
      rw [hbody]
      dsimp only
      rw [hwait]
      exact (if_neg Bool.false_ne_true).trans (congrArg _ (if_neg (Bool.not_eq_true _ ▸ hbit)))
    · rw [exec_seqAtomicResult_eq, execSeqAtomicResult, hx]
      dsimp only
      rw [hbody]
      dsimp only
      rw [hwait]
      exact (if_neg Bool.false_ne_true).trans (congrArg _ (if_pos hbit))
    · rw [exec_barComplete_eq, execBarComplete]
      dsimp only
      rw [hw]
      refine (if_neg (not_not_intro hr)).trans ((if_neg hv).trans (congrArg _ ((ctxAccess_ok ht _).trans ?_)))
      rw [show reaches s1 (.ctx w) (pa / 32 * 32) cpUncached = (s2, true) from hreach]
      dsimp only
      rw [hsec]
      exact if_neg hg

end Sys2Proof.Proofs
end

section
/-! The priority queue of a die (R239, R240). -/

namespace Sys2Proof.Proofs

open Sys2Proof Sys2Proof.Machine Sys2Proof.Claim

/-! ## The order of the entries -/

theorem pqInsert_perm (e : PqEntry) (l : List PqEntry) : (pqInsert e l).Perm (e :: l) := by
  induction l with
  | nil => exact List.Perm.refl _
  | cons x r ih =>
    rw [pqInsert]
    split
    · exact List.Perm.refl _
    · exact (ih.cons x).trans (List.Perm.swap e x r)

theorem pqInsert_pairwise {R : PqEntry → PqEntry → Prop} {e : PqEntry} {l : List PqEntry} (h : l.Pairwise R)
    (hbefore : ∀ x ∈ l, ∀ y ∈ l, e.key.toNat < x.key.toNat → (y = x ∨ R x y) → R e y)
    (hbehind : ∀ x ∈ l, ¬ e.key.toNat < x.key.toNat → R x e) : (pqInsert e l).Pairwise R := by
  induction l with
  | nil => exact List.pairwise_singleton _ _
  | cons x r ih =>
    obtain ⟨hx, hr⟩ := List.pairwise_cons.mp h
    rw [pqInsert]
    split
    next hlt =>
      refine List.pairwise_cons.mpr ⟨fun y hy => hbefore x List.mem_cons_self y hy hlt ?_, h⟩
      exact (List.mem_cons.mp hy).imp id (hx y)
    next hle =>
      refine List.pairwise_cons.mpr ⟨fun y hy => ?_, ih hr (fun a ha y hy => hbefore a (List.mem_cons_of_mem x ha) y (List.mem_cons_of_mem x hy))
        (fun a ha => hbehind a (List.mem_cons_of_mem x ha))⟩
      obtain rfl | hy := List.mem_cons.mp ((pqInsert_perm e r).mem_iff.mp hy)
      · exact hbehind x List.mem_cons_self hle
      · exact hx y hy

def keyLe (x y : PqEntry) : Prop := x.key.toNat ≤ y.key.toNat
/-- Ascending in the key, and in push order where the keys are equal. -/
def queued (x y : PqEntry) : Prop := x.key.toNat < y.key.toNat ∨ (x.key.toNat = y.key.toNat ∧ x.order < y.order)

theorem pqInsert_keyLe {e : PqEntry} {l : List PqEntry} (h : l.Pairwise keyLe) : (pqInsert e l).Pairwise keyLe :=
  pqInsert_pairwise h
    (fun _ _ _ _ hlt hy => hy.elim (fun hyx => hyx ▸ Nat.le_of_lt hlt) (fun hxy => Nat.le_trans (Nat.le_of_lt hlt) hxy))
    (fun _ _ hle => Nat.not_lt.mp hle)
theorem pqInsert_queued {e : PqEntry} {l : List PqEntry} (h : l.Pairwise queued) (hlast : ∀ x ∈ l, x.order < e.order) :
    (pqInsert e l).Pairwise queued := by
  refine pqInsert_pairwise h (fun x _ y _ hlt hy => ?_) (fun x hx hle => ?_)
  · obtain rfl | hxy | ⟨heq, -⟩ := hy
    · exact Or.inl hlt
    · exact Or.inl (Nat.lt_trans hlt hxy)
    · exact Or.inl (heq ▸ hlt)
  · obtain hlt | heq := Nat.lt_or_eq_of_le (Nat.not_lt.mp hle)
    · exact Or.inl hlt
    · exact Or.inr ⟨heq, hlast x hx⟩

/-- The entries put one by one into a queue. -/
def pqSort (l acc : List PqEntry) : List PqEntry := l.foldl (fun l e => pqInsert e l) acc

theorem pqSort_perm (l : List PqEntry) : ∀ acc, (pqSort l acc).Perm (l ++ acc) := by
  induction l with
  | nil => exact fun acc => List.Perm.refl acc
  | cons e r ih => exact fun acc => (ih _).trans (((pqInsert_perm e acc).append_left r).trans List.perm_middle)
theorem pqSort_keyLe (l : List PqEntry) : ∀ acc, acc.Pairwise keyLe → (pqSort l acc).Pairwise keyLe := by
  induction l with
  | nil => exact fun acc h => h
  | cons e r ih => exact fun acc h => ih _ (pqInsert_keyLe h)
theorem pqSort_queued (l : List PqEntry) : ∀ acc, acc.Pairwise queued → l.Pairwise (fun y z => y.order < z.order) →
    (∀ x ∈ acc, ∀ y ∈ l, x.order < y.order) → (pqSort l acc).Pairwise queued := by
  induction l with
  | nil => exact fun acc h _ _ => h
  | cons e r ih =>
    intro acc h hl hacc
    obtain ⟨he, hr⟩ := List.pairwise_cons.mp hl
    refine ih _ (pqInsert_queued h (fun x hx => hacc x hx e List.mem_cons_self)) hr (fun x hx y hy => ?_)
    obtain rfl | hx := List.mem_cons.mp ((pqInsert_perm e acc).mem_iff.mp hx)
    · exact he y hy
    · exact hacc x hx y (List.mem_cons_of_mem e hy)

/-- The entries of a virtual device in a die's queue. -/
def pqMine (d : Die) (vd : Nat) : List PqEntry := d.pq.filter (fun e => e.vd == vd)
theorem pqSorted_perm (d : Die) (vd : Nat) : (pqSorted d vd).Perm (pqMine d vd) :=
  (pqSort_perm (pqMine d vd) []).trans (by rw [List.append_nil])
theorem pqSorted_keyLe (d : Die) (vd : Nat) : (pqSorted d vd).Pairwise keyLe := pqSort_keyLe _ [] List.Pairwise.nil
theorem pqSorted_queued {d : Die} {vd : Nat} (h : (pqMine d vd).Pairwise (fun y z => y.order < z.order)) :
    (pqSorted d vd).Pairwise queued := pqSort_queued _ [] List.Pairwise.nil h (fun _ hx => absurd hx List.not_mem_nil)

/-! ## The window of the 16 smallest keys -/

/-- In ascending order the entries whose keys do not pass a bound come first. -/
theorem key_le_of_lt_filter {l : List PqEntry} (h : l.Pairwise keyLe) {k i : Nat} (hi : i < (l.filter (fun y => decide (y.key.toNat ≤ k))).length)
    {e : PqEntry} (he : l[i]? = some e) : e.key.toNat ≤ k := by
  induction l generalizing i with
  | nil => exact absurd hi (Nat.not_lt_zero i)
  | cons x r ih =>
    obtain ⟨hx, hr⟩ := List.pairwise_cons.mp h
    by_cases hxk : x.key.toNat ≤ k
    · cases i with
      | zero => obtain rfl := Option.some.inj he; exact hxk
      | succ i =>
        rw [List.filter_cons, if_pos (decide_eq_true hxk), List.length_cons] at hi
        exact ih hr (Nat.lt_of_succ_lt_succ hi) he
    · have hnone : r.filter (fun y => decide (y.key.toNat ≤ k)) = [] :=
        List.filter_eq_nil_iff.mpr fun y hy hyk => hxk (Nat.le_trans (hx y hy) (of_decide_eq_true hyk))
      rw [List.filter_cons_of_neg (by simpa using hxk), hnone] at hi
      exact absurd hi (Nat.not_lt_zero i)

/-- Fewer than 16 keys lie below one that does not pass the 16th. -/
theorem filter_below_lt {l : List PqEntry} (h : l.Pairwise keyLe) {b e : PqEntry} (hb : l[15]? = some b) (he : e.key.toNat ≤ b.key.toNat) :
    (l.filter (fun y => decide (y.key.toNat < e.key.toNat))).length < 16 := by
  have hbehind : (l.drop 15).filter (fun y => decide (y.key.toNat < e.key.toNat)) = [] := by
    refine List.filter_eq_nil_iff.mpr fun y hy hlt => ?_
    obtain ⟨hlen, rfl⟩ := List.getElem?_eq_some_iff.mp hb
    rw [List.drop_eq_getElem_cons hlen] at hy
    have hpw := List.drop_eq_getElem_cons hlen ▸ h.sublist (List.drop_sublist 15 l)
    have hby : l[15].key.toNat ≤ y.key.toNat := by
      obtain rfl | hy := List.mem_cons.mp hy
      · exact Nat.le_refl _
      · exact (List.pairwise_cons.mp hpw).1 y hy
    exact absurd (of_decide_eq_true hlt) (Nat.not_lt.mpr (Nat.le_trans he hby))
  calc (l.filter (fun y => decide (y.key.toNat < e.key.toNat))).length
      = ((l.take 15).filter (fun y => decide (y.key.toNat < e.key.toNat))).length := by
        conv => lhs; rw [← List.take_append_drop 15 l, List.filter_append, hbehind, List.append_nil]
    _ ≤ (l.take 15).length := List.length_filter_le ..
    _ < 16 := Nat.lt_succ_of_le (List.length_take_le ..)

/-! ## A push and a pop -/

/-- A key and a value written, the cluster's copies dropped, the pop done. -/
def pqTaken (s : State) (xd xc : XReg) (k v : Word) : State :=
  (invalidate s (ctxCluster s.cur.cid)).modCtx s.cur.cid (fun c => ((c.setX xd k).setX xc v).adv)
theorem ctx_pqTaken (s : State) (xd xc : XReg) (k v : Word) :
    (pqTaken s xd xc k v).ctx s.cur.cid = seqOn (((curCtx s).setX xd k).setX xc v) := State.ctx_modCtx ..

def curDie (s : State) : Nat := clusterDie (ctxCluster s.cur.cid)
def curQueue (s : State) : List PqEntry := pqSorted (s.die (curDie s)) (curCtx s).vdn

/-- A pop takes the entry that its choice names, and of an empty queue nothing. -/
theorem pqPop_eq (xd xc : XReg) {pick : State → List PqEntry → State × Nat} {s : State} {n i : Nat}
    (hp : pick s (curQueue s) = ({ s with free := n }, i)) : pqPop xd xc pick s = .next
      (match (curQueue s)[i]? with
        | none => pqTaken { s with free := n } xd xc (BitVec.allOnes 64) 0
        | some e => pqTaken ({ s with free := n }.setDie (curDie s) { s.die (curDie s) with pq := (s.die (curDie s)).pq.erase e }) xd xc e.key e.val) := by
  unfold pqPop anyLevel
  dsimp only
  rw [show pick s (pqSorted (s.die (clusterDie (ctxCluster s.cur.cid))) (s.ctx s.cur.cid).vdn) = ({ s with free := n }, i) from hp]
  rfl

/-- What PQPOP draws: a free choice among the entries of its window. -/
def popWindow (l : List PqEntry) : Nat :=
  match l[15]? with | some e => (l.filter (fun y => decide (y.key.toNat ≤ e.key.toNat))).length | none => l.length
theorem popWindow_below {l : List PqEntry} (h : l.Pairwise keyLe) {i : Nat} (hi : i < popWindow l) {e : PqEntry} (he : l[i]? = some e) :
    (l.filter (fun y => decide (y.key.toNat < e.key.toNat))).length < 16 := by
  unfold popWindow at hi
  split at hi
  next b hb => exact filter_below_lt h hb (key_le_of_lt_filter h hi he)
  next hnone =>
    exact Nat.lt_of_le_of_lt (List.length_filter_le ..) (Nat.lt_succ_of_le (List.getElem?_eq_none_iff.mp hnone))

theorem popWindow_le (l : List PqEntry) : popWindow l ≤ l.length := by
  unfold popWindow
  split
  · exact List.length_filter_le ..
  · exact Nat.le_refl _
theorem popWindow_pos {l : List PqEntry} (h : l ≠ []) : 0 < popWindow l := by
  unfold popWindow
  split
  next b hb =>
    have hmem : b ∈ l.filter (fun y => decide (y.key.toNat ≤ b.key.toNat)) :=
      List.mem_filter.mpr ⟨List.mem_of_getElem? hb, decide_eq_true (Nat.le_refl _)⟩
    exact List.length_pos_of_mem hmem
  next => exact List.length_pos_iff.mpr h

theorem exec_seqPqpopW1 (xd xc : XReg) (s : State) : exec (.seqPqpopW1 xd xc) s = pqPop xd xc (fun s _ => (s, 0)) s := exec_seqPqpopW1_eq ..
/-- PQPOP takes any entry of its window. -/
theorem exec_seqPqpop (xd xc : XReg) (s : State) : ∃ (n i : Nat) (pick : State → List PqEntry → State × Nat),
    exec (.seqPqpop xd xc) s = pqPop xd xc pick s ∧ pick s (curQueue s) = ({ s with free := n }, i) ∧
    (curQueue s ≠ [] → i < popWindow (curQueue s)) := by
  refine ⟨_, _, _, exec_seqPqpop_eq xd xc s, rfl, fun h => ?_⟩
  have hpos := popWindow_pos h
  change (if popWindow (curQueue s) = 0 then 0 else _ % popWindow (curQueue s)) < popWindow (curQueue s)
  rw [if_neg (Nat.ne_of_gt hpos)]
  exact Nat.mod_lt _ hpos

/-- What a pop does in either case, from which of the entries its choice names. -/
theorem pop_empty {s : State} {xd xc : XReg} {pick : State → List PqEntry → State × Nat} {n i : Nat}
    (hp : pick s (curQueue s) = ({ s with free := n }, i)) (h : curQueue s = []) :
    ∃ t, pqPop xd xc pick s = .next t ∧ t.ctx s.cur.cid = seqOn (((curCtx s).setX xd (BitVec.allOnes 64)).setX xc 0) ∧
      (t.die (curDie s)).pq = (s.die (curDie s)).pq := by
  have hnone : (curQueue s)[i]? = none := by rw [h]; rfl
  exact ⟨pqTaken { s with free := n } xd xc (BitVec.allOnes 64) 0, by rw [pqPop_eq xd xc hp, hnone], ctx_pqTaken .., rfl⟩
theorem pop_entry {s : State} {xd xc : XReg} {pick : State → List PqEntry → State × Nat} {n i : Nat} {e : PqEntry}
    (hp : pick s (curQueue s) = ({ s with free := n }, i)) (h : (curQueue s)[i]? = some e) :
    ∃ t, pqPop xd xc pick s = .next t ∧ (t.die (curDie s)).pq = (s.die (curDie s)).pq.erase e ∧
      t.ctx s.cur.cid = seqOn (((curCtx s).setX xd e.key).setX xc e.val) := by
  refine ⟨pqTaken ({ s with free := n }.setDie (curDie s) { s.die (curDie s) with pq := (s.die (curDie s)).pq.erase e }) xd xc e.key e.val,
    by rw [pqPop_eq xd xc hp, h], ?_, ctx_pqTaken ..⟩
  exact congrArg Die.pq (State.die_setDie ..)

/-- Settles O23. -/
theorem priorityQueue : Obligations.PriorityQueue := by
  intro s xa xb xd xc
  have hperm : (curQueue s).Perm (pqMine (s.die (curDie s)) (curCtx s).vdn) := pqSorted_perm ..
  refine ⟨fun hk hshare hlen hown => ?_, fun h => ?_, fun hnil => ?_, fun hne => ?_, fun hne => ?_⟩
  · have hroom : ¬ ((curCtx s).getX xa = allOnes64 ∨ (match s.vd? (curCtx s).vdn with | some v => v.pqshare | none => 0) ≤
        ((s.die (curDie s)).pq.filter (fun e => e.vd == (curCtx s).vdn)).length ∨ 65536 ≤ (s.die (curDie s)).pq.length) := by
      rintro (h | h | h)
      · exact hk h
      · exact absurd hshare (Nat.not_lt.mpr h)
      · exact absurd hlen (Nat.not_lt.mpr h)
    rw [exec_seqPqpush_eq]
    refine ⟨_, congrArg Host.Outcome.next ((if_neg hroom).trans (if_neg (Bool.not_eq_true _ ▸ hown))), State.ctx_modCtx .., ?_⟩
    exact congrArg Die.pq (State.die_setDie ..)
  · rw [exec_seqPqpush_eq]
    exact congrArg _ (if_pos h)
  · have hempty : curQueue s = [] := List.Perm.eq_nil (hperm.trans (List.Perm.of_eq hnil))
    obtain ⟨n, i, pick, hexec, hpick, -⟩ := exec_seqPqpop xd xc s
    obtain ⟨t, ht, htc, htq⟩ := pop_empty (xd := xd) (xc := xc) (pick := fun s _ => (s, 0)) rfl hempty
    obtain ⟨u, hu, huc, huq⟩ := pop_empty (xd := xd) (xc := xc) hpick hempty
    exact ⟨t, u, (exec_seqPqpopW1 ..).trans ht, hexec.trans hu, htc, huc.trans htc.symm, htq, huq⟩
  · have hq : curQueue s ≠ [] := fun h => hne ((hperm.symm.trans (List.Perm.of_eq h)).eq_nil)
    obtain ⟨e, r, her⟩ := List.exists_cons_of_ne_nil hq
    obtain ⟨t, ht, htq, htc⟩ := pop_entry (xd := xd) (xc := xc) (pick := fun s _ => (s, 0)) (i := 0) (e := e) rfl (by rw [her]; rfl)
    have hmem (y : PqEntry) : y ∈ pqMine (s.die (curDie s)) (curCtx s).vdn ↔ y = e ∨ y ∈ r := by
      rw [← hperm.mem_iff, her, List.mem_cons]
    refine ⟨t, e, (exec_seqPqpopW1 ..).trans ht, ⟨htq, htc⟩, (hmem e).mpr (Or.inl rfl), fun y hy => ?_, fun hord y hy hkey => ?_⟩
    · have hsorted : (e :: r).Pairwise keyLe := her ▸ pqSorted_keyLe ..
      obtain rfl | hy := (hmem y).mp hy
      · exact Nat.le_refl _
      · exact (List.pairwise_cons.mp hsorted).1 y hy
    · have hsorted : (e :: r).Pairwise queued := her ▸ pqSorted_queued hord
      obtain rfl | hy := (hmem y).mp hy
      · exact Nat.le_refl _
      · obtain hlt | ⟨-, hlt⟩ := (List.pairwise_cons.mp hsorted).1 y hy
        · exact absurd (congrArg BitVec.toNat hkey) (Nat.ne_of_gt hlt)
        · exact Nat.le_of_lt hlt
  · have hq : curQueue s ≠ [] := fun h => hne ((hperm.symm.trans (List.Perm.of_eq h)).eq_nil)
    obtain ⟨n, i, pick, hexec, hpick, hi⟩ := exec_seqPqpop xd xc s
    have hget : (curQueue s)[i]? = some ((curQueue s)[i]'(Nat.lt_of_lt_of_le (hi hq) (popWindow_le _))) := List.getElem?_eq_getElem _
    obtain ⟨t, ht, htq, htc⟩ := pop_entry (xd := xd) (xc := xc) hpick hget
    refine ⟨t, _, hexec.trans ht, ⟨htq, htc⟩, hperm.mem_iff.mp (List.getElem_mem _), ?_⟩
    exact Nat.lt_of_le_of_lt (Nat.le_of_eq (List.Perm.length_eq (hperm.symm.filter _))) (popWindow_below (pqSorted_keyLe ..) (hi hq) hget)

end Sys2Proof.Proofs
end

section
/-! Sections and pages: ARM, DRAIN, PLACE, RECFG, BANKCFG and PLANE (R219 to R222, R227 to R230). -/

namespace Sys2Proof.Proofs

open Sys2Proof Sys2Proof.Machine Sys2Proof.Claim

/-- What no step of a fold changes, the fold leaves. -/
theorem foldl_frame {α β : Type} {g : State → β} {f : State → α → State} (hf : ∀ s x, g (f s x) = g s) (l : List α) (s : State) :
    g (l.foldl f s) = g s := by
  induction l generalizing s with
  | nil => rfl
  | cons x r ih => rw [List.foldl_cons, ih, hf]

theorem wakeTile_frame {β : Type} {g : State → β} (hpower : ∀ s t p, g (State.setPower s t p) = g s)
    (hplane : ∀ s pl n, g (s.modPlane pl (fun p => p.touch n)) = g s) (s : State) (tile : Nat) : g (wakeTile s tile) = g s := by
  unfold wakeTile
  split
  · exact (foldl_frame (fun t pl => hplane t pl _) _ _).trans (hpower ..)
  · rfl
@[simp] theorem wakeTile_ctxs (s : State) (tile : Nat) : (wakeTile s tile).ctxs = s.ctxs :=
  wakeTile_frame (fun _ _ _ => rfl) (fun _ _ _ => State.modPlane_ctxs ..) s tile
@[simp] theorem wakeTile_hub (s : State) (tile : Nat) : (wakeTile s tile).hub = s.hub :=
  wakeTile_frame (fun _ _ _ => rfl) (fun _ _ _ => State.modPlane_hub ..) s tile

/-! ## ARM and DRAIN -/

theorem mayArm_iff (s : State) (cid a n : Nat) : mayArm s cid a n = true ↔
    secBusy s cid a = false ∧ ((s.ctx cid).sec a).planes.length = n ∧ 1 ≤ ((s.ctx cid).sec a).planes.length ∧
      ((s.ctx cid).sec a).planes.length ≤ 2048 := by
  simp only [mayArm, Bool.and_eq_true, Bool.not_eq_true', beq_iff_eq, decide_eq_true_iff, and_assoc]

/-- DRAIN of a section that exists: what it does to the section, by R227. -/
theorem exec_seqDrain {s : State} {xa : XReg} (h : ((curCtx s).getX xa).toNat < 256) : exec (.seqDrain xa) s = .next (done
    (let a := ((curCtx s).getX xa).toNat
     let x := (curCtx s).sec a
     if x.planes.isEmpty || (x.draining && (x.drainNamed || x.closed)) then s
     else if secBusy s s.cur.cid a then
       x.planes.foldl (fun s pl => (wakeTile s (planeTile pl)).modPlane pl (fun p => { p with draining := true, drainNamed := true }))
         (s.modSec s.cur.cid a (fun x => { x with draining := true, drainNamed := true }))
     else x.planes.foldl freePlane s) s.cur.cid) := by
  rw [exec_seqDrain_eq]
  exact congrArg _ (if_neg (Nat.not_le.mpr h))

theorem sec_modSec (s : State) (cid k : Nat) (f : Section → Section) : ((s.modSec cid k f).ctx cid).sec k = f ((s.ctx cid).sec k) := by
  rw [State.modSec, State.ctx_modCtx]
  exact tget_tset_same ..

theorem drain_not_skipped {x : Section} (hne : x.planes ≠ []) (h : ¬ (x.draining = true ∧ (x.drainNamed = true ∨ x.closed = true))) :
    ¬ (x.planes.isEmpty || (x.draining && (x.drainNamed || x.closed))) = true := by
  rw [Bool.or_eq_true, Bool.and_eq_true, Bool.or_eq_true, List.isEmpty_iff]
  exact fun hor => hor.elim hne h

/-- Settles O24. -/
theorem armDrain : Obligations.ArmDrain := by
  intro s xa xb
  have harm : ∀ n, (¬ (256 ≤ ((curCtx s).getX xa).toNat ∨ mayArm s s.cur.cid ((curCtx s).getX xa).toNat n = false)) ↔
      (((curCtx s).getX xa).toNat < 256 ∧ secBusy s s.cur.cid ((curCtx s).getX xa).toNat = false ∧
        ((curCtx s).sec ((curCtx s).getX xa).toNat).planes.length = n ∧ 1 ≤ ((curCtx s).sec ((curCtx s).getX xa).toNat).planes.length ∧
        ((curCtx s).sec ((curCtx s).getX xa).toNat).planes.length ≤ 2048) := fun n => by
    rw [not_or, Nat.not_le, Bool.not_eq_false, mayArm_iff]; rfl
  refine ⟨fun hok hown => ?_, fun hok => ?_, fun ha => ?_, fun ha hnil => ?_, fun ha _ hagain => ?_, fun ha hne hagain hbusy => ?_,
    fun ha hne hagain hbusy => ?_⟩
  · rw [exec_seqArm_eq]
    exact congrArg _ ((if_neg ((harm _).mpr hok)).trans (if_neg (Bool.not_eq_true _ ▸ hown)))
  · rw [exec_seqArm_eq]
    exact congrArg _ (if_pos (Classical.not_not.1 (mt (harm _).mp hok)))
  · rw [exec_seqDrain_eq]
    exact congrArg _ (if_pos ha)
  · rw [exec_seqDrain ha]
    dsimp only
    rw [hnil]
    rfl
  · obtain ⟨hd, hn⟩ := hagain
    have hskip : (((curCtx s).sec ((curCtx s).getX xa).toNat).draining && (((curCtx s).sec ((curCtx s).getX xa).toNat).drainNamed ||
        ((curCtx s).sec ((curCtx s).getX xa).toNat).closed)) = true := by
      rw [hd, Bool.true_and, Bool.or_eq_true]; exact hn
    rw [exec_seqDrain ha]
    dsimp only
    rw [hskip, Bool.or_true, if_pos rfl]
  · rw [exec_seqDrain ha]
    dsimp only
    rw [if_neg (drain_not_skipped hne hagain), hbusy, if_neg Bool.false_ne_true]
  · rw [exec_seqDrain ha]
    dsimp only
    rw [if_neg (drain_not_skipped hne hagain), if_pos hbusy]
    refine ⟨_, rfl, ?_⟩
    have hsec : ∀ l : List Nat, ((l.foldl (fun s pl => (wakeTile s (planeTile pl)).modPlane pl
          (fun p => { p with draining := true, drainNamed := true }))
        (s.modSec s.cur.cid ((curCtx s).getX xa).toNat (fun x => { x with draining := true, drainNamed := true }))).ctx s.cur.cid).sec
          ((curCtx s).getX xa).toNat =
        { (curCtx s).sec ((curCtx s).getX xa).toNat with draining := true, drainNamed := true } := fun l => by
      refine (foldl_frame (g := fun t => (t.ctx s.cur.cid).sec ((curCtx s).getX xa).toNat) (fun t pl => ?_) l _).trans (sec_modSec ..)
      simp only [State.ctx, State.modPlane_ctxs, wakeTile_ctxs]
    exact ⟨congrArg Section.draining (hsec _), congrArg Section.drainNamed (hsec _)⟩

/-! ## RECFG -/

/-- The due changes of depth of a context's planes, taken. -/
def depthsTaken (s : State) (cid : Nat) : State :=
  (s.planes.flatMap (fun e => if e.2.cid = cid then
    e.2.chans.filterMap (fun x => match x.2.recfg with | some (_, 0) => some (e.1, x.1) | _ => none) else [])).foldl
      (fun s x => takeDepth s x.1 x.2) s
/-- The end of a context's RECFG once its change has been taken. -/
def recfgEnds (s : State) (cid : Nat) : Ans :=
  match (s.ctx cid).wait with
  | .recfg xd pl k =>
    let waits := match s.plane? pl with | some p => (p.chan k).recfg.isSome | none => false
    .next (if (waits || (s.ctx cid).run != .running) = true then s else finishX s cid xd 0)
  | _ => .next s
theorem execRecfgDepthChange_eq (s : State) (cid : Nat) : execRecfgDepthChange cid s = recfgEnds (depthsTaken s cid) cid := rfl
theorem recfgEnds_closed {s : State} {cid pl k : Nat} {xd : XReg} (hw : (s.ctx cid).wait = .recfg xd pl k) (hr : (s.ctx cid).run = .running)
    (hno : ∀ p, s.plane? pl = some p → (p.chan k).recfg = none) : recfgEnds s cid = .next (doneX s cid xd 0) := by
  have hclosed : (match s.plane? pl with | some p => (p.chan k).recfg.isSome | none => false) = false := by
    split
    next p hp => rw [hno p hp]; rfl
    · rfl
  rw [recfgEnds, hw]
  dsimp only
  rw [hclosed, hr]
  rfl

/-- Settles O26. -/
theorem recfg : Obligations.Recfg := by
  intro s xd xa xb t p w pl k
  refine ⟨fun hl hz hu h2 h256 htile hp hcid hch hnone hpool => ?_, fun hw hr hno => ?_⟩
  · have hform : ¬ (bits ((curCtx s).getX xa).toNat 0 34 ≠ 0 ∨ 19 < bits ((curCtx s).getX xa).toNat 37 5 ∨
        ((curCtx s).getX xb).toNat < 2 ∨ 256 < ((curCtx s).getX xb).toNat) := by omega
    rw [exec_seqRecfg_eq, execSeqRecfg, atLevel_granted (super_le_of_ne_user hl)]
    refine congrArg _ ((if_neg hform).trans ?_)
    dsimp only
    rw [htile]
    dsimp only
    rw [hp]
    dsimp only
    have hown : ¬ (p.cid ≠ s.cur.cid ∨ (tfind p.chans (8 * bits ((curCtx s).getX xa).toNat 37 5 + bits ((curCtx s).getX xa).toNat 34 3)).isNone = true) := by
      rintro (h | h)
      · exact h hcid
      · rw [Option.isNone_iff_eq_none] at h; rw [h] at hch; exact Bool.false_ne_true hch
    rw [if_neg hown, hnone]
    dsimp only
    rw [if_neg (by simp), if_neg (Nat.not_lt.mpr hpool)]
    rfl
  · exact (exec_recfgDepthChange_eq w s).trans ((execRecfgDepthChange_eq s w).trans (recfgEnds_closed hw hr hno))

/-! ## BANKCFG and PLANE -/

/-- A frame table just written is not due to begin its next entry, unless it was. -/
theorem frameDue_writeFrame {y : Cluster} (f : List Word) (h : frameDue y = false) : frameDue (y.writeFrame f) = false := by
  unfold frameDue Cluster.writeFrame at *
  dsimp only
  by_cases hidle : (frameIdle y.frame && frameIdle y.written) = true
  · rw [if_pos hidle]
    have hpos : (max y.left 1 == 0) = false := by simp
    rw [hpos, Bool.false_and]
  · have hz : (y.left == 0) = false := by
      rw [Bool.not_eq_true] at hidle
      rw [hidle] at h
      simpa using h
    rw [if_neg hidle, hz, Bool.false_and]

/-- Settles O27. -/
theorem banksAndFrames : Obligations.BanksAndFrames := by
  intro s xd xa bank mode e x
  refine ⟨fun hx hl hm => ?_, fun hf hv => ?_, fun hf hv => ?_⟩
  · rw [exec_seqBankcfg_eq, execSeqBankcfg, atLevel_granted (super_le_of_ne_user hl)]
    have howned : ¬ (x.owner = (curCtx s).vd ∧ x.owner ≠ none ∧ s.hub.retiredBanks.contains (16 * ctxCluster s.cur.cid + bank.val) = false) ↔
        ((match (s.cluster (ctxCluster s.cur.cid)).banks[bank.val]? with | some x => x.owner | none => none) ≠ (curCtx s).vd ∨
          (match (s.cluster (ctxCluster s.cur.cid)).banks[bank.val]? with | some x => x.owner | none => none) = none ∨
          s.hub.retiredBanks.contains (16 * ctxCluster s.cur.cid + bank.val) = true) := by
      rw [hx]
      simp only [Classical.not_and_iff_not_or_not, Classical.not_not, Bool.not_eq_false, ne_eq]
    refine ⟨fun h => ?_, fun h hbusy => ?_, fun h hbusy hfree => ?_⟩
    · exact congrArg _ ((if_neg hm).trans (if_pos (howned.mp h)))
    · exact congrArg _ ((if_neg hm).trans ((if_neg (mt howned.mpr (not_not_intro h))).trans (if_pos hbusy)))
    · exact congrArg _ ((if_neg hm).trans ((if_neg (mt howned.mpr (not_not_intro h))).trans ((if_neg hbusy).trans
        (if_neg (Bool.not_eq_true _ ▸ hfree)))))
  · refine ⟨?_, fun y => ⟨rfl, rfl, frameDue_writeFrame _⟩⟩
    have hdiv : ¬ (((curCtx s).getX xa).toNat / 2 ^ 34 ≠ 0) := not_not_intro (Nat.div_eq_of_lt hv)
    rw [exec_seqPlane_eq, execSeqPlane, atLevel_granted (Nat.le_of_eq (by rw [hf]))]
    exact congrArg _ (if_neg hdiv)
  · have hdiv : ((curCtx s).getX xa).toNat / 2 ^ 34 ≠ 0 := Nat.ne_of_gt (Nat.div_pos hv (Nat.two_pow_pos 34))
    rw [exec_seqPlane_eq, execSeqPlane, atLevel_granted (Nat.le_of_eq (by rw [hf]))]
    exact congrArg _ (if_pos hdiv)

/-! ## PLACE -/

/-- The image of a page that can be read, and the state that its reading leaves. -/
def imageRead (s : State) (a : Word) (s1 : State) (l : Bytes) : Prop :=
  if (curCtx s).pl = firm then s1 = s ∧ l = mreadBytes s.fmem a.toNat 4096 ∧ firmBad s a.toNat 4096 = false
  else ctxHolds s s.cur.cid a 4096 = false ∧ vread s (.ctx s.cur.cid) (curCtx s).vdn a 4096 = (s1, .ok l)

theorem exec_seqPlace_baddesc {s : State} {xd xa xb : XReg} (hl : (curCtx s).pl ≠ user) (hal : ((curCtx s).getX xa).toNat % 4096 = 0)
    (hd : pdescOk ((curCtx s).getX xb).toNat = false) : exec (.seqPlace xd xa xb) s = .next (doneX s s.cur.cid xd 1) := by
  rw [exec_seqPlace_eq, execSeqPlace, atLevel_granted (super_le_of_ne_user hl)]
  exact congrArg _ ((if_neg (not_not_intro hal)).trans (if_pos (congrArg Bool.not hd)))

/-- PLACE of a sound descriptor whose image can be read. -/
theorem exec_seqPlace_read {s s1 : State} {xd xa xb : XReg} {l : Bytes} (hl : (curCtx s).pl ≠ user)
    (hal : ((curCtx s).getX xa).toNat % 4096 = 0) (hread : imageRead s ((curCtx s).getX xa) s1 l)
    (hd : pdescOk ((curCtx s).getX xb).toNat = true) : exec (.seqPlace xd xa xb) s = .next
      (let d := pdesc ((curCtx s).getX xb).toNat
       if secBusy s1 s.cur.cid d.sec then doneX s1 s.cur.cid xd 3
       else doneX (placePage s1 s.cur.cid d (parsePage l)).1 s.cur.cid xd (placePage s1 s.cur.cid d (parsePage l)).2) := by
  have hd' : ¬ (!pdescOk ((curCtx s).getX xb).toNat) = true := by rw [hd]; exact Bool.false_ne_true
  rw [exec_seqPlace_eq, execSeqPlace, atLevel_granted (super_le_of_ne_user hl)]
  refine congrArg _ ((if_neg (not_not_intro hal)).trans ((if_neg hd').trans ?_))
  by_cases hf : (curCtx s).pl = firm
  · rw [imageRead, if_pos hf] at hread
    obtain ⟨rfl, rfl, hbad⟩ := hread
    exact (if_pos hf).trans (if_neg (Bool.not_eq_true _ ▸ hbad))
  · rw [imageRead, if_neg hf] at hread
    obtain ⟨hholds, hv⟩ := hread
    refine (if_neg hf).trans ((if_neg (Bool.not_eq_true _ ▸ hholds)).trans ?_)
    rw [hv]
    rfl

/-! ### What a page put on a plane leaves -/

/-- Two planes hold the same page for the same section. -/
def samePage (p q : Plane) : Prop := q.page = p.page ∧ q.armed = p.armed ∧ q.cid = p.cid ∧ q.sec = p.sec ∧ q.vd = p.vd

theorem samePage_modPlane {s : State} {pl q : Nat} {p : Plane} {f : Plane → Plane} (hf : ∀ x, samePage x (f x)) (hp : s.plane? q = some p) :
    ∃ p', (s.modPlane pl f).plane? q = some p' ∧ samePage p p' := by
  by_cases hq : q = pl
  · subst hq
    rw [State.modPlane_some f hp]
    exact ⟨f p, State.plane_setPlane .., hf p⟩
  · rw [State.plane_modPlane_ne s f hq]
    exact ⟨p, hp, rfl, rfl, rfl, rfl, rfl⟩
theorem samePage_trans {p q r : Plane} (h : samePage p q) (h' : samePage q r) : samePage p r := by
  obtain ⟨a, b, c, d, e⟩ := h
  obtain ⟨a', b', c', d', e'⟩ := h'
  exact ⟨a'.trans a, b'.trans b, c'.trans c, d'.trans d, e'.trans e⟩

theorem samePage_after {s t : State} {q : Nat} {p : Plane} (h : ∃ p', s.plane? q = some p' ∧ samePage p p')
    (hf : ∀ p', s.plane? q = some p' → ∃ p'', t.plane? q = some p'' ∧ samePage p' p'') : ∃ p'', t.plane? q = some p'' ∧ samePage p p'' := by
  obtain ⟨p', hp', h⟩ := h
  obtain ⟨p'', hp'', h'⟩ := hf p' hp'
  exact ⟨p'', hp'', samePage_trans h h'⟩
theorem samePage_foldl {α : Type} {f : State → α → State} (hf : ∀ s x q p, State.plane? s q = some p → ∃ p', (f s x).plane? q = some p' ∧ samePage p p')
    (l : List α) : ∀ {s : State} {q : Nat} {p : Plane}, s.plane? q = some p → ∃ p', (l.foldl f s).plane? q = some p' ∧ samePage p p' := by
  induction l with
  | nil => exact fun hp => ⟨_, hp, rfl, rfl, rfl, rfl, rfl⟩
  | cons x r ih => exact fun hp => samePage_after (hf _ x _ _ hp) (fun _ hp' => ih hp')

theorem samePage_resolveExits {s : State} {a b q : Nat} {p : Plane} (hp : s.plane? q = some p) :
    ∃ p', (resolveExits s a b).plane? q = some p' ∧ samePage p p' := by
  unfold resolveExits
  split
  · refine samePage_foldl (fun t x q p hp => ?_) _ hp
    refine samePage_after (samePage_modPlane (fun y => ?_) hp) (fun p' hp' => samePage_modPlane (fun y => ⟨rfl, rfl, rfl, rfl, rfl⟩) hp')
    split
    · exact ⟨rfl, rfl, rfl, rfl, rfl⟩
    · exact ⟨rfl, rfl, rfl, rfl, rfl⟩
  · exact ⟨p, hp, rfl, rfl, rfl, rfl, rfl⟩
theorem resolveExits_hub (s : State) (a b : Nat) : (resolveExits s a b).hub = s.hub := by
  unfold resolveExits
  split
  · refine foldl_frame (g := State.hub) (fun t x => ?_) _ _
    rw [State.modPlane_hub, State.modPlane_hub]
  · rfl

/-- The plane that PLACE sets up, and the state with it and its section, before exits are resolved. -/
def placedPlane (s : State) (cid sec pix tq aq : Nat) (g : Page) (pl : Nat) : Plane :=
  { newPlane g (s.ctx cid).vdn cid sec pix tq aq (pageSigned s (Machine.measure g.bytes)) with
    assay := (tilePlanes s (planeTile pl)).any (fun q => match s.plane? q with | some x => x.assay | none => false)
    firedAt := (List.range 20).map (fun u => (u, s.planeAc pl + 1)) }
def placedState (s : State) (cid sec pix tq aq : Nat) (g : Page) (pl : Nat) : State :=
  ((wakeTile s (planeTile pl)).setPlane pl (placedPlane s cid sec pix tq aq g pl)).modSec cid sec
    (fun y => if y.planes.isEmpty then { planes := [pl] } else { y with planes := y.planes ++ [pl] })
theorem putPage_eq (s : State) (cid sec pix tq aq : Nat) (g : Page) (pl : Nat) : putPage s cid sec pix tq aq g pl =
    ((s.ctx cid).sec sec).planes.foldl (fun t q => resolveExits (resolveExits t pl q) q pl) (placedState s cid sec pix tq aq g pl) := rfl

theorem putPage_hub (s : State) (cid sec pix tq aq : Nat) (g : Page) (pl : Nat) : (putPage s cid sec pix tq aq g pl).hub = s.hub := by
  rw [putPage_eq]
  refine (foldl_frame (g := State.hub) (fun t q => ?_) _ _).trans ?_
  · rw [resolveExits_hub, resolveExits_hub]
  · rw [placedState, State.modSec, State.modCtx_hub, State.setPlane_hub, wakeTile_hub]
theorem plane_putPage (s : State) (cid sec pix tq aq : Nat) (g : Page) (pl : Nat) :
    ∃ p, (putPage s cid sec pix tq aq g pl).plane? pl = some p ∧ p.page = g ∧ p.armed = false ∧ p.cid = cid ∧ p.sec = sec ∧
      p.vd = (s.ctx cid).vdn := by
  have hplaced : (placedState s cid sec pix tq aq g pl).plane? pl = some (placedPlane s cid sec pix tq aq g pl) := State.plane_setPlane ..
  rw [putPage_eq]
  obtain ⟨p, hp, hpage, harmed, hcid, hsec, hvd⟩ := samePage_foldl (f := fun t q => resolveExits (resolveExits t pl q) q pl)
    (fun t q _ _ hp => samePage_after (samePage_resolveExits hp) (fun _ hp' => samePage_resolveExits hp')) ((s.ctx cid).sec sec).planes hplaced
  exact ⟨p, hp, hpage, harmed, hcid, hsec, hvd⟩

theorem tileAt_lt {s : State} {x y t : Nat} (h : tileAt s x y = some t) : t < 2048 := by
  unfold tileAt at h
  obtain ⟨-, ht⟩ := Option.ite_none_right_eq_some.mp h
  obtain rfl := Option.some.inj ht
  unfold mkTile
  omega
theorem fixErr_plane {s : State} {vd : Nat} {d : PDesc} {g : Page} {pl : Nat} (h : fixErr s vd d g = .inr pl) :
    ∃ t, tileAt s d.tx d.ty = some t ∧ pl = 4 * t + d.pl := by
  unfold fixErr at h
  split at h
  · cases h
  next t ht =>
    refine ⟨t, ht, ?_⟩
    simp only [ite_eq_or, Sum.inr.injEq, reduceCtorEq, and_false, false_or] at h
    omega

/-- A plane that is chosen is one of this package (R17), and the choice leaves the package where it stands. -/
theorem choosePlane_plane {s s2 : State} {vd : Nat} {d : PDesc} {g : Page} {pl : Nat} (hpl : d.pl < 4)
    (h : choosePlane s vd d g = (s2, .inr pl)) : pl < 8192 ∧ s2.hub = s.hub := by
  unfold choosePlane at h
  split at h
  · obtain ⟨rfl, hfix⟩ := Prod.mk.inj h
    refine ⟨?_, rfl⟩
    obtain ⟨t, ht, rfl⟩ := fixErr_plane hfix
    have := tileAt_lt ht
    omega
  · dsimp only at h
    split at h
    · cases h
    next hne =>
      obtain ⟨rfl, hpl⟩ := Prod.mk.inj h
      obtain rfl := Sum.inr.inj hpl
      refine ⟨?_, rfl⟩
      have hmem : (freePlanes s vd g d.tq d.aq).getD (Config.freePick s.draw.1 % (freePlanes s vd g d.tq d.aq).length) 0 ∈
          freePlanes s vd g d.tq d.aq := by
        rw [getD_eq_get_of_lt _ (Nat.mod_lt _ (List.length_pos_iff.mpr hne))]
        exact List.getElem_mem _
      exact List.mem_range.mp (List.mem_filter.mp hmem).1
theorem placeStatus_eq {s : State} {pl : Nat} (h : pl < 8192) :
    placeStatus s pl = BitVec.ofNat 64 (2 ^ 63 + faX s (pl / 4) * 2 ^ 53 + faY s (pl / 4) * 2 ^ 43 + pl % 4 * 2 ^ 41) := by
  have hpos : s.hub.pos.toNat < 256 := s.hub.pos.isLt
  have hx : faX s (pl / 4) < 1024 := by simp only [faX, State.px, tileTx]; omega
  have hy : faY s (pl / 4) < 1024 := by simp only [faY, State.py, tileTy]; omega
  have hpack : pack [(63, 1, 1), (53, 10, faX s (planeTile pl)), (43, 10, faY s (planeTile pl)), (41, 2, pl % 4)] =
      2 ^ 63 + faX s (pl / 4) * 2 ^ 53 + faY s (pl / 4) * 2 ^ 43 + pl % 4 * 2 ^ 41 := by
    simp only [pack, planeTile]
    omega
  rw [placeStatus, hpack]

theorem placePage_refused {s : State} {cid : Nat} {d : PDesc} {g : Page} {e : PageErr}
    (h : pageErr s (s.ctx cid).vdn (secPages s cid d.sec) g d = some e) : placePage s cid d g = (s, placeFail e) := by
  unfold placePage
  dsimp only
  rw [h]
theorem placePage_noPlane {s s2 : State} {cid : Nat} {d : PDesc} {g : Page} {e : PageErr}
    (h : pageErr s (s.ctx cid).vdn (secPages s cid d.sec) g d = none) (hc : choosePlane s (s.ctx cid).vdn d g = (s2, .inl e)) :
    placePage s cid d g = (s2, placeFail e) := by
  unfold placePage
  dsimp only
  rw [h]
  dsimp only
  rw [hc]
theorem placePage_placed {s s2 : State} {cid pl : Nat} {d : PDesc} {g : Page}
    (h : pageErr s (s.ctx cid).vdn (secPages s cid d.sec) g d = none) (hc : choosePlane s (s.ctx cid).vdn d g = (s2, .inr pl)) :
    placePage s cid d g = (putPage s2 cid d.sec d.pix d.tq d.aq g pl, placeStatus (putPage s2 cid d.sec d.pix d.tq d.aq g pl) pl) := by
  unfold placePage
  dsimp only
  rw [h]
  dsimp only
  rw [hc]
theorem placeStatus_putPage {s : State} {cid sec pix tq aq : Nat} {g : Page} {pl : Nat} (h : pl < 8192) :
    placeStatus (putPage s cid sec pix tq aq g pl) pl =
      BitVec.ofNat 64 (2 ^ 63 + faX s (pl / 4) * 2 ^ 53 + faY s (pl / 4) * 2 ^ 43 + pl % 4 * 2 ^ 41) := by
  rw [placeStatus_eq h]
  simp only [faX, faY, State.px, State.py, putPage_hub]

/-- Settles O25. -/
theorem placePage : Obligations.PlacePage := by
  intro s s1 s2 xd xa xb l pl e
  dsimp only
  intro hl hal hread
  have hplace := fun hd => exec_seqPlace_read (xd := xd) (xb := xb) (l := l) hl hal hread hd
  have hfree {b : Bool} (h : b = false) : ¬ b = true := by rw [h]; exact Bool.false_ne_true
  refine ⟨exec_seqPlace_baddesc hl hal, fun hd hb => ?_, fun hd hb he => ?_, fun hd hb he hc => ?_, fun hd hb he hc => ⟨?_, plane_putPage ..⟩⟩
  · exact (hplace hd).trans (congrArg _ (if_pos hb))
  · refine (hplace hd).trans (congrArg _ ((if_neg (hfree hb)).trans ?_))
    rw [placePage_refused he]
  · refine (hplace hd).trans (congrArg _ ((if_neg (hfree hb)).trans ?_))
    rw [placePage_noPlane he hc]
  · obtain ⟨hlt, -⟩ := choosePlane_plane (bits_lt_pow _ 41 2) hc
    refine (hplace hd).trans (congrArg _ ((if_neg (hfree hb)).trans ?_))
    rw [placePage_placed he hc, placeStatus_putPage hlt]

end Sys2Proof.Proofs
end

section
/-! Waybills (R225, R226, R318). -/

namespace Sys2Proof.Proofs

open Sys2Proof Sys2Proof.Machine Sys2Proof.Claim

/-- The record of a waybill that can be read, and the state that its reading leaves. -/
def recordFetched (s : State) (d : Nat) (va : Word) (s1 : State) (l : Bytes) : Prop :=
  if (s.ctx d).pl = firm then s1 = s ∧ l = mreadBytes s.fmem va.toNat 192 ∧ firmBad s va.toNat 192 = false
  else ctxHolds s d va 192 = false ∧ vread s (.ctx d) (s.ctx d).vdn va 192 = (s1, .ok l)

theorem submit_fetched {s s1 : State} {d : Nat} {xd : XReg} {va : Word} {l : Bytes} (hroom : wbOpen (s.cluster (ctxCluster d)) < 64)
    (hf : recordFetched s d va s1 l) : submit s d xd va = acceptRecord d xd s1 l := by
  refine (if_neg (Nat.not_le.mpr hroom)).trans ?_
  by_cases hpl : (s.ctx d).pl = firm
  · rw [recordFetched, if_pos hpl] at hf
    obtain ⟨rfl, rfl, hbad⟩ := hf
    exact (if_pos hpl).trans (if_neg (Bool.not_eq_true _ ▸ hbad))
  · rw [recordFetched, if_neg hpl] at hf
    obtain ⟨hholds, hv⟩ := hf
    refine (if_neg hpl).trans ((if_neg (Bool.not_eq_true _ ▸ hholds)).trans ?_)
    rw [hv]

section Accept
variable {s : State} {cid : Nat} {l : Bytes}

/-- The form of a record that WBILL accepts, the modes of its STAGE banks among it. -/
def recordForm (s : State) (cid : Nat) (l : Bytes) : Prop :=
  wbForm l = true ∧ ∀ e ∈ (wbExtents l).map extentOf, stageBankOk s (ctxCluster cid) e = true
def recordInside (l : Bytes) : Prop := ∀ e ∈ (wbExtents l).map extentOf, insideVd e.base (e.base + e.len) = true

theorem recordForm_iff : recordForm s cid l ↔ ¬ (!wbForm l || !((wbExtents l).map extentOf).all (stageBankOk s (ctxCluster cid))) = true := by
  simp [recordForm]
theorem recordInside_iff : recordInside l ↔ ¬ (!((wbExtents l).map extentOf).all (fun e => insideVd e.base (e.base + e.len))) = true := by
  simp [recordInside]

theorem acceptRecord_badForm (xd : XReg) (h : ¬ recordForm s cid l) :
    acceptRecord cid xd s l = doneX s cid xd (BitVec.ofNat 64 (2 ^ 63 + 1)) := if_pos (Classical.not_not.1 (mt recordForm_iff.mpr h))
theorem acceptRecord_outside (xd : XReg) (hf : recordForm s cid l) (h : ¬ recordInside l) :
    acceptRecord cid xd s l = doneX s cid xd (BitVec.ofNat 64 (2 ^ 63 + 3)) :=
  (if_neg (recordForm_iff.mp hf)).trans (if_pos (Classical.not_not.1 (mt recordInside_iff.mpr h)))
/-- The waybill of an accepted record, and the state with it and its number taken. -/
def billOf (s : State) (cid : Nat) (l : Bytes) : Waybill :=
  { num := (s.ctx cid).wbNext, cid := cid, vd := (s.ctx cid).vdn, task := numAt l 0 1 == 1, sec := numAt l 3 1, arg := numAt l 8 8,
    stampA := numAt l 24 8, stampV := BitVec.ofNat 64 (numAt l 16 8), exts := (wbExtents l).map extentOf }
def billed (s : State) (cid : Nat) (l : Bytes) : State :=
  (s.modCluster (ctxCluster cid) (fun x => { x with wbs := x.wbs ++ [billOf s cid l] })).modCtx cid
    (fun c => { c with wbNext := c.wbNext + 1 })
theorem acceptRecord_accepted (xd : XReg) (hf : recordForm s cid l) (h : recordInside l) :
    acceptRecord cid xd s l = doneX (billed s cid l) cid xd (BitVec.ofNat 64 (s.ctx cid).wbNext) :=
  (if_neg (recordForm_iff.mp hf)).trans (if_neg (recordInside_iff.mp h))
end Accept

/-! ## Submission and waiting -/

theorem exec_seqWbill {s : State} {xd xa : XReg} (h : ((curCtx s).getX xa).toNat % 64 = 0) :
    exec (.seqWbill xd xa) s = .next (submit s s.cur.cid xd ((curCtx s).getX xa)) := by
  rw [exec_seqWbill_eq]
  exact congrArg _ (if_neg (not_not_intro h))
theorem exec_wbillRoom {s : State} {w : Nat} {xd : XReg} {va : Word} (hw : (s.ctx w).wait = .wbill xd va) (hr : (s.ctx w).run = .running) :
    exec (.wbillRoom w) s = .next (submit s w xd va) := by
  rw [exec_wbillRoom_eq, execWbillRoom, hw]
  exact congrArg _ (if_pos hr)

theorem waitwStatus_found {c : Ctx} {n st : Nat} (h : ((n = 0 ∨ c.wbNext ≤ n ∨ n + 4096 < c.wbNext) ∧ st = 3) ∨
    (¬ (n = 0 ∨ c.wbNext ≤ n ∨ n + 4096 < c.wbNext) ∧ tfind c.wbDone n = some st)) : waitwStatus c n = some st := by
  obtain ⟨hnever, rfl⟩ | ⟨hnever, hst⟩ := h
  · exact if_pos hnever
  · exact (if_neg hnever).trans hst

/-- Settles O28. -/
theorem waybills : Obligations.Waybills := by
  intro s s1 xd xa w va l n st
  refine ⟨fun hal hroom hf => ⟨fun hform hin => ?_, fun hform => ?_, fun hform hin => ?_⟩, fun hal hroom => ?_,
    fun hw hr hroom hf => ⟨fun hform hin => ?_, fun hform => ?_, fun hform hin => ?_⟩, fun h => ?_, fun hnever hnone => ?_, fun hw hr h => ?_⟩
  · exact (exec_seqWbill hal).trans (congrArg _ ((submit_fetched hroom hf).trans (acceptRecord_accepted xd hform hin)))
  · exact (exec_seqWbill hal).trans (congrArg _ ((submit_fetched hroom hf).trans (acceptRecord_badForm xd hform)))
  · exact (exec_seqWbill hal).trans (congrArg _ ((submit_fetched hroom hf).trans (acceptRecord_outside xd hform hin)))
  · exact (exec_seqWbill hal).trans (congrArg _ (if_pos (Nat.not_lt.mp hroom)))
  · exact (exec_wbillRoom hw hr).trans (congrArg _ ((submit_fetched hroom hf).trans (acceptRecord_accepted xd hform hin)))
  · exact (exec_wbillRoom hw hr).trans (congrArg _ ((submit_fetched hroom hf).trans (acceptRecord_badForm xd hform)))
  · exact (exec_wbillRoom hw hr).trans (congrArg _ ((submit_fetched hroom hf).trans (acceptRecord_outside xd hform hin)))
  · rw [exec_seqWaitw_eq, execSeqWaitw, anyLevel]
    dsimp only
    have hst : waitwStatus (s.ctx s.cur.cid) ((s.ctx s.cur.cid).getX xa).toNat = some st := waitwStatus_found h
    rw [hst]
    rfl
  · rw [exec_seqWaitw_eq, execSeqWaitw, anyLevel]
    dsimp only
    have hst : waitwStatus (s.ctx s.cur.cid) ((s.ctx s.cur.cid).getX xa).toNat = none := (if_neg hnever).trans hnone
    rw [hst]
    rfl
  · rw [exec_waitwComplete_eq, execWaitwComplete]
    dsimp only
    rw [hw]
    dsimp only
    rw [waitwStatus_found h]
    exact congrArg _ (if_pos hr)
end Sys2Proof.Proofs
end

section
/-! The thread switch (R248). -/

namespace Sys2Proof.Proofs

open Sys2Proof Sys2Proof.Machine Sys2Proof.Claim

/-! ## Parts of what was stored -/

theorem length_bytesLE (n : Nat) : ∀ v, (bytesLE n v).length = n := by
  induction n with
  | zero => exact fun _ => rfl
  | succ n ih => exact fun v => congrArg (· + 1) (ih _)
theorem ofBytesLE_bytesLE (n : Nat) : ∀ v, ofBytesLE (bytesLE n v) = v % 256 ^ n := by
  induction n with
  | zero => exact fun v => (Nat.mod_one v).symm
  | succ n ih =>
    intro v
    have hpow : 256 ^ (n + 1) = 256 * 256 ^ n := Nat.pow_succ'
    rw [bytesLE, ofBytesLE, ih, BitVec.toNat_ofNat, hpow]
    exact (Nat.mod_mul ..).symm
theorem mreadN_eq_ofBytesLE (m : Memory) (n : Nat) : ∀ a, mreadN m a n = ofBytesLE (mreadBytes m a n) := by
  induction n with
  | zero => exact fun _ => rfl
  | succ n ih => exact fun a => congrArg (_ + 256 * ·) (ih (a + 1))
theorem mreadBytes_drop (m : Memory) (k : Nat) : ∀ a n, (mreadBytes m a (k + n)).drop k = mreadBytes m (a + k) n := by
  induction k with
  | zero => intro a n; rw [Nat.zero_add]; rfl
  | succ k ih =>
    intro a n
    rw [Nat.add_right_comm, mreadBytes, List.drop_succ_cons, ih, Nat.add_right_comm, Nat.add_assoc]
theorem mreadBytes_take (m : Memory) (k : Nat) : ∀ a n, (mreadBytes m a (k + n)).take k = mreadBytes m a k := by
  induction k with
  | zero => intro a n; rfl
  | succ k ih =>
    intro a n
    rw [Nat.add_right_comm, mreadBytes, List.take_succ_cons, ih, mreadBytes]
/-- A part of stored bytes is read back as a number. -/
theorem mreadN_mwriteBytes {m : Memory} (h : m.wf = true) (a o k : Nat) (l : Bytes) (hlen : o + k ≤ l.length) :
    mreadN (mwriteBytes m a l) (a + o) k = ofBytesLE ((l.drop o).take k) := by
  obtain ⟨n, hn⟩ := Nat.exists_eq_add_of_le hlen
  have hread : mreadBytes (mwriteBytes m a l) a (o + (k + n)) = l := by
    rw [← Nat.add_assoc, ← hn]; exact mreadBytes_mwriteBytes l a h
  rw [mreadN_eq_ofBytesLE, ← mreadBytes_take _ k _ n, ← mreadBytes_drop, hread]

theorem drop_take_flatMap {α : Type} {f : α → Bytes} {k : Nat} (hf : ∀ x, (f x).length = k) (l : List α) :
    ∀ (i : Nat) (h : i < l.length) (rest : Bytes), ((l.flatMap f ++ rest).drop (k * i)).take k = f l[i] := by
  induction l with
  | nil => exact fun i h => absurd h (Nat.not_lt_zero i)
  | cons x r ih =>
    intro i h rest
    rw [List.flatMap_cons, List.append_assoc]
    cases i with
    | zero => rw [Nat.mul_zero, List.drop_zero, ← hf x, List.take_left]; rfl
    | succ i =>
      have hdrop : k * (i + 1) = (f x).length + k * i := by rw [hf x, Nat.mul_succ, Nat.add_comm]
      rw [hdrop, ← List.drop_drop, List.drop_left]
      exact ih i (Nat.lt_of_succ_lt_succ h) rest


/-! ## A thread's save area -/

theorem length_threadArea (c : Ctx) : (threadArea c).length = 320 := by
  simp [threadArea, length_bytesLE, zerosB] <;> rfl
theorem threadArea_epc (c : Ctx) : ((threadArea c).drop 0).take 8 = bytesLE 8 c.epc.toNat := by
  simp only [threadArea, List.append_assoc, List.drop_zero]
  exact List.take_left' (length_bytesLE ..)
theorem getX_eq_getD (c : Ctx) {i : Nat} (h : i < 31) : c.x.toList.getD (i + 1) 0 = c.getX ⟨i + 1, Nat.succ_lt_succ h⟩ := by
  have hlen : i + 1 < c.x.toList.length := by rw [Vector.length_toList]; omega
  rw [getD_eq_get_of_lt _ hlen, Vector.getElem_toList]
  exact (if_neg (Nat.succ_ne_zero i)).symm
theorem threadArea_reg (c : Ctx) {r : XReg} (h : r ≠ 0) : ((threadArea c).drop (8 * r.val)).take 8 = bytesLE 8 (c.getX r).toNat := by
  obtain ⟨r, hr⟩ := r
  cases r with
  | zero => exact absurd rfl h
  | succ i =>
    have hi : i < 31 := Nat.lt_of_succ_lt_succ hr
    have hdrop : 8 * (i + 1) = (bytesLE 8 c.epc.toNat).length + 8 * i := by rw [length_bytesLE]; omega
    simp only [threadArea, List.append_assoc]
    rw [hdrop, ← List.drop_drop, List.drop_left, drop_take_flatMap (fun _ => length_bytesLE ..) (List.range 31) i (by simpa using hi),
      List.getElem_range, getX_eq_getD c hi]

theorem vector_get_eq_getElem {α : Type _} {n : Nat} (v : Vector α n) (i : Fin n) : v.get i = v[i.val] := rfl
theorem getX_loadThread (c : Ctx) (l : Bytes) {r : XReg} (h : r ≠ 0) :
    (loadThread c l).getX r = BitVec.ofNat 64 (ofBytesLE ((l.drop (8 * r.val)).take 8)) := by
  have hr : r.val ≠ 0 := fun e => h (Fin.ext e)
  unfold Ctx.getX loadThread
  rw [if_neg hr]
  dsimp only
  rw [vector_get_eq_getElem, Vector.getElem_ofFn, if_neg hr, word64At]

theorem epc_loadThread (c : Ctx) (l : Bytes) :
    (loadThread c l).epc = BitVec.ofNat 64 (ofBytesLE (l.take 8)) &&& 0xFFFFFFFFFFFFFFF8#64 := by
  have hmask : bits63_3 = 0xFFFFFFFFFFFFFFF8#64 := by decide
  exact congrArg (word64At l 0 &&& ·) hmask
theorem getX_adv (c : Ctx) (r : XReg) : c.adv.getX r = c.getX r := rfl

/-- The fields of a context that a loaded save area sets, and those that it leaves. -/
theorem loadThread_adv (c : Ctx) (l : Bytes) : ((loadThread c l).adv).pc = c.pc + 8 ∧ ((loadThread c l).adv).pl = c.pl ∧
    (∀ r : XReg, r ≠ 0 → ((loadThread c l).adv).getX r = BitVec.ofNat 64 (ofBytesLE ((l.drop (8 * r.val)).take 8))) ∧
    ((loadThread c l).adv).epc = BitVec.ofNat 64 (ofBytesLE (l.take 8)) &&& 0xFFFFFFFFFFFFFFF8#64 ∧
    ((loadThread c l).adv).sctl = BitVec.ofNat 64 (ofBytesLE ((l.drop 256).take 8)) &&& 7#64 ∧
    ((loadThread c l).adv).evmask = BitVec.ofNat 64 (ofBytesLE ((l.drop 264).take 8)) ∧
    ((loadThread c l).adv).save = c.next ∧ ((loadThread c l).adv).next = c.next ∧ ((loadThread c l).adv).mon = none ∧
    ((loadThread c l).adv).amst = 0 ∧ ((loadThread c l).adv).tvec = c.tvec ∧ ((loadThread c l).adv).scratch = c.scratch := by
  have hx : ∀ r : XReg, r ≠ 0 → ((loadThread c l).adv).getX r = BitVec.ofNat 64 (ofBytesLE ((l.drop (8 * r.val)).take 8)) :=
    fun r hr => (getX_adv ..).trans (getX_loadThread _ _ hr)
  have hepc := epc_loadThread c l
  simp only [Ctx.adv, loadThread, word64At, true_and, and_true] at hx hepc ⊢
  exact ⟨hx, hepc⟩

theorem areaBad_iff (l : Bytes) : areaBad l = true ↔ ¬ ∀ b ∈ l.drop 288, b = 0 := by
  simp [areaBad]

/-- The state after a switch at FIRM that stores `old` at `a` and loads `l`. -/
def switchedFirm (s : State) (a : Nat) (old l : Bytes) : State := (firmWrite s a old).modCtx s.cur.cid (fun d => (loadThread d l).adv)
theorem ctx_switchedFirm (s : State) (a : Nat) (old l : Bytes) :
    (switchedFirm s a old l).ctx s.cur.cid = (loadThread (curCtx s) l).adv := State.ctx_modCtx ..
theorem fmem_firmWrite (s : State) (a : Nat) (l : Bytes) : (firmWrite s a l).fmem = mwriteBytes s.fmem a l := rfl
theorem fmem_switchedFirm (s : State) (a : Nat) (old l : Bytes) : (switchedFirm s a old l).fmem = mwriteBytes s.fmem a old := rfl
theorem mem_switchedFirm (s : State) (a : Nat) (old l : Bytes) : (switchedFirm s a old l).mem = s.mem := rfl
/-- What the thread switch does at FIRM. -/
theorem exec_threadSwitch_firm {s : State} (xa : XReg) (hf : (curCtx s).pl = firm) : exec (.threadSwitch xa) s = .next
    (if firmBad (firmWrite s (curCtx s).save.toNat (threadArea (curCtx s))) (curCtx s).next.toNat 320 then
      takeTrap s s.cur.cid 4 true (curCtx s).next (curCtx s).pc
     else if areaBad (mreadBytes (mwriteBytes s.fmem (curCtx s).save.toNat (threadArea (curCtx s))) (curCtx s).next.toNat 320) then
      takeTrap s s.cur.cid 6 false (curCtx s).next (curCtx s).pc
     else switchedFirm s (curCtx s).save.toNat (threadArea (curCtx s))
      (mreadBytes (mwriteBytes s.fmem (curCtx s).save.toNat (threadArea (curCtx s))) (curCtx s).next.toNat 320)) := by
  rw [← fmem_firmWrite, exec_threadSwitch_eq, execThreadSwitch, atLevel_granted (by rw [hf]; decide), if_pos hf]
  generalize 320 = n
  rfl
/-- What the firmware space holds of the old thread after a switch at FIRM. -/
theorem mread_threadArea {m : Memory} (h : m.wf = true) (a : Nat) (c : Ctx) :
    (∀ r : XReg, r ≠ 0 → mreadN (mwriteBytes m a (threadArea c)) (a + 8 * r.val) 8 = (c.getX r).toNat) ∧
    mreadN (mwriteBytes m a (threadArea c)) a 8 = c.epc.toNat ∧
    (∀ b, b < a ∨ a + 320 ≤ b → mread (mwriteBytes m a (threadArea c)) b = mread m b) := by
  have hword : ∀ v : Word, ofBytesLE (bytesLE 8 v.toNat) = v.toNat := fun v =>
    (ofBytesLE_bytesLE 8 _).trans (Nat.mod_eq_of_lt v.isLt)
  refine ⟨fun r hr => ?_, ?_, fun b hb => ?_⟩
  · rw [mreadN_mwriteBytes h _ _ _ _ (by rw [length_threadArea]; omega), threadArea_reg _ hr, hword]
  · have hpart := mreadN_mwriteBytes h a 0 8 (threadArea c) (by rw [length_threadArea]; omega)
    rw [threadArea_epc, hword] at hpart
    exact hpart
  · exact mread_mwriteBytes_outside _ _ _ h (by rw [length_threadArea]; exact hb)

/-- Settles O31. -/
theorem threadSwitch : Obligations.ThreadSwitch := by
  refine ⟨fun s xa => ?_, fun s s1 s2 xa w l => ?_⟩
  · intro cid c m l bad
    have hgo : c.pl = firm → exec (.threadSwitch xa) s = .next (if bad then takeTrap s cid 4 true c.next c.pc
        else if areaBad l then takeTrap s cid 6 false c.next c.pc else switchedFirm s c.save.toNat (threadArea c) l) :=
      exec_threadSwitch_firm xa
    have hm : (switchedFirm s c.save.toNat (threadArea c) l).fmem = m := fmem_switchedFirm ..
    have hold := fun h : s.fmem.wf = true => mread_threadArea h c.save.toNat c
    have hctx := ctx_switchedFirm s c.save.toNat (threadArea c) l
    rw [show mwriteBytes s.fmem c.save.toNat (threadArea c) = m from rfl] at hold
    clear_value l bad m
    refine ⟨fun hwf hf hbad hzero => ⟨_, (hgo hf).trans (congrArg _ ((if_neg (Bool.not_eq_true _ ▸ hbad)).trans
      (if_neg (fun h => (areaBad_iff _).mp h hzero)))), hm, mem_switchedFirm .., ?_⟩, fun hf hbad hzero => ?_, fun hf hbad => ?_⟩
    · obtain ⟨hpc, hpl, hx, hepc, hsctl, hevmask, hsave, hnext, hmon, hamst, htvec, hscratch⟩ := loadThread_adv c l
      obtain ⟨hregs, hpc0, houtside⟩ := hold hwf
      rw [hctx, hm]
      exact ⟨hpc, hpl, hx, hepc, hsctl, hevmask, hsave, hnext, hmon, hamst, htvec, hscratch, hregs, hpc0, houtside⟩
    · exact (hgo hf).trans (congrArg _ ((if_neg (Bool.not_eq_true _ ▸ hbad)).trans (if_pos ((areaBad_iff _).mpr hzero))))
    · exact (hgo hf).trans (congrArg _ (if_pos hbad))
  · intro cid c hpl hown hplan hread
    have hnot : c.pl ≠ firm := fun h => absurd (hpl.symm.trans h) (by decide)
    have hread' : vreadAll s.cur.cid (curCtx s).vdn (curCtx s).next 320 16 (performAll s1 (.ctx s.cur.cid) (curCtx s).vdn w) = (s2, .ok l) :=
      hread
    have hgo : exec (.threadSwitch xa) s = .next (if areaBad l then trapHere s1 cid causeBound c.next
        else s2.modCtx cid (fun d => (loadThread d l).adv)) := by
      rw [exec_threadSwitch_eq, execThreadSwitch, atLevel_granted (Nat.le_of_eq (congrArg BitVec.toNat hpl.symm)), if_neg hnot,
        if_neg (Bool.not_eq_true _ ▸ hown), hplan]
      dsimp only
      rw [hread']
    exact ⟨fun hzero => hgo.trans (congrArg _ (if_neg fun h => (areaBad_iff _).mp h hzero)),
      fun hzero => hgo.trans (congrArg _ (if_pos ((areaBad_iff _).mpr hzero)))⟩
end Sys2Proof.Proofs
end

section
/-! CUT and RESUME (R232, R233). -/

namespace Sys2Proof.Proofs

open Sys2Proof Sys2Proof.Machine Sys2Proof.Claim

/-- A record that a context reads whole is handed on: at FIRM from the firmware space, else translated. -/
theorem ctxBytes_read {s s1 : State} {cid n : Nat} {a : Word} {l : Bytes} (k : State → Bytes → State)
    (h : if (s.ctx cid).pl = firm then s1 = s ∧ l = mreadBytes s.fmem a.toNat n ∧ firmBad s a.toNat n = false
      else ctxHolds s cid a n = false ∧ vread s (.ctx cid) (s.ctx cid).vdn a n = (s1, .ok l)) : ctxBytes s cid a n k = k s1 l := by
  by_cases hpl : (s.ctx cid).pl = firm
  · rw [if_pos hpl] at h
    obtain ⟨rfl, rfl, hbad⟩ := h
    exact (if_pos hpl).trans (if_neg (Bool.not_eq_true _ ▸ hbad))
  · rw [if_neg hpl] at h
    obtain ⟨hown, hread⟩ := h
    refine (if_neg hpl).trans ((if_neg (Bool.not_eq_true _ ▸ hown)).trans ?_)
    rw [hread]

theorem armedWithPlanes_iff (x : Section) : (x.armed && !x.planes.isEmpty) = true ↔ x.armed = true ∧ x.planes ≠ [] := by
  simp
theorem any_not_eq_false {α : Type} {l : List α} {f : α → Bool} (h : ∀ x ∈ l, f x = true) : ¬ (l.any fun x => !f x) = true := by
  simpa using h

/-! ## CUT -/

/-- Sections that can be cut are being cut, and the context waits. -/
theorem cutBegin_begins {s : State} {cid : Nat} {xd : XReg} {a : Word} {r : SecRec} {maps : List (Nat × Nat × Nat)}
    (harmed : ∀ k ∈ r.secs, ((s.ctx cid).sec k).armed = true ∧ ((s.ctx cid).sec k).planes ≠ [])
    (hassay : ∀ pl ∈ secPlanes s (myself cid r.secs), ∀ p, s.plane? pl = some p → p.assay = false) :
    cutBegin s cid xd a r maps = (markSecs s (myself cid r.secs) (fun x => { x with cutting := true })).modCtx cid
      (fun c => { c with wait := .cut xd a r.secs r.base r.len maps }) := by
  refine (if_neg (any_not_eq_false fun k hk => (armedWithPlanes_iff _).mpr (harmed k hk))).trans (if_neg ?_)
  rw [List.any_eq_true]
  rintro ⟨pl, hpl, hp⟩
  cases h : s.plane? pl with
  | none => rw [h] at hp; exact absurd hp (by decide)
  | some p => rw [h] at hp; exact absurd (hp.symm.trans (hassay pl hpl p h)) (by decide)

/-- CUT of a well-formed record: at FIRM, and at SUPER once its area and its own page are translated. -/
theorem exec_seqCut {s : State} (xd xa : XReg) (hpl : (curCtx s).pl ≠ user) (hal : ((curCtx s).getX xa).toNat % 64 = 0) :
    exec (.seqCut xd xa) s = .next (ctxBytes s s.cur.cid ((curCtx s).getX xa) 64 (fun t l =>
      if (secRec l).kind ≠ 0 ∨ (secRec l).rsv ≠ 0 ∨ (secRec l).base % 64 ≠ 0 then finishX t s.cur.cid xd 1
      else if (curCtx s).pl = firm then cutBegin t s.cur.cid xd ((curCtx s).getX xa) (secRec l) []
      else match checkArea t (ctxCluster s.cur.cid) (curCtx s).vdn (secRec l).base (secRec l).len with
        | (s', .fault e v) => ctxFaultS s' s.cur.cid v e faWrite (some (xd, 3))
        | (s', .ue _) => finishX s' s.cur.cid xd 3
        | (s', .pause) => s'
        | (s', .ok maps) => ctxAccessS s' s.cur.cid ((curCtx s).getX xa) faWrite (some (xd, 3)) (fun s' pa kslot _ =>
            cutBegin s' s.cur.cid xd ((curCtx s).getX xa) (secRec l) ((((curCtx s).getX xa).toNat / 4096, pa / 4096, kslot) :: maps)))) := by
  rw [exec_seqCut_eq, execSeqCut, atLevel_granted (super_le_of_ne_user hpl)]
  exact congrArg _ (if_neg (not_not_intro hal))

/-! ## RESUME -/

/-- The record is sent on to what its KIND asks for. -/
def resumeBody (s s1 : State) (xd : XReg) (r : SecRec) : State :=
  let all := fun (ok : Section → Bool) (f : State → Nat → State) =>
    if r.secs.any (fun k => !ok ((curCtx s).sec k)) then finishX s1 s.cur.cid xd 4 else finishX (r.secs.foldl f s1) s.cur.cid xd 0
  if r.rsv ≠ 0 ∨ r.kind = 0 ∨ 4 < r.kind ∨ (r.kind = 1 ∧ r.base % 64 ≠ 0) then finishX s1 s.cur.cid xd 1
  else if r.kind = 1 then resumeRestore s1 s.cur.cid xd r
  else if r.kind = 2 then all (fun x => x.armed && !x.planes.isEmpty) (fun s' k => continueSec s' s.cur.cid k)
  else if r.kind = 3 then
    (if r.secs.any (fun k => !((((curCtx s).sec k).armed && !((curCtx s).sec k).planes.isEmpty) || ((curCtx s).sec k).away)) then
      finishX s1 s.cur.cid xd 4
     else abortEnd (r.secs.foldl (fun s' k => abortSection s' s.cur.cid k) s1) s.cur.cid xd r.secs)
  else all (fun x => x.inPlace) (fun s' k => runAgain s' [(s.cur.cid, k)])
theorem resume_read {s s1 : State} (xd xa : XReg) {i : Instr} {l : Bytes} (hpl : (curCtx s).pl ≠ user)
    (hal : ((curCtx s).getX xa).toNat % 64 = 0)
    (h : if (s.ctx s.cur.cid).pl = firm then s1 = s ∧ l = mreadBytes s.fmem ((curCtx s).getX xa).toNat 64 ∧
        firmBad s ((curCtx s).getX xa).toNat 64 = false
      else ctxHolds s s.cur.cid ((curCtx s).getX xa) 64 = false ∧
        vread s (.ctx s.cur.cid) (s.ctx s.cur.cid).vdn ((curCtx s).getX xa) 64 = (s1, .ok l)) :
    resume xd xa i s = .next (resumeBody s s1 xd (secRec l)) := by
  rw [resume, atLevel_granted (super_le_of_ne_user hpl)]
  exact congrArg _ ((if_neg (not_not_intro hal)).trans (ctxBytes_read _ h))
/-- The four instructions are one. -/
theorem exec_resumes {s t : State} {xd xa : XReg} (h : ∀ i, resume xd xa i s = .next t) :
    ∀ i ∈ [Instr.resumeRestore xd xa, .resumeRelease xd xa, .resumeContinue xd xa, .resumeAbort xd xa], exec i s = .next t := by
  intro i hi
  simp only [List.mem_cons, List.not_mem_nil, or_false] at hi
  obtain rfl | rfl | rfl | rfl := hi
  · rw [exec_resumeRestore_eq, execResumeRestore, h]
  · rw [exec_resumeRelease_eq, execResumeRelease, h]
  · rw [exec_resumeContinue_eq, execResumeContinue, h]
  · rw [exec_resumeAbort_eq, execResumeAbort, h]

section Kinds
variable {s s1 : State} {xd : XReg} {r : SecRec}

theorem resumeBody_restore {s2 s3 : State} {rs : List Region} (hk : r.kind = 1) (hr : r.rsv = 0) (hb : r.base % 64 = 0)
    (harea : readArea (if (s1.ctx s.cur.cid).pl = firm then fwReader else vreader (.ctx s.cur.cid) (s1.ctx s.cur.cid).vdn) s1 r.base r.len =
      (s2, .ok (some rs)))
    (hsecs : ∀ k ∈ r.secs, ((s1.ctx s.cur.cid).sec k).planes = [] ∧ ∃ x ∈ rs.filter (fun x => r.secs.contains x.sec), x.sec = k)
    (hall : restoreAll s2 (fun _ => s.cur.cid) (rs.filter (fun x => r.secs.contains x.sec)) = (s3, none)) :
    resumeBody s s1 xd r = doneX s3 s.cur.cid xd 0 := by
  have hempty : ¬ (r.secs.any fun k => !((s1.ctx s.cur.cid).sec k).planes.isEmpty ||
      !(rs.filter (fun x => r.secs.contains x.sec)).any (fun x => x.sec == k)) = true := by
    rw [List.any_eq_true]
    rintro ⟨k, hk, h⟩
    obtain ⟨hp, x, hx, hxk⟩ := hsecs k hk
    have hany : (rs.filter (fun x => r.secs.contains x.sec)).any (fun x => x.sec == k) = true :=
      List.any_eq_true.mpr ⟨x, hx, beq_iff_eq.mpr hxk⟩
    rw [hp, hany] at h
    exact absurd h (by decide)
  refine (if_neg (by omega)).trans ((if_pos hk).trans ?_)
  unfold resumeRestore
  dsimp only
  rw [harea]
  refine (if_neg hempty).trans ?_
  rw [hall]
  exact finishX_eq_doneX ..
theorem resumeBody_continue (hk : r.kind = 2) (hr : r.rsv = 0)
    (h : ∀ k ∈ r.secs, ((curCtx s).sec k).armed = true ∧ ((curCtx s).sec k).planes ≠ []) :
    resumeBody s s1 xd r = doneX (r.secs.foldl (fun s' k => continueSec s' s.cur.cid k) s1) s.cur.cid xd 0 :=
  (if_neg (by omega)).trans ((if_neg (by omega)).trans ((if_pos hk).trans
    ((if_neg (any_not_eq_false fun k hk => (armedWithPlanes_iff _).mpr (h k hk))).trans (finishX_eq_doneX ..))))
theorem resumeBody_abort (hk : r.kind = 3) (hr : r.rsv = 0) (h : ∀ k ∈ r.secs,
      (((curCtx s).sec k).armed = true ∧ ((curCtx s).sec k).planes ≠ []) ∨ ((curCtx s).sec k).away = true) :
    resumeBody s s1 xd r = abortEnd (r.secs.foldl (fun s' k => abortSection s' s.cur.cid k) s1) s.cur.cid xd r.secs :=
  (if_neg (by omega)).trans ((if_neg (by omega)).trans ((if_neg (by omega)).trans ((if_pos hk).trans
    (if_neg (any_not_eq_false fun k hk => (Bool.or_eq_true ..).mpr ((h k hk).imp_left (armedWithPlanes_iff _).mpr))))))
theorem resumeBody_release (hk : r.kind = 4) (hr : r.rsv = 0) (h : ∀ k ∈ r.secs, ((curCtx s).sec k).inPlace = true) :
    resumeBody s s1 xd r = doneX (r.secs.foldl (fun s' k => runAgain s' [(s.cur.cid, k)]) s1) s.cur.cid xd 0 :=
  (if_neg (by omega)).trans ((if_neg (by omega)).trans ((if_neg (by omega)).trans ((if_neg (by omega)).trans
    ((if_neg (any_not_eq_false h)).trans (finishX_eq_doneX ..)))))
end Kinds

/-- Settles O32. -/
theorem cutAndResume : Obligations.CutAndResume := by
  refine ⟨fun s s1 s2 s3 xd xa l maps pa kslot cp opo => ?_, fun s s1 s2 s3 xd xa l rs => ?_⟩
  · intro cid c a r secs may begun hal hkind hrsv hbase
    have hform : ¬ (r.kind ≠ 0 ∨ r.rsv ≠ 0 ∨ r.base % 64 ≠ 0) := by omega
    refine ⟨fun hpl hl hbad hmay => ?_, fun hpl hown hread harea hpage hmay => ?_⟩
    · have hnot : c.pl ≠ user := fun h => absurd (hpl.symm.trans h) (by decide)
      have hfound : if (s.ctx cid).pl = firm then s = s ∧ l = mreadBytes s.fmem a.toNat 64 ∧ firmBad s a.toNat 64 = false
          else ctxHolds s cid a 64 = false ∧ vread s (.ctx cid) (s.ctx cid).vdn a 64 = (s, .ok l) := (if_pos hpl).symm ▸ ⟨rfl, hl, hbad⟩
      refine (exec_seqCut xd xa hnot hal).trans (congrArg _ ((ctxBytes_read _ hfound).trans ?_))
      exact (if_neg hform).trans ((if_pos hpl).trans (cutBegin_begins hmay.1 hmay.2))
    · have hnot : c.pl ≠ user := fun h => absurd (hpl.symm.trans h) (by decide)
      have hfirm : c.pl ≠ firm := fun h => absurd (hpl.symm.trans h) (by decide)
      have hfound : if (s.ctx cid).pl = firm then s1 = s ∧ l = mreadBytes s.fmem a.toNat 64 ∧ firmBad s a.toNat 64 = false
          else ctxHolds s cid a 64 = false ∧ vread s (.ctx cid) (s.ctx cid).vdn a 64 = (s1, .ok l) := (if_neg hfirm).symm ▸ ⟨hown, hread⟩
      refine (exec_seqCut xd xa hnot hal).trans (congrArg _ ((ctxBytes_read _ hfound).trans ?_))
      refine (if_neg hform).trans ((if_neg hfirm).trans ?_)
      have harea' : checkArea s1 (ctxCluster s.cur.cid) (curCtx s).vdn (secRec l).base (secRec l).len = (s2, .ok maps) := harea
      rw [harea']
      exact (ctxAccessS_ok hpage _).trans (cutBegin_begins hmay.1 hmay.2)
  · intro cid c a r mine run rd hpl hal hfound hrsv
    have hbody : ∀ t, resumeBody s s1 xd r = t → run t := fun t h => exec_resumes fun i => h ▸ resume_read xd xa hpl hal hfound
    exact ⟨fun hk hb harea hsecs hall => hbody _ (resumeBody_restore hk hrsv hb harea hsecs hall),
      fun hk h => hbody _ (resumeBody_continue hk hrsv h), fun hk h => hbody _ (resumeBody_abort hk hrsv h),
      fun hk h => hbody _ (resumeBody_release hk hrsv h)⟩

end Sys2Proof.Proofs
end

section
/-! What a turn runs (R26, R199). -/

namespace Sys2Proof.Proofs

open Sys2Proof Sys2Proof.Machine Sys2Proof.Claim

/-- The state in which a context's turn begins. -/
def turnOf (s : State) (cid : Nat) : State := { s with cur := { plane := 0, elem := 0, slot := 0, cid := cid } }

/-! ## Which context issues -/

theorem ctxReady_iff (c : Ctx) : ctxReady c = true ↔ readyCtx c := by
  simp [ctxReady, readyCtx, and_assoc]
theorem nextIssuer_eq_some_iff (s : State) (cl cid : Nat) : nextIssuer s cl = some cid ↔
    ∃ i, i < 8 ∧ 8 * cl + ((s.cluster cl).last + 1 + i) % 8 = cid ∧ readyCtx (s.ctx cid) ∧
      ∀ j, j < i → ¬ readyCtx (s.ctx (8 * cl + ((s.cluster cl).last + 1 + j) % 8)) := by
  simp only [nextIssuer, List.find?_map, Option.map_eq_some_iff, List.find?_range_eq_some, List.mem_range, Function.comp_apply,
    Bool.not_eq_true', ctxReady_iff, ← Bool.not_eq_true]
  constructor
  · rintro ⟨i, ⟨hready, hi, hlow⟩, rfl⟩
    exact ⟨i, hi, rfl, hready, hlow⟩
  · rintro ⟨i, hi, rfl, hready, hlow⟩
    exact ⟨i, ⟨hready, hi, hlow⟩, rfl⟩
theorem nextUp_iff (s : State) (cid : Nat) :
    nextUp s cid ↔ ¬ (2 ≤ issuedNow s (ctxCluster cid) ∨ nextIssuer s (ctxCluster cid) ≠ some cid) := by
  rw [not_or, Classical.not_not, nextIssuer_eq_some_iff, Nat.not_le]
  rfl
theorem readyCtx_of_nextUp {s : State} {cid : Nat} (h : nextUp s cid) : readyCtx (s.ctx cid) := by
  obtain ⟨_, i, _, _, hready, _⟩ := h
  exact hready

/-! ## Turns -/

theorem step_turn {s : State} {t : Turn} {rest : List Turn} (h : s.agenda = t :: rest) : step s = runTurn t { s with agenda := rest } := by
  rw [step, h]

/-- A ready context that is not the next to issue does nothing in its turn. -/
theorem fetchSeq_notNext {s : State} {cid : Nat} (h : readyCtx (s.ctx cid)) (hn : ¬ nextUp s cid) :
    fetchSeq s cid = .ended (turnOf s cid) := by
  obtain ⟨hrun, hwait, hputs, hdue⟩ := h
  have hturn : ({ s with cur := { plane := 0, elem := 0, slot := 0, cid := cid } } : State).ctx cid = s.ctx cid := rfl
  have hlate := Classical.not_not.1 (mt (nextUp_iff s cid).mpr hn)
  unfold fetchSeq
  dsimp only
  rw [hturn, if_neg (not_not_intro hrun), hputs]
  dsimp only
  rw [hdue, hwait]
  exact if_pos hlate
/-- The context that issues next fetches in its turn. -/
theorem fetchSeq_next {s : State} {cid : Nat} (h : nextUp s cid) : fetchSeq s cid =
    if (s.ctx cid).pl = firm then
      (if firmBad s (s.ctx cid).pc.toNat 8 then .ended (firmUe (markIssue (turnOf s cid) cid) cid (s.ctx cid).pc)
       else .word (markIssue (turnOf s cid) cid) (mreadN s.fmem (s.ctx cid).pc.toNat 8))
    else fetchVirtual (markIssue (turnOf s cid) cid) cid (s.ctx cid) := by
  obtain ⟨hrun, hwait, hputs, hdue⟩ := readyCtx_of_nextUp h
  have hturn : ({ s with cur := { plane := 0, elem := 0, slot := 0, cid := cid } } : State).ctx cid = s.ctx cid := rfl
  unfold fetchSeq
  dsimp only
  rw [hturn, if_neg (not_not_intro hrun), hputs]
  dsimp only
  rw [hdue, hwait]
  exact if_neg ((nextUp_iff s cid).mp h)
/-- A context with sectors left to write writes the next one. -/
theorem fetchSeq_puts {s : State} {cid : Nat} {a : Access} {puts : List Access} (hrun : (s.ctx cid).run = .running)
    (hputs : (s.ctx cid).puts = a :: puts) : fetchSeq s cid =
    .ended (performAll ((turnOf s cid).setCtx cid { s.ctx cid with puts := puts }) (.ctx cid) (s.ctx cid).vdn [a]) := by
  have hturn : ({ s with cur := { plane := 0, elem := 0, slot := 0, cid := cid } } : State).ctx cid = s.ctx cid := rfl
  unfold fetchSeq
  dsimp only
  rw [hturn, if_neg (not_not_intro hrun), hputs]
  rfl

/-- What a context's turn does with the word it fetched. -/
theorem runTurn_word {s u : State} {cid w : Nat} (h : fetchSeq s cid = .word u w) : runTurn (.context cid) s =
    match decodeSeq w with
    | some i => exec i u
    | none => .next (takeTrap u cid 2 false (BitVec.ofNat 64 w) (u.ctx cid).pc) := by
  simp only [runTurn, h]
  rfl
theorem runTurn_ended {s t : State} {cid : Nat} (h : fetchSeq s cid = .ended t) : runTurn (.context cid) s = .next t := by
  simp only [runTurn, h]

theorem fetchVirtual_word {s s1 s2 s3 : State} {cid pa kslot cp : Nat} {opo : Bool} {v : BitVec 256} {c : Ctx}
    (ht : translate s (tlbCluster (ctxCluster cid)) c.vdn c.pc false false = (s1, .ok pa kslot cp opo))
    (hr : reaches s1 (.ctx cid) (pa / 32 * 32) cp = (s2, true))
    (hl : loadSector s2 (.ctx cid) c.vdn (pa / 32 * 32) kslot cp = (s3, v, false)) :
    fetchVirtual s cid c = .word s3 (bits v.toNat (8 * (pa % 32)) 64) := by
  simp only [fetchVirtual, ht, hr, hl]

/-! ## A word placed for the next step -/

theorem ctx_withFetchWord (s : State) (w : Nat) : ((s.withFetchWord 64 w).ctx 0) =
    { s.ctx 0 with run := .running, wait := .none, pl := firm, part := [], puts := [] } := tget_tset_same ..
theorem cluster_withFetchWord (s : State) (w : Nat) : ((s.withFetchWord 64 w).cluster 0) =
    { s.cluster 0 with last := 7, issue := (0, 0) } := tget_tset_same ..
theorem nextUp_withFetchWord (s : State) (w : Nat) : nextUp (s.withFetchWord 64 w) 0 := by
  have hready : readyCtx ((s.withFetchWord 64 w).ctx 0) := by
    rw [ctx_withFetchWord]
    exact ⟨rfl, rfl, rfl, if_neg fun h => h.2.1 rfl⟩
  have hissued : issuedIn (s.withFetchWord 64 w) (ctxCluster 0) = 0 := by
    change (if ((s.withFetchWord 64 w).cluster 0).issue.1 = _ then _ else _) = _
    rw [cluster_withFetchWord]
    exact if_neg (Nat.succ_ne_zero _).symm
  have hlast : 8 * ctxCluster 0 + (((s.withFetchWord 64 w).cluster 0).last + 1 + 0) % 8 = 0 := by
    have hseven : ((s.withFetchWord 64 w).cluster 0).last = 7 := by rw [cluster_withFetchWord]
    exact congrArg (fun l => 8 * ctxCluster 0 + (l + 1 + 0) % 8) hseven
  exact ⟨by rw [hissued]; decide, 0, by decide, hlast, hready, fun j hj => absurd hj (Nat.not_lt_zero j)⟩
theorem firmBad_withFetchWord (s : State) (w : Nat) : ¬ firmBad (s.withFetchWord 64 w) ((s.withFetchWord 64 w).ctx 0).pc.toNat 8 = true := by
  rw [ctx_withFetchWord]
  simp only [firmBad, State.withFetchWord, placeWord, withSeqWord, List.any_eq_true]
  rintro ⟨x, hx, hin⟩
  have hout := (List.mem_filter.mp hx).2
  exact absurd (hout.symm.trans (congrArg (!·) hin)) (by decide)
theorem fmem_withFetchWord (s : State) (w : Nat) : (s.withFetchWord 64 w).fmem = mwriteN s.fmem (s.ctx 0).pc.toNat 8 (w % 2 ^ 64) := rfl
theorem mreadN_withFetchWord {s : State} {w : Nat} (h : s.fmem.wf = true) (hw : w < 2 ^ 64) :
    mreadN (s.withFetchWord 64 w).fmem ((s.withFetchWord 64 w).ctx 0).pc.toNat 8 = w := by
  rw [ctx_withFetchWord, fmem_withFetchWord, Nat.mod_eq_of_lt hw]
  exact (mreadN_mwriteN _ _ _ h).trans (Nat.mod_eq_of_lt hw)

/-- Settles O13. -/
theorem stepRuns : Obligations.StepRuns := by
  intro s rest cid tile e d w i t a puts msg
  refine ⟨fun hag hready hn => ?_, fun hag hup => ⟨fun hf hbad => ?_, fun hf hbad => ?_, fun hf s1 pa kslot cp opo s2 s3 v ht hr hl => ?_⟩,
    fun hag hrun hputs => ?_, fun hag hmsg => ?_, fun hag hf hd => ?_, fun hag he => ?_, fun hag => ?_, fun hag => ?_, fun hwf hw hd => ?_⟩
  · exact (step_turn hag).trans (runTurn_ended (fetchSeq_notNext hready hn))
  · exact (step_turn hag).trans (runTurn_word ((fetchSeq_next (s := { s with agenda := rest }) hup).trans ((if_pos hf).trans (if_neg (Bool.not_eq_true _ ▸ hbad)))))
  · exact (step_turn hag).trans (runTurn_ended ((fetchSeq_next (s := { s with agenda := rest }) hup).trans ((if_pos hf).trans (if_pos hbad))))
  · exact (step_turn hag).trans (runTurn_word ((fetchSeq_next (s := { s with agenda := rest }) hup).trans ((if_neg hf).trans (fetchVirtual_word ht hr hl))))
  · exact (step_turn hag).trans (runTurn_ended (fetchSeq_puts hrun hputs))
  · rw [step_turn hag, runTurn, hmsg]
  · rw [step_turn hag, runTurn, hf]
    dsimp only
    rw [hd]
  · exact (step_turn hag).trans (if_pos (beq_iff_eq.mpr he))
  · exact step_turn hag
  · rw [step, hag]
  · have hag : (s.withFetchWord 64 w).agenda = [.context 0] := rfl
    have hup : nextUp { s.withFetchWord 64 w with agenda := [] } 0 := nextUp_withFetchWord s w
    have hfirm : ((s.withFetchWord 64 w).ctx 0).pl = firm := by rw [ctx_withFetchWord]
    have hword := (fetchSeq_next hup).trans ((if_pos hfirm).trans ((if_neg (firmBad_withFetchWord s w)).trans
      (congrArg _ (mreadN_withFetchWord hwf hw))))
    rw [step_turn hag, runTurn_word hword, hd]
    rfl

end Sys2Proof.Proofs
end

section
/-! Element firings: readiness (R34), the kind (R38, R39), the course of a firing under the cursor (R37, R40), and the token operations. -/

namespace Sys2Proof.Proofs

open Sys2Proof Sys2Proof.Machine Sys2Proof.Claim

/-! ## Numbers composed of fields -/

/-- Where two fields lie apart. -/
def apart (x y : Nat × Nat) : Prop := x.1 + x.2 ≤ y.1 ∨ y.1 + y.2 ≤ x.1
/-- The place and width of a field. -/
def place (x : Nat × Nat × Nat) : Nat × Nat := (x.1, x.2.1)
/-- The bit of a field at a place of the number. -/
def fieldBit (i : Nat) (x : Nat × Nat × Nat) : Bool := decide (x.1 ≤ i) && decide (i < x.1 + x.2.1) && x.2.2.testBit (i - x.1)

theorem testBit_shifted_field (lo w v i : Nat) : (v % 2 ^ w * 2 ^ lo).testBit i = fieldBit i (lo, w, v) := by
  rw [Nat.testBit_mul_two_pow, Nat.testBit_mod_two_pow, fieldBit]
  by_cases hlo : lo ≤ i
  · have hw : decide (i - lo < w) = decide (i < lo + w) := by rw [decide_eq_decide]; omega
    rw [decide_eq_true hlo, hw, Bool.true_and, Bool.true_and]
  · rw [decide_eq_false hlo, Bool.false_and, Bool.false_and, Bool.false_and]
/-- Numbers without a common bit add up to their union. -/
theorem add_eq_or_of_and {x y : Nat} (h : x &&& y = 0) : x + y = x ||| y := by
  have hx : x < 2 ^ (x + y) := Nat.lt_of_le_of_lt (Nat.le_add_right ..) Nat.lt_two_pow_self
  have hy : y < 2 ^ (x + y) := Nat.lt_of_le_of_lt (Nat.le_add_left ..) Nat.lt_two_pow_self
  have hand : BitVec.ofNat (x + y) x &&& BitVec.ofNat (x + y) y = 0#(x + y) := by rw [← BitVec.ofNat_and, h]
  have hsum := congrArg BitVec.toNat (BitVec.add_eq_or_of_and_eq_zero _ _ hand)
  rwa [← BitVec.ofNat_add, ← BitVec.ofNat_or, BitVec.toNat_ofNat, BitVec.toNat_ofNat, Nat.mod_eq_of_lt Nat.lt_two_pow_self,
    Nat.mod_eq_of_lt (Nat.or_lt_two_pow hx hy)] at hsum
/-- Each bit of a number composed of fields that lie apart is the bit of the field there. -/
theorem testBit_pack : ∀ {l : List (Nat × Nat × Nat)}, (l.map place).Pairwise apart → ∀ i, (pack l).testBit i = l.any (fieldBit i)
  | [], _, i => Nat.zero_testBit i
  | (lo, w, v) :: r, h, i => by
    rw [List.map_cons, List.pairwise_cons] at h
    obtain ⟨hhead, htail⟩ := h
    have hand : v % 2 ^ w * 2 ^ lo &&& pack r = 0 := by
      refine Nat.eq_of_testBit_eq fun j => ?_
      rw [Nat.testBit_and, testBit_shifted_field, testBit_pack htail, Nat.zero_testBit, Bool.and_eq_false_iff]
      by_cases hin : lo ≤ j ∧ j < lo + w
      · refine Or.inr (List.any_eq_false.mpr fun x hx => ?_)
        have hapart := hhead _ (List.mem_map_of_mem hx)
        simp only [apart, place] at hapart
        simp only [fieldBit, Bool.and_eq_true, decide_eq_true_eq]
        omega
      · refine Or.inl ?_
        have hout : (decide (lo ≤ j) && decide (j < lo + w)) = false := by simpa using hin
        rw [fieldBit, hout, Bool.false_and]
    rw [pack, add_eq_or_of_and hand, Nat.testBit_or, testBit_shifted_field, testBit_pack htail, List.any_cons]
theorem testBit_bits (w lo n i : Nat) : (bits w lo n).testBit i = (decide (i < n) && w.testBit (lo + i)) := by
  rw [bits, Nat.testBit_mod_two_pow, Nat.testBit_div_two_pow, Nat.add_comm]
/-- Two entries of a list whose pairs are related, by a relation that has no order. -/
theorem pairwise_of_mem {α : Type _} {r : α → α → Prop} (hsymm : ∀ x y, r x y → r y x) {l : List α} (h : l.Pairwise r) {x y : α}
    (hx : x ∈ l) (hy : y ∈ l) (hne : x ≠ y) : r x y := by
  induction h with
  | nil => cases hx
  | cons hhead _ ih =>
    obtain rfl | hxl := List.mem_cons.mp hx
    · exact hhead y ((List.mem_cons.mp hy).resolve_left (Ne.symm hne))
    · obtain rfl | hyl := List.mem_cons.mp hy
      · exact hsymm _ _ (hhead x hxl)
      · exact ih hxl hyl
/-- A part of a field is read back. -/
theorem bits_pack_field {l : List (Nat × Nat × Nat)} (h : (l.map place).Pairwise apart) {lo w v : Nat} (hm : (lo, w, v) ∈ l) {k n : Nat}
    (hkn : k + n ≤ w) : bits (pack l) (lo + k) n = bits v k n := by
  refine Nat.eq_of_testBit_eq fun i => ?_
  rw [testBit_bits, testBit_bits]
  by_cases hi : i < n
  · rw [decide_eq_true hi, Bool.true_and, Bool.true_and, testBit_pack h, Bool.eq_iff_iff, List.any_eq_true]
    constructor
    · rintro ⟨x, hx, hb⟩
      have hsame : x = (lo, w, v) := by
        refine Classical.byContradiction fun hne => ?_
        have hapart := pairwise_of_mem (r := fun x y => apart (place x) (place y)) (fun _ _ h => Or.symm h) (List.pairwise_map.mp h) hx hm hne
        simp only [fieldBit, Bool.and_eq_true, decide_eq_true_eq] at hb
        simp only [apart, place] at hapart
        omega
      rw [hsame, fieldBit, Bool.and_eq_true] at hb
      rw [show k + i = lo + k + i - lo by omega]
      exact hb.2
    · intro hb
      refine ⟨_, hm, ?_⟩
      rw [fieldBit, decide_eq_true (by omega : lo ≤ lo + k + i), decide_eq_true (by omega : lo + k + i < lo + w),
        show lo + k + i - lo = k + i by omega, hb]
      rfl
  · rw [decide_eq_false hi, Bool.false_and, Bool.false_and]
theorem bits_pack {l : List (Nat × Nat × Nat)} (h : (l.map place).Pairwise apart) {lo w v : Nat} (hm : (lo, w, v) ∈ l) :
    bits (pack l) lo w = v % 2 ^ w := by
  have hall := bits_pack_field h hm (Nat.le_of_eq (Nat.zero_add w))
  rwa [Nat.add_zero, bits, bits, Nat.pow_zero, Nat.div_one, ← bits] at hall
/-- Where no field lies, the number has zeros. -/
theorem bits_pack_gap {l : List (Nat × Nat × Nat)} (h : (l.map place).Pairwise apart) {lo n : Nat} (hg : ∀ x ∈ l.map place, apart x (lo, n)) :
    bits (pack l) lo n = 0 := by
  refine Nat.eq_of_testBit_eq fun i => ?_
  rw [testBit_bits, testBit_pack h, Nat.zero_testBit, Bool.and_eq_false_iff]
  by_cases hi : i < n
  · refine Or.inr (List.any_eq_false.mpr fun x hx => ?_)
    have hapart := hg _ (List.mem_map_of_mem hx)
    simp only [apart, place] at hapart
    simp only [fieldBit, Bool.and_eq_true, decide_eq_true_eq]
    omega
  · exact Or.inl (decide_eq_false hi)
/-- A field of a word composed of fields. -/
theorem extractLsb'_pack {l : List (Nat × Nat × Nat)} {lo n : Nat} (hin : lo + n ≤ 64) :
    ((BitVec.ofNat 64 (pack l)).extractLsb' lo n).toNat = bits (pack l) lo n := by
  refine Nat.eq_of_testBit_eq fun i => ?_
  rw [BitVec.extractLsb'_toNat, BitVec.toNat_ofNat, testBit_bits, Nat.testBit_mod_two_pow, Nat.testBit_shiftRight, Nat.testBit_mod_two_pow]
  by_cases hi : i < n
  · rw [decide_eq_true (by omega : lo + i < 64), Bool.true_and]
  · rw [decide_eq_false hi, Bool.false_and, Bool.false_and]

/-! ## The lowest ready slot -/

theorem lowestReady_eq_some_iff {p : Plane} {e n : Nat} (k : Nat) : ∀ j i, lowestReady p e n k j = some i ↔
    j ≤ i ∧ i < j + k ∧ slotReady p e n i = true ∧ ∀ m, j ≤ m → m < i → slotReady p e n m = false := by
  induction k with
  | zero => exact fun j i => ⟨fun h => absurd h (Option.some_ne_none i).symm, fun h => absurd h.2.1 (Nat.not_lt.mpr h.1)⟩
  | succ k ih =>
    intro j i
    rw [lowestReady]
    by_cases hj : slotReady p e n j = true
    · rw [if_pos hj, Option.some_inj]
      constructor
      · rintro rfl
        exact ⟨Nat.le_refl _, by omega, hj, fun m hm hlt => absurd hlt (Nat.not_lt.mpr hm)⟩
      · rintro ⟨hle, _, _, hlow⟩
        refine Nat.le_antisymm hle (Nat.not_lt.mp fun hlt => ?_)
        exact absurd (hj.symm.trans (hlow j (Nat.le_refl _) hlt)) (by decide)
    · rw [if_neg hj, ih]
      constructor
      · rintro ⟨hle, hlt, hi, hlow⟩
        refine ⟨by omega, by omega, hi, fun m hm hmi => ?_⟩
        obtain rfl | hlater := Nat.eq_or_lt_of_le hm
        · exact Bool.not_eq_true _ ▸ hj
        · exact hlow m hlater hmi
      · rintro ⟨hle, hlt, hi, hlow⟩
        have hne : j ≠ i := fun h => hj (h ▸ hi)
        exact ⟨by omega, by omega, hi, fun m hm hmi => hlow m (by omega) hmi⟩
theorem readySlot_eq_some_iff {p : Plane} {e n i : Nat} : readySlot p e n = some i ↔
    i < 16 ∧ slotReady p e n i = true ∧ ∀ k, k < i → slotReady p e n k = false := by
  rw [readySlot, lowestReady_eq_some_iff]
  simp

theorem activePlane_lt (c : Cluster) : activePlane c < 4 := by
  unfold activePlane
  split
  · decide
  · exact Nat.mod_lt _ (by decide)
theorem activePlane_eq_of_isActive {s : State} {pl : Nat} (h : isActive s pl = true) : activePlane (s.cluster (planeCluster pl)) = pl % 4 := by
  simp only [isActive, Bool.and_eq_true, beq_iff_eq] at h
  exact h.1.1
theorem markerDue_eq_false {p : Plane} {u n : Nat} (h : ∀ k ∈ p.inputs u, ∀ x ∈ (p.chan k).q, x.plain = false → n < x.vis) :
    markerDue p u n = false := by
  have hnone : ((p.inputs u).any fun k => (p.chan k).q.any fun x => !x.plain && decide (x.vis ≤ n)) = false := by
    simp only [List.any_eq_false, List.any_eq_true, Bool.and_eq_true, Bool.not_eq_true', decide_eq_true_eq]
    rintro k hk ⟨x, hx, hmark, hdue⟩
    exact absurd hdue (Nat.not_le.mpr (h k hk x hx hmark))
  rw [markerDue, hnone, Bool.and_false]

/-- Settles O33. -/
theorem lowestReadySlot : Obligations.LowestReadySlot := by
  refine ⟨fun s t tile e w h => ?_, fun s pl e j p => ?_⟩
  · have hlt := activePlane_lt (s.cluster (tileCluster tile))
    unfold fetchSlot at h
    extract_lets pl at h
    split at h
    · cases h
    · next p hp =>
      split at h
      · next hgo =>
        split at h
        · next j hj =>
          obtain ⟨hj16, hready, hlow⟩ := readySlot_eq_some_iff.mp hj
          simp only [Bool.and_eq_true] at hgo
          cases h
          exact ⟨pl, p, j, hp, by omega, hgo.1.1.1.1, hj16, rfl, hready, hlow, rfl⟩
        · cases h
      · cases h
  · intro n hp hact he harm hassay hret hhalt hfired hstop hdrain hrefill hmark hjoin htake hj hready hlow
    have hplane : 4 * (pl / 4) + activePlane (s.cluster (tileCluster (pl / 4))) = pl := by
      rw [show activePlane (s.cluster (tileCluster (pl / 4))) = pl % 4 from activePlane_eq_of_isActive hact]
      omega
    have hfree : unitFree p e n = true := by
      simp [unitFree, hstop, hdrain, hrefill, hassay, hret, harm, hhalt, hfired, markerDue_eq_false hmark]
    unfold fetchSlot
    rw [hplane]
    dsimp only
    rw [hp]
    dsimp only
    rw [readySlot_eq_some_iff.mpr ⟨hj, hready, hlow⟩]
    have hgo : (isActive s pl && decide (e < 8) && unitFree p e n && !mustJoin p e && !mustTake p e n) = true := by
      rw [hact, hfree, hjoin, htake, decide_eq_true he]; rfl
    exact if_pos hgo

/-! ## The kind of a firing -/

theorem anyNull_iff (l : List (Option Token)) : anyNull l = true ↔ ∃ t, some t ∈ l ∧ t.nul = true := by
  simp only [anyNull, List.any_eq_true]
  constructor
  · rintro ⟨o, ho, h⟩
    cases o with
    | none => cases h
    | some t => exact ⟨t, ho, h⟩
  · rintro ⟨t, ht, h⟩
    exact ⟨some t, ht, h⟩
theorem anyNull_eq_false {l : List (Option Token)} (h : ∀ t, some t ∈ l → t.nul = false) : ¬ anyNull l = true := by
  rw [anyNull_iff]
  rintro ⟨t, ht, hn⟩
  exact absurd (hn.symm.trans (h t ht)) (by decide)
/-- Tokens without poison in front do not count. -/
theorem firstPoison_append {a : List (Option Token)} (h : ∀ t, some t ∈ a → t.psn = false) (l : List (Option Token)) :
    firstPoison (a ++ l) = firstPoison l := by
  induction a with
  | nil => rfl
  | cons o r ih =>
    have hr := ih fun t ht => h t (List.mem_cons_of_mem _ ht)
    cases o with
    | none => exact hr
    | some t => exact (if_neg (Bool.not_eq_true _ ▸ h t List.mem_cons_self)).trans hr

/-- Settles O34. -/
theorem firingKind : Obligations.FiringKind := by
  intro l
  refine ⟨fun h => if_pos ((anyNull_iff l).mpr h), fun hnul hpsn => ?_, fun a b t hl hnul hpsn hfront => ?_⟩
  · refine (if_neg (anyNull_eq_false hnul)).trans ?_
    rw [← List.append_nil l, firstPoison_append hpsn]
    rfl
  · refine (if_neg (anyNull_eq_false hnul)).trans ?_
    rw [hl, firstPoison_append hfront, firstPoison, if_pos hpsn]

/-! ## The course of a firing -/

/-- An operand's token does not depend on the type. -/
theorem operand_token (s : State) (pl : Nat) (p : Plane) (e n : Nat) (wide : Bool) (imm : BitVec 16) (x : Sel) :
    (operand s pl p e n wide imm x).2 = (operand s pl p e n false imm x).2 := by
  cases x with
  | head c => rfl
  | _ => rfl
@[simp] theorem opA_token (s : State) (p : Plane) (wide : Bool) (f : EFields) : (opA s p wide f).2 = (opA s p false f).2 := operand_token ..
@[simp] theorem opB_token (s : State) (p : Plane) (wide : Bool) (f : EFields) : (opB s p wide f).2 = (opB s p false f).2 := operand_token ..
@[simp] theorem opC_token (s : State) (p : Plane) (wide : Bool) (f : EFields) : (opC s p wide f).2 = (opC s p false f).2 := operand_token ..

/-- An operand with a token is its data. -/
theorem operand_data {s : State} {pl : Nat} {p : Plane} {e n : Nat} {wide : Bool} {imm : BitVec 16} {x : Sel} {t : Token}
    (h : (operand s pl p e n wide imm x).2 = some t) : (operand s pl p e n wide imm x).1 = t.data := by
  cases x with
  | head c =>
    unfold operand at h ⊢
    dsimp only at h ⊢
    split at h
    · exact congrArg Token.data (Option.some_inj.mp h)
    · cases h
  | _ => cases h

section Course
variable {s : State} {p : Plane} {f : EFields} {wide : Bool}

theorem not_anySeal (h : unsealed s p f = true) :
    ¬ anySeal ([(opA s p wide f).2, (opB s p wide f).2, (opC s p wide f).2] ++ deqHeads p (curElem s) (curAc s) f) = true := by
  rw [opA_token, opB_token, opC_token, Bool.not_eq_true, ← Bool.not_eq_true']
  exact h
theorem anySeal_of_sealed (h : unsealed s p f = false) :
    anySeal ([(opA s p wide f).2, (opB s p wide f).2, (opC s p wide f).2] ++ deqHeads p (curElem s) (curAc s) f) = true := by
  rw [opA_token, opB_token, opC_token, ← Bool.not_eq_false']
  exact h
theorem kind0_eq (wide : Bool) : kind0 s p f = kindOf [(opA s p wide f).2, (opB s p wide f).2, (opC s p wide f).2] := by
  rw [opA_token, opB_token, opC_token]; rfl

/-- A firing whose operand tokens pass R40 goes on. -/
theorem withOperands_unsealed (k : Nat → Nat → Nat → Plane → List (Lanes × Option Token) → Ans) (hp : s.plane? (curPlane s) = some p)
    (h : unsealed s p f = true) :
    withOperands f wide s k = k (curPlane s) (curElem s) s.cur.slot p [opA s p wide f, opB s p wide f, opC s p wide f] := by
  unfold withOperands
  dsimp only
  rw [show s.plane? s.cur.plane = some p from hp]
  exact if_neg (not_anySeal h)
/-- One with a sealed token traps. -/
theorem withOperands_sealed (k : Nat → Nat → Nat → Plane → List (Lanes × Option Token) → Ans) (hp : s.plane? (curPlane s) = some p)
    (h : unsealed s p f = false) :
    withOperands f wide s k = .next (elemTrap s (curPlane s) (curElem s) s.cur.slot 5 0 (f.readMask ||| f.deq)) := by
  unfold withOperands
  dsimp only
  rw [show s.plane? s.cur.plane = some p from hp]
  exact if_pos (anySeal_of_sealed h)

/-- The token of an operand that takes part in the scale check. -/
def tested (t : Bool) (x : Option Token) : Option Token := if t then x else none

variable {cls : ScaleCls} {ta tb tc : Bool} {lat : Nat} {iter np : Bool} {op : Lanes → Lanes → Lanes → Result}

/-- An arithmetic firing whose operand tokens pass R40: its kind after R106 and R107, its result, its SCL bit. -/
theorem fireAlu_unsealed (hp : s.plane? (curPlane s) = some p) (h : unsealed s p f = true) :
    fireAlu f wide cls ta tb tc lat iter np op s =
      .next (fired s f (kindAfter s (kind0 s p f)
          (sclMismatch cls (tested ta (opA s p wide f).2) (tested tb (opB s p wide f).2) (tested tc (opC s p wide f).2))
          (np && (op (opA s p wide f).1 (opB s p wide f).1 (opC s p wide f).1).nan))
        (op (opA s p wide f).1 (opB s p wide f).1 (opC s p wide f).1)
        (sclFired s p f (scaled cls (tested ta (opA s p wide f).2) (tested tb (opB s p wide f).2) (tested tc (opC s p wide f).2)))
        lat iter) := by
  rw [sclFired, kind0_eq wide]
  unfold fireAlu
  dsimp only
  rw [show s.plane? s.cur.plane = some p from hp]
  exact if_neg (not_anySeal h)
theorem fireAlu_sealed (hp : s.plane? (curPlane s) = some p) (h : unsealed s p f = false) :
    fireAlu f wide cls ta tb tc lat iter np op s =
      .next (elemTrap s (curPlane s) (curElem s) s.cur.slot 5 0 (f.readMask ||| f.deq)) := by
  unfold fireAlu
  dsimp only
  rw [show s.plane? s.cur.plane = some p from hp]
  exact if_pos (anySeal_of_sealed h)
end Course

/-! ## The token operations (R136 to R143) -/

/-- The fields of an origin that PSN copies (R139). -/
theorem copiedOrigin_fields {w : Nat} (v : BitVec w) :
    (copiedOrigin v.toNat).extractLsb' 44 20 = v.extractLsb' 44 20 ∧ (copiedOrigin v.toNat).extractLsb' 16 24 = v.extractLsb' 16 24 ∧
    (copiedOrigin v.toNat).extractLsb' 0 16 = 0 ∧ (copiedOrigin v.toNat).extractLsb' 40 4 =
      (if 1 ≤ (v.extractLsb' 40 4).toNat ∧ (v.extractLsb' 40 4).toNat ≤ 6 then v.extractLsb' 40 4 else 6) := by
  have hbits : ∀ lo n, bits v.toNat lo n = (v.extractLsb' lo n).toNat := fun lo n => by
    rw [BitVec.extractLsb'_toNat, Nat.shiftRight_eq_div_pow]; rfl
  have hcause : (if bits v.toNat 40 4 < 1 ∨ 6 < bits v.toNat 40 4 then causeInject else bits v.toNat 40 4) =
      ((if 1 ≤ (v.extractLsb' 40 4).toNat ∧ (v.extractLsb' 40 4).toNat ≤ 6 then v.extractLsb' 40 4 else 6) : BitVec 4).toNat := by
    rw [hbits]
    by_cases hc : 1 ≤ (v.extractLsb' 40 4).toNat ∧ (v.extractLsb' 40 4).toNat ≤ 6
    · rw [if_neg (by omega), if_pos hc]
    · rw [if_pos (by omega), if_neg hc]; rfl
  unfold copiedOrigin
  dsimp only
  rw [hcause, hbits, hbits]
  generalize (if 1 ≤ (v.extractLsb' 40 4).toNat ∧ (v.extractLsb' 40 4).toNat ≤ 6 then v.extractLsb' 40 4 else (6 : BitVec 4)) = c
  have hapart : ([(44, 20, (v.extractLsb' 44 20).toNat), (40, 4, c.toNat), (16, 24, (v.extractLsb' 16 24).toNat)].map place).Pairwise apart := by
    simp [place, apart]
  have hfield : ∀ {lo n} (x : BitVec n), lo + n ≤ 64 → (lo, n, x.toNat) ∈
      [(44, 20, (v.extractLsb' 44 20).toNat), (40, 4, c.toNat), (16, 24, (v.extractLsb' 16 24).toNat)] →
      (BitVec.ofNat 64 (pack [(44, 20, (v.extractLsb' 44 20).toNat), (40, 4, c.toNat), (16, 24, (v.extractLsb' 16 24).toNat)])).extractLsb' lo n = x :=
    fun x hin hm => BitVec.eq_of_toNat_eq ((extractLsb'_pack hin).trans ((bits_pack hapart hm).trans (Nat.mod_eq_of_lt x.isLt)))
  refine ⟨hfield _ (by decide) (by simp), hfield _ (by decide) (by simp), ?_, hfield _ (by decide) (by simp)⟩
  exact BitVec.eq_of_toNat_eq ((extractLsb'_pack (by decide)).trans (bits_pack_gap hapart (by simp [place, apart])))

/-- Settles O41. -/
theorem tokenFirings : Obligations.TokenFirings := by
  intro s p f hp hun a t
  refine ⟨?_, fun x hx => ?_, fun hz => ?_, fun hz => ⟨copiedOrigin a.1.toNat, ?_, ?_⟩, ?_, ?_⟩
  · rw [exec_elemNullt_eq, execElemNullt, withOperands_unsealed _ hp hun]; rfl
  · have hx' : (opA s p false f).2 = some x := hx
    rw [exec_elemPtst_eq, execElemPtst, withOperands_unsealed _ hp hun]
    dsimp only [List.headD_cons]
    rw [hx', show (opA s p false f).1 = x.data from operand_data hx]
    cases hn : x.nul with
    | true => rw [show anyNull [some x] = true from (anyNull_iff _).mpr ⟨x, List.mem_cons_self, hn⟩]; rfl
    | false =>
      have hnot : ¬ anyNull [some x] = true := anyNull_eq_false fun y hy => by
        rw [Option.some_inj.mp (List.mem_singleton.mp hy), hn]
      rw [if_neg hnot, if_neg Bool.false_ne_true]; rfl
  · rw [exec_elemPsn_eq, execElemPsn, withOperands_unsealed _ hp hun]
    exact congrArg (fun o => Host.Outcome.next (fired s f (.poison o) ⟨0, false, false⟩ false 1 false)) (if_pos hz)
  · rw [exec_elemPsn_eq, execElemPsn, withOperands_unsealed _ hp hun]
    exact congrArg (fun o => Host.Outcome.next (fired s f (.poison o) ⟨0, false, false⟩ false 1 false)) (if_neg hz)
  · exact copiedOrigin_fields a.1
  · rw [exec_elemTrapi_eq, execElemTrapi, withOperands_unsealed _ hp hun]; rfl
  · rw [exec_elemHalt_eq, execElemHalt, withOperands_unsealed _ hp hun]; rfl

end Sys2Proof.Proofs
end

section
/-! Firings that compute value positions: integers (R121 to R130), floats (R148 to R152), comparison and selection, lanes, conversions. -/

namespace Sys2Proof.Proofs

open Sys2Proof Sys2Proof.Machine Sys2Proof.Claim

/-! ## Value positions -/

theorem valAt_joinVals (w : Nat) : ∀ l j, valAt w (joinVals w l) j = l.getD j 0 % 2 ^ w := by
  intro l
  induction l with
  | nil => intro j; simp [joinVals, valAt, bits]
  | cons v r ih =>
    intro j
    have hlt := Nat.mod_lt v (Nat.two_pow_pos w)
    cases j with
    | zero =>
      rw [valAt, bits, joinVals, Nat.mul_zero, Nat.pow_zero, Nat.div_one, Nat.add_mul_mod_self_left, Nat.mod_mod]
      rfl
    | succ j =>
      rw [valAt, bits, joinVals, Nat.mul_succ, Nat.add_comm (w * j), Nat.pow_add, ← Nat.div_div_eq_div_mul,
        Nat.add_mul_div_left _ _ (Nat.two_pow_pos w), Nat.div_eq_of_lt hlt, Nat.zero_add]
      exact ih j
theorem bits_mod_two_pow {x lo n m : Nat} (h : lo + n ≤ m) : bits (x % 2 ^ m) lo n = bits x lo n := by
  refine Nat.eq_of_testBit_eq fun i => ?_
  rw [testBit_bits, testBit_bits, Nat.testBit_mod_two_pow]
  by_cases hi : i < n
  · rw [decide_eq_true hi, decide_eq_true (by omega : lo + i < m), Bool.true_and]
  · rw [decide_eq_false hi, Bool.false_and, Bool.false_and]
/-- What a result made of a list has at a position: the value there, zero behind the list. -/
theorem valAt_ofVals {w j : Nat} (hj : (j + 1) * w ≤ 256) (l : List Nat) : valAt w (ofVals w l).toNat j = l.getD j 0 % 2 ^ w := by
  have hin : w * j + w ≤ 256 := by rw [← Nat.mul_succ, Nat.mul_comm]; exact hj
  rw [ofVals, BitVec.toNat_ofNat, valAt, bits_mod_two_pow hin]
  exact valAt_joinVals w l j
theorem succ_mul_le_of_lt {w j : Nat} (h : j < 256 / w) : (j + 1) * w ≤ 256 :=
  Nat.le_trans (Nat.mul_le_mul_right w h) (Nat.div_mul_le_self 256 w)
theorem lt_of_succ_mul_le {w j : Nat} (hw : 0 < w) (h : (j + 1) * w ≤ 256) : j < 256 / w := (Nat.le_div_iff_mul_le hw).mpr h
theorem length_vals (w : Nat) (x : Lanes) : (vals w x).length = 256 / w := by rw [vals, List.length_map, List.length_range]
theorem getD_map_range {α : Type} {n j : Nat} (hj : j < n) (f : Nat → α) (d : α) : ((List.range n).map f).getD j d = f j := by
  rw [getD_eq_get_of_lt _ (by rw [List.length_map, List.length_range]; exact hj), List.getElem_map, List.getElem_range]
theorem getD_vals {w j : Nat} (hj : j < 256 / w) (x : Lanes) : (vals w x).getD j 0 = valAt w x.toNat j := getD_map_range hj ..
theorem valAt_lt (w x j : Nat) : valAt w x j < 2 ^ w := Nat.mod_lt _ (Nat.two_pow_pos w)

section Positions
variable {w j : Nat} (hw : 0 < w) (hj : (j + 1) * w ≤ 256)
include hw hj

theorem valAt_map1 (f : Nat → Nat) (a : Lanes) : valAt w (map1 w f a).toNat j = f (valAt w a.toNat j) % 2 ^ w := by
  have hlt := lt_of_succ_mul_le hw hj
  rw [map1, valAt_ofVals hj, vals, List.map_map, getD_map_range hlt]
  rfl
theorem valAt_map2 (f : Nat → Nat → Nat) (a b : Lanes) :
    valAt w (map2 w f a b).toNat j = f (valAt w a.toNat j) (valAt w b.toNat j) % 2 ^ w := by
  have hlt := lt_of_succ_mul_le hw hj
  rw [map2, valAt_ofVals hj, vals, vals, List.zipWith_map, List.zipWith_self, getD_map_range hlt]
theorem valAt_map3 (f : Nat → Nat → Nat → Nat) (a b c : Lanes) :
    valAt w (map3 w f a b c).toNat j = f (valAt w a.toNat j) (valAt w b.toNat j) (valAt w c.toNat j) % 2 ^ w := by
  have hlt := lt_of_succ_mul_le hw hj
  rw [map3, valAt_ofVals hj, vals, vals, vals, List.zipWith_map, List.zipWith_self, List.zipWith_map, List.zipWith_self, getD_map_range hlt]
theorem valAt_bcastVal (v : Nat) : valAt w (bcastVal w v).toNat j = v % 2 ^ w := by
  have hlt := lt_of_succ_mul_le hw hj
  rw [bcastVal, valAt_ofVals hj, getD_eq_get_of_lt _ (by rw [List.length_replicate]; exact hlt), List.getElem_replicate]
end Positions

theorem toNat_pos (w j : Nat) (x : Lanes) : (pos w j x).toNat = valAt w x.toNat j := by
  rw [pos, BitVec.extractLsb'_toNat, Nat.shiftRight_eq_div_pow]; rfl
/-- A position whose value is a number cut off to the width. -/
theorem pos_eq_ofNat {w j v : Nat} {x : Lanes} (h : valAt w x.toNat j = v % 2 ^ w) : pos w j x = BitVec.ofNat w v := by
  apply BitVec.eq_of_toNat_eq
  rw [toNat_pos, h, BitVec.toNat_ofNat]
theorem pos_256 {j : Nat} (hj : (j + 1) * 256 ≤ 256) (x : Lanes) : pos 256 j x = x := by
  obtain rfl : j = 0 := by omega
  exact BitVec.extractLsb'_eq_self

/-! ## Types -/

theorem intWidth_eq (t : IntTy) : intWidth t = t.width := by cases t <;> rfl
theorem isSigned_eq (t : IntTy) : isSigned t = t.signed := by cases t <;> rfl
theorem natWidth_eq (t : NatTy) : natWidth t = t.width := by cases t <;> rfl
theorem wide_eq (t : IntTy) : (intWidth t == 64) = t.wide := by cases t <;> rfl
theorem wideNat_eq (t : NatTy) : (natWidth t == 64) = t.wide := by cases t <;> rfl
theorem intWidth_pos (t : IntTy) : 0 < intWidth t := by cases t <;> decide
theorem natWidth_pos (t : NatTy) : 0 < natWidth t := by cases t <;> decide
theorem fltWidth_pos (t : FltTy) : 0 < t.fmt.w := by cases t <;> decide
theorem tyWidth_pos (t : Ty) : 0 < t.width := by cases t <;> decide
theorem latIter_eq (t : FltTy) : t.latIter = if t = .f64 then 20 else 12 := by cases t <;> rfl

/-! ## The integer operations on one position -/

section Integer
variable {t : IntTy} (x y z : BitVec (intWidth t))

theorem read_toNat : t.read x.toNat = if isSigned t then x.toInt else (x.toNat : Int) := by
  rw [IntTy.read, ← isSigned_eq, ← intWidth_eq, sgn_toNat, Nat.mod_eq_of_lt x.isLt]
theorem ofInt_read : BitVec.ofInt (intWidth t) (t.read x.toNat) = x := by
  rw [read_toNat]
  split
  · exact BitVec.ofInt_toInt
  · rw [BitVec.ofInt_natCast, BitVec.ofNat_toNat, BitVec.setWidth_eq]
theorem ofNat_intOp2 (f : Int → Int → Int) :
    BitVec.ofNat (intWidth t) (intOp2 t f x.toNat y.toNat) = BitVec.ofInt (intWidth t) (f (t.read x.toNat) (t.read y.toNat)) := by
  rw [intOp2, ← intWidth_eq, ofNat_wrap]
theorem ofNat_add : BitVec.ofNat (intWidth t) (intOp2 t (· + ·) x.toNat y.toNat) = x + y := by
  rw [ofNat_intOp2, BitVec.ofInt_add, ofInt_read, ofInt_read]
theorem ofNat_sub : BitVec.ofNat (intWidth t) (intOp2 t (· - ·) x.toNat y.toNat) = x - y := by
  rw [ofNat_intOp2, Int.sub_eq_add_neg, BitVec.ofInt_add, BitVec.ofInt_neg, ofInt_read, ofInt_read, BitVec.sub_eq_add_neg]
theorem ofNat_mul : BitVec.ofNat (intWidth t) (intOp2 t (· * ·) x.toNat y.toNat) = x * y := by
  rw [ofNat_intOp2, BitVec.ofInt_mul, ofInt_read, ofInt_read]
theorem ofNat_mad : BitVec.ofNat (intWidth t) (wrap t.width (t.read x.toNat * t.read y.toNat + t.read z.toNat)) = x * y + z := by
  rw [← intWidth_eq, ofNat_wrap, BitVec.ofInt_add, BitVec.ofInt_mul, ofInt_read, ofInt_read, ofInt_read]
/-- The order of two values by their type. -/
theorem read_le : t.read x.toNat ≤ t.read y.toNat ↔ (if isSigned t then x.sle y else x.ule y) = true := by
  rw [read_toNat, read_toNat]
  split
  · rw [BitVec.sle, decide_eq_true_iff]
  · rw [BitVec.ule, decide_eq_true_iff, Int.ofNat_le]
theorem read_lt : t.read x.toNat < t.read y.toNat ↔ (if isSigned t then x.slt y else x.ult y) = true := by
  rw [read_toNat, read_toNat]
  split
  · rw [BitVec.slt, decide_eq_true_iff]
  · rw [BitVec.ult, decide_eq_true_iff, Int.ofNat_lt]
theorem read_inj : t.read x.toNat = t.read y.toNat ↔ x = y := by
  refine ⟨fun h => ?_, fun h => by rw [h]⟩
  rw [← ofInt_read x, h, ofInt_read]
theorem ofNat_min : BitVec.ofNat (intWidth t) (intOp2 t min x.toNat y.toNat) =
    if (if isSigned t then x.sle y else x.ule y) then x else y := by
  rw [ofNat_intOp2, Int.min_def]
  by_cases h : t.read x.toNat ≤ t.read y.toNat
  · rw [if_pos h, if_pos ((read_le x y).mp h), ofInt_read]
  · rw [if_neg h, if_neg (mt (read_le x y).mpr h), ofInt_read]
theorem ofNat_max : BitVec.ofNat (intWidth t) (intOp2 t max x.toNat y.toNat) =
    if (if isSigned t then x.sle y else x.ule y) then y else x := by
  rw [ofNat_intOp2, Int.max_def]
  by_cases h : t.read x.toNat ≤ t.read y.toNat
  · rw [if_pos h, if_pos ((read_le x y).mp h), ofInt_read]
  · rw [if_neg h, if_neg (mt (read_le x y).mpr h), ofInt_read]
theorem ofNat_abs : BitVec.ofNat (intWidth t) (wrap t.width (t.read x.toNat).natAbs) = if isSigned t && x.msb then -x else x := by
  rw [← intWidth_eq, ofNat_wrap]
  by_cases hneg : t.read x.toNat < 0
  · have hmsb : (isSigned t && x.msb) = true := by
      rw [read_toNat] at hneg
      split at hneg
      · next hs => rw [hs, BitVec.msb_eq_toInt, decide_eq_true hneg]; rfl
      · omega
    rw [hmsb, if_pos rfl, Int.ofNat_natAbs_of_nonpos (Int.le_of_lt hneg), BitVec.ofInt_neg, ofInt_read]
  · have hmsb : (isSigned t && x.msb) = false := by
      rw [read_toNat] at hneg
      split at hneg
      · next hs => rw [BitVec.msb_eq_toInt, decide_eq_false hneg, Bool.and_false]
      · next hs => rw [eq_false_of_ne_true hs, Bool.false_and]
    rw [hmsb, if_neg Bool.false_ne_true, Int.natAbs_of_nonneg (Int.not_lt.mp hneg), ofInt_read]
end Integer

/-- The high half of a product: of numbers of any width. -/
theorem extractLsb'_mul_high {w v : Nat} (h : v = w + w) (z : Int) : (BitVec.ofInt v z).extractLsb' w w = BitVec.ofInt w (z / (2 ^ w : Nat)) := by
  subst h
  exact extractLsb'_ofInt w w z
theorem ofNat_mulHigh {t : IntTy} (x y : BitVec (intWidth t)) : BitVec.ofNat (intWidth t) (intOp2 t (mulHigh t.width) x.toNat y.toNat) =
    if isSigned t then (x.signExtend (2 * intWidth t) * y.signExtend (2 * intWidth t)).extractLsb' (intWidth t) (intWidth t)
    else (x.setWidth (2 * intWidth t) * y.setWidth (2 * intWidth t)).extractLsb' (intWidth t) (intWidth t) := by
  rw [ofNat_intOp2, mulHigh, ← intWidth_eq, ← extractLsb'_mul_high (Nat.two_mul _), BitVec.ofInt_mul, read_toNat, read_toNat]
  split
  · rfl
  · rw [BitVec.ofInt_natCast, BitVec.ofInt_natCast, BitVec.ofNat_toNat, BitVec.ofNat_toNat]

theorem ofNat_rotV {w : Nat} (x : BitVec w) (n : Nat) : BitVec.ofNat w (rotV w x.toNat n) = x.rotateLeft (n % w) := by
  apply BitVec.eq_of_toNat_eq
  obtain rfl | hw := Nat.eq_zero_or_pos w
  · exact congrArg BitVec.toNat (Subsingleton.elim _ _)
  have hk : n % w < w := Nat.mod_lt n hw
  have hlow : x.toNat / 2 ^ (w - n % w) < 2 ^ (n % w) := by
    rw [Nat.div_lt_iff_lt_mul (Nat.two_pow_pos _), ← Nat.pow_add, show n % w + (w - n % w) = w by omega]
    exact x.isLt
  have hhigh : x.toNat * 2 ^ (n % w) % 2 ^ w = 2 ^ (n % w) * (x.toNat % 2 ^ (w - n % w)) := by
    have hsplit : 2 ^ w = 2 ^ (n % w) * 2 ^ (w - n % w) := by rw [← Nat.pow_add, show n % w + (w - n % w) = w by omega]
    rw [hsplit, Nat.mul_comm, Nat.mul_mod_mul_left]
  have hlt : x.toNat / 2 ^ (w - n % w) < 2 ^ w := Nat.lt_of_le_of_lt (Nat.div_le_self ..) x.isLt
  have hor := Nat.or_lt_two_pow (Nat.mod_lt (x.toNat * 2 ^ (n % w)) (Nat.two_pow_pos w)) hlt
  rw [BitVec.toNat_rotateLeft, Nat.mod_mod, BitVec.toNat_ofNat, rotV, Nat.mod_mod, Nat.shiftLeft_eq, Nat.shiftRight_eq_div_pow,
    Nat.add_mod, Nat.mod_eq_of_lt hlt, hhigh, Nat.two_pow_add_eq_or_of_lt hlow, ← hhigh, Nat.mod_eq_of_lt hor]
theorem ofNat_clmulV {w : Nat} (x y : BitVec w) : BitVec.ofNat w (clmulV w x.toNat y.toNat) =
    (List.range w).foldl (fun p k => if y.getLsbD k then p ^^^ (x <<< k) else p) 0 := by
  have hstep : ∀ (p k : Nat), (if y.getLsbD k then BitVec.ofNat w p ^^^ (x <<< k) else BitVec.ofNat w p) =
      BitVec.ofNat w (if y.toNat.testBit k then p ^^^ (x.toNat * 2 ^ k) else p) := fun p k => by
    rw [BitVec.testBit_toNat]
    split
    · rw [BitVec.ofNat_xor, ← Nat.shiftLeft_eq]
      congr 1
    · rfl
  have hmod : ∀ n, BitVec.ofNat w (n % 2 ^ w) = BitVec.ofNat w n := fun n =>
    BitVec.eq_of_toNat_eq (by rw [BitVec.toNat_ofNat, BitVec.toNat_ofNat, Nat.mod_mod])
  rw [clmulV, hmod]
  exact (List.foldl_hom (BitVec.ofNat w) hstep).symm

/-! ## The position-wise integer instructions (O36) -/

section Fires
variable {t : IntTy} {j : Nat} (hj : (j + 1) * intWidth t ≤ 256) (a b c : Lanes)
include hj

theorem pos_map1 {g : Nat → Nat} {fn : BitVec (intWidth t) → BitVec (intWidth t)} (h : ∀ x, BitVec.ofNat (intWidth t) (g x.toNat) = fn x) :
    pos (intWidth t) j (map1 t.width g a) = fn (pos (intWidth t) j a) := by
  rw [← intWidth_eq, pos_eq_ofNat (valAt_map1 (intWidth_pos t) hj g a), ← h, toNat_pos]
theorem pos_map2 {g : Nat → Nat → Nat} {fn : BitVec (intWidth t) → BitVec (intWidth t) → BitVec (intWidth t)}
    (h : ∀ x y, BitVec.ofNat (intWidth t) (g x.toNat y.toNat) = fn x y) :
    pos (intWidth t) j (map2 t.width g a b) = fn (pos (intWidth t) j a) (pos (intWidth t) j b) := by
  rw [← intWidth_eq, pos_eq_ofNat (valAt_map2 (intWidth_pos t) hj g a b), ← h, toNat_pos, toNat_pos]
theorem pos_map3 {g : Nat → Nat → Nat → Nat} {fn : BitVec (intWidth t) → BitVec (intWidth t) → BitVec (intWidth t) → BitVec (intWidth t)}
    (h : ∀ x y z, BitVec.ofNat (intWidth t) (g x.toNat y.toNat z.toNat) = fn x y z) :
    pos (intWidth t) j (map3 t.width g a b c) = fn (pos (intWidth t) j a) (pos (intWidth t) j b) (pos (intWidth t) j c) := by
  rw [← intWidth_eq, pos_eq_ofNat (valAt_map3 (intWidth_pos t) hj g a b c), ← h, toNat_pos, toNat_pos, toNat_pos]
end Fires

/-- What a position-wise instruction is: one arithmetic firing, whose result has at each position the value of its row. -/
def firesRow (i : Instr) (r : PosRow) : Prop :=
  ∃ op : Lanes → Lanes → Lanes → Lanes,
    (∀ s, exec i s = fireAlu r.f r.wide r.cls true true true r.lat false false (fun a b c => { val := op a b c }) s) ∧
    ∀ a b c j, (j + 1) * r.w ≤ 256 → pos r.w j (op a b c) = r.fn (pos r.w j a) (pos r.w j b) (pos r.w j c)

theorem firesRow_map1 {i : Instr} {f : EFields} {t : IntTy} {cls : ScaleCls} {g : Nat → Nat} {fn : BitVec (intWidth t) → BitVec (intWidth t)}
    (hi : ∀ s, exec i s = fire1 f t.wide cls (map1 t.width g) s) (h : ∀ x, BitVec.ofNat (intWidth t) (g x.toNat) = fn x) :
    firesRow i ⟨f, intWidth t == 64, cls, 1, intWidth t, fun x _ _ => fn x⟩ :=
  ⟨fun a _ _ => map1 t.width g a, fun s => by rw [hi, wide_eq]; rfl, fun a _ _ j hj => pos_map1 hj a h⟩
theorem firesRow_map2 {i : Instr} {f : EFields} {t : IntTy} {cls : ScaleCls} {lat : Nat} {g : Nat → Nat → Nat}
    {fn : BitVec (intWidth t) → BitVec (intWidth t) → BitVec (intWidth t)} (hi : ∀ s, exec i s = fire2 f t.wide cls lat (map2 t.width g) s)
    (h : ∀ x y, BitVec.ofNat (intWidth t) (g x.toNat y.toNat) = fn x y) :
    firesRow i ⟨f, intWidth t == 64, cls, lat, intWidth t, fun x y _ => fn x y⟩ :=
  ⟨fun a b _ => map2 t.width g a b, fun s => by rw [hi, wide_eq]; rfl, fun a b _ j hj => pos_map2 hj a b h⟩
/-- An instruction that computes on all 256 bits at once. -/
theorem firesRow_whole {i : Instr} {f : EFields} {cls : ScaleCls} {op : Lanes → Lanes → Lanes}
    (hi : ∀ s, exec i s = fireAlu f false cls true true true 1 false false (fun a b _ => { val := op a b }) s) :
    firesRow i ⟨f, false, cls, 1, 256, fun x y _ => op x y⟩ :=
  ⟨fun a b _ => op a b, hi, fun a b _ j hj => by
    show pos 256 j (op a b) = op (pos 256 j a) (pos 256 j b)
    rw [pos_256 hj, pos_256 hj, pos_256 hj]⟩

theorem firesRow_of_posRow {i : Instr} {r : PosRow} (h : posRow i = some r) : firesRow i r := by
  cases i with
  | elemAdd f t => cases h; exact firesRow_map2 (exec_elemAdd_eq f t) ofNat_add
  | elemSub f t => cases h; exact firesRow_map2 (exec_elemSub_eq f t) ofNat_sub
  | elemMul f t => cases h; exact firesRow_map2 (exec_elemMul_eq f t) ofNat_mul
  | elemMulh f t => cases h; exact firesRow_map2 (exec_elemMulh_eq f t) ofNat_mulHigh
  | elemMad f t =>
    cases h
    exact ⟨_, fun s => by rw [exec_elemMad_eq, execElemMad, fire3, wide_eq]; rfl, fun a b c j hj => pos_map3 hj a b c ofNat_mad⟩
  | elemMin f t => cases h; exact firesRow_map2 (exec_elemMin_eq f t) ofNat_min
  | elemMax f t => cases h; exact firesRow_map2 (exec_elemMax_eq f t) ofNat_max
  | elemAbs f t => cases h; exact firesRow_map1 (exec_elemAbs_eq f t) ofNat_abs
  | elemAnd f => cases h; exact firesRow_whole (exec_elemAnd_eq f)
  | elemOr f => cases h; exact firesRow_whole (exec_elemOr_eq f)
  | elemXor f => cases h; exact firesRow_whole (exec_elemXor_eq f)
  | elemAndn f => cases h; exact firesRow_whole (exec_elemAndn_eq f)
  | elemShl f t => cases h; exact firesRow_map2 (exec_elemShl_eq f t) fun x y => intWidth_eq t ▸ ofNat_shlV x y.toNat
  | elemShr f t => cases h; exact firesRow_map2 (exec_elemShr_eq f t) fun x y => intWidth_eq t ▸ ofNat_shrV x y.toNat
  | elemSar f t => cases h; exact firesRow_map2 (exec_elemSar_eq f t) fun x y => intWidth_eq t ▸ ofNat_sarV x y.toNat
  | elemRot f t => cases h; exact firesRow_map2 (exec_elemRot_eq f t) fun x y => intWidth_eq t ▸ ofNat_rotV x y.toNat
  | elemClz f t => cases h; exact firesRow_map1 (exec_elemClz_eq f t) fun x => intWidth_eq t ▸ ofNat_clzV x
  | elemPopc f t => cases h; exact firesRow_map1 (exec_elemPopc_eq f t) fun x => by rw [← intWidth_eq, popcV_toNat]
  | elemClmul f t =>
    cases h
    refine ⟨fun a b _ => map2 t.width (clmulV t.width) a b, fun s => by rw [exec_elemClmul_eq, execElemClmul, wideNat_eq]; rfl,
      fun a b _ j hj => ?_⟩
    rw [← natWidth_eq, pos_eq_ofNat (valAt_map2 (natWidth_pos t) hj _ a b), ← toNat_pos, ← toNat_pos, ofNat_clmulV]
  | elemMov f => cases h; exact firesRow_whole (exec_elemMov_eq f)
  | elemPass f => cases h; exact firesRow_whole (exec_elemPass_eq f)
  | elemTags f m => cases h; exact firesRow_whole (exec_elemTags_eq f m)
  | elemNop f => cases h; exact firesRow_whole (exec_elemNop_eq f)
  | _ => cases h

/-- Settles O36. -/
theorem positionFirings : Obligations.PositionFirings := by
  intro i r s p hr hp hun a b c
  obtain ⟨op, hexec, hpos⟩ := firesRow_of_posRow hr
  exact ⟨op a.1 b.1 c.1, hpos _ _ _, (hexec s).trans (fireAlu_unsealed hp hun)⟩

/-! ## The floating-point instructions (O37) -/

theorem any_valAt (f : Nat → Bool) (w : Nat) (x : Lanes) : (List.range (256 / w)).any (fun j => f (valAt w x.toNat j)) = (vals w x).any f := by
  rw [vals, List.any_map]; rfl

/-- What a floating-point instruction is: one arithmetic firing, whose result has at each position the value of its row. -/
def firesFlt (i : Instr) (r : FltRow) : Prop :=
  ∃ op : Lanes → Lanes → Lanes → Lanes,
    (∀ s, exec i s = fireAlu r.f r.t.wide r.cls true true (!r.rndc) r.lat r.iter r.np (fun a b c => fltResult r.t.fmt (op a b c)) s) ∧
    ∀ a b c j, (j + 1) * r.t.fmt.w ≤ 256 → valAt r.t.fmt.w (op a b c).toNat j =
      r.fn (if r.rndc then rndField r.t.fmt.w c j else 0) (valAt r.t.fmt.w a.toNat j) (valAt r.t.fmt.w b.toNat j) (valAt r.t.fmt.w c.toNat j)
        % 2 ^ r.t.fmt.w

section FltFires
variable {i : Instr} {f : EFields} {t : FltTy} {cls : ScaleCls} {np : Bool}

theorem firesFlt_rnd {op : Nat → Nat → Nat → Nat} (hi : ∀ s, exec i s = fireArith f t cls np op s) :
    firesFlt i ⟨f, t, cls, true, 4, false, np, fun u x y _ => op u x y⟩ := by
  refine ⟨fun a b c => mapRnd t.fmt op a b c, hi, fun a b c j hj => ?_⟩
  have hlt := lt_of_succ_mul_le (fltWidth_pos t) hj
  show valAt t.fmt.w (mapRnd t.fmt op a b c).toNat j = _
  rw [mapRnd, valAt_ofVals hj, getD_map_range hlt]
  rfl
theorem firesFlt_minmax {isMax : Bool} (hi : ∀ s, exec i s = fireMinMax f t isMax np s) :
    firesFlt i ⟨f, t, .additive, false, 1, false, np, fun _ x y _ => fminmax t.fmt isMax x y⟩ :=
  ⟨fun a b _ => map2 t.width (fminmax t.fmt isMax) a b, hi, fun a b _ _ hj => valAt_map2 (fltWidth_pos t) hj _ a b⟩
theorem firesFlt_iter {g : Nat → Nat} (hi : ∀ s, exec i s = fireIter f t np g s) :
    firesFlt i ⟨f, t, .nonlinear, false, if t = .f64 then 20 else 12, true, np, fun _ x _ _ => g x⟩ :=
  ⟨fun a _ _ => map1 t.width g a, fun s => by rw [hi, fireIter, latIter_eq]; rfl, fun a _ _ _ hj => valAt_map1 (fltWidth_pos t) hj _ a⟩
end FltFires

theorem firesFlt_of_fltRow {i : Instr} {r : FltRow} (h : fltRow i = some r) : firesFlt i r := by
  cases i with
  | elemFadd f t r np => cases h; exact firesFlt_rnd (exec_elemFadd_eq f t r np)
  | elemFsub f t r np => cases h; exact firesFlt_rnd (exec_elemFsub_eq f t r np)
  | elemFmul f t r np => cases h; exact firesFlt_rnd (exec_elemFmul_eq f t r np)
  | elemFfma f t r np =>
    cases h
    exact ⟨fun a b c => map3 t.width (ffma t.fmt r) a b c, exec_elemFfma_eq f t r np,
      fun a b c _ hj => valAt_map3 (fltWidth_pos t) hj _ a b c⟩
  | elemFmin f t np => cases h; exact firesFlt_minmax (exec_elemFmin_eq f t np)
  | elemFmax f t np => cases h; exact firesFlt_minmax (exec_elemFmax_eq f t np)
  | elemFdiv f t r np =>
    cases h
    exact ⟨fun a b _ => map2 t.width (fdiv t.fmt r) a b, fun s => by rw [exec_elemFdiv_eq, execElemFdiv, latIter_eq]; rfl,
      fun a b _ _ hj => valAt_map2 (fltWidth_pos t) hj _ a b⟩
  | elemFsqrt f t r np => cases h; exact firesFlt_iter (exec_elemFsqrt_eq f t r np)
  | elemFrcp f t np => cases h; exact firesFlt_iter (exec_elemFrcp_eq f t np)
  | elemFrsq f t np => cases h; exact firesFlt_iter (exec_elemFrsq_eq f t np)
  | elemFexp2 f t np => cases h; exact firesFlt_iter (exec_elemFexp2_eq f t np)
  | elemFlog2 f t np => cases h; exact firesFlt_iter (exec_elemFlog2_eq f t np)
  | _ => cases h

/-- Settles O37. -/
theorem floatFirings : Obligations.FloatFirings := by
  intro i r s p hr hp hun a b c w c' scl
  obtain ⟨op, hexec, hval⟩ := firesFlt_of_fltRow hr
  have hc : tested (!r.rndc) c.2 = c' := by
    show (if (!r.rndc) = true then c.2 else none) = if r.rndc = true then none else c.2
    cases r.rndc <;> rfl
  refine ⟨op a.1 b.1 c.1, hval _ _ _, ?_⟩
  have hfire := (hexec s).trans (fireAlu_unsealed hp hun)
  rw [show tested (!r.rndc) (opC s p r.t.wide r.f).2 = c' from hc] at hfire
  dsimp only
  rw [any_valAt r.t.fmt.isNan]
  exact hfire

/-! ## Comparison and selection (O38) -/

theorem icond_read {t : IntTy} (cd : Cond) (x y : BitVec (intWidth t)) :
    icond cd (t.read x.toNat) (t.read y.toNat) = cmpBits cd (isSigned t) x y := by
  cases cd with
  | eq => exact decide_eq_decide.mpr (read_inj x y)
  | ne => exact congrArg (!·) (decide_eq_decide.mpr (read_inj x y))
  | lt => exact Bool.eq_iff_iff.mpr (decide_eq_true_iff.trans (read_lt x y))
  | le => exact Bool.eq_iff_iff.mpr (decide_eq_true_iff.trans (read_le x y))
  | gt => exact Bool.eq_iff_iff.mpr (decide_eq_true_iff.trans (read_lt y x))
  | ge => exact Bool.eq_iff_iff.mpr (decide_eq_true_iff.trans (read_le y x))
theorem ofNat_maskV (w : Nat) (c : Bool) : BitVec.ofNat w (maskV w c) = allOr w c := by
  cases c with
  | true => exact BitVec.eq_of_toNat_eq (by rw [BitVec.toNat_ofNat, allOr, if_pos rfl, BitVec.toNat_allOnes]; exact Nat.mod_eq_of_lt (Nat.sub_lt (Nat.two_pow_pos w) Nat.one_pos))
  | false => rfl
theorem anyNan_iff (f : Fmt) (x : Lanes) : anyNan f x = true ↔ ∃ j, j < 256 / f.w ∧ f.isNan (valAt f.w x.toNat j) = true := by
  simp [anyNan, vals]

/-- Settles O38. -/
theorem compareSelect : Obligations.CompareSelect := by
  intro s p f cd fc t n x np hp hun
  refine ⟨?_, ?_, ?_⟩
  · intro a b c
    refine ⟨_, fun j hj => pos_map2 hj a.1 b.1 (g := fun x y => maskV t.width (icond cd (t.read x) (t.read y)))
      (fn := fun x y => allOr (intWidth t) (cmpBits cd (isSigned t) x y)) fun x y => ?_, ?_⟩
    · rw [← intWidth_eq, ofNat_maskV, icond_read]
    · have hcmp : icond cd (t.read (valAt t.width a.1.toNat 0)) (t.read (valAt t.width b.1.toNat 0)) =
          cmpBits cd (isSigned t) (pos (intWidth t) 0 a.1) (pos (intWidth t) 0 b.1) := by
        rw [← icond_read, toNat_pos, toNat_pos, intWidth_eq]
      rw [← hcmp, exec_elemCmp_eq, execElemCmp, ← wide_eq, fireAlu_unsealed hp hun]
      rfl
  · intro a b c
    refine ⟨map3 (natWidth n) (fun x y z => if x ≠ 0 then y else z) a.1 b.1 c.1, fun j hj => ?_, ?_⟩
    · rw [pos_eq_ofNat (valAt_map3 (natWidth_pos n) hj _ a.1 b.1 c.1), ← toNat_pos, ← toNat_pos, ← toNat_pos]
      have hzero : (pos (natWidth n) j a.1).toNat = 0 ↔ pos (natWidth n) j a.1 = 0 := by
        rw [← BitVec.toNat_inj]; rfl
      by_cases h : pos (natWidth n) j a.1 = 0
      · rw [if_pos h, if_neg (not_not_intro (hzero.mpr h)), BitVec.ofNat_toNat, BitVec.setWidth_eq]
      · rw [if_neg h, if_pos (mt hzero.mp h), BitVec.ofNat_toNat, BitVec.setWidth_eq]
    · rw [exec_elemSel_eq, execElemSel, ← wideNat_eq, ← natWidth_eq, fireAlu_unsealed hp hun]
      rfl
  · intro a b c w
    refine ⟨map2 w (fun u v => maskV w (fcond x.fmt fc u v)) a.1 b.1, anyNan x.fmt a.1 || anyNan x.fmt b.1, fun j hj => ?_, ?_, ?_⟩
    · rw [pos_eq_ofNat (valAt_map2 (fltWidth_pos x) hj _ a.1 b.1), ofNat_maskV]
    · rw [Bool.or_eq_true, anyNan_iff, anyNan_iff, ← exists_or]
      exact exists_congr fun j => (and_or_left).symm
    · rw [exec_elemFcmp_eq, execElemFcmp, fireAlu_unsealed hp hun]
      rfl

theorem kindAfter_stands (s : State) (k : Kind) : kindAfter s k false false = k := by
  rw [kindAfter, refineKind, Bool.and_false, if_neg Bool.false_ne_true, if_neg Bool.false_ne_true]

/-! ## Lanes, reductions and scans (O39) -/

theorem getD_prefixes {α : Type} (c : α → α → α) (d : α) : ∀ (l : List α) (x : α) (j : Nat), j < l.length + 1 →
    (prefixes c x l).getD j d = (l.take j).foldl c x := by
  intro l
  induction l with
  | nil =>
    intro x j hj
    obtain rfl : j = 0 := by simpa using hj
    rfl
  | cons y r ih =>
    intro x j hj
    cases j with
    | zero => rfl
    | succ j => exact ih (c x y) j (Nat.lt_of_succ_lt_succ hj)
theorem getD_scanL {α : Type} (c : α → α → α) (d : α) (l : List α) {j : Nat} (hj : j < l.length) :
    (scanL c l).getD j d = ((l.drop 1).take j).foldl c (l.headD d) := by
  cases l with
  | nil => exact absurd hj (Nat.not_lt_zero j)
  | cons x r => exact getD_prefixes c d r x j hj

/-- The value that an index chooses among those of two operands. -/
theorem getD_vals_append {w k : Nat} (hk : k < 2 * (256 / w)) (a c : Lanes) : (vals w a ++ vals w c).getD k 0 =
    if k < 256 / w then valAt w a.toNat k else valAt w c.toNat (k - 256 / w) := by
  by_cases h : k < 256 / w
  · rw [if_pos h, getD_append_of_lt (by rw [length_vals]; exact h), getD_vals h]
  · rw [if_neg h, getD_append_of_ge (by rw [length_vals]; omega), length_vals, getD_vals (by omega)]
theorem pos_shufV {w j : Nat} (hw : 0 < w) (hj : j < 256 / w) (a b c : Lanes) : pos w j (shufV w a b c) =
    (let k := (pos w j b).toNat % (2 * (256 / w)); if k < 256 / w then pos w k a else pos w (k - 256 / w) c) := by
  have hlen : (vals w a ++ vals w c).length = 2 * (256 / w) := by rw [List.length_append, length_vals, length_vals, Nat.two_mul]
  have hk : (pos w j b).toNat % (2 * (256 / w)) < 2 * (256 / w) := Nat.mod_lt _ (by omega)
  rw [shufV, pos_eq_ofNat (valAt_map1 hw (succ_mul_le_of_lt hj) _ b), ← toNat_pos, hlen, getD_vals_append hk]
  dsimp only
  split
  · rw [← toNat_pos, BitVec.ofNat_toNat, BitVec.setWidth_eq]
  · rw [← toNat_pos, BitVec.ofNat_toNat, BitVec.setWidth_eq]

/-- Settles O39. -/
theorem laneFirings : Obligations.LaneFirings := by
  intro s p f n o t hp hun
  refine ⟨?_, ?_⟩
  · intro a b c w m scl
    refine ⟨⟨shufV w a.1 b.1 c.1, fun j hj => ?_, ?_⟩, fun himm => ⟨bcastVal w (valAt w a.1.toNat f.imm.toNat), fun j hj => ?_, ?_⟩⟩
    · exact pos_shufV (natWidth_pos n) hj a.1 b.1 c.1
    · rw [exec_elemShuf_eq, execElemShuf, fire3, ← wideNat_eq, ← natWidth_eq, fireAlu_unsealed hp hun]
      exact congrArg (fun k => Host.Outcome.next (fired s f k ⟨shufV w a.1 b.1 c.1, false, false⟩ scl 4 false)) (kindAfter_stands ..)
    · rw [pos_eq_ofNat (valAt_bcastVal (natWidth_pos n) (succ_mul_le_of_lt hj) _), ← toNat_pos, BitVec.ofNat_toNat, BitVec.setWidth_eq]
    · have hlane : f.imm.toNat % 8 = f.imm.toNat := Nat.mod_eq_of_lt (Nat.lt_of_lt_of_le himm (by cases n <;> decide))
      rw [exec_elemBcast_eq, execElemBcast, fire1, ← wideNat_eq, ← natWidth_eq, fireAlu_unsealed hp hun, hlane]
      exact congrArg (fun k => Host.Outcome.next (fired s f k ⟨bcastVal w (valAt w a.1.toNat f.imm.toNat), false, false⟩ scl 1 false))
        (kindAfter_stands ..)
  · intro a b c w l k scl
    refine ⟨⟨bcastVal w (pairwise (combine o t) 0 l), fun j hj => valAt_bcastVal (tyWidth_pos t) hj _, ?_⟩,
      ⟨ofVals w (scanL (combine o t) l), fun j hj => ?_, ?_⟩⟩
    · rw [exec_elemLred_eq, execElemLred, fire2, fireAlu_unsealed hp hun]
      rfl
    · have hlt : j < l.length := by
        rw [List.length_map, List.length_range]
        exact lt_of_succ_mul_le (tyWidth_pos t) hj
      rw [valAt_ofVals hj, getD_scanL _ _ _ hlt]
    · rw [exec_elemScan_eq, execElemScan, fire2, fireAlu_unsealed hp hun]
      rfl

/-! ## Conversions (O40) -/

theorem getD_convVals {td ts : Ty} {j : Nat} (hj : j < 256 / ts.width) (r : Rnd) (sat : Bool) (x y : Lanes) :
    (convVals td ts r sat x y).getD j 0 = conv td ts r sat (rndField ts.width y j) (valAt ts.width x.toNat j) := getD_map_range hj ..
theorem length_convVals (td ts : Ty) (r : Rnd) (sat : Bool) (x y : Lanes) : (convVals td ts r sat x y).length = 256 / ts.width := by
  rw [convVals, List.length_map, List.length_range]
theorem rndField_zero (w j : Nat) : rndField w 0 j = 0 := by simp [rndField, bits]
/-- The values of a narrower type are at least twice as many. -/
theorem two_mul_values_le {td ts : Ty} (h : td.width < ts.width) : 2 * (256 / ts.width) ≤ 256 / td.width := by
  cases td <;> cases ts <;> revert h <;> decide
theorem values_dvd {td ts : Ty} (h : ts.width < td.width) : 256 / ts.width / (256 / td.width) * (256 / td.width) = 256 / ts.width := by
  cases td <;> cases ts <;> revert h <;> decide

section ConvFires
variable {s : State} {p : Plane} {f : EFields} {ta tb tc wide : Bool} {lat : Nat} {op : Lanes → Lanes → Lanes → Result}

/-- A firing of the carrying class keeps its kind (R105). -/
theorem fireAlu_carrying (hp : s.plane? (curPlane s) = some p) (h : unsealed s p f = true) :
    fireAlu f wide .carrying ta tb tc lat false false op s =
      .next (fired s f (kind0 s p f) (op (opA s p wide f).1 (opB s p wide f).1 (opC s p wide f).1)
        (sclFired s p f (sclOf (tested ta (opA s p wide f).2) || sclOf (tested tb (opB s p wide f).2) || sclOf (tested tc (opC s p wide f).2)))
        lat false) := by
  rw [fireAlu_unsealed hp h, sclMismatch, Bool.false_and, kindAfter_stands]
  rfl
end ConvFires

/-- Settles O40. -/
theorem conversions : Obligations.Conversions := by
  intro s p f td ts r sat hp hun a b c ns nd one
  have hone : ∀ {j x}, j < ns → (convVals td ts r sat x c.1).getD j 0 % 2 ^ td.width = one x j := fun hj => by rw [getD_convVals hj]
  refine ⟨fun hw => ⟨ofVals td.width (convVals td ts r sat a.1 c.1), fun j hj => ?_, ?_⟩,
    fun hw => ⟨ofVals td.width (convVals td ts r sat a.1 c.1 ++ (if r == .rsr then [] else convVals td ts r sat b.1 c.1)),
      fun j hj => ?_, fun j hj => ?_, ?_⟩,
    fun hw => ⟨ofVals td.width (((convVals td ts .rne false a.1 0).drop (valAt 32 b.1.toNat 0 % (ns / nd) * nd)).take nd), fun j hj => ?_, ?_⟩⟩
  · rw [valAt_ofVals (succ_mul_le_of_lt (hw ▸ hj)), hone hj]
  · rw [exec_elemCvt_eq, execElemCvt, fireAlu_carrying hp hun, Bool.or_assoc]
    exact congrArg (fun x => Host.Outcome.next (fired s f (kind0 s p f) ⟨ofVals td.width (convVals td ts r sat a.1 c.1), false, false⟩
      (sclFired s p f x) 4 false)) (congrArg _ (Bool.or_false _))
  · have hlt : j < nd := by have := two_mul_values_le hw; omega
    rw [valAt_ofVals (succ_mul_le_of_lt hlt), getD_append_of_lt (by rw [length_convVals]; exact hj), hone hj]
  · have hlt : ns + j < nd := by have := two_mul_values_le hw; omega
    rw [valAt_ofVals (succ_mul_le_of_lt hlt), getD_append_of_ge (by rw [length_convVals]; exact Nat.le_add_right ..),
      length_convVals, Nat.add_sub_cancel_left]
    by_cases hr : r = .rsr
    · rw [if_pos hr, hr]; rfl
    · rw [if_neg hr, if_neg (mt beq_iff_eq.mp hr), hone hj]
  · rw [exec_elemPack_eq, execElemPack, fireAlu_carrying hp hun, Bool.or_assoc]
    exact congrArg (fun x => Host.Outcome.next (fired s f (kind0 s p f)
      ⟨ofVals td.width (convVals td ts r sat a.1 c.1 ++ (if r == .rsr then [] else convVals td ts r sat b.1 c.1)), false, false⟩
      (sclFired s p f x) 4 false)) (congrArg _ (Bool.or_false _))
  · generalize hq : valAt 32 b.1.toNat 0 % (ns / nd) * nd + j = q
    have hqs : q < ns := by
      have hdvd := values_dvd hw
      have hpart : valAt 32 b.1.toNat 0 % (ns / nd) < ns / nd := Nat.mod_lt _ (Nat.pos_of_ne_zero fun h0 => by
        rw [h0, Nat.zero_mul] at hdvd
        cases ts <;> exact absurd hdvd (by decide))
      calc q < (valAt 32 b.1.toNat 0 % (ns / nd) + 1) * nd := by rw [← hq, Nat.succ_mul]; omega
        _ ≤ ns / nd * nd := Nat.mul_le_mul_right _ hpart
        _ = ns := hdvd
    have htake : j < nd := hj
    rw [valAt_ofVals (succ_mul_le_of_lt hj), List.getD_eq_getElem?_getD, List.getElem?_take_of_lt htake, List.getElem?_drop, hq,
      ← List.getD_eq_getElem?_getD, getD_convVals hqs, rndField_zero]
  · rw [exec_elemUnpk_eq, execElemUnpk, fireAlu_carrying hp hun]
    rfl

end Sys2Proof.Proofs
end

section
/-! Sealed operands and element traps (R40, R53, R55). -/

namespace Sys2Proof.Proofs

open Sys2Proof Sys2Proof.Machine Sys2Proof.Claim

/-! ## Which firings R40 looks at -/

/-- An instruction is an arithmetic firing, or a firing that goes on where its operand tokens pass R40. -/
def firesOn (i : Instr) (f : EFields) : Prop :=
  (∃ wide cls ta tb tc lat iter np op, ∀ s, exec i s = fireAlu f wide cls ta tb tc lat iter np op s) ∨
  (∃ wide, ∀ s, ∃ k, exec i s = withOperands f wide s k)

theorem firesOn_alu {i : Instr} {f : EFields} {wide : Bool} {cls : ScaleCls} {ta tb tc : Bool} {lat : Nat} {iter np : Bool}
    {op : Lanes → Lanes → Lanes → Result} (h : ∀ s, exec i s = fireAlu f wide cls ta tb tc lat iter np op s) : firesOn i f :=
  .inl ⟨wide, cls, ta, tb, tc, lat, iter, np, op, h⟩
theorem firesOn_operands {i : Instr} {f : EFields} {wide : Bool} {k : State → Nat → Nat → Nat → Plane → List (Lanes × Option Token) → Ans}
    (h : ∀ s, exec i s = withOperands f wide s (k s)) : firesOn i f := .inr ⟨wide, fun s => ⟨k s, h s⟩⟩
theorem firesOn_fire1 {i : Instr} {f : EFields} {wide : Bool} {cls : ScaleCls} {op : Lanes → Lanes}
    (h : ∀ s, exec i s = fire1 f wide cls op s) : firesOn i f := firesOn_alu h
theorem firesOn_fire2 {i : Instr} {f : EFields} {wide : Bool} {cls : ScaleCls} {lat : Nat} {op : Lanes → Lanes → Lanes}
    (h : ∀ s, exec i s = fire2 f wide cls lat op s) : firesOn i f := firesOn_alu h
theorem firesOn_fire3 {i : Instr} {f : EFields} {wide : Bool} {cls : ScaleCls} {lat : Nat} {op : Lanes → Lanes → Lanes → Lanes}
    (h : ∀ s, exec i s = fire3 f wide cls lat op s) : firesOn i f := firesOn_alu h
theorem firesOn_acc {i : Instr} {f : EFields} {second : Bool} {work : State → Kind → Nat → List (Lanes × Option Token) → Work}
    (h : ∀ s, exec i s = fireAcc f second (work s) s) : firesOn i f := firesOn_operands h
theorem firesOn_request {i : Instr} {f : EFields} {op : ReqOp} {val : List (Lanes × Option Token) → Lanes}
    (h : ∀ s, exec i s = fireRequest f op val s) : firesOn i f := firesOn_operands h
theorem firesOn_posRow {i : Instr} {f : EFields} (h : (posRow i).map PosRow.f = some f) : firesOn i f := by
  obtain ⟨r, hr, rfl⟩ := Option.map_eq_some_iff.mp h
  obtain ⟨op, hexec, _⟩ := firesRow_of_posRow hr
  exact firesOn_alu hexec
theorem firesOn_fltRow {i : Instr} {f : EFields} (h : (fltRow i).map FltRow.f = some f) : firesOn i f := by
  obtain ⟨r, hr, rfl⟩ := Option.map_eq_some_iff.mp h
  obtain ⟨op, hexec, _⟩ := firesFlt_of_fltRow hr
  exact firesOn_alu hexec

theorem firesOn_of_sealFields {i : Instr} {f : EFields} (h : sealFields i = some f) : firesOn i f := by
  cases i with
  | elemNop _ | elemPass _ | elemTags _ _ | elemMov _ => cases h; exact firesOn_posRow rfl
  | elemAdd _ _ | elemSub _ _ | elemMul _ _ | elemMulh _ _ | elemMad _ _ | elemMin _ _ | elemMax _ _ | elemAbs _ _ =>
    cases h; exact firesOn_posRow rfl
  | elemAnd _ | elemOr _ | elemXor _ | elemAndn _ => cases h; exact firesOn_posRow rfl
  | elemShl _ _ | elemShr _ _ | elemSar _ _ | elemRot _ _ | elemClz _ _ | elemPopc _ _ | elemClmul _ _ => cases h; exact firesOn_posRow rfl
  | elemFadd _ _ _ _ | elemFsub _ _ _ _ | elemFmul _ _ _ _ | elemFfma _ _ _ _ | elemFdiv _ _ _ _ | elemFsqrt _ _ _ _ =>
    cases h; exact firesOn_fltRow rfl
  | elemFmin _ _ _ | elemFmax _ _ _ | elemFrcp _ _ _ | elemFrsq _ _ _ | elemFexp2 _ _ _ | elemFlog2 _ _ _ => cases h; exact firesOn_fltRow rfl
  | elemCmp g c t => cases h; exact firesOn_alu (exec_elemCmp_eq f c t)
  | elemFcmp g c t np => cases h; exact firesOn_alu (exec_elemFcmp_eq f c t np)
  | elemSel g t => cases h; exact firesOn_alu (exec_elemSel_eq f t)
  | elemShuf g t => cases h; exact firesOn_fire3 (exec_elemShuf_eq f t)
  | elemBcast g t => cases h; exact firesOn_fire1 (exec_elemBcast_eq f t)
  | elemLred g o t => cases h; exact firesOn_fire2 (exec_elemLred_eq f o t)
  | elemScan g o t => cases h; exact firesOn_fire2 (exec_elemScan_eq f o t)
  | elemCvt g td ts r sat => cases h; exact firesOn_alu (exec_elemCvt_eq f td ts r sat)
  | elemPack g td ts r sat => cases h; exact firesOn_alu (exec_elemPack_eq f td ts r sat)
  | elemUnpk g td ts => cases h; exact firesOn_alu (exec_elemUnpk_eq f td ts)
  | elemNullt g => cases h; exact firesOn_operands (exec_elemNullt_eq f)
  | elemPtst g => cases h; exact firesOn_operands (exec_elemPtst_eq f)
  | elemPsn g => cases h; exact firesOn_operands (exec_elemPsn_eq f)
  | elemTrapi g => cases h; exact firesOn_operands (exec_elemTrapi_eq f)
  | elemHalt g => cases h; exact firesOn_operands (exec_elemHalt_eq f)
  | elemSwapw g => cases h; exact firesOn_operands (exec_elemSwapw_eq f)
  | elemMma g zs tor => cases h; exact firesOn_operands (exec_elemMma_eq f zs tor)
  | elemAcca g t => cases h; exact firesOn_acc (exec_elemAcca_eq f t)
  | elemAccd g t => cases h; exact firesOn_operands (exec_elemAccd_eq f t)
  | elemAccz g => cases h; exact firesOn_acc (exec_elemAccz_eq f)
  | elemAccs g => cases h; exact firesOn_acc (exec_elemAccs_eq f)
  | elemAccl g => cases h; exact firesOn_acc (exec_elemAccl_eq f)
  | elemLd g sh => cases h; exact firesOn_request (exec_elemLd_eq f sh)
  | elemSt g sh => cases h; exact firesOn_request (exec_elemSt_eq f sh)
  | elemLda g sc => cases h; exact firesOn_request (exec_elemLda_eq f sc)
  | elemStl g sc => cases h; exact firesOn_request (exec_elemStl_eq f sc)
  | elemCst g sc => cases h; exact firesOn_request (exec_elemCst_eq f sc)
  | elemAmo g k => cases h; exact firesOn_request (exec_elemAmo_eq f k)
  | elemVamo g wide => cases h; exact firesOn_request (exec_elemVamo_eq f wide)
  | _ => cases h

/-! ## The record of an element trap (R55) -/

/-- The head of channel i of an element, as its trap record gives it. -/
def trapHead (s : State) (pl e : Nat) (p : Plane) (i : Nat) : Option Token := p.head (8 * e + i) (s.planeAc pl)
/-- The heads of an element that a property holds of, one bit each. -/
def headBits (s : State) (pl e : Nat) (p : Plane) (f : Token → Bool) : Nat :=
  sumBy (fun i => match trapHead s pl e p i with | some t => if f t then 2 ^ i else 0 | none => 0) (List.range 8)
/-- Whether a head under a mask is a replayed token. -/
def replayRead (s : State) (pl e : Nat) (p : Plane) (m : BitVec 8) : Bool :=
  (List.range 8).any (fun i => m.getLsbD i && (match trapHead s pl e p i with | some t => t.rpl | none => false))
theorem replayRead_iff (s : State) (pl e : Nat) (p : Plane) (m : BitVec 8) : replayRead s pl e p m = true ↔
    ∃ i, i < 8 ∧ m.getLsbD i = true ∧ ∃ x, trapHead s pl e p i = some x ∧ x.rpl = true := by
  simp only [replayRead, List.any_eq_true, List.mem_range, Bool.and_eq_true]
  refine exists_congr fun i => and_congr_right fun _ => and_congr_right fun _ => ?_
  cases trapHead s pl e p i with
  | none => simp
  | some t => simp
/-- The fields of the record beside its heads. -/
def trapRest (s : State) (pl e slot cause code : Nat) (p : Plane) (m : BitVec 8) : List (Nat × Nat × Nat) :=
  [(112, 16, code), (104, 8, headBits s pl e p Token.seal),
    (103, 1, (replayRead s pl e p m).toNat),
    (99, 4, p.vd % 16), (96, 3, p.cid % 8), (56, 8, 0x01), (52, 4, cause), (48, 4, slot), (45, 3, e), (43, 2, pl % 4),
    (33, 10, faY s (planeTile pl)), (23, 10, faX s (planeTile pl)), (15, 8, (p.elem e).p.toNat), (7, 8, headBits s pl e p (fun _ => true))]
/-- The fields of the record. -/
def trapFields (s : State) (pl e slot cause code : Nat) (p : Plane) (m : BitVec 8) : List (Nat × Nat × Nat) :=
  (List.range 8).map (fun i => (256 + 64 * i, 64, match trapHead s pl e p i with
    | some t => if t.seal then 0 else t.data.toNat
    | none => 0)) ++
  (List.range 8).map (fun i => (128 + 16 * i, 16, match trapHead s pl e p i with
    | some t => t.tag.toNat
    | none => 0)) ++
  trapRest s pl e slot cause code p m
/-- Their places. -/
def trapPlaces : List (Nat × Nat) :=
  (List.range 8).map (fun i => (256 + 64 * i, 64)) ++ (List.range 8).map (fun i => (128 + 16 * i, 16)) ++
  [(112, 16), (104, 8), (103, 1), (99, 4), (96, 3), (56, 8), (52, 4), (48, 4), (45, 3), (43, 2), (33, 10), (23, 10), (15, 8), (7, 8)]

theorem bits_mod_256_pow {x lo n k : Nat} (h : lo + n ≤ 8 * k) : bits (x % 256 ^ k) lo n = bits x lo n := by
  rw [show 256 ^ k = 2 ^ (8 * k) from (Nat.pow_mul 2 8 k).symm, bits_mod_two_pow h]

section Record
variable (s : State) (pl e slot cause code : Nat) (p : Plane) (m : BitVec 8)

theorem trapRecord_eq : trapRecord s pl e slot cause code p m = bytesLE 128 (pack (trapFields s pl e slot cause code p m)) := rfl
theorem trapFields_places : (trapFields s pl e slot cause code p m).map place = trapPlaces := rfl
theorem trapFields_apart : ((trapFields s pl e slot cause code p m).map place).Pairwise apart := by
  rw [trapFields_places]
  show trapPlaces.Pairwise fun x y => x.1 + x.2 ≤ y.1 ∨ y.1 + y.2 ≤ x.1
  decide
theorem bits_trapRecord {lo n : Nat} (h : lo + n ≤ 1024) :
    bits (ofBytesLE (trapRecord s pl e slot cause code p m)) lo n = bits (pack (trapFields s pl e slot cause code p m)) lo n := by
  rw [trapRecord_eq, ofBytesLE_bytesLE, bits_mod_256_pow h]

variable {s pl e slot cause code p m}

/-- A field of the record is read back, and a part of one. -/
theorem trapRecord_field {lo n v : Nat} (hm : (lo, n, v) ∈ trapFields s pl e slot cause code p m) (h : lo + n ≤ 1024) :
    bits (ofBytesLE (trapRecord s pl e slot cause code p m)) lo n = v % 2 ^ n :=
  (bits_trapRecord _ _ _ _ _ _ _ _ h).trans (bits_pack (trapFields_apart ..) hm)
theorem trapRecord_bit {lo n v k : Nat} (hm : (lo, n, v) ∈ trapFields s pl e slot cause code p m) (hk : k + 1 ≤ n) (h : lo + n ≤ 1024) :
    bits (ofBytesLE (trapRecord s pl e slot cause code p m)) (lo + k) 1 = bits v k 1 :=
  (bits_trapRecord _ _ _ _ _ _ _ _ (by omega)).trans (bits_pack_field (trapFields_apart ..) hm hk)
theorem trapRecord_gap {lo n : Nat} (hg : ∀ x ∈ trapPlaces, x.1 + x.2 ≤ lo ∨ lo + n ≤ x.1) (h : lo + n ≤ 1024) :
    bits (ofBytesLE (trapRecord s pl e slot cause code p m)) lo n = 0 :=
  (bits_trapRecord _ _ _ _ _ _ _ _ h).trans (bits_pack_gap (trapFields_apart ..) (trapFields_places .. ▸ hg))

theorem mem_trapFields_data {i : Nat} (hi : i < 8) : (256 + 64 * i, 64, match trapHead s pl e p i with
    | some t => if t.seal then 0 else t.data.toNat
    | none => 0) ∈ trapFields s pl e slot cause code p m :=
  List.mem_append_left _ (List.mem_append_left _ (List.mem_map.mpr ⟨i, List.mem_range.mpr hi, rfl⟩))
theorem mem_trapFields_tag {i : Nat} (hi : i < 8) : (128 + 16 * i, 16, match trapHead s pl e p i with
    | some t => t.tag.toNat
    | none => 0) ∈ trapFields s pl e slot cause code p m :=
  List.mem_append_left _ (List.mem_append_right _ (List.mem_map.mpr ⟨i, List.mem_range.mpr hi, rfl⟩))

theorem headBits_eq_pack (f : Token → Bool) : headBits s pl e p f =
    pack ((List.range 8).map (fun i => (i, 1, (match trapHead s pl e p i with | some t => f t | none => false).toNat))) := by
  have hterm : ∀ i, (match trapHead s pl e p i with | some t => if f t then 2 ^ i else 0 | none => 0) =
      (match trapHead s pl e p i with | some t => f t | none => false).toNat % 2 ^ 1 * 2 ^ i := fun i => by
    cases trapHead s pl e p i with
    | none => exact (Nat.zero_mul _).symm
    | some t => cases h : f t <;> simp [h]
  unfold headBits sumBy
  simp only [hterm]
  simp only [List.range, List.range.loop, List.foldl, List.map, pack]
  omega
theorem bits_headBits (f : Token → Bool) {i : Nat} (hi : i < 8) :
    bits (headBits s pl e p f) i 1 = (match trapHead s pl e p i with | some t => f t | none => false).toNat := by
  have hplaces : ((List.range 8).map (fun i => (i, 1, (match trapHead s pl e p i with | some t => f t | none => false).toNat))).map place =
      (List.range 8).map (fun i => (i, 1)) := rfl
  have hapart : (((List.range 8).map (fun i => (i, 1, (match trapHead s pl e p i with | some t => f t | none => false).toNat))).map place).Pairwise
      apart := by
    rw [hplaces]
    show ((List.range 8).map (fun i => (i, 1))).Pairwise fun x y : Nat × Nat => x.1 + x.2 ≤ y.1 ∨ y.1 + y.2 ≤ x.1
    decide
  rw [headBits_eq_pack, bits_pack hapart (List.mem_map.mpr ⟨i, List.mem_range.mpr hi, rfl⟩)]
  exact Nat.mod_eq_of_lt (Bool.toNat_lt _)

/-- What the record says of a head: SEAL, tag and data. -/
theorem trapRecord_head {i : Nat} (hi : i < 8) :
    bits (ofBytesLE (trapRecord s pl e slot cause code p m)) (104 + i) 1 =
      (match trapHead s pl e p i with | some t => t.seal | none => false).toNat ∧
    bits (ofBytesLE (trapRecord s pl e slot cause code p m)) (128 + 16 * i) 16 =
      (match trapHead s pl e p i with | some t => t.tag.toNat | none => 0) % 2 ^ 16 ∧
    bits (ofBytesLE (trapRecord s pl e slot cause code p m)) (256 + 64 * i) 64 =
      (match trapHead s pl e p i with | some t => if t.seal then 0 else t.data.toNat | none => 0) % 2 ^ 64 := by
  have hseal : (104, 8, headBits s pl e p Token.seal) ∈ trapFields s pl e slot cause code p m :=
    List.mem_append_right _ (by simp [trapRest])
  exact ⟨(trapRecord_bit hseal hi (by decide)).trans (bits_headBits _ hi), trapRecord_field (mem_trapFields_tag hi) (by omega),
    trapRecord_field (mem_trapFields_data hi) (by omega)⟩
end Record

/-! ## The fault queue leaves the planes alone -/

theorem planes_touchLine (s : State) (o : Nat) : (touchLine s o).planes = s.planes := by
  unfold touchLine
  dsimp only
  split
  · rfl
  · split
    · rfl
    · rfl
theorem planes_homePut (s : State) (off mask data kslot : Nat) : (homePut s off mask data kslot).planes = s.planes := by
  have htake : (takeBack s off).planes = s.planes := by
    unfold takeBack
    split
    · rfl
    · rfl
  have hfire : (fireMonitors (touchLine (takeBack s off) off) (paOf (takeBack s off) off)).planes = s.planes :=
    (planes_touchLine (takeBack s off) off).trans htake
  unfold homePut homeWrite
  dsimp only
  split
  · exact hfire
  · split
    · exact hfire
    · exact hfire
theorem planes_devWrite (s : State) (pa kslot : Nat) (l : Bytes) : (devWrite s pa kslot l).planes = s.planes := by
  unfold devWrite
  fun_induction devWriteAux (l.length / 32 + 2) s pa kslot l with
  | case1 => rfl
  | case2 => rfl
  | case3 n s pa kslot l _ lo m mask data t ih =>
    rw [ih]
    simp only [t]
    split
    · exact planes_homePut ..
    · cases s.linkUp.2
      · rfl
      · rfl
theorem planes_devReadF (s : State) (pa kslot n : Nat) : (devReadF s pa kslot n).1.planes = s.planes := by
  unfold devReadF
  split
  · rfl
  · rfl
theorem planes_writeSlots (n : Nat) : ∀ (s : State) (v : Vd) (i : Nat) (l : Bytes), (writeSlots n s v i l).planes = s.planes := by
  induction n with
  | zero => exact fun _ _ _ _ => rfl
  | succ n ih => exact fun s v i l => (ih ..).trans (planes_devWrite ..)
theorem planes_fqNotify (s : State) (k : Nat) (v : Vd) : (fqNotify s k v).planes = s.planes := by
  unfold fqNotify State.modVd
  split
  · split
    · rfl
    · rfl
  · rfl
theorem planes_fqWrite (s : State) (k : Nat) (v : Vd) (rc : Bytes) : (fqWrite s k v rc).planes = s.planes := by
  rw [fqWrite, planes_fqNotify, planes_devWrite, State.setVd_planes, planes_writeSlots]
/-- A record raised changes no plane. -/
theorem planes_raise (s : State) (k : Nat) (rc : Bytes) : (raise s k rc).planes = s.planes := by
  unfold raise
  split
  · rfl
  · split
    · exact (planes_devReadF ..).trans (planes_fqWrite ..)
    · exact (planes_devWrite ..).trans (planes_devReadF ..)

theorem unwatched_writeSlots (n : Nat) : ∀ (s : State) (v : Vd) (i : Nat) (l : Bytes) (k : Nat),
    unwatched (writeSlots n s v i l) k = unwatched s k := by
  induction n with
  | zero => exact fun _ _ _ _ _ => rfl
  | succ n ih => exact fun s v i l k => (ih ..).trans (unwatched_devWrite ..)
theorem unwatched_fqNotify (s : State) (k : Nat) (v : Vd) (c : Nat) : unwatched (fqNotify s k v) c = unwatched s c := by
  unfold fqNotify State.modVd
  split
  · split
    · rfl
    · rfl
  · rfl
theorem unwatched_fqWrite (s : State) (k : Nat) (v : Vd) (rc : Bytes) (c : Nat) : unwatched (fqWrite s k v rc) c = unwatched s c := by
  rw [fqWrite, unwatched_fqNotify, unwatched_devWrite]
  exact unwatched_writeSlots ..
/-- A record raised changes contexts only where a monitor fires. -/
theorem unwatched_raise (s : State) (k : Nat) (rc : Bytes) (c : Nat) : unwatched (raise s k rc) c = unwatched s c := by
  unfold raise
  split
  · rfl
  · split
    · exact (unwatched_devReadF ..).trans (unwatched_fqWrite ..)
    · exact (unwatched_devWrite ..).trans (unwatched_devReadF ..)

/-! ## An element trap -/

theorem elem_setElem {p : Plane} {e : Nat} (x : Elem) (h : e < p.elems.length) : (p.setElem e x).elem e = x := by
  rw [Plane.elem, Plane.setElem, getD_eq_get_of_lt _ (by rw [List.length_set]; exact h), List.getElem_set_self]
theorem elem_setElem_ne {p : Plane} {e d : Nat} (x : Elem) (h : d ≠ e) : (p.setElem e x).elem d = p.elem d := by
  rw [Plane.elem, Plane.elem, Plane.setElem, List.getD_eq_getElem?_getD, List.getElem?_set_ne h.symm, ← List.getD_eq_getElem?_getD]

/-- The plane behind an element trap. -/
def trappedPlane (p : Plane) (e n : Nat) : Plane :=
  { p.setElem e { p.elem e with halted := true, trapped := true } with firedAt := tset p.firedAt e (n + 1) }
theorem elemTrap_raised {s : State} {pl e slot cause code : Nat} {m : BitVec 8} {p : Plane} (hp : s.plane? pl = some p)
    (h : canRaise s p.vd (trapRecord s pl e slot cause code p m) = true) : elemTrap s pl e slot cause code m =
    setEvent (raise (s.setPlane pl (trappedPlane p e (s.planeAc pl))) p.vd (trapRecord s pl e slot cause code p m)) p.cid 0 := by
  unfold elemTrap
  rw [hp]
  exact if_neg (ne_false_of_eq_true h)

/-- Settles O42. -/
theorem sealAndTrap : Obligations.SealAndTrap := by
  refine ⟨fun i f s p hi hp hun => ?_, fun s pl e slot cause code m p hp he hcan => ?_⟩
  · obtain ⟨wide, cls, ta, tb, tc, lat, iter, np, op, hexec⟩ | ⟨wide, hexec⟩ := firesOn_of_sealFields hi
    · exact (hexec s).trans (fireAlu_sealed hp hun)
    · obtain ⟨k, hk⟩ := hexec s
      exact hk.trans (withOperands_sealed k hp hun)
  · intro t rc field head
    refine ⟨fun he8 hslot hcause hcode => ?_, ?_⟩
    · have hmem : ∀ x ∈ trapRest s pl e slot cause code p m, x ∈ trapFields s pl e slot cause code p m :=
        fun x hx => List.mem_append_right _ hx
      have hshort : ∀ {lo n v : Nat}, (lo, n, v) ∈ trapRest s pl e slot cause code p m → lo + n ≤ 1024 → v < 2 ^ n → field lo n = v :=
        fun hx h hv => (trapRecord_field (hmem _ hx) h).trans (Nat.mod_eq_of_lt hv)
      have hlen : rc.length = 128 := length_bytesLE ..
      refine ⟨hlen, hshort (by simp [trapRest]) (by decide) (by decide), hshort (by simp [trapRest]) (by decide) hcause,
        hshort (by simp [trapRest]) (by decide) hslot, hshort (by simp [trapRest]) (by decide) he8,
        hshort (by simp [trapRest]) (by decide) (Nat.mod_lt _ (by decide)), trapRecord_field (hmem _ (by simp [trapRest])) (by decide),
        trapRecord_field (hmem _ (by simp [trapRest])) (by decide), hshort (by simp [trapRest]) (by decide) (BitVec.isLt _),
        hshort (by simp [trapRest]) (by decide) hcode, hshort (by simp [trapRest]) (by decide) (Nat.mod_lt _ (by decide)),
        hshort (by simp [trapRest]) (by decide) (Nat.mod_lt _ (by decide)), trapRecord_gap (by decide) (by decide),
        trapRecord_gap (by decide) (by decide), trapRecord_gap (by decide) (by decide), ?_, fun i hi => ⟨?_, fun hnone => ?_, fun x hx => ?_⟩⟩
      · have hfield : field 103 1 = (replayRead s pl e p m).toNat := hshort (by simp [trapRest]) (by decide) (Bool.toNat_lt _)
        rw [hfield, Bool.toNat_eq_one]
        exact replayRead_iff ..
      · refine (trapRecord_bit (hmem (7, 8, headBits s pl e p fun _ => true) (by simp [trapRest])) hi (by decide)).trans ?_
        rw [bits_headBits _ hi]
        show _ = if (trapHead s pl e p i).isSome = true then 1 else 0
        cases trapHead s pl e p i with
        | none => rfl
        | some x => rfl
      · obtain ⟨hseal, htag, hdata⟩ := trapRecord_head (s := s) (pl := pl) (e := e) (slot := slot) (cause := cause) (code := code) (p := p)
          (m := m) hi
        rw [show trapHead s pl e p i = none from hnone] at hseal htag hdata
        exact ⟨hseal, htag, hdata⟩
      · obtain ⟨hseal, htag, hdata⟩ := trapRecord_head (s := s) (pl := pl) (e := e) (slot := slot) (cause := cause) (code := code) (p := p)
          (m := m) hi
        rw [show trapHead s pl e p i = some x from hx] at hseal htag hdata
        refine ⟨hseal, htag.trans (Nat.mod_eq_of_lt x.tag.isLt), hdata.trans ?_⟩
        dsimp only
        split
        · rfl
        · rfl
    · have ht : t = setEvent (raise (s.setPlane pl (trappedPlane p e (s.planeAc pl))) p.vd rc) p.cid 0 := elemTrap_raised hp hcan
      have hplane : ∀ d, t.plane? d = (s.setPlane pl (trappedPlane p e (s.planeAc pl))).plane? d := fun d => by
        rw [ht, State.plane?, State.plane?, setEvent, State.modCtx_planes, planes_raise]
      have helem : (trappedPlane p e (s.planeAc pl)).elem e = { p.elem e with halted := true, trapped := true } := elem_setElem _ he
      refine ⟨_, ht, (hplane pl).trans (State.plane_setPlane ..), ?_, ?_, ?_, fun d hd => elem_setElem_ne _ hd, rfl, rfl, rfl, rfl, rfl,
        fun d hd => (hplane d).trans (State.plane_setPlane_ne _ _ hd), ?_⟩
      · rw [helem]
      · rw [helem]
      · rw [helem]
      · have hctx := congrArg Ctx.event (unwatched_raise (s.setPlane pl (trappedPlane p e (s.planeAc pl))) p.vd rc p.cid)
        rw [ht, setEvent, State.ctx_modCtx]
        exact congrArg (· ||| (1 : Word)) hctx
end Sys2Proof.Proofs
end

section
/-! What a firing changes in its plane (R37). -/

namespace Sys2Proof.Proofs

open Sys2Proof Sys2Proof.Machine Sys2Proof.Claim

/-! ## The state that a firing leaves -/

/-- What no firing changes in the state. -/
def restState (s : State) : State := { s with planes := [], net := [] }
theorem eq_of_restState {α : Type} {s t : State} (g : State → α) (h : restState t = restState s)
    (hg : ∀ s, g (restState s) = g s := by intro; rfl) : g t = g s := (hg t).symm.trans ((congrArg g h).trans (hg s))
/-- From s to t only plane pl changed, to q, and credits of element e's inputs left. -/
structure FiredTo (s t : State) (pl e : Nat) (q : Plane) : Prop where
  plane : t.plane? pl = some q
  others : ∀ d, d ≠ pl → t.plane? d = s.plane? d
  net : ∃ l, t.net = s.net ++ l ∧ ∀ x ∈ l, ∃ fp port i, x.body = .credit fp port pl (8 * e + i)
  same : restState t = restState s

section FiredTo
variable {s t u : State} {pl e : Nat} {p q r : Plane}

theorem FiredTo.refl (h : s.plane? pl = some p) : FiredTo s s pl e p :=
  ⟨h, fun _ _ => rfl, ⟨[], (List.append_nil _).symm, fun _ h => absurd h List.not_mem_nil⟩, rfl⟩
theorem FiredTo.trans (h : FiredTo s t pl e q) (h' : FiredTo t u pl e r) : FiredTo s u pl e r := by
  obtain ⟨_, ho, ⟨l, hl, hc⟩, hs⟩ := h
  obtain ⟨hp', ho', ⟨l', hl', hc'⟩, hs'⟩ := h'
  refine ⟨hp', fun d hd => (ho' d hd).trans (ho d hd), ⟨l ++ l', by rw [hl', hl, List.append_assoc], fun x hx => ?_⟩, hs'.trans hs⟩
  obtain hx | hx := List.mem_append.mp hx
  · exact hc x hx
  · exact hc' x hx
theorem FiredTo.setPlane (s : State) (pl e : Nat) (q : Plane) : FiredTo s (s.setPlane pl q) pl e q :=
  ⟨State.plane_setPlane .., fun _ hd => State.plane_setPlane_ne s q hd, ⟨[], (List.append_nil _).symm, fun _ h => absurd h List.not_mem_nil⟩, rfl⟩
theorem FiredTo.modPlane (h : s.plane? pl = some p) (f : Plane → Plane) : FiredTo s (s.modPlane pl f) pl e (f p) := by
  have hmod : s.modPlane pl f = s.setPlane pl (f p) := by rw [State.modPlane, h]
  rw [hmod]
  exact FiredTo.setPlane ..
theorem FiredTo.send (h : s.plane? pl = some p) {x : Packet} (hx : ∃ fp port i, x.body = .credit fp port pl (8 * e + i)) :
    FiredTo s (s.send x) pl e p :=
  ⟨h, fun _ _ => rfl, ⟨[x], rfl, fun _ hy => List.mem_singleton.mp hy ▸ hx⟩, rfl⟩
theorem FiredTo.planeAc (h : FiredTo s t pl e q) (d : Nat) : t.planeAc d = s.planeAc d := by
  rw [State.planeAc, State.planeAc, State.ac, State.ac, State.die, State.die, eq_of_restState State.dies h.same]
end FiredTo

/-! ## Tokens that leave the inputs -/

/-- The plane without the head of channel k. -/
def deqPlane (n : Nat) (p : Plane) (k : Nat) : Plane :=
  if (p.chan k).q = [] then p else ((p.setChan k ((p.chan k).pop n)).addBal (-1)).touch n
theorem dequeue_firedTo {s : State} {pl e : Nat} {p : Plane} (hp : s.plane? pl = some p) (i : Nat) :
    FiredTo s (dequeue s pl (8 * e + i)) pl e (deqPlane (s.planeAc pl) p (8 * e + i)) := by
  unfold dequeue deqPlane
  rw [hp]
  dsimp only
  split
  · exact FiredTo.refl hp
  · generalize ((p.setChan (8 * e + i) ((p.chan (8 * e + i)).pop (s.planeAc pl))).addBal (-1)).touch (s.planeAc pl) = q
    have hset := FiredTo.setPlane s pl e q
    split
    · split
      · exact hset
      · exact hset.trans (FiredTo.send hset.plane ⟨_, _, i, rfl⟩)
    · exact hset
theorem dequeueAll_firedTo (e : Nat) (ks : List Nat) : ∀ {s : State} {pl : Nat} {p : Plane}, s.plane? pl = some p →
    (∀ k ∈ ks, ∃ i, k = 8 * e + i) → FiredTo s (dequeueAll s pl ks) pl e (ks.foldl (deqPlane (s.planeAc pl)) p) := by
  induction ks with
  | nil => exact fun hp _ => FiredTo.refl hp
  | cons k r ih =>
    intro s pl p hp hks
    obtain ⟨i, rfl⟩ := hks k List.mem_cons_self
    have hfirst := dequeue_firedTo (e := e) hp i
    have hrest := ih hfirst.plane fun k hk => hks k (List.mem_cons_of_mem _ hk)
    rw [hfirst.planeAc] at hrest
    exact hfirst.trans hrest

theorem mem_chanKeys {e c : Nat} {m : BitVec 8} : c ∈ chanKeys e m ↔ ∃ i, i < 8 ∧ m.getLsbD i = true ∧ c = 8 * e + i := by
  simp only [chanKeys, bitsSet, List.mem_map, List.mem_filter, List.mem_range, BitVec.testBit_toNat]
  exact exists_congr fun i => ⟨fun ⟨⟨hi, hm⟩, h⟩ => ⟨hi, hm, h.symm⟩, fun ⟨hi, hm, h⟩ => ⟨⟨hi, hm⟩, h.symm⟩⟩
theorem mem_chanKeys_iff {e : Nat} {m : BitVec 8} (i : Fin 8) : 8 * e + i.val ∈ chanKeys e m ↔ m.getLsbD i.val = true := by
  rw [mem_chanKeys]
  constructor
  · rintro ⟨j, _, hm, h⟩
    rwa [show i.val = j by omega]
  · exact fun hm => ⟨i.val, i.isLt, hm, rfl⟩
theorem nodup_chanKeys (e : Nat) (m : BitVec 8) : (chanKeys e m).Nodup :=
  List.Pairwise.map (8 * e + ·) (fun _ _ hne h => hne (Nat.add_left_cancel h)) (List.nodup_range.filter _)
theorem chanKeys_div {e c : Nat} {m : BitVec 8} (h : c ∈ chanKeys e m) : c / 8 = e := by
  obtain ⟨i, hi, _, rfl⟩ := mem_chanKeys.mp h
  omega

/-! ## Plane updates -/

/-- What no firing changes in its plane. -/
def rest (p : Plane) : Plane :=
  { p with elems := [], chans := [], held := [], pend := [], bal := 0, nextId := 0, idle := 0, idleSent := false, lastAct := 0, firedAt := [] }

theorem eq_of_rest {α : Type} {p q : Plane} (g : Plane → α) (h : rest q = rest p) (hg : ∀ p, g (rest p) = g p := by intro; rfl) : g q = g p :=
  (hg q).symm.trans ((congrArg g h).trans (hg p))
@[simp] theorem chan_setChan (p : Plane) (k : Nat) (c : Chan) : (p.setChan k c).chan k = c := tget_tset_same ..
theorem chan_setChan_ne (p : Plane) {k d : Nat} (c : Chan) (h : d ≠ k) : (p.setChan k c).chan d = p.chan d := tget_tset_ne _ _ _ h
theorem q_pop (c : Chan) (n : Nat) : (c.pop n).q = c.q.tail := by
  unfold Chan.pop
  cases h : c.q with
  | nil => exact h
  | cons x r => rfl

section Dequeued
variable (n : Nat) (p : Plane) (k : Nat)

theorem deqPlane_frame : rest (deqPlane n p k) = rest p ∧ (deqPlane n p k).elems = p.elems ∧ (deqPlane n p k).held = p.held ∧
    (deqPlane n p k).pend = p.pend := by
  unfold deqPlane
  split
  · exact ⟨rfl, rfl, rfl, rfl⟩
  · exact ⟨rfl, rfl, rfl, rfl⟩
theorem q_deqPlane : ((deqPlane n p k).chan k).q = (p.chan k).q.tail := by
  unfold deqPlane
  split
  · next h => rw [h]; rfl
  · exact (congrArg Chan.q (chan_setChan p k _)).trans (q_pop ..)
theorem chan_deqPlane_ne {d : Nat} (h : d ≠ k) : (deqPlane n p k).chan d = p.chan d := by
  unfold deqPlane
  split
  · rfl
  · exact chan_setChan_ne p _ h
end Dequeued

theorem foldl_deqPlane_frame (n : Nat) (ks : List Nat) : ∀ p, rest (ks.foldl (deqPlane n) p) = rest p ∧
    (ks.foldl (deqPlane n) p).elems = p.elems ∧ (ks.foldl (deqPlane n) p).held = p.held ∧ (ks.foldl (deqPlane n) p).pend = p.pend := by
  induction ks with
  | nil => exact fun _ => ⟨rfl, rfl, rfl, rfl⟩
  | cons k r ih =>
    intro p
    obtain ⟨hr, he, hh, hp⟩ := deqPlane_frame n p k
    obtain ⟨hr', he', hh', hp'⟩ := ih (deqPlane n p k)
    exact ⟨hr'.trans hr, he'.trans he, hh'.trans hh, hp'.trans hp⟩
theorem chan_foldl_deqPlane_of_not_mem (n : Nat) (ks : List Nat) {d : Nat} : ∀ p, d ∉ ks → (ks.foldl (deqPlane n) p).chan d = p.chan d := by
  induction ks with
  | nil => exact fun _ _ => rfl
  | cons k r ih =>
    intro p hd
    obtain ⟨hk, hr⟩ := not_or.mp (mt List.mem_cons.mpr hd)
    exact (ih _ hr).trans (chan_deqPlane_ne n p k hk)
theorem q_foldl_deqPlane (n : Nat) (ks : List Nat) {d : Nat} : ∀ p, ks.Nodup → d ∈ ks →
    ((ks.foldl (deqPlane n) p).chan d).q = (p.chan d).q.tail := by
  induction ks with
  | nil => exact fun _ _ h => absurd h List.not_mem_nil
  | cons k r ih =>
    intro p hnd hd
    obtain ⟨hk, hr⟩ := List.nodup_cons.mp hnd
    obtain rfl | hd := List.mem_cons.mp hd
    · exact (congrArg Chan.q (chan_foldl_deqPlane_of_not_mem n r _ hk)).trans (q_deqPlane n p d)
    · have hne : d ≠ k := fun h => hk (h ▸ hd)
      exact (ih _ hr hd).trans (congrArg (fun c => c.q.tail) (chan_deqPlane_ne n p k hne))

/-! ## Tokens that reach the outputs -/

/-- q is p with places taken on outputs ks: their channels and the held effects grew. -/
structure Enqueued (p q : Plane) (ks : List Nat) : Prop where
  same : rest q = rest p
  elems : q.elems = p.elems
  pend : q.pend = p.pend
  held : ∃ l, q.held = p.held ++ l ∧ ∀ h ∈ l, ∃ o ∈ ks, ∃ id tok vis, h.fx = .exit o id tok vis
  chan : ∀ c, (∀ o ∈ ks, ∀ x, tfind p.outs o = some x → x.dest ≠ .loc c) → q.chan c = p.chan c
  grows : ∀ c, ∀ y ∈ (p.chan c).q, y ∈ (q.chan c).q

theorem Enqueued.outs {p q : Plane} {ks : List Nat} (h : Enqueued p q ks) : q.outs = p.outs := eq_of_rest Plane.outs h.same
theorem Enqueued.refl (p : Plane) (ks : List Nat) : Enqueued p p ks :=
  ⟨rfl, rfl, rfl, ⟨[], (List.append_nil _).symm, fun _ h => absurd h List.not_mem_nil⟩, fun _ _ => rfl, fun _ _ h => h⟩
theorem Enqueued.cons {p q r : Plane} {k : Nat} {ks : List Nat} (h : Enqueued p q [k]) (h' : Enqueued q r ks) : Enqueued p r (k :: ks) := by
  obtain ⟨l, hl, hx⟩ := h.held
  obtain ⟨l', hl', hx'⟩ := h'.held
  refine ⟨h'.same.trans h.same, h'.elems.trans h.elems, h'.pend.trans h.pend, ⟨l ++ l', by rw [hl', hl, List.append_assoc], fun y hy => ?_⟩,
    fun c hc => ?_, fun c y hy => h'.grows c y (h.grows c y hy)⟩
  · obtain hy | hy := List.mem_append.mp hy
    · obtain ⟨o, ho, hfx⟩ := hx y hy
      exact ⟨o, List.mem_singleton.mp ho ▸ List.mem_cons_self, hfx⟩
    · obtain ⟨o, ho, hfx⟩ := hx' y hy
      exact ⟨o, List.mem_cons_of_mem _ ho, hfx⟩
  · refine (h'.chan c fun o ho x hf => hc o (List.mem_cons_of_mem _ ho) x (h.outs ▸ hf)).trans (h.chan c fun o ho => ?_)
    exact hc o (List.mem_singleton.mp ho ▸ List.mem_cons_self)

theorem mem_insertPlace (x : Place) (l : List Place) : x ∈ insertPlace x l ∧ ∀ y ∈ l, y ∈ insertPlace x l := by
  induction l with
  | nil => exact ⟨List.mem_cons_self, fun _ h => absurd h List.not_mem_nil⟩
  | cons z r ih =>
    unfold insertPlace
    split
    · exact ⟨List.mem_cons_self, fun y hy => List.mem_cons_of_mem _ hy⟩
    · refine ⟨List.mem_cons_of_mem _ ih.1, fun y hy => ?_⟩
      obtain rfl | hy := List.mem_cons.mp hy
      · exact List.mem_cons_self
      · exact List.mem_cons_of_mem _ (ih.2 y hy)

/-- The plane with the number of a place taken. -/
def numbered (p : Plane) (tok : Option Token) : Plane :=
  if tok.isSome then ({ p with nextId := p.nextId + 1 } : Plane).addBal 1 else { p with nextId := p.nextId + 1 }
theorem numbered_eq (p : Plane) (tok : Option Token) : rest (numbered p tok) = rest p ∧ (numbered p tok).elems = p.elems ∧
    (numbered p tok).pend = p.pend ∧ (numbered p tok).held = p.held ∧ (numbered p tok).chans = p.chans := by
  unfold numbered
  split
  · exact ⟨rfl, rfl, rfl, rfl, rfl⟩
  · exact ⟨rfl, rfl, rfl, rfl, rfl⟩
theorem enqueue_numbered (p : Plane) (k : Nat) (tok : Option Token) (vis : Nat) (late : Bool) : p.enqueue k tok vis late =
    match tfind p.outs k with
    | none => numbered p tok
    | some o => match o.dest with
      | .loc c => (numbered p tok).setChan c ((p.chan c).put { id := p.nextId, tok := tok, vis := vis })
      | .exit _ _ _ => { numbered p tok with held := p.held ++ [{ fx := .exit k p.nextId tok vis, late := late }] } := by
  cases tok <;> rfl

/-- Places taken on one output. -/
theorem enqueue_enqueued (p : Plane) (k : Nat) (tok : Option Token) (vis : Nat) (late : Bool) : Enqueued p (p.enqueue k tok vis late) [k] := by
  obtain ⟨hrest, helems, hpend, hheld, hchans⟩ := numbered_eq p tok
  have hchan : ∀ c, (numbered p tok).chan c = p.chan c := fun c => by
    rw [Plane.chan, Plane.chan, hchans]
  have hheld0 : ∃ l, (numbered p tok).held = p.held ++ l ∧ ∀ h ∈ l, ∃ o ∈ [k], ∃ id tok vis, h.fx = .exit o id tok vis :=
    ⟨[], hheld.trans (List.append_nil _).symm, fun _ h => absurd h List.not_mem_nil⟩
  rw [enqueue_numbered]
  split
  · exact ⟨hrest, helems, hpend, hheld0, fun c _ => hchan c, fun c y hy => (hchan c).symm ▸ hy⟩
  · next o ho =>
    split
    · next c hc =>
      refine ⟨hrest, helems, hpend, hheld0, fun d hd => ?_, fun d y hy => ?_⟩
      · have hne : d ≠ c := fun h => hd k List.mem_cons_self o ho (h ▸ hc)
        exact (chan_setChan_ne _ _ hne).trans (hchan d)
      · by_cases hdc : d = c
        · rw [hdc, chan_setChan]
          exact (mem_insertPlace _ _).2 y (hdc ▸ hy)
        · rw [chan_setChan_ne _ _ hdc, hchan d]
          exact hy
    · exact ⟨hrest, helems, hpend, ⟨_, rfl, fun h hh => ⟨k, List.mem_cons_self, _, _, _,
        congrArg Held.fx (List.mem_singleton.mp hh)⟩⟩,
        fun c _ => hchan c, fun c y hy => (hchan c).symm ▸ hy⟩
/-- A place taken on an output that leads to a channel stands in it. -/
theorem enqueue_mem {p : Plane} {k c : Nat} {o : Out} (tok : Option Token) (vis : Nat) (late : Bool) (ho : tfind p.outs k = some o)
    (hc : o.dest = .loc c) : { id := p.nextId, tok := tok, vis := vis } ∈ ((p.enqueue k tok vis late).chan c).q := by
  rw [enqueue_numbered, ho]
  dsimp only
  rw [hc]
  dsimp only
  rw [chan_setChan]
  exact (mem_insertPlace _ _).1

theorem enqueueAll_enqueued (t : Token) (vis : Nat) (late : Bool) (ks : List Nat) : ∀ p, Enqueued p (enqueueAll p t vis late ks) ks := by
  induction ks with
  | nil => exact fun p => Enqueued.refl p []
  | cons k r ih => exact fun p => (enqueue_enqueued p k (some t) vis late).cons (ih _)
theorem reserveAll_enqueued (late : Bool) (ks : List Nat) : ∀ p, Enqueued p (reserveAll p late ks).1 ks := by
  induction ks with
  | nil => exact fun p => Enqueued.refl p []
  | cons k r ih => exact fun p => (enqueue_enqueued p k none 0 late).cons (ih _)
theorem enqueueAll_mem (t : Token) (vis : Nat) (late : Bool) {k c : Nat} {o : Out} (ks : List Nat) : ∀ {p : Plane}, k ∈ ks →
    tfind p.outs k = some o → o.dest = .loc c → ∃ y ∈ ((enqueueAll p t vis late ks).chan c).q, y.tok = some t ∧ y.vis = vis := by
  induction ks with
  | nil => exact fun h => absurd h List.not_mem_nil
  | cons k' r ih =>
    intro p hk ho hc
    have hfirst := enqueue_enqueued p k' (some t) vis late
    obtain rfl | hk := List.mem_cons.mp hk
    · exact ⟨_, (enqueueAll_enqueued t vis late r _).grows c _ (enqueue_mem (some t) vis late ho hc), rfl, rfl⟩
    · exact ih hk (hfirst.outs ▸ ho) hc

/-! ## The firing -/

theorem getLsbD_two_pow : ∀ i j : Fin 8, (BitVec.ofNat 8 (2 ^ j.val)).getLsbD i.val = decide (i = j) := by decide
theorem getLsbD_setBit (cmp : Bool) (q b : BitVec 8) (i : Fin 8) : (if cmp then q ||| b else q &&& ~~~b).getLsbD i.val =
    if b.getLsbD i.val then cmp else q.getLsbD i.val := by
  cases cmp with
  | true => rw [if_pos rfl, BitVec.getLsbD_or]; cases b.getLsbD i.val <;> simp
  | false =>
    rw [if_neg Bool.false_ne_true, BitVec.getLsbD_and, BitVec.getLsbD_not, decide_eq_true i.isLt]
    cases b.getLsbD i.val <;> simp
/-- The predicates of an element after a firing. -/
theorem getLsbD_predsAfter (f : EFields) (k : Kind) (cmp : Bool) (x : BitVec 8) (i : Fin 8) : (predsAfter f k cmp x).getLsbD i.val =
    (if k = .data ∧ f.pres = some i then cmp else if f.psetm.getLsbD i.val then f.psetv.getLsbD i.val else x.getLsbD i.val) := by
  have hset : ((x &&& ~~~f.psetm) ||| (f.psetv &&& f.psetm)).getLsbD i.val =
      if f.psetm.getLsbD i.val then f.psetv.getLsbD i.val else x.getLsbD i.val := by
    rw [BitVec.getLsbD_or, BitVec.getLsbD_and, BitVec.getLsbD_and, BitVec.getLsbD_not, decide_eq_true i.isLt]
    cases f.psetm.getLsbD i.val <;> simp
  cases hpres : f.pres with
  | none =>
    simp only [predsAfter, hpres]
    rw [if_neg fun h => Option.some_ne_none i h.2.symm, ← hset]
  | some j =>
    cases k with
    | data =>
      simp only [predsAfter, hpres, true_and, Option.some_inj]
      rw [getLsbD_setBit, getLsbD_two_pow, hset]
      by_cases hij : j = i
      · rw [if_pos hij, decide_eq_true hij.symm]; rfl
      · rw [if_neg hij, decide_eq_false (Ne.symm hij)]; rfl
    | null => simp only [predsAfter, hpres]; rw [if_neg fun h => Kind.noConfusion h.1, ← hset]
    | poison o => simp only [predsAfter, hpres]; rw [if_neg fun h => Kind.noConfusion h.1, ← hset]

/-- The plane with DEQ, predicates and the mark of the ac. -/
def finishPlane (n : Nat) (p : Plane) (e : Nat) (f : EFields) (k : Kind) (cmp : Bool) : Plane :=
  let d := (chanKeys e f.deq).foldl (deqPlane n) p
  { (d.setElem e { d.elem e with p := predsAfter f k cmp (d.elem e).p }).touch n with firedAt := tset d.firedAt e (n + 1) }
theorem finishFiring_firedTo {s : State} {pl : Nat} {p : Plane} (e : Nat) (f : EFields) (k : Kind) (cmp : Bool) (hp : s.plane? pl = some p) :
    FiredTo s (finishFiring s pl e f k cmp) pl e (finishPlane (s.planeAc pl) p e f k cmp) := by
  have hdeq := dequeueAll_firedTo e (chanKeys e f.deq) hp fun c hc => by
    obtain ⟨i, _, _, h⟩ := mem_chanKeys.mp hc
    exact ⟨i, h⟩
  have hmod := hdeq.trans (FiredTo.modPlane hdeq.plane fun d =>
    { (d.setElem e { d.elem e with p := predsAfter f k cmp (d.elem e).p }).touch (s.planeAc pl) with firedAt := tset d.firedAt e (s.planeAc pl + 1) })
  unfold finishFiring
  dsimp only
  rw [hdeq.planeAc]
  exact hmod

section Finished
variable (n : Nat) {p : Plane} (e : Nat) (f : EFields) (k : Kind) (cmp : Bool)

theorem finishPlane_frame : rest (finishPlane n p e f k cmp) = rest p ∧ (finishPlane n p e f k cmp).held = p.held ∧
    (finishPlane n p e f k cmp).pend = p.pend ∧ (finishPlane n p e f k cmp).elems.length = p.elems.length := by
  obtain ⟨hrest, helems, hheld, hpend⟩ := foldl_deqPlane_frame n (chanKeys e f.deq) p
  exact ⟨hrest, hheld, hpend, (List.length_set ..).trans (congrArg List.length helems)⟩
theorem elem_finishPlane (he : e < p.elems.length) :
    (finishPlane n p e f k cmp).elem e = { p.elem e with p := predsAfter f k cmp (p.elem e).p } := by
  obtain ⟨_, helems, _, _⟩ := foldl_deqPlane_frame n (chanKeys e f.deq) p
  have helem : ((chanKeys e f.deq).foldl (deqPlane n) p).elem e = p.elem e := by rw [Plane.elem, Plane.elem, helems]
  refine (elem_setElem _ (helems ▸ he)).trans ?_
  rw [helem]
theorem elem_finishPlane_ne {d : Nat} (hd : d ≠ e) : (finishPlane n p e f k cmp).elem d = p.elem d := by
  obtain ⟨_, helems, _, _⟩ := foldl_deqPlane_frame n (chanKeys e f.deq) p
  refine (elem_setElem_ne _ hd).trans ?_
  rw [Plane.elem, Plane.elem, helems]
theorem chan_finishPlane {c : Nat} (hc : c / 8 ≠ e) : (finishPlane n p e f k cmp).chan c = p.chan c :=
  chan_foldl_deqPlane_of_not_mem n _ _ fun h => hc (chanKeys_div h)
theorem q_finishPlane (i : Fin 8) : ((finishPlane n p e f k cmp).chan (8 * e + i.val)).q =
    if f.deq.getLsbD i.val then (p.chan (8 * e + i.val)).q.tail else (p.chan (8 * e + i.val)).q := by
  split
  · next h => exact q_foldl_deqPlane n _ _ (nodup_chanKeys ..) ((mem_chanKeys_iff i).mpr h)
  · next h => exact congrArg Chan.q (chan_foldl_deqPlane_of_not_mem n _ _ (mt (mem_chanKeys_iff i).mp h))
end Finished

/-- The plane with a firing's results written now. -/
def firedNow (n : Nat) (p : Plane) (e : Nat) (f : EFields) (k : Kind) (r : Result) (scl : Bool) : Plane :=
  let q := enqueueAll p (firedTok k r.val scl f.otag) (n + 1) (afterKnot p e) (chanKeys e f.omask)
  if k.isData then q.setElem e (setG (q.elem e) f.dst r.val) else q
/-- A result that falls due. -/
def resultDue (n : Nat) (p : Plane) (e slot : Nat) (f : EFields) (k : Kind) (r : Result) (scl : Bool) (lat : Nat) (iter : Bool)
    (places : List (Nat × Nat)) : Pend :=
  ⟨n + lat - 1, e, slot, afterKnot p e, iter, .result f.dst k r.val (firedTok k r.val scl f.otag).tag places, false⟩
/-- The plane with it pending. -/
def firedLater (n : Nat) (p : Plane) (e slot : Nat) (f : EFields) (k : Kind) (r : Result) (scl : Bool) (lat : Nat) (iter : Bool) : Plane :=
  let q := reserveAll p (afterKnot p e) (chanKeys e f.omask)
  { q.1 with pend := q.1.pend ++ [resultDue n p e slot f k r scl lat iter q.2] }
theorem completeFiring_firedTo {s : State} {pl : Nat} {p : Plane} (e slot : Nat) (f : EFields) (k : Kind) (r : Result) (scl : Bool) (lat : Nat)
    (iter : Bool) (hp : s.plane? pl = some p) : FiredTo s (completeFiring s pl e slot f k r scl lat iter) pl e
      (if lat ≤ 1 then firedNow (s.planeAc pl) (finishPlane (s.planeAc pl) p e f k r.cmp) e f k r scl
       else firedLater (s.planeAc pl) (finishPlane (s.planeAc pl) p e f k r.cmp) e slot f k r scl lat iter) := by
  have hfin := finishFiring_firedTo e f k r.cmp hp
  have hmod := hfin.trans (FiredTo.modPlane hfin.plane fun q => if lat ≤ 1 then firedNow (s.planeAc pl) q e f k r scl
    else firedLater (s.planeAc pl) q e slot f k r scl lat iter)
  unfold completeFiring
  dsimp only
  rw [hfin.planeAc]
  exact hmod

theorem isData_iff (k : Kind) : k.isData = true ↔ k = .data := by cases k <;> simp [Kind.isData]
theorem get_setG (x : Elem) (d : Option (Fin 32)) (v : Lanes) (g : Fin 32) :
    (setG x d v).g.get g = if d = some g then v else x.g.get g := by
  cases d with
  | none => rw [if_neg (Option.some_ne_none g).symm]; rfl
  | some r =>
    simp only [setG, Option.some_inj]
    rw [vector_get_eq_getElem, vector_get_eq_getElem]
    by_cases h : r = g
    · rw [if_pos h, h]
      exact Vector.getElem_set_self ..
    · rw [if_neg h]
      exact Vector.getElem_set_ne _ _ fun hv => h (Fin.ext hv)
theorem setG_frame (x : Elem) (d : Option (Fin 32)) (v : Lanes) : (setG x d v).p = x.p ∧ (setG x d v).halted = x.halted := by
  cases d with
  | none => exact ⟨rfl, rfl⟩
  | some r => exact ⟨rfl, rfl⟩

/-- What a firing's results do to the plane: places taken on its outputs, the registers of the element, and what is pending. -/
structure Resulted (p q : Plane) (e : Nat) (ks : List Nat) : Prop where
  same : rest q = rest p
  held : ∃ l, q.held = p.held ++ l ∧ ∀ h ∈ l, ∃ o ∈ ks, ∃ id tok vis, h.fx = .exit o id tok vis
  chan : ∀ c, (∀ o ∈ ks, ∀ x, tfind p.outs o = some x → x.dest ≠ .loc c) → q.chan c = p.chan c
  preds : (q.elem e).p = (p.elem e).p
  halted : (q.elem e).halted = (p.elem e).halted
  elems : ∀ d, d ≠ e → q.elem d = p.elem d

section Results
variable (n : Nat) {p : Plane} {e : Nat} (slot : Nat) (f : EFields) (k : Kind) (r : Result) (scl : Bool) (lat : Nat) (iter : Bool)
  (he : e < p.elems.length)

omit he in
theorem firedNow_frame : rest (firedNow n p e f k r scl) = rest p ∧ (firedNow n p e f k r scl).pend = p.pend ∧
    (∃ l, (firedNow n p e f k r scl).held = p.held ++ l ∧ ∀ h ∈ l, ∃ o ∈ chanKeys e f.omask, ∃ id tok vis, h.fx = .exit o id tok vis) ∧
    (firedNow n p e f k r scl).chans =
      (enqueueAll p (firedTok k r.val scl f.otag) (n + 1) (afterKnot p e) (chanKeys e f.omask)).chans := by
  have hq := enqueueAll_enqueued (firedTok k r.val scl f.otag) (n + 1) (afterKnot p e) (chanKeys e f.omask) p
  unfold firedNow
  dsimp only
  split
  · exact ⟨hq.same, hq.pend, hq.held, rfl⟩
  · exact ⟨hq.same, hq.pend, hq.held, rfl⟩
include he in
theorem elem_firedNow : (firedNow n p e f k r scl).elem e = if k = .data then setG (p.elem e) f.dst r.val else p.elem e := by
  have hq := enqueueAll_enqueued (firedTok k r.val scl f.otag) (n + 1) (afterKnot p e) (chanKeys e f.omask) p
  have helem : (enqueueAll p (firedTok k r.val scl f.otag) (n + 1) (afterKnot p e) (chanKeys e f.omask)).elem e = p.elem e := by
    rw [Plane.elem, Plane.elem, hq.elems]
  unfold firedNow
  dsimp only
  by_cases hk : k = .data
  · rw [if_pos ((isData_iff k).mpr hk), if_pos hk, elem_setElem _ (hq.elems ▸ he), helem]
  · rw [if_neg (mt (isData_iff k).mp hk), if_neg hk, helem]
omit he in
theorem elem_firedNow_ne {d : Nat} (hd : d ≠ e) : (firedNow n p e f k r scl).elem d = p.elem d := by
  have hq := enqueueAll_enqueued (firedTok k r.val scl f.otag) (n + 1) (afterKnot p e) (chanKeys e f.omask) p
  have helem : (enqueueAll p (firedTok k r.val scl f.otag) (n + 1) (afterKnot p e) (chanKeys e f.omask)).elem d = p.elem d := by
    rw [Plane.elem, Plane.elem, hq.elems]
  unfold firedNow
  dsimp only
  split
  · rw [elem_setElem_ne _ hd, helem]
  · exact helem
include he in
theorem firedNow_resulted : Resulted p (firedNow n p e f k r scl) e (chanKeys e f.omask) := by
  have hq := enqueueAll_enqueued (firedTok k r.val scl f.otag) (n + 1) (afterKnot p e) (chanKeys e f.omask) p
  obtain ⟨hrest, _, hheld, hchans⟩ := firedNow_frame n f k r scl (p := p) (e := e)
  refine ⟨hrest, hheld, fun c hc => ?_, ?_, ?_, fun d hd => elem_firedNow_ne n f k r scl hd⟩
  · rw [Plane.chan, hchans]
    exact hq.chan c hc
  · rw [elem_firedNow n f k r scl he]
    split
    · exact (setG_frame ..).1
    · rfl
  · rw [elem_firedNow n f k r scl he]
    split
    · exact (setG_frame ..).2
    · rfl
omit he in
theorem firedLater_resulted : Resulted p (firedLater n p e slot f k r scl lat iter) e (chanKeys e f.omask) ∧
    (∀ d, (firedLater n p e slot f k r scl lat iter).elem d = p.elem d) ∧
    ∃ places, (firedLater n p e slot f k r scl lat iter).pend = p.pend ++ [resultDue n p e slot f k r scl lat iter places] := by
  have hq := reserveAll_enqueued (afterKnot p e) (chanKeys e f.omask) p
  have helem : ∀ d, (firedLater n p e slot f k r scl lat iter).elem d = p.elem d := fun d => by
    show (reserveAll p (afterKnot p e) (chanKeys e f.omask)).1.elem d = p.elem d
    rw [Plane.elem, Plane.elem, hq.elems]
  refine ⟨⟨hq.same, hq.held, hq.chan, congrArg Elem.p (helem e), congrArg Elem.halted (helem e), fun d _ => helem d⟩, helem,
    (reserveAll p (afterKnot p e) (chanKeys e f.omask)).2, ?_⟩
  show (reserveAll p (afterKnot p e) (chanKeys e f.omask)).1.pend ++ _ = _
  rw [hq.pend]
end Results

/-- The plane behind a firing. -/
def firedPlane (n : Nat) (p : Plane) (e slot : Nat) (f : EFields) (k : Kind) (r : Result) (scl : Bool) (lat : Nat) (iter : Bool) : Plane :=
  if lat ≤ 1 then firedNow n (finishPlane n p e f k r.cmp) e f k r scl
  else firedLater n (finishPlane n p e f k r.cmp) e slot f k r scl lat iter

section Behind
variable (n : Nat) {p : Plane} {e : Nat} (slot : Nat) (f : EFields) (k : Kind) (r : Result) (scl : Bool) (lat : Nat) (iter : Bool)
  (he : e < p.elems.length)
include he

theorem firedPlane_resulted :
    Resulted (finishPlane n p e f k r.cmp) (firedPlane n p e slot f k r scl lat iter) e (chanKeys e f.omask) := by
  obtain ⟨_, _, _, hlen⟩ := finishPlane_frame n e f k r.cmp (p := p)
  unfold firedPlane
  split
  · exact firedNow_resulted n f k r scl (hlen.symm ▸ he)
  · exact (firedLater_resulted n slot f k r scl lat iter).1
theorem get_firedPlane (g : Fin 32) : ((firedPlane n p e slot f k r scl lat iter).elem e).g.get g =
    if lat ≤ 1 ∧ k = .data ∧ f.dst = some g then r.val else (p.elem e).g.get g := by
  obtain ⟨_, _, _, hlen⟩ := finishPlane_frame n e f k r.cmp (p := p)
  have hfin : (finishPlane n p e f k r.cmp).elem e = { p.elem e with p := predsAfter f k r.cmp (p.elem e).p } :=
    elem_finishPlane n e f k r.cmp he
  unfold firedPlane
  by_cases hlat : lat ≤ 1
  · rw [if_pos hlat, elem_firedNow n f k r scl (hlen.symm ▸ he), hfin]
    by_cases hk : k = .data
    · rw [if_pos hk, get_setG]
      simp only [hlat, hk, true_and]
    · rw [if_neg hk, if_neg fun h => hk h.2.1]
  · rw [if_neg hlat, if_neg fun h => hlat h.1, (firedLater_resulted n slot f k r scl lat iter).2.1, hfin]
end Behind

/-- Settles O35. -/
theorem firingEffect : Obligations.FiringEffect := by
  intro s pl e slot f k r scl lat iter p hp he t n
  have hfired : FiredTo s t pl e (firedPlane n p e slot f k r scl lat iter) := completeFiring_firedTo e slot f k r scl lat iter hp
  obtain ⟨hplane, hothers, hnet, hstate⟩ := hfired
  obtain ⟨hfrest, hfheld, hfpend, _⟩ := finishPlane_frame n e f k r.cmp (p := p)
  obtain ⟨hrest, hheld, hchan, hpreds, hhalted, helems⟩ := firedPlane_resulted n slot f k r scl lat iter he
  have hfin := elem_finishPlane n e f k r.cmp he
  have hrest' := hrest.trans hfrest
  rw [eq_of_rest Plane.outs hfrest] at hchan
  rw [hfheld] at hheld
  refine ⟨_, hplane, fun i => ?_, get_firedPlane n slot f k r scl lat iter he, ?_, fun d hd => ?_, eq_of_rest Plane.mx hrest',
    eq_of_rest Plane.rows hrest', eq_of_rest Plane.reqs hrest', eq_of_rest Plane.ops hrest', eq_of_rest Plane.outs hrest',
    eq_of_rest Plane.knot hrest', eq_of_rest Plane.loads hrest', eq_of_rest Plane.stream hrest', eq_of_rest Plane.agq hrest',
    eq_of_rest Plane.page hrest', hheld, fun c hc hno => ?_, hnet, eq_of_restState State.out hstate, eq_of_restState State.bad hstate,
    eq_of_restState State.soft hstate, eq_of_restState State.tags hstate, eq_of_restState State.free hstate,
    eq_of_restState State.agenda hstate, fun hlat => ?_, fun hlat => ?_, fun i hno => ?_, fun hlat o ho x c hf hc => ?_,
    eq_of_restState State.mem hstate, eq_of_restState State.fmem hstate, eq_of_restState State.cmem hstate,
    eq_of_restState State.ctxs hstate, eq_of_restState State.clusters hstate, eq_of_restState State.dies hstate,
    eq_of_restState State.hub hstate, eq_of_restState State.power hstate, hothers⟩
  · rw [hpreds, hfin]
    exact getLsbD_predsAfter f k r.cmp (p.elem e).p i
  · rw [hhalted, hfin]
  · exact (helems d hd).trans (elem_finishPlane_ne n e f k r.cmp hd)
  · exact (hchan c hno).trans (chan_finishPlane n e f k r.cmp hc)
  · rw [firedPlane, if_pos hlat]
    exact (firedNow_frame n f k r scl).2.1.trans hfpend
  · obtain ⟨_, _, places, hpend⟩ := firedLater_resulted n slot f k r scl lat iter (p := finishPlane n p e f k r.cmp) (e := e)
    rw [firedPlane, if_neg (Nat.not_le.mpr hlat)]
    exact ⟨_, places, hpend.trans (congrArg (· ++ _) hfpend), rfl, rfl, rfl, rfl⟩
  · rw [hchan _ hno]
    exact q_finishPlane n e f k r.cmp i
  · obtain ⟨_, _, _, hchans⟩ := firedNow_frame n f k r scl (p := finishPlane n p e f k r.cmp) (e := e)
    obtain ⟨y, hy, htok, hvis⟩ := enqueueAll_mem (firedTok k r.val scl f.otag) (n + 1) (afterKnot (finishPlane n p e f k r.cmp) e)
      (chanKeys e f.omask) ho ((eq_of_rest Plane.outs hfrest).symm ▸ hf) hc
    rw [firedPlane, if_pos hlat, Plane.chan, hchans]
    exact ⟨y, hy, htok, hvis⟩

end Sys2Proof.Proofs
end

section
/-! Memory requests (R155 to R167), weights (R178 to R180) and matrix firings (R181 to R190). -/

namespace Sys2Proof.Proofs

open Sys2Proof Sys2Proof.Machine Sys2Proof.Claim

/-! ## A firing that only finishes, and then changes its plane -/

section Finishing
variable {s : State} {p : Plane} {f : EFields} {e pl : Nat}

/-- The plane after DEQ and predicates keeps requests, rows, matrix state, pending results and everything else that R37 does not name. -/
theorem finishPlane_rest (n : Nat) (k : Kind) (cmp : Bool) : rest (finishPlane n p e f k cmp) = rest p :=
  (finishPlane_frame n e f k cmp).1
theorem finishPlane_pend (n : Nat) (k : Kind) (cmp : Bool) : (finishPlane n p e f k cmp).pend = p.pend :=
  (finishPlane_frame n e f k cmp).2.2.1
theorem finish_modPlane (k : Kind) (cmp : Bool) (hp : s.plane? pl = some p) (g : Plane → Plane) :
    FiredTo s ((finishFiring s pl e f k cmp).modPlane pl g) pl e (g (finishPlane (s.planeAc pl) p e f k cmp)) :=
  (finishFiring_firedTo e f k cmp hp).trans (FiredTo.modPlane (finishFiring_firedTo e f k cmp hp).plane g)
theorem planeAc_finishFiring (k : Kind) (cmp : Bool) (hp : s.plane? pl = some p) (d : Nat) :
    (finishFiring s pl e f k cmp).planeAc d = s.planeAc d := (finishFiring_firedTo e f k cmp hp).planeAc d
end Finishing

/-! ## Requests -/

theorem mem_putReq (r : Req) (l : List Req) : r ∈ putReq r l ∧ (∀ x ∈ l, x ∈ putReq r l) ∧ (putReq r l).length = l.length + 1 := by
  induction l with
  | nil => exact ⟨List.mem_cons_self, fun _ h => absurd h List.not_mem_nil, rfl⟩
  | cons y l ih =>
    obtain ⟨hr, hl, hlen⟩ := ih
    unfold putReq
    split
    · exact ⟨List.mem_cons_self, fun x hx => List.mem_cons_of_mem _ hx, rfl⟩
    · refine ⟨List.mem_cons_of_mem _ hr, fun x hx => ?_, congrArg (· + 1) hlen⟩
      obtain rfl | hx := List.mem_cons.mp hx
      · exact List.mem_cons_self
      · exact List.mem_cons_of_mem _ (hl x hx)

/-- A reply's place reserved leaves the rest of the plane. -/
theorem rest_reserveReply (p : Plane) (k : Nat) (amo late : Bool) : rest (p.reserveReply k amo late).1 = rest p := by
  unfold Plane.reserveReply
  dsimp only
  split
  · rfl
  · split
    · rfl
    · rfl

/-- The place of a request's reply, if it has one. -/
def replyPlace (p : Plane) (port : Option Nat) (amo late : Bool) : Plane × Nat :=
  match port with
  | some k => p.reserveReply k amo late
  | none => (p, 0)
theorem rest_replyPlace (p : Plane) (port : Option Nat) (amo late : Bool) : rest (replyPlace p port amo late).1 = rest p := by
  cases port with
  | none => rfl
  | some k => exact rest_reserveReply ..

section Request
variable {s : State} {p : Plane} {f : EFields} {op : ReqOp} {val : List (Lanes × Option Token) → Lanes}

/-- The request that a firing makes. -/
def requestOf (s : State) (p : Plane) (f : EFields) (op : ReqOp) (d : Lanes) (n place : Nat) (late : Bool) : Req :=
  ⟨op, op.addrs (opA s p false f).1 (opB s p false f).1, d, reqLsix f, kind0 s p f, curElem s, s.cur.slot, (chanKeys (curElem s) f.omask).head?,
    place, f.otag, late, false, n⟩
/-- The plane with it in the queue. -/
def requested (s : State) (p : Plane) (f : EFields) (op : ReqOp) (d : Lanes) (q : Plane) : Plane :=
  let r := replyPlace q (chanKeys (curElem s) f.omask).head? (op.isAmo && !(kind0 s p f).isNull) (afterKnot q (curElem s))
  { r.1 with reqs := putReq (requestOf s p f op d (curAc s) r.2 (afterKnot q (curElem s))) r.1.reqs }

theorem fireRequest_queues (hp : s.plane? (curPlane s) = some p) (hun : unsealed s p f = true)
    (hok : kind0 s p f = .data → addrsOk p op (op.addrs (opA s p false f).1 (opB s p false f).1) = true) :
    fireRequest f op val s = .next ((finishFiring s (curPlane s) (curElem s) f (kind0 s p f) false).modPlane (curPlane s)
      (requested s p f op (val [opA s p false f, opB s p false f, opC s p false f]))) := by
  have hgo : ¬ ((kind0 s p f).isData && !addrsOk p op (op.addrs (opA s p false f).1 (opB s p false f).1)) = true := by
    rw [Bool.and_eq_true, isData_iff, Bool.not_eq_true']
    exact fun h => absurd ((hok h.1).symm.trans h.2) (by decide)
  have hac := planeAc_finishFiring (f := f) (e := curElem s) (kind0 s p f) false hp (curPlane s)
  unfold fireRequest
  rw [withOperands_unsealed _ hp hun]
  refine (if_neg hgo).trans ?_
  dsimp only
  rw [show kindOf (List.map (fun x => x.2) [opA s p false f, opB s p false f, opC s p false f]) = kind0 s p f from rfl, hac]
  refine congrArg (fun g => Host.Outcome.next ((finishFiring s (curPlane s) (curElem s) f (kind0 s p f) false).modPlane (curPlane s) g))
    (funext fun q => ?_)
  unfold requested requestOf replyPlace
  cases (chanKeys (curElem s) f.omask).head? with
  | none => rfl
  | some k => rfl
theorem fireRequest_bound (hp : s.plane? (curPlane s) = some p) (hun : unsealed s p f = true) (hk : kind0 s p f = .data)
    (hok : addrsOk p op (op.addrs (opA s p false f).1 (opB s p false f).1) = false) :
    fireRequest f op val s = .next (elemTrap s (curPlane s) (curElem s) s.cur.slot 6 0 (f.readMask ||| f.deq)) := by
  have hgo : ((kind0 s p f).isData && !addrsOk p op (op.addrs (opA s p false f).1 (opB s p false f).1)) = true := by
    rw [hk, hok]; rfl
  unfold fireRequest
  rw [withOperands_unsealed _ hp hun]
  exact if_pos hgo
/-- What a request in the queue says, and what its firing leaves. -/
theorem requested_state (hp : s.plane? (curPlane s) = some p) (d : Lanes) :
    let t := (finishFiring s (curPlane s) (curElem s) f (kind0 s p f) false).modPlane (curPlane s) (requested s p f op d)
    ∃ q r, t.plane? (curPlane s) = some q ∧ r ∈ q.reqs ∧ q.reqs.length = p.reqs.length + 1 ∧ r.op = op ∧
      r.addrs = op.addrs (opA s p false f).1 (opB s p false f).1 ∧ r.data = d ∧ r.kind = kind0 s p f ∧ r.elem = curElem s ∧
      r.slot = s.cur.slot ∧ r.otag = f.otag ∧ r.ac = curAc s ∧ r.lsix = reqLsix f ∧ (∀ x, x ∈ p.reqs → x ∈ q.reqs) ∧
      t.mem = s.mem ∧ t.ctxs = s.ctxs ∧ t.hub = s.hub := by
  intro t
  obtain ⟨hplane, _, _, hstate⟩ := finish_modPlane (e := curElem s) (f := f) (kind0 s p f) false hp (requested s p f op d)
  have hrest := finishPlane_rest (p := p) (f := f) (e := curElem s) (s.planeAc (curPlane s)) (kind0 s p f) false
  generalize finishPlane (s.planeAc (curPlane s)) p (curElem s) f (kind0 s p f) false = p1 at *
  have hreqs := eq_of_rest Plane.reqs ((rest_replyPlace p1 (chanKeys (curElem s) f.omask).head? (op.isAmo && !(kind0 s p f).isNull)
    (afterKnot p1 (curElem s))).trans hrest)
  obtain ⟨hmem, hkeep, hlen⟩ := mem_putReq (requestOf s p f op d (curAc s) (replyPlace p1 (chanKeys (curElem s) f.omask).head?
    (op.isAmo && !(kind0 s p f).isNull) (afterKnot p1 (curElem s))).2 (afterKnot p1 (curElem s))) p.reqs
  refine ⟨_, requestOf s p f op d (curAc s) (replyPlace p1 (chanKeys (curElem s) f.omask).head?
    (op.isAmo && !(kind0 s p f).isNull) (afterKnot p1 (curElem s))).2 (afterKnot p1 (curElem s)), hplane, ?_, ?_, rfl, rfl, rfl, rfl, rfl, rfl,
    rfl, rfl, rfl, ?_, eq_of_restState State.mem hstate, eq_of_restState State.ctxs hstate, eq_of_restState State.hub hstate⟩
  all_goals
    unfold requested
    dsimp only
    rw [hreqs]
  · exact hmem
  · exact hlen
  · exact hkeep
end Request

/-- The request instructions, each with its operation and its data (R156). -/
theorem exec_request {s : State} {p : Plane} {f : EFields} {sh : Shape} {sc : Scope} {h : Fin 16} {wide : Bool} {i : Instr} {op : ReqOp}
    {d : Lanes} (hm : (i, op, d) ∈ [(Instr.elemLd f sh, ReqOp.load sh none, 0), (.elemLda f sc, .load .blk (some sc), 0),
      (.elemSt f sh, .store sh none, (opC s p false f).1), (.elemStl f sc, .store .blk (some sc), (opC s p false f).1),
      (.elemCst f sc, .close sc, (opC s p false f).1), (.elemVamo f wide, .vamo wide, (opC s p false f).1),
      (.elemAmo f h, .amo (h.val + 16 * (f.imm.getLsbD 7).toNat), (opB s p false f).1)]) :
    ∃ val : List (Lanes × Option Token) → Lanes, exec i s = fireRequest f op val s ∧
      val [opA s p false f, opB s p false f, opC s p false f] = d := by
  simp only [List.mem_cons, List.not_mem_nil, or_false, Prod.mk.injEq] at hm
  obtain ⟨rfl, rfl, rfl⟩ | ⟨rfl, rfl, rfl⟩ | ⟨rfl, rfl, rfl⟩ | ⟨rfl, rfl, rfl⟩ | ⟨rfl, rfl, rfl⟩ | ⟨rfl, rfl, rfl⟩ | ⟨rfl, rfl, rfl⟩ := hm
  · exact ⟨_, exec_elemLd_eq f sh s, rfl⟩
  · exact ⟨_, exec_elemLda_eq f sc s, rfl⟩
  · exact ⟨_, exec_elemSt_eq f sh s, rfl⟩
  · exact ⟨_, exec_elemStl_eq f sc s, rfl⟩
  · exact ⟨_, exec_elemCst_eq f sc s, rfl⟩
  · exact ⟨_, exec_elemVamo_eq f wide s, rfl⟩
  · refine ⟨operandB, ?_, rfl⟩
    rw [exec_elemAmo_eq, execElemAmo]
    cases f.imm.getLsbD 7 with
    | true => rw [if_pos rfl, Nat.add_comm]; rfl
    | false => rfl

/-- Settles O43. -/
theorem requestFirings : Obligations.RequestFirings := by
  intro s p f sh sc h wide i op d hp hun hm addrs
  obtain ⟨val, hexec, rfl⟩ := exec_request hm
  refine ⟨fun hok => ?_, fun hk hok => hexec.trans (fireRequest_bound hp hun hk hok)⟩
  obtain ⟨q, r, hstate⟩ := requested_state hp (op := op) (f := f) (val [opA s p false f, opB s p false f, opC s p false f])
  have hlsix : reqLsix f = if f.imm.getLsbD 6 then some (f.imm.toNat % 8) else none := by
    rw [reqLsix, bits, Nat.pow_zero, Nat.div_one] <;> rfl
  rw [hlsix] at hstate
  exact ⟨_, q, r, hexec.trans (fireRequest_queues hp hun hok), hstate⟩

/-! ## Weights (R178 to R180) -/

section Weights
variable {s : State} {p : Plane} {f : EFields}

/-- The plane after a firing keeps its matrix state and its page. -/
theorem firedPlane_rest (n slot : Nat) {e : Nat} (k : Kind) (r : Result) (scl : Bool) (lat : Nat) (iter : Bool) (he : e < p.elems.length) :
    rest (firedPlane n p e slot f k r scl lat iter) = rest p :=
  (firedPlane_resulted n slot f k r scl lat iter he).same.trans (finishPlane_rest ..)

theorem mxOf_modMx {q : Plane} {e : Nat} (g : Mx → WIdx → Mx × WIdx) (he : e < q.mx.length) :
    (q.modMx e g).mxOf e = (g (q.mxOf e) (q.elem e).widx).1 := by
  unfold Plane.modMx
  show (q.mx.set e (g (q.mxOf e) (q.elem e).widx).1).getD e mxZero = _
  rw [getD_eq_get_of_lt _ (by rw [List.length_set]; exact he), List.getElem_set_self]
/-- The plane after a firing with its matrix state changed. -/
theorem modMx_fired (g : Word → Mx → WIdx → Mx × WIdx) (hp : s.plane? (curPlane s) = some p) (he : curElem s < p.elems.length)
    (hm : curElem s < p.mx.length) :
    let t := (completeFiring s (curPlane s) (curElem s) s.cur.slot f .data { val := 0 } false 1 false).modPlane (curPlane s)
      (fun p => p.modMx (curElem s) (g p.page.mxcfg))
    ∃ q x, t.plane? (curPlane s) = some q ∧ q.mxOf (curElem s) = (g p.page.mxcfg (p.mxOf (curElem s)) x).1 := by
  intro t
  have hrest := firedPlane_rest (p := p) (f := f) (s.planeAc (curPlane s)) s.cur.slot .data { val := 0 } false 1 false he
  have hfired : FiredTo s _ (curPlane s) (curElem s)
      (firedPlane (s.planeAc (curPlane s)) p (curElem s) s.cur.slot f .data { val := 0 } false 1 false) :=
    completeFiring_firedTo (curElem s) s.cur.slot f .data { val := 0 } false 1 false hp
  generalize firedPlane (s.planeAc (curPlane s)) p (curElem s) s.cur.slot f .data { val := 0 } false 1 false = q at *
  have hmx := eq_of_rest Plane.mx hrest
  have hmod := FiredTo.modPlane (e := curElem s) hfired.plane (fun p => p.modMx (curElem s) (g p.page.mxcfg))
  refine ⟨_, (q.elem (curElem s)).widx, hmod.plane, ?_⟩
  rw [eq_of_rest Plane.page hrest, mxOf_modMx _ (hmx ▸ hm), Plane.mxOf, Plane.mxOf, hmx]

/-- One quarter of 1024 bits set to a value, the others kept. -/
theorem extractLsb'_quarter (x : BitVec 1024) (v : BitVec 256) {part k : Nat} (hp : part < 4) (hk : k < 4) :
    ((x &&& ~~~(BitVec.ofNat 1024 ((2 ^ 256 - 1) * 2 ^ (256 * part)))) ||| (v.setWidth 1024 <<< (256 * part))).extractLsb' (256 * k) 256 =
      if k = part then v else x.extractLsb' (256 * k) 256 := by
  have hmask : ∀ i, i < 1024 → (BitVec.ofNat 1024 ((2 ^ 256 - 1) * 2 ^ (256 * part))).getLsbD i =
      (decide (256 * part ≤ i) && decide (i < 256 * part + 256)) := fun i hi => by
    rw [BitVec.getLsbD_ofNat, decide_eq_true hi, Bool.true_and, Nat.testBit_mul_two_pow, Nat.testBit_two_pow_sub_one]
    by_cases h : 256 * part ≤ i
    · rw [decide_eq_true h, Bool.true_and, Bool.true_and, decide_eq_decide]; omega
    · rw [decide_eq_false h, Bool.false_and, Bool.false_and]
  refine BitVec.eq_of_getLsbD_eq fun i hi => ?_
  have hin : 256 * k + i < 1024 := by omega
  rw [BitVec.getLsbD_extractLsb', decide_eq_true hi, Bool.true_and, BitVec.getLsbD_or, BitVec.getLsbD_and, BitVec.getLsbD_not,
    BitVec.getLsbD_shiftLeft, BitVec.getLsbD_setWidth, hmask _ hin, decide_eq_true hin]
  by_cases hkp : k = part
  · subst hkp
    have hsub : 256 * k + i - 256 * k = i := by omega
    rw [if_pos rfl, hsub, decide_eq_true (by omega : 256 * k ≤ 256 * k + i), decide_eq_true (by omega : 256 * k + i < 256 * k + 256),
      decide_eq_false (by omega : ¬ 256 * k + i < 256 * k), decide_eq_true (by omega : i < 1024)]
    simp
  · rw [if_neg hkp, BitVec.getLsbD_extractLsb', decide_eq_true hi, Bool.true_and]
    obtain hlt | hgt := Nat.lt_or_gt_of_ne hkp
    · rw [decide_eq_false (by omega : ¬ 256 * part ≤ 256 * k + i), decide_eq_true (by omega : 256 * k + i < 256 * part)]
      simp
    · rw [decide_eq_false (by omega : ¬ 256 * k + i < 256 * part + 256), decide_eq_false (by omega : ¬ 256 * k + i < 256 * part),
        BitVec.getLsbD_of_ge v _ (by omega : 256 ≤ 256 * k + i - 256 * part)]
      simp

/-- LDST and LDCB of a sealed data token. -/
theorem fireLoadWeight_sealed {x : Token} (g : Word → Token → Mx → WIdx → Mx × WIdx) (hp : s.plane? (curPlane s) = some p)
    (hx : (opA s p false f).2 = some x) (hn : x.nul = false) (hps : x.psn = false) (hs : x.seal = true) : fireLoadWeight f g s =
    .next ((completeFiring s (curPlane s) (curElem s) s.cur.slot f .data { val := 0 } false 1 false).modPlane (curPlane s)
      (fun p => p.modMx (curElem s) (g p.page.mxcfg x))) := by
  unfold fireLoadWeight
  dsimp only
  rw [show s.plane? s.cur.plane = some p from hp]
  dsimp only
  rw [show (operand s s.cur.plane p s.cur.elem (s.planeAc s.cur.plane) false f.imm f.opa).2 = some x from hx]
  dsimp only
  rw [hn, hps, hs]
  rfl
end Weights

/-- Settles O44. -/
theorem weightFirings : Obligations.WeightFirings := by
  intro s p f x hp he hm e m part
  refine ⟨fun hx hn hps hs hsf => ⟨?_, ?_⟩, fun hun hsf => ?_, fun hun hsf => ?_⟩
  · obtain ⟨q, w, hq, hmx⟩ := modMx_fired (f := f) (fun _ m w => mxLdst m w x) hp he hm
    have hpart : (if m.sf == 4 then 0 else m.sf) = part := by
      by_cases h4 : m.sf = 4
      · rw [if_pos (beq_iff_eq.mpr h4)]; omega
      · rw [if_neg (mt beq_iff_eq.mp h4)]; omega
    have hlt : part < 4 := Nat.mod_lt _ (by decide)
    have hshadow : (q.mxOf e).shadow =
        (m.shadow &&& ~~~(BitVec.ofNat 1024 ((2 ^ 256 - 1) * 2 ^ (256 * part)))) ||| (x.data.setWidth 1024 <<< (256 * part)) := by
      rw [hmx, ← hpart]; rfl
    refine ⟨_, q, (exec_elemLdst_eq f s).trans (fireLoadWeight_sealed _ hp hx hn hps hs), hq, ?_, ?_, fun k hk hne => ?_, ?_, ?_⟩
    · rw [hmx, ← hpart]; rfl
    · rw [hshadow, extractLsb'_quarter _ _ hlt hlt, if_pos rfl]
    · rw [hshadow, extractLsb'_quarter _ _ hlt hk, if_neg hne]
    · rw [hmx]; rfl
    · rw [hmx]; rfl
  · obtain ⟨q, w, hq, hmx⟩ := modMx_fired (f := f) (fun c m w => mxLdcb c m w x) hp he hm
    refine ⟨_, q, (exec_elemLdcb_eq f s).trans (fireLoadWeight_sealed _ hp hx hn hps hs), hq, ?_, ?_, ?_⟩
    all_goals
      rw [hmx, mxLdcb]
      split
      · rfl
      · rfl
  · obtain ⟨q, w, hq, hmx⟩ := modMx_fired (f := f) mxSwap hp he hm
    refine ⟨_, q, ?_, hq, ?_, ?_, ?_, ?_⟩
    · rw [exec_elemSwapw_eq, execElemSwapw, withOperands_unsealed _ hp hun]
      exact if_neg (not_not_intro hsf)
    all_goals rw [hmx]; rfl
  · rw [exec_elemSwapw_eq, execElemSwapw, withOperands_unsealed _ hp hun]
    exact if_pos hsf

/-! ## Matrix firings (R181 to R190) -/

theorem enqueueAll_rest (p : Plane) (t : Token) (vis : Nat) (late : Bool) (ks : List Nat) :
    rest (enqueueAll p t vis late ks) = rest p ∧ (enqueueAll p t vis late ks).pend = p.pend :=
  ⟨(enqueueAll_enqueued t vis late ks p).same, (enqueueAll_enqueued t vis late ks p).pend⟩
theorem reserveAll_rest (p : Plane) (late : Bool) (ks : List Nat) :
    rest (reserveAll p late ks).1 = rest p ∧ (reserveAll p late ks).1.pend = p.pend :=
  ⟨(reserveAll_enqueued late ks p).same, (reserveAll_enqueued late ks p).pend⟩

/-- g puts one effect of element e behind the pending ones, due three ac after n, and changes nothing else that R37 does not name. -/
def addsOne (n e : Nat) (ok : Work → Prop) (g : Plane → Plane) : Prop :=
  ∀ q, rest (g q) = rest q ∧ ∃ w, (g q).pend = q.pend ++ [w] ∧ w.due = n + 3 ∧ w.elem = e ∧ w.done = false ∧ ok w.work
theorem addsOne_addPend (n e slot : Nat) {ok : Work → Prop} {w : Work} (h : ok w) : addsOne n e ok fun q => q.addPend n e slot w :=
  fun _ => ⟨rfl, _, rfl, rfl, rfl, rfl, h⟩

section Adds
variable {s : State} {p : Plane} {f : EFields}

/-- The state of such a firing. -/
theorem finish_adds (f : EFields) (k : Kind) {ok : Work → Prop} {g : Plane → Plane} {i : Instr} (hp : s.plane? (curPlane s) = some p)
    (hg : addsOne (curAc s) (curElem s) ok g)
    (hi : exec i s = .next ((finishFiring s (curPlane s) (curElem s) f k false).modPlane (curPlane s) g)) :
    ∃ t q w, exec i s = .next t ∧ t.plane? (curPlane s) = some q ∧ q.pend = p.pend ++ [w] ∧ w.due = curAc s + 3 ∧ w.elem = curElem s ∧
      w.done = false ∧ ok w.work ∧ q.rows = p.rows ∧ q.mx = p.mx ∧ t.mem = s.mem ∧ t.ctxs = s.ctxs := by
  obtain ⟨hplane, _, _, hstate⟩ := finish_modPlane (e := curElem s) (f := f) k false hp g
  have hrest := finishPlane_rest (p := p) (f := f) (e := curElem s) (s.planeAc (curPlane s)) k false
  have hpend := finishPlane_pend (p := p) (f := f) (e := curElem s) (s.planeAc (curPlane s)) k false
  generalize finishPlane (s.planeAc (curPlane s)) p (curElem s) f k false = p1 at *
  obtain ⟨hsame, w, hw, hdue, helem, hdone, hok⟩ := hg p1
  exact ⟨_, g p1, w, hi, hplane, hw.trans (congrArg (· ++ [w]) hpend), hdue, helem, hdone, hok, eq_of_rest Plane.rows (hsame.trans hrest),
    eq_of_rest Plane.mx (hsame.trans hrest), eq_of_restState State.mem hstate, eq_of_restState State.ctxs hstate⟩

theorem bits_low9 (x : Nat) : bits x 0 9 = x % 512 := by rw [bits, Nat.pow_zero, Nat.div_one] <;> rfl
theorem bits_qtr (x : Nat) : bits x 9 2 = x / 512 % 4 := rfl

/-- An accumulator instruction whose rows are the plane's. -/
theorem fireAcc_adds {second : Bool} {work : Kind → Nat → List (Lanes × Option Token) → Work} {ok : Work → Prop} {i : Instr}
    (hp : s.plane? (curPlane s) = some p) (hun : unsealed s p f = true) (hk : kind0 s p f = .data)
    (hrow : f.imm.toNat % 512 + (opA s p false f).1.toNat % 512 < p.aq) (hsecond : second = true → (opB s p false f).1.toNat % 512 < p.aq)
    (hi : exec i s = fireAcc f second work s)
    (hok : ok (work .data (f.imm.toNat % 512 + (opA s p false f).1.toNat % 512) [opA s p false f, opB s p false f, opC s p false f])) :
    ∃ t q w, exec i s = .next t ∧ t.plane? (curPlane s) = some q ∧ q.pend = p.pend ++ [w] ∧ w.due = curAc s + 3 ∧ w.elem = curElem s ∧
      w.done = false ∧ ok w.work ∧ q.rows = p.rows ∧ q.mx = p.mx ∧ t.mem = s.mem ∧ t.ctxs = s.ctxs := by
  have hgo : ¬ ((kind0 s p f).isData && (decide (p.aq ≤ bits f.imm.toNat 0 9 + bits (opA s p false f).1.toNat 0 9) ||
      (second && decide (p.aq ≤ bits (opB s p false f).1.toNat 0 9)))) = true := by
    simp only [bits_low9, Bool.and_eq_true, Bool.or_eq_true, decide_eq_true_eq, Classical.not_and_iff_not_or_not, not_or]
    exact Or.inr ⟨by omega, by
      by_cases h2 : second = true
      · exact Or.inr (Nat.not_le.mpr (hsecond h2))
      · exact Or.inl h2⟩
  refine finish_adds f .data hp (addsOne_addPend (curAc s) (curElem s) s.cur.slot hok) (hi.trans ?_)
  unfold fireAcc
  rw [withOperands_unsealed _ hp hun]
  refine (if_neg hgo).trans ?_
  rw [← bits_low9, ← bits_low9, show kindOf (toksOf [opA s p false f, opB s p false f, opC s p false f]) = .data from hk]
  rfl

/-- The plane of MMA: the activation goes east, and the sums are pending. -/
def mmaPlane (n e slot : Nat) (f : EFields) (a : Option Token) (kind : Kind) (job : MmaJob) (tor : Bool) (ri : Nat) (p : Plane) : Plane :=
  let late := afterKnot p e
  let p := match a with
    | some x => enqueueAll p (eastTok x f.otag) (n + 1) late (chanKeys e (eastMask f.omask))
    | none => p
  if tor then p.addPend n e slot (.mmaRow kind job ri (bits f.imm.toNat 9 2))
  else
    let (p, places) := reserveAll p late (chanKeys e (southMask f.omask))
    p.addPend n e slot (.mmaSouth kind job f.otag places)
theorem mmaPlane_adds (n e slot : Nat) (f : EFields) (a : Option Token) (kind : Kind) (job : MmaJob) (tor : Bool) (ri : Nat) :
    addsOne n e (fun w => if tor then w = .mmaRow kind job ri (f.imm.toNat / 512 % 4) else ∃ places, w = .mmaSouth kind job f.otag places)
      (mmaPlane n e slot f a kind job tor ri) := by
  intro q
  have heast : ∀ q1, q1 = (match a with
      | some x => enqueueAll q (eastTok x f.otag) (n + 1) (afterKnot q e) (chanKeys e (eastMask f.omask))
      | none => q) → rest q1 = rest q ∧ q1.pend = q.pend := by
    rintro q1 rfl
    cases a with
    | none => exact ⟨rfl, rfl⟩
    | some x => exact enqueueAll_rest ..
  unfold mmaPlane
  dsimp only
  obtain ⟨hrest, hpend⟩ := heast _ rfl
  generalize (match a with
      | some x => enqueueAll q (eastTok x f.otag) (n + 1) (afterKnot q e) (chanKeys e (eastMask f.omask))
      | none => q) = q1 at *
  cases tor with
  | true => exact ⟨hrest, _, congrArg (· ++ _) hpend, rfl, rfl, rfl, rfl⟩
  | false =>
    obtain ⟨hrest', hpend'⟩ := reserveAll_rest q1 (afterKnot q e) (chanKeys e (southMask f.omask))
    exact ⟨hrest'.trans hrest, _, congrArg (· ++ _) (hpend'.trans hpend), rfl, rfl, rfl, _, rfl⟩

/-- The plane of ACCD: its destination and outputs are pending from the firing. -/
def accdPlane (k : Kind) (n e slot : Nat) (f : EFields) (ty : Ty) (ri : Nat) (p : Plane) : Plane :=
  let (p, places) := reserveAll p (afterKnot p e) (chanKeys e f.omask)
  p.addPend n e slot (.accd k ty ri (accQtr f) f.dst f.otag places)
theorem accdPlane_adds (k : Kind) (n e slot : Nat) (f : EFields) (ty : Ty) (ri : Nat) :
    addsOne n e (fun w => ∃ places, w = .accd k ty ri (f.imm.toNat / 512 % 4) f.dst f.otag places)
      (accdPlane k n e slot f ty ri) := by
  intro q
  obtain ⟨hrest, hpend⟩ := reserveAll_rest q (afterKnot q e) (chanKeys e f.omask)
  exact ⟨hrest, _, congrArg (· ++ _) hpend, rfl, rfl, rfl, _, rfl⟩

/-- MMA of a data firing whose weights are active. -/
theorem mma_adds {zs tor : Bool} (hp : s.plane? (curPlane s) = some p) (hun : unsealed s p f = true) (hk : kind0 s p f = .data)
    (haf : (p.mxOf (curElem s)).af = true)
    (hrow : tor = true → f.imm.toNat % 512 + (opC s p false f).1.toNat % 512 < p.aq) :
    exec (.elemMma f zs tor) s = .next ((finishFiring s (curPlane s) (curElem s) f (kindAfter s .data
      (sclOf (opA s p false f).2 != mxBs p.page.mxcfg || (!zs && sclOf (opB s p false f).2)) false) false).modPlane (curPlane s)
      (mmaPlane (curAc s) (curElem s) s.cur.slot f (opA s p false f).2 (kindAfter s .data
        (sclOf (opA s p false f).2 != mxBs p.page.mxcfg || (!zs && sclOf (opB s p false f).2)) false)
        ⟨(opA s p false f).1, if zs then none else some (opB s p false f).1, (p.mxOf (curElem s)).stat, (p.mxOf (curElem s)).cb,
          (p.mxOf (curElem s)).sca⟩ tor (f.imm.toNat % 512 + (opC s p false f).1.toNat % 512))) := by
  have hgo : ¬ ((kind0 s p f).isData && (!(p.mxOf (curElem s)).af ||
      (tor && decide (p.aq ≤ bits f.imm.toNat 0 9 + bits (opC s p false f).1.toNat 0 9)))) = true := by
    simp only [bits_low9, haf, Bool.not_true, Bool.false_or, Bool.and_eq_true, decide_eq_true_eq, not_and, Nat.not_le]
    exact fun _ => hrow
  rw [exec_elemMma_eq, execElemMma, withOperands_unsealed _ hp hun]
  refine (if_neg hgo).trans ?_
  rw [← bits_low9, ← bits_low9, kindAfter, show Kind.data = kindOf (toksOf [opA s p false f, opB s p false f, opC s p false f]) from hk.symm]
  rfl

/-- ACCD of a data firing whose row is the plane's. -/
theorem accd_adds {ty : Ty} (hp : s.plane? (curPlane s) = some p) (hun : unsealed s p f = true) (hk : kind0 s p f = .data)
    (hrow : f.imm.toNat % 512 + (opA s p false f).1.toNat % 512 < p.aq) :
    exec (.elemAccd f ty) s = .next ((finishFiring s (curPlane s) (curElem s) f .data false).modPlane (curPlane s)
      (accdPlane .data (curAc s) (curElem s) s.cur.slot f ty (f.imm.toNat % 512 + (opA s p false f).1.toNat % 512))) := by
  have hgo : ¬ ((kind0 s p f).isData && decide (p.aq ≤ bits f.imm.toNat 0 9 + bits (opA s p false f).1.toNat 0 9)) = true := by
    simp only [bits_low9, Bool.and_eq_true, decide_eq_true_eq, not_and, Nat.not_le]
    exact fun _ => hrow
  rw [exec_elemAccd_eq, execElemAccd, withOperands_unsealed _ hp hun]
  refine (if_neg hgo).trans ?_
  rw [← bits_low9, ← bits_low9, show Kind.data = kindOf (toksOf [opA s p false f, opB s p false f, opC s p false f]) from hk.symm]
  rfl
end Adds

/-- Settles O45. -/
theorem matrixFirings : Obligations.MatrixFirings := by
  intro s p f zs tor ta ty hp he hun hk a b c m imm qtr adds job k
  refine ⟨fun haf htor => ?_, fun haf htor hrow => ?_, fun hrow => ⟨?_, ?_, ?_⟩, fun hrow hsecond => ⟨?_, ?_⟩⟩
  · subst htor
    exact finish_adds f k hp (mmaPlane_adds (curAc s) (curElem s) s.cur.slot f a.2 k job false (imm + c.1.toNat % 512))
      (mma_adds hp hun hk haf fun h => Bool.noConfusion h)
  · subst htor
    exact finish_adds f k hp (mmaPlane_adds (curAc s) (curElem s) s.cur.slot f a.2 k job true (imm + c.1.toNat % 512))
      (mma_adds hp hun hk haf fun _ => hrow)
  · exact fireAcc_adds (ok := fun w => w = .acca (kindAfter s .data (sclOf b.2) false) ta (imm + a.1.toNat % 512) qtr b.1)
      hp hun hk hrow (fun h => Bool.noConfusion h) (exec_elemAcca_eq f ta s) rfl
  · exact finish_adds f .data hp (accdPlane_adds .data (curAc s) (curElem s) s.cur.slot f ty (imm + a.1.toNat % 512)) (accd_adds hp hun hk hrow)
  · refine fireAcc_adds (ok := fun w => w = .accz (imm + a.1.toNat % 512) (if f.opb = .zero then 0xFFFF else b.1.setWidth 16))
      hp hun hk hrow (fun h => Bool.noConfusion h) (exec_elemAccz_eq f s) ?_
    exact congrArg (fun v => Work.accz (imm + a.1.toNat % 512) (if f.opb = .zero then 0xFFFF else v)) (BitVec.ofNat_toNat 16 b.1)
  · exact fireAcc_adds (ok := fun w => w = .accs (imm + a.1.toNat % 512) (b.1.toNat % 512)) hp hun hk hrow (fun _ => hsecond)
      (exec_elemAccs_eq f s) (congrArg (Work.accs (imm + a.1.toNat % 512)) (bits_low9 b.1.toNat))
  · exact fireAcc_adds (ok := fun w => w = .accs (b.1.toNat % 512) (imm + a.1.toNat % 512)) hp hun hk hrow (fun _ => hsecond)
      (exec_elemAccl_eq f s) (congrArg (Work.accs · (imm + a.1.toNat % 512)) (bits_low9 b.1.toNat))

end Sys2Proof.Proofs
end

section
/-! What is performed at a home: loads, stores, vector atomics and architectural handlers (R164 to R166, R293, R296). -/

namespace Sys2Proof.Proofs

open Sys2Proof Sys2Proof.Machine Sys2Proof.Claim

/-! ## The bytes of a sector that a store's mask names (R293) -/

theorem byte_mreadN (n : Nat) : ∀ (m : Memory) (a j : Nat), j < n → mreadN m a n / 256 ^ j % 256 = (mread m (a + j)).toNat := by
  induction n with
  | zero => exact fun _ _ _ hj => absurd hj (Nat.not_lt_zero _)
  | succ n ih =>
    intro m a j hj
    have hlt := (mread m a).isLt
    cases j with
    | zero => exact (by rw [mreadN, Nat.pow_zero, Nat.div_one, Nat.add_mul_mod_self_left, Nat.mod_eq_of_lt hlt] :
        mreadN m a (n + 1) / 256 ^ 0 % 256 = (mread m a).toNat)
    | succ j =>
      rw [mreadN, Nat.pow_succ', ← Nat.div_div_eq_div_mul, Nat.add_mul_div_left _ _ (by decide), Nat.div_eq_of_lt hlt, Nat.zero_add,
        ih m (a + 1) j (Nat.lt_of_succ_lt_succ hj), Nat.add_assoc, Nat.add_comm 1 j]
theorem byte_mergeMask (n : Nat) : ∀ mask new old j, j < n → mergeMask n mask new old / 256 ^ j % 256 =
    if mask.testBit j then new / 256 ^ j % 256 else old / 256 ^ j % 256 := by
  induction n with
  | zero => exact fun _ _ _ _ hj => absurd hj (Nat.not_lt_zero _)
  | succ n ih =>
    intro mask new old j hj
    have hlt : (if mask % 2 = 1 then new % 256 else old % 256) < 256 := by split <;> exact Nat.mod_lt _ (by decide)
    cases j with
    | zero =>
      rw [mergeMask, Nat.pow_zero, Nat.div_one, Nat.add_mul_mod_self_left, Nat.mod_eq_of_lt hlt, Nat.div_one, Nat.div_one,
        Nat.testBit_zero]
      simp only [decide_eq_true_eq]
    | succ j =>
      rw [mergeMask, Nat.pow_succ', ← Nat.div_div_eq_div_mul, Nat.add_mul_div_left _ _ (by decide), Nat.div_eq_of_lt hlt, Nat.zero_add,
        ih _ _ _ j (Nat.lt_of_succ_lt_succ hj), Nat.testBit_succ, Nat.div_div_eq_div_mul, Nat.div_div_eq_div_mul]
/-- Bytes that the mask does not name do not count. -/
theorem mergeMask_congr (n : Nat) : ∀ {mask new new' : Nat} (old : Nat),
    (∀ j, mask.testBit j = true → new / 256 ^ j % 256 = new' / 256 ^ j % 256) → mergeMask n mask new old = mergeMask n mask new' old := by
  induction n with
  | zero => exact fun _ _ => rfl
  | succ n ih =>
    intro mask new new' old h
    have hbyte : mask % 2 = 1 → new % 256 = new' % 256 := fun h2 => by
      have h0 := h 0 (by rw [Nat.testBit_zero, decide_eq_true h2])
      rwa [Nat.pow_zero, Nat.div_one, Nat.div_one] at h0
    have hrest := ih (mask := mask / 2) (new := new / 256) (new' := new' / 256) (old / 256) fun j hj => by
      rw [Nat.div_div_eq_div_mul, Nat.div_div_eq_div_mul, ← Nat.pow_succ']
      exact h (j + 1) (by rw [Nat.testBit_succ]; exact hj)
    rw [mergeMask, mergeMask, hrest]
    by_cases h2 : mask % 2 = 1
    · rw [if_pos h2, if_pos h2, hbyte h2]
    · rw [if_neg h2, if_neg h2]

/-! ## A write of the device changes its sector and no other byte -/

section HomePut
variable {s : State} {o mask data : Nat}

theorem takeBack_frame (s : State) (o : Nat) : (takeBack s o).mem = s.mem ∧ (takeBack s o).bad = s.bad := by
  unfold takeBack
  split
  · exact ⟨rfl, rfl⟩
  · exact ⟨rfl, rfl⟩
theorem touchLine_frame (s : State) (o : Nat) : (touchLine s o).mem = s.mem ∧ (touchLine s o).bad = s.bad := by
  unfold touchLine
  dsimp only
  split
  · exact ⟨rfl, rfl⟩
  · split
    · exact ⟨rfl, rfl⟩
    · exact ⟨rfl, rfl⟩
theorem countHbm_frame (s : State) (vd i pa : Nat) : (countHbm s vd i pa).mem = s.mem ∧ (countHbm s vd i pa).bad = s.bad := by
  unfold countHbm
  split
  · split
    · exact ⟨State.modVd_mem .., State.modVd_bad ..⟩
    · exact ⟨rfl, rfl⟩
  · exact ⟨rfl, rfl⟩
theorem updateCopy_mem (s : State) (c pa mask data kslot : Nat) : (updateCopy s c pa mask data kslot).mem = s.mem := by
  unfold updateCopy
  split
  · rfl
  · exact State.modCluster_mem ..
theorem recode_same (s : State) (o k v : Nat) : recode s o k k v = v := if_pos (Or.inl rfl)

/-- The memory after a write through key slot 0 to a sector that passes its check. -/
theorem homePut_mem (hbad : o ∉ s.bad) : (homePut s o mask data 0).mem =
    mwriteN s.mem o 32 (if mask = fullMask then data else mergeMask 32 mask data (mreadN s.mem o 32)) := by
  obtain ⟨hmem1, hbad1⟩ := takeBack_frame s o
  obtain ⟨hmem2, hbad2⟩ := touchLine_frame (takeBack s o) o
  have hmem : (fireMonitors (touchLine (takeBack s o) o) (paOf (takeBack s o) o)).mem = s.mem := hmem2.trans hmem1
  have hin : ¬ (fireMonitors (touchLine (takeBack s o) o) (paOf (takeBack s o) o)).bad.contains o = true := by
    rw [show (fireMonitors (touchLine (takeBack s o) o) (paOf (takeBack s o) o)).bad = s.bad from hbad2.trans hbad1]
    exact fun h => hbad (List.contains_iff_mem.mp h)
  unfold homePut homeWrite
  generalize fireMonitors (touchLine (takeBack s o) o) (paOf (takeBack s o) o) = t at *
  dsimp only
  by_cases hmask : mask = fullMask
  · rw [if_pos hmask, if_pos hmask, recode_same, hmem]
  · rw [if_neg hmask, if_neg hin, if_neg hmask, sectorAt, recode_same, recode_same, hmem]

/-- Two writes whose masked bytes agree. -/
theorem homePut_congr {data' kslot : Nat} (hmask : mask ≠ fullMask)
    (h : ∀ j, mask.testBit j = true → data / 256 ^ j % 256 = data' / 256 ^ j % 256) :
    homePut s o mask data kslot = homePut s o mask data' kslot := by
  unfold homePut homeWrite
  dsimp only
  rw [if_neg hmask, if_neg hmask, mergeMask_congr 32 _ h]

/-- A store at its home: the bytes that its mask names, and no others. -/
theorem performStore_bytes {a : Access} (src : Agent) (vd : Nat) (hwf : s.mem.wf = true) (ho : localOff s a.sector = some o)
    (hfifo : fifoBank s a.sector = none) (hk : a.kslot = 0) (hbad : o ∉ s.bad) :
    (∀ j, j < 32 → mread (performStore s src vd a).mem (o + j) =
      if a.mask.getLsbD j then a.data.extractLsb' (8 * j) 8 else mread s.mem (o + j)) ∧
    ∀ b, b < o ∨ o + 32 ≤ b → mread (performStore s src vd a).mem b = mread s.mem b := by
  obtain ⟨hcmem, hcbad⟩ := countHbm_frame s vd 10 a.sector
  have hmem : (performStore s src vd a).mem = mwriteN s.mem o 32
      (if a.mask.toNat = fullMask then a.data.toNat else mergeMask 32 a.mask.toNat a.data.toNat (mreadN s.mem o 32)) := by
    have hput := homePut_mem (s := countHbm s vd 10 a.sector) (o := o) (mask := a.mask.toNat) (data := a.data.toNat) (hcbad ▸ hbad)
    rw [hcmem] at hput
    unfold performStore
    simp only [ho, hfifo, hk]
    split
    · rw [updateCopy_mem, hput]
    · exact hput
  rw [hmem]
  refine ⟨fun j hj => ?_, fun b hb => mread_mwriteN_outside _ _ _ _ hwf hb⟩
  rw [mread_mwriteN_inside 32 o _ j hwf hj]
  apply BitVec.eq_of_toNat_eq
  rw [BitVec.toNat_ofNat, apply_ite BitVec.toNat, BitVec.extractLsb'_toNat, Nat.shiftRight_eq_div_pow, Nat.pow_mul]
  by_cases hfull : a.mask.toNat = fullMask
  · have hbit : a.mask.getLsbD j = true := by
      rw [BitVec.getLsbD, hfull, fullMask, Nat.testBit_two_pow_sub_one, decide_eq_true hj]
    rw [if_pos hfull, hbit, if_pos rfl]
  · rw [if_neg hfull, byte_mergeMask 32 _ _ _ j hj, byte_mreadN 32 _ _ j hj, BitVec.getLsbD]
end HomePut

/-! ## Architectural handlers (R165) -/

/-- What a handler writes, cut off to w bits, and its result. -/
def archAgrees (h w m op : Nat) (old : BitVec 128) (operand : Word) : Prop :=
  (applyArch h m op).1.map (· % 2 ^ w) = (handlerNew h old operand).map BitVec.toNat ∧
    BitVec.ofNat 64 (applyArch h m op).2 = handlerResult h old

theorem setWidth_64_128 (a : Word) : (a.setWidth 128).setWidth 64 = a := by simp
theorem toNat_setWidth_128 {w : Nat} (h : w ≤ 128) (a : BitVec w) : (a.setWidth 128).toNat = a.toNat := by
  rw [BitVec.toNat_setWidth, Nat.mod_eq_of_lt (Nat.lt_of_lt_of_le a.isLt (Nat.pow_le_pow_right (by decide) h))]

/-- Handlers on words of 64 bits. -/
theorem applyArch_word {h : Nat} (a op : Word) (hh : h < 16) (h1 : h ≠ 1) (h10 : h ≠ 10) (h11 : h ≠ 11) (h13 : h ≠ 13) (h14 : h ≠ 14) :
    archAgrees h 64 a.toNat op.toNat (a.setWidth 128) op := by
  have hres : BitVec.ofNat 64 a.toNat = handlerResult h (a.setWidth 128) := by
    rw [handlerResult, if_neg (by omega), setWidth_64_128, BitVec.ofNat_toNat, BitVec.setWidth_eq]
  have hput : ∀ (v : Nat) (x : Word), v % 2 ^ 64 = x.toNat →
      (some v).map (· % 2 ^ 64) = (some (x.setWidth 128)).map BitVec.toNat := fun v x hv =>
    congrArg some (hv.trans (toNat_setWidth_128 (by decide) x).symm)
  have hpick : ∀ (v : Nat) (b : Bool), v = (if b then op else a).toNat → v % 2 ^ 64 = (if b then op else a).toNat := fun v b hv =>
    (congrArg (· % 2 ^ 64) hv).trans (Nat.mod_eq_of_lt (BitVec.isLt _))
  have hold : (applyArch h a.toNat op.toNat).2 = a.toNat := by
    unfold applyArch
    split
    all_goals rename_i hcode
    case h_14 => exact absurd rfl h13
    case h_15 => exact absurd rfl h14
    all_goals rfl
  refine ⟨?_, (congrArg (BitVec.ofNat 64) hold).trans hres⟩
  · obtain rfl | rfl | rfl | rfl | rfl | rfl | rfl | rfl | rfl | rfl | rfl :
        h = 0 ∨ h = 2 ∨ h = 3 ∨ h = 4 ∨ h = 5 ∨ h = 6 ∨ h = 7 ∨ h = 8 ∨ h = 9 ∨ h = 12 ∨ h = 15 := by omega
    case inr.inr.inr.inr.inr.inr.inr.inr.inr.inr => rfl
    all_goals refine hput _ _ ?_
    case inr.inr.inr.inr.inr.inr.inr.inr.inl => exact Nat.mod_eq_of_lt op.isLt
    all_goals rw [setWidth_64_128]
    · rw [BitVec.toNat_add, Nat.mod_mod]
    · refine hpick _ _ ?_
      simp only [BitVec.slt, sgn_toNat, apply_ite BitVec.toNat, decide_eq_true_eq]
    · refine hpick _ _ ?_
      simp only [BitVec.slt, sgn_toNat, apply_ite BitVec.toNat, decide_eq_true_eq]
    · refine hpick _ _ ?_
      rw [BitVec.ult, apply_ite BitVec.toNat]; simp only [decide_eq_true_eq]; split <;> omega
    · refine hpick _ _ ?_
      rw [BitVec.ult, apply_ite BitVec.toNat]; simp only [decide_eq_true_eq]; split <;> omega
    · rw [← BitVec.toNat_and, Nat.mod_eq_of_lt (BitVec.isLt _)]
    · rw [← BitVec.toNat_or, Nat.mod_eq_of_lt (BitVec.isLt _)]
    · rw [← BitVec.toNat_xor, Nat.mod_eq_of_lt (BitVec.isLt _)]
    · rw [BitVec.toNat_ofNat]

/-- Handlers on words of 32 bits; op is the operand as a message of that width carries it. -/
theorem applyArch_half {h op : Nat} (a : BitVec 32) (operand : Word) (hh : h = 1 ∨ h = 10 ∨ h = 11)
    (hop : op = if h = 10 then operand.toNat else operand.toNat % 2 ^ 32) :
    archAgrees h 32 a.toNat op (a.setWidth 128) operand := by
  have ha : (a.setWidth 128).setWidth 32 = a := by simp
  have hres : BitVec.ofNat 64 a.toNat = handlerResult h (a.setWidth 128) := by
    rw [handlerResult, if_pos hh, ha, BitVec.ofNat_toNat]
  have hput : ∀ (v : Nat) (x : BitVec 32), v % 2 ^ 32 = x.toNat →
      (some v).map (· % 2 ^ 32) = (some (x.setWidth 128)).map BitVec.toNat := fun v x hv =>
    congrArg some (hv.trans (toNat_setWidth_128 (by decide) x).symm)
  have hlow : (operand.setWidth 32).toNat = operand.toNat % 2 ^ 32 := BitVec.toNat_setWidth ..
  obtain rfl | rfl | rfl := hh
  · refine ⟨hput _ _ ?_, hres⟩
    rw [hop, if_neg (by decide), ha, BitVec.toNat_add, hlow, Nat.mod_mod, Nat.mod_mod]
  · refine ⟨?_, hres⟩
    have hkey : a.toNat = op / 2 ^ 32 ↔ (a.setWidth 128).setWidth 32 = operand.extractLsb' 32 32 := by
      rw [ha, ← BitVec.toNat_inj, BitVec.extractLsb'_toNat, Nat.shiftRight_eq_div_pow, hop, if_pos rfl,
        Nat.mod_eq_of_lt (Nat.div_lt_of_lt_mul (n := 2 ^ 32) operand.isLt)]
    simp only [applyArch, handlerNew]
    by_cases hk : a.toNat = op / 2 ^ 32
    · rw [if_pos hk, if_pos (hkey.mp hk)]
      exact hput _ _ (by rw [Nat.mod_mod, hop, if_pos rfl, hlow])
    · rw [if_neg hk, if_neg (fun h => hk (hkey.mpr h))]
      rfl
  · refine ⟨congrArg some ?_, hres⟩
    rw [BitVec.toNat_ofNat, ha, hlow, hop, if_neg (by decide), Nat.mod_mod]
    exact (Nat.mod_eq_of_lt (Nat.lt_trans (Nat.mod_lt _ (Nat.two_pow_pos 32)) (by decide))).symm

/-- Two words beside each other. -/
theorem toNat_two_words (hi lo : Word) : ((hi ++ lo : BitVec 128)).toNat = lo.toNat + hi.toNat * 2 ^ 64 := by
  rw [BitVec.toNat_append, ← Nat.shiftLeft_add_eq_or_of_lt lo.isLt, Nat.shiftLeft_eq, Nat.add_comm]

/-- Handlers on two words. -/
theorem applyArch_pair {h : Nat} (m : BitVec 128) (op : Word) (hh : h = 13 ∨ h = 14) : archAgrees h 128 m.toNat op.toNat m op := by
  have hres : BitVec.ofNat 64 (m.toNat % 2 ^ 64) = handlerResult h m := by
    rw [handlerResult, if_neg (by omega)]
    exact BitVec.eq_of_toNat_eq (by simp)
  have hput : ∀ (c p : Nat) (hi lo : Word), c = lo.toNat → p = hi.toNat →
      (some (c + p * 2 ^ 64)).map (· % 2 ^ 128) = (some (hi ++ lo : BitVec 128)).map BitVec.toNat := by
    rintro _ _ hi lo rfl rfl
    exact congrArg some ((congrArg (· % 2 ^ 128) (toNat_two_words hi lo).symm).trans (Nat.mod_eq_of_lt (BitVec.isLt _)))
  have hhi : (m.extractLsb' 64 64).toNat = m.toNat / 2 ^ 64 := by
    rw [BitVec.extractLsb'_toNat, Nat.shiftRight_eq_div_pow, Nat.mod_eq_of_lt (Nat.div_lt_of_lt_mul (n := 2 ^ 64) m.isLt)]
  have hlo : (m.setWidth 64).toNat = m.toNat % 2 ^ 64 := BitVec.toNat_setWidth ..
  have hop := op.isLt
  obtain rfl | rfl := hh
  · refine ⟨hput _ _ _ _ ?_ hhi.symm, hres⟩
    rw [BitVec.toNat_sub, hlo]
    omega
  · refine ⟨hput _ _ _ _ ?_ ?_, hres⟩
    · rw [BitVec.toNat_sub, BitVec.toNat_add, hlo, BitVec.toNat_ushiftRight, Nat.shiftRight_eq_div_pow, BitVec.toNat_and,
        show (0xFFFFFFFF#64).toNat = 2 ^ 32 - 1 from rfl, Nat.and_two_pow_sub_one_eq_mod]
      omega
    · rw [BitVec.toNat_add, hhi]
      rfl

/-- Every architectural handler on its target's bytes. -/
theorem applyArch_agrees {h old : Nat} (operand : Word) (hh : h < 16) (hold : old < 2 ^ (8 * handlerBytes h)) :
    archAgrees h (8 * handlerBytes h) old (if h = 1 ∨ h = 11 then operand.toNat % 2 ^ 32 else operand.toNat) (BitVec.ofNat 128 old) operand := by
  by_cases h32 : h = 1 ∨ h = 10 ∨ h = 11
  · rw [handlerBytes, if_pos h32] at hold ⊢
    obtain ⟨a, rfl⟩ : ∃ a : BitVec 32, old = a.toNat := ⟨_, (BitVec.toNat_ofNat .. |>.trans (Nat.mod_eq_of_lt hold)).symm⟩
    rw [BitVec.ofNat_toNat]
    exact applyArch_half a operand h32 (by split <;> split <;> omega)
  · by_cases h128 : h = 13 ∨ h = 14
    · rw [handlerBytes, if_neg h32, if_pos h128] at hold ⊢
      obtain ⟨m, rfl⟩ : ∃ m : BitVec 128, old = m.toNat := ⟨_, (BitVec.toNat_ofNat .. |>.trans (Nat.mod_eq_of_lt hold)).symm⟩
      rw [BitVec.ofNat_toNat, BitVec.setWidth_eq, if_neg (by omega)]
      exact applyArch_pair m operand h128
    · rw [handlerBytes, if_neg h32, if_neg h128] at hold ⊢
      obtain ⟨a, rfl⟩ : ∃ a : Word, old = a.toNat := ⟨_, (BitVec.toNat_ofNat .. |>.trans (Nat.mod_eq_of_lt hold)).symm⟩
      rw [BitVec.ofNat_toNat, if_neg (by omega)]
      exact applyArch_word a operand hh (by omega) (by omega) (by omega) (by omega) (by omega)

/-! ## Settling O53 -/

/-- The bytes of a word shifted to its place in a sector, under the mask of that place. -/
theorem homePut_shifted {s : State} {o off n v w k : Nat} (hn : 0 < n) (hn32 : n < 32) (h : v % 2 ^ (8 * n) = w) :
    homePut s o ((2 ^ n - 1) * 2 ^ off) (v * 2 ^ (8 * off)) k = homePut s o ((2 ^ n - 1) * 2 ^ off) (w * 2 ^ (8 * off)) k := by
  have hne : (2 ^ n - 1) * 2 ^ off ≠ fullMask := by
    intro hfull
    have hbits : ∀ i, i < 32 → off ≤ i ∧ i - off < n := fun i hi => by
      have hbit : ((2 ^ n - 1) * 2 ^ off).testBit i = true := by
        rw [hfull, fullMask, Nat.testBit_two_pow_sub_one, decide_eq_true hi]
      rwa [Nat.testBit_mul_two_pow, Nat.testBit_two_pow_sub_one, Bool.and_eq_true, decide_eq_true_eq, decide_eq_true_eq] at hbit
    have h0 := hbits 0 (by decide)
    have h31 := hbits 31 (by decide)
    omega
  refine homePut_congr hne fun j hj => ?_
  rw [Nat.testBit_mul_two_pow, Nat.testBit_two_pow_sub_one, Bool.and_eq_true, decide_eq_true_eq, decide_eq_true_eq] at hj
  obtain ⟨i, rfl⟩ := Nat.exists_eq_add_of_le hj.1
  have hshift : ∀ x : Nat, x * 2 ^ (8 * off) / 256 ^ (off + i) % 256 = bits x (8 * i) 8 := fun x => by
    rw [Nat.pow_mul, Nat.pow_add, ← Nat.div_div_eq_div_mul, Nat.mul_div_cancel _ (Nat.pow_pos (by decide)), bits, Nat.pow_mul] <;> rfl
  rw [hshift, hshift, ← h, bits_mod_two_pow (by omega)]

/-- An architectural handler applied at its home. -/
theorem applyInvoke_arch {s : State} {x : Packet} {m : Msg} {o : Nat} (hh : m.handler < 16) (hpsn : m.psn = none) (hbar : m.bar = false)
    (hw : m.w32 = decide (m.handler = 1 ∨ m.handler = 11)) (ho : localOff s (m.pa / 32 * 32) = some o) (hbad : o ∉ s.bad) :
    let e := countHbm s m.vd 9 m.pa
    let n := handlerBytes m.handler
    let old := BitVec.ofNat 128 (bits (sectorAt e o m.kslot) (8 * (m.pa % 32)) (8 * n))
    applyInvoke s x m = some (sendResult
        (match handlerNew m.handler old m.operand with
         | some w => homePut (countHbm e m.vd 10 m.pa) o ((2 ^ n - 1) * 2 ^ (m.pa % 32)) (w.toNat * 2 ^ (8 * (m.pa % 32))) m.kslot
         | none => e)
        x m (handlerResult m.handler old) false none false) := by
  intro e n old
  have hnb : s.bad.contains o = false := by rw [Bool.eq_false_iff]; exact fun h => hbad (List.contains_iff_mem.mp h)
  have hop : (if m.w32 then m.operand.toNat % 2 ^ 32 else m.operand.toNat) =
      if m.handler = 1 ∨ m.handler = 11 then m.operand.toNat % 2 ^ 32 else m.operand.toNat := by
    rw [hw]; simp only [decide_eq_true_eq]
  obtain ⟨hnew, hres⟩ := applyArch_agrees m.operand hh (bits_lt_pow (sectorAt e o m.kslot) (8 * (m.pa % 32)) (8 * n))
  have hn : 0 < n ∧ n < 32 := by
    simp only [n, handlerBytes]; split
    · decide
    · split <;> decide
  unfold applyInvoke
  simp only [ho, hpsn, hbar, decide_eq_false (Nat.not_le.mpr hh), Bool.false_and, Bool.false_eq_true, if_false, hnb, hop]
  split
  next h => exact Bool.noConfusion h
  next =>
    change (applyArch m.handler (bits (sectorAt e o m.kslot) (8 * (m.pa % 32)) (8 * n)) _).1.map _ = _ at hnew
    refine congrArg some ((congrArg (sendResult _ x m · false none false) hres).trans (congrArg (sendResult · x m _ false none false) ?_))
    revert hnew
    generalize (applyArch m.handler (bits (sectorAt e o m.kslot) (8 * (m.pa % 32)) (8 * n)) _).1 = w
    generalize handlerNew m.handler old m.operand = w'
    intro hnew
    cases w with
    | none => cases w' with
      | none => rfl
      | some v' => exact absurd hnew nofun
    | some v => cases w' with
      | none => exact absurd hnew nofun
      | some v' => exact homePut_shifted hn.1 hn.2 (Option.some.inj hnew)

/-- Settles O53. -/
theorem homeOperations : Obligations.HomeOperations := by
  intro s s1 k sec pl id kslot o x acq unc ue wide v a m d ⟨harr, hmay⟩
  refine ⟨fun hbody hload => ?_, fun hbody hfull => ⟨?_, fun hwf ho hfifo hk hbad => ?_⟩, fun hbody ho => ⟨fun hbad => ?_, fun hbad => ?_⟩,
    fun hbody hh hpsn hbar hw ho hbad => ?_⟩
  · intro t
    rw [exec_homeLoad_eq, execHomeLoad]
    simp only [harr, hbody, hmay, Bool.not_true, Bool.false_eq_true, if_false]
    rw [show loadSector (s.dropPacket k) (.plane pl) x.vd sec kslot (if unc then cpUncached else 0) = (s1, v, ue) from hload]
    cases acq with
    | none => rfl
    | some sc => rfl
  · rw [exec_homeWrite_eq, execHomeWrite]
    simp only [harr, hbody]
    exact if_pos ⟨hmay, hfull⟩
  · exact performStore_bytes (s := d) x.src x.vd hwf ho hfifo hk hbad
  · rw [exec_vamoApply_eq, execVamoApply]
    simp only [harr, hbody, hmay, if_true]
    rw [applyVamo, show localOff (s.dropPacket k) sec = some o from ho]
    exact congrArg _ (if_pos (List.contains_iff_mem.mpr hbad))
  · generalize hfmt : (if wide then fmtF32 else fmtBF16) = f
    have hf : 0 < f.w := by rw [← hfmt]; split <;> decide
    refine ⟨map2 f.w (fun a b => fadd f .rne 0 a b) (BitVec.ofNat 256 (sectorAt d o kslot)) v, ?_, fun i hi => ?_⟩
    · rw [exec_vamoApply_eq, execVamoApply]
      simp only [harr, hbody, hmay, if_true]
      rw [applyVamo, show localOff (s.dropPacket k) sec = some o from ho]
      rw [← hfmt]
      exact congrArg _ (if_neg (fun h => hbad (List.contains_iff_mem.mp h)))
    · have hj := succ_mul_le_of_lt hi
      have hin : f.w * i + f.w ≤ 256 := by rw [← Nat.mul_succ, Nat.mul_comm]; exact hj
      have hmap := valAt_map2 hf hj (fun a b => fadd f .rne 0 a b) (BitVec.ofNat 256 (sectorAt d o kslot)) v
      rwa [BitVec.toNat_ofNat, valAt, valAt, valAt, bits_mod_two_pow hin] at hmap
  · rw [exec_handlerApply_eq, execHandlerApply]
    simp only [harr, hbody, hmay, if_true]
    have h := applyInvoke_arch (s := d) (x := x) hh hpsn hbar hw ho hbad
    rw [show applyInvoke (s.dropPacket k) x m = _ from h] <;> rfl
end Sys2Proof.Proofs
end

section
/-! Hypervisor commands on partitions, virtual devices, contexts, banks, tiles and frames (R441 to R443, R458, R468, R477, R478). -/

namespace Sys2Proof.Proofs

open Sys2Proof Sys2Proof.Machine Sys2Proof.Claim

/-! ## Tables -/

/-- A table kept where its numbers pass. -/
theorem tfind_filter {α : Type} (p : Nat → Bool) (t : Tab α) (k : Nat) : tfind (t.filter (fun e => p e.1)) k = if p k then tfind t k else none := by
  induction t with
  | nil => exact (ite_self _).symm
  | cons x r ih =>
    obtain ⟨j, v⟩ := x
    rw [List.filter_cons]
    by_cases hj : j = k
    · subst hj
      by_cases hp : p j = true
      · rw [if_pos hp, if_pos hp, tfind, tfind, if_pos rfl, if_pos rfl]
      · rw [if_neg hp, ih, if_neg hp, if_neg hp]
    · have hr : tfind ((j, v) :: r) k = tfind r k := by rw [tfind, if_neg hj]
      rw [hr]
      by_cases hp : p j = true
      · rw [if_pos hp, tfind, if_neg hj, ih]
      · rw [if_neg hp, ih]
theorem tfind_tdel {α : Type} (t : Tab α) (k : Nat) : tfind (tdel t k) k = none := by
  rw [tdel, tfind_filter (· != k), bne_self_eq_false, if_neg Bool.false_ne_true]
/-- A byte that no entry lists reads as an unlisted one. -/
theorem mread_of_not_listed (m : Memory) {a : Nat} (h : ∀ e ∈ m, e.1 ≠ a) : mread m a = unlisted := by
  induction m with
  | nil => rfl
  | cons x r ih =>
    obtain ⟨b, v⟩ := x
    rw [mread, if_neg (h (b, v) List.mem_cons_self)]
    split
    · rfl
    · exact ih fun e he => h e (List.mem_cons_of_mem _ he)

/-! ## A command that firmware takes up (R442) -/

theorem not_not_eq_true {b : Bool} (h : b = true) : ¬ (!b) = true := by rw [h]; exact Bool.false_ne_true

section Commands
variable {s : State} {pa code : Nat} {c : Cmd} {k : State → Cmd → State × CmdEnd} {r : State × CmdEnd}

theorem endCmd_none (s : State) (pa n : Nat) : endCmd s pa n none = cmdDone s pa n := rfl
theorem endCmd_some (s : State) (pa n v : Nat) : endCmd s pa n (some v) = cmdEnds pa (s, .res n v) := rfl
/-- A command whose record firmware reads runs, and ends as its code says. -/
theorem runCmd_reads (h : cmdReads s pa c) (hcode : c.code = code) (hk : k s c = r) : runCmd code pa s k = .next (cmdEnds pa r) := by
  obtain ⟨hup, haddr, hturn, hclean, l, hread, rfl⟩ := h
  have ht : cmdTurn s pa = true := by
    obtain hcmd | ⟨hcmd, hcmds | hcmds⟩ := hturn
    · rw [cmdTurn, hcmd, beq_self_eq_true, Bool.true_or]
    · rw [cmdTurn, hcmd, hcmds]; rfl
    · rw [cmdTurn, hcmd, hcmds, beq_self_eq_true, Bool.or_true]; rfl
  unfold runCmd
  rw [hup, haddr, ht, hread]
  simp only [hcode, hclean, hk, Bool.not_true, Bool.false_eq_true, if_false, ne_eq, not_true_eq_false]
  obtain ⟨t, e⟩ := r
  cases e with
  | status n => rfl
  | res n v => rfl
  | more => rfl
theorem runCmd_done {n : Nat} {u : State} (h : cmdReads s pa c) (hcode : c.code = code) (hk : k s c = (u, .status n)) :
    runCmd code pa s k = .next (cmdDone u pa n) := runCmd_reads h hcode hk
end Commands

/-! ## Partitions -/

theorem countMac_frame (s : State) (p : Plane) : (countMac s p).planes = s.planes ∧ (countMac s p).ctxs = s.ctxs :=
  ⟨State.modVd_planes .., State.modVd_ctxs ..⟩
theorem countDropped_frame (s : State) (p : Plane) : (countDropped s p).planes = s.planes ∧ (countDropped s p).ctxs = s.ctxs := by
  constructor
  · refine foldl_frame (g := State.planes) (fun s w => ?_) _ s
    split
    · exact (countMac_frame s p).1
    · rfl
  · refine foldl_frame (g := State.ctxs) (fun s w => ?_) _ s
    split
    · exact (countMac_frame s p).2
    · rfl
theorem takeBackAll_frame (s : State) (hit : Nat → Bool) :
    (takeBackAll s hit).planes = s.planes ∧ (takeBackAll s hit).ctxs = s.ctxs ∧ (takeBackAll s hit).mem = s.mem := by
  have htake : ∀ (s : State) o, (takeBack s o).planes = s.planes ∧ (takeBack s o).ctxs = s.ctxs := fun s o => by
    unfold takeBack
    split
    · exact ⟨rfl, rfl⟩
    · exact ⟨rfl, rfl⟩
  exact ⟨foldl_frame (g := State.planes) (fun s o => (htake s _).1) _ s, foldl_frame (g := State.ctxs) (fun s o => (htake s _).2) _ s,
    foldl_frame (g := State.mem) (fun s o => (takeBack_frame s _).1) _ s⟩

/-- A partition reset keeps the planes of other tiles, and clears the contexts of the partition's clusters. -/
theorem partitionReset_frame (s : State) (p : Nat) :
    (partitionReset s p).planes = s.planes.filter (fun e => !granuleIn (partMask s p) (tileGranule (planeTile e.1))) ∧
    (partitionReset s p).ctxs = tmap (fun cid c => if granuleIn (partMask s p) (clusterGranule (ctxCluster cid)) then c.cleared else c) s.ctxs := by
  have hcount : ∀ (s : State) l, (countAll s l).planes = s.planes ∧ (countAll s l).ctxs = s.ctxs := fun s l =>
    ⟨foldl_frame (f := fun s (e : Nat × Plane) => countDropped s e.2) (g := State.planes) (fun s e => (countDropped_frame s e.2).1) l s,
      foldl_frame (f := fun s (e : Nat × Plane) => countDropped s e.2) (g := State.ctxs) (fun s e => (countDropped_frame s e.2).2) l s⟩
  unfold partitionReset
  dsimp only
  constructor
  · rw [(takeBackAll_frame _ _).1]
    exact congrArg (List.filter _) (hcount _ _).1
  · rw [(takeBackAll_frame _ _).2.1]
    exact congrArg (tmap _) (hcount _ _).2
theorem ctx_partitionReset (s : State) (p cid : Nat) : (partitionReset s p).ctx cid =
    if granuleIn (partMask s p) (clusterGranule (ctxCluster cid)) then ((tfind s.ctxs cid).map Ctx.cleared).getD (ctxInit cid)
    else s.ctx cid := by
  rw [State.ctx, (partitionReset_frame s p).2, tget, tfind_tmap]
  split
  · rfl
  · rw [State.ctx, tget]; cases tfind s.ctxs cid <;> rfl
theorem plane?_partitionReset (s : State) (p pl : Nat) : (partitionReset s p).plane? pl =
    if granuleIn (partMask s p) (tileGranule (planeTile pl)) then none else s.plane? pl := by
  rw [State.plane?, (partitionReset_frame s p).1, tfind_filter (fun k => !granuleIn (partMask s p) (tileGranule (planeTile k)))]
  cases granuleIn (partMask s p) (tileGranule (planeTile pl)) <;> rfl

/-- A partition's granules cleared. -/
def clearedAll (s : State) (m : BitVec 16) : State := (List.range 16).foldl (fun s g => if m.getLsbD g then clearGranule s g else s) s
/-- The state that PDESTROY leaves. -/
def destroyed (s : State) (p : Nat) : State :=
  let m := partMask s p
  let s := clearedAll s m
  { s with
    planes := s.planes.filter (fun e => !granuleIn m (tileGranule (planeTile e.1)))
    power := s.power.filter (fun e => !granuleIn m (tileGranule e.1))
    hub := { s.hub with parts := tdel s.hub.parts p, handlers := s.hub.handlers.filter (fun e => e.1 / 16 != p) } }
/-- Clearing a granule lists no further byte, and none of the granule's. -/
theorem mem_clearGranule {s : State} {g : Nat} {e : Nat × Byte} (h : e ∈ (clearGranule s g).mem) :
    e ∈ s.mem ∧ ¬ (g * granBytes ≤ e.1 ∧ e.1 < g * granBytes + granBytes) := by
  unfold clearGranule at h
  dsimp only at h
  rw [(takeBackAll_frame _ _).2.2, List.mem_filter, Bool.not_eq_true', Bool.or_eq_false_iff, decide_eq_false_iff_not] at h
  exact ⟨h.1, h.2.1⟩
theorem mem_clearAll {m : BitVec 16} (l : List Nat) : ∀ {s : State} {e : Nat × Byte},
    e ∈ (l.foldl (fun s g => if m.getLsbD g then clearGranule s g else s) s).mem →
    e ∈ s.mem ∧ ∀ g ∈ l, m.getLsbD g = true → ¬ (g * granBytes ≤ e.1 ∧ e.1 < g * granBytes + granBytes) := by
  induction l with
  | nil => exact fun h => ⟨h, fun _ hg => absurd hg List.not_mem_nil⟩
  | cons g l ih =>
    intro s e h
    rw [List.foldl_cons] at h
    obtain ⟨hs, hl⟩ := ih h
    by_cases hg : m.getLsbD g = true
    · rw [if_pos hg] at hs
      obtain ⟨hmem, hout⟩ := mem_clearGranule hs
      refine ⟨hmem, fun j hj hm => ?_⟩
      obtain rfl | hj := List.mem_cons.mp hj
      · exact hout
      · exact hl j hj hm
    · rw [if_neg hg] at hs
      refine ⟨hs, fun j hj hm => ?_⟩
      obtain rfl | hj := List.mem_cons.mp hj
      · exact absurd hm hg
      · exact hl j hj hm
theorem mread_destroyed {s : State} {p g a : Nat} (hg : g < 16) (hm : (partMask s p).getLsbD g = true) (hlo : g * granBytes ≤ a)
    (hhi : a < (g + 1) * granBytes) : mread (destroyed s p).mem a = 0 := by
  refine mread_of_not_listed _ fun e he hea => ?_
  have hin : e ∈ (clearedAll s (partMask s p)).mem := he
  obtain ⟨-, hout⟩ := mem_clearAll _ hin
  exact hout g (List.mem_range.mpr hg) hm ⟨hea ▸ hlo, hea ▸ Nat.succ_mul g granBytes ▸ hhi⟩
theorem powerOf_destroyed {s : State} {p tile : Nat} (h : granuleIn (partMask s p) (tileGranule tile) = true) :
    (destroyed s p).powerOf tile = .gated := by
  have hfind : tfind (destroyed s p).power tile = none := by
    refine (tfind_filter (fun k => !granuleIn (partMask s p) (tileGranule k)) _ tile).trans ?_
    rw [h]; rfl
  rw [State.powerOf, tget, hfind]; rfl
theorem partExists_destroyed (s : State) (p : Nat) : partExists (destroyed s p) p = false := by
  rw [partExists, show (destroyed s p).hub.parts = tdel (clearedAll s (partMask s p)).hub.parts p from rfl, tfind_tdel]; rfl

/-! ## Virtual devices -/

/-- The state in which VDDESTROY has stopped everything that may stop. -/
def stoppedVd (s : State) (v : Nat) : State :=
  abortStrays ((ctxsOf s v).foldl (fun s c => if mayStop (s.ctx c) then killCtx s c else s) s) v
/-- The state that VDDESTROY leaves once nothing of the virtual device is left. -/
def erasedVd (s : State) (v : Nat) : State :=
  let us := confUnits s v
  let s := setLocks (zeroUnits s us) us none
  let banks := s.clusters.flatMap (fun e => (List.range 16).filterMap (fun b =>
    match e.2.banks[b]? with | some x => if x.owner = some v then some (e.1, b) else none | none => none))
  let s := banks.foldl (fun s x =>
    (setBankMode s x.1 x.2 .cache).modCluster x.1 (fun y => { y with banks := y.banks.modify x.2 (fun z => { z with owner := none }) })) s
  { s with
    ctxs := tmap (fun _ x => if x.vd = some v then { x with vd := none } else x) s.ctxs
    clusters := tmap (fun _ x => { x with wbs := x.wbs.filter (fun w => w.vd != v) }) s.clusters
    dies := tmap (fun _ d => { d with pq := d.pq.filter (fun e => e.vd != v) }) s.dies
    hub := { s.hub with
      vds := tdel s.hub.vds v, tlb := s.hub.tlb.filter (fun t => t.vd != v), tlbGone := s.hub.tlbGone.filter (fun t => t.vd != v)
      slots := tmap (fun _ x => if x.vd = v ∧ (x.kind = .vdkey ∨ x.kind = .evict) then {} else x) s.hub.slots } }
/-- How VDDESTROY ends in a state where everything that may stop has stopped. -/
def endVd (s : State) (v : Nat) : State × CmdEnd :=
  if (ctxsOf s v).any (fun c => (s.ctx c).run == .running) || s.planes.any (fun e => e.2.vd == v) then (s, .more)
  else (erasedVd s v, .status cDone)
theorem execVddestroy_endVd (pa : Nat) (s : State) : execVddestroy pa s = runCmd 5 pa s fun s c =>
    if 256 ≤ c.a1 ∨ c.a2 ≠ 0 ∨ c.a3 ≠ 0 then (s, .status cBadrec)
    else if !partExists s ((16 * bits c.a1 0 4 + bits c.a1 4 4) / 16) || (s.vd? (16 * bits c.a1 0 4 + bits c.a1 4 4)).isNone then
      (s, .status cNotfound)
    else endVd (stoppedVd s (16 * bits c.a1 0 4 + bits c.a1 4 4)) (16 * bits c.a1 0 4 + bits c.a1 4 4) := by
  unfold execVddestroy
  refine congrArg (runCmd 5 pa s) (funext fun s => funext fun c => ?_)
  generalize 16 * bits c.a1 0 4 + bits c.a1 4 4 = v
  dsimp only
  refine ite_eq_of_iff Iff.rfl rfl (ite_eq_of_iff Iff.rfl rfl ?_)
  unfold endVd stoppedVd
  generalize abortStrays _ v = t
  refine ite_eq_of_iff Iff.rfl rfl ?_
  rfl
/-- Nothing names the virtual device any more. -/
theorem erasedVd_gone (s : State) (v : Nat) : (erasedVd s v).vd? v = none ∧ (∀ cid, ((erasedVd s v).ctx cid).vd ≠ some v) ∧
    (∀ e ∈ (erasedVd s v).hub.tlb, e.vd ≠ v) ∧ ∀ e ∈ (erasedVd s v).hub.slots, e.2.vd = v → e.2.kind ≠ .vdkey ∧ e.2.kind ≠ .evict := by
  unfold erasedVd
  dsimp only
  generalize (List.foldl _ _ _ : State) = t
  refine ⟨tfind_tdel _ _, fun cid => ?_, fun e he => ?_, fun e he => ?_⟩
  · rw [State.ctx, tget, tfind_tmap]
    cases tfind t.ctxs cid with
    | none => exact nofun
    | some x =>
      by_cases hx : x.vd = some v
      · exact fun h => absurd h (by rw [Option.map_some, if_pos hx]; exact nofun)
      · rwa [Option.map_some, if_neg hx]
  · have h := (List.mem_filter.mp he).2
    exact bne_iff_ne.mp h
  · obtain ⟨⟨k, x⟩, -, rfl⟩ := List.mem_map.mp he
    dsimp only
    split
    · exact fun _ => ⟨nofun, nofun⟩
    next h => exact fun hv => not_or.mp fun hk => h ⟨hv, hk⟩

/-- How TPOWER of a tile that may be powered ends: on tells the direction. -/
def powered (s : State) (pa t : Nat) (on : Bool) : State × CmdEnd :=
  if !on && !(tilePlanes s t).isEmpty then (s, .status cBusy)
  else match s.powerOf t, on with
    | .gated, true => (s.setPower t (.up pa), .more)
    | .gated, false => (s, .status cDone)
    | .on, true | .clockGated, true => (wakeTile s t, .status cDone)
    | .on, false | .clockGated, false => (s.setPower t (.down pa), .more)
    | _, _ => (s, .more)

/-! ## Settling O56 -/

/-- Settles O56. -/
theorem partitionCommands : Obligations.PartitionCommands := by
  intro s pa c l low part cl v t rec_ m only goes
  refine ⟨fun hr hcode hpos hlt honly => ⟨fun hfree hlow16 hlow hbelow => ?_, fun hused => ?_⟩, fun hr hcode hlt honly => ⟨fun hp => ?_, fun hp => ?_⟩,
    fun hp => ?_, ⟨fun cid hin => ?_, fun pl hin => ?_, fun cid hin => ?_, fun pl hin => ?_⟩,
    fun hr hcode hlt honly hp => ⟨fun hvds => ⟨destroyed s c.a1, ?_, partExists_destroyed s c.a1, fun g hg hm a hlo hhi => mread_destroyed hg hm hlo hhi,
      fun tile ht => powerOf_destroyed ht⟩, fun hvds => ?_⟩, ?_, ?_, ?_, ?_, ?_, ⟨fun hup hhot => ?_, fun hdown => ?_⟩, ?_⟩
  · refine (exec_pcreate_eq pa s).trans (runCmd_done hr hcode ?_)
    have hany : ¬ s.hub.parts.any (fun e => e.2 &&& m != 0) = true := by
      rw [List.any_eq_true]; rintro ⟨e, he, hne⟩; exact bne_iff_ne.mp hne (hfree e he)
    refine (if_neg (by omega)).trans ((if_neg hany).trans ?_)
    rw [find?_range_lowest hlow16 hlow hbelow]
    rfl
  · refine (exec_pcreate_eq pa s).trans (runCmd_done hr hcode ?_)
    have hany : s.hub.parts.any (fun e => e.2 &&& m != 0) = true := by
      obtain ⟨e, he, hne⟩ := hused
      exact List.any_eq_true.mpr ⟨e, he, bne_iff_ne.mpr hne⟩
    exact (if_neg (by omega)).trans (if_pos hany)
  · refine (exec_preset_eq pa s).trans (runCmd_done hr hcode ?_)
    exact (if_neg (by omega)).trans (if_neg (not_not_eq_true hp))
  · refine (exec_preset_eq pa s).trans (runCmd_done hr hcode ?_)
    exact (if_neg (by omega)).trans (if_pos (Bool.not_eq_true' _ ▸ hp))
  · rw [exec_partitionReset_eq, execPartitionReset, if_pos hp]
  · rw [ctx_partitionReset, if_pos hin]
    cases tfind s.ctxs cid <;> exact ⟨rfl, rfl, rfl⟩
  · rw [plane?_partitionReset, if_pos hin]
  · rw [ctx_partitionReset, if_neg hin]
  · rw [plane?_partitionReset, if_neg hin]
  · refine (exec_pdestroy_eq pa s).trans (runCmd_done hr hcode ?_)
    have hnone : ¬ (!(vdsOf s c.a1).isEmpty) = true := by rw [hvds]; exact Bool.false_ne_true
    exact (if_neg (by omega)).trans ((if_neg (not_not_eq_true hp)).trans (if_neg hnone))
  · refine (exec_pdestroy_eq pa s).trans (runCmd_done hr hcode ?_)
    have hsome : (!(vdsOf s c.a1).isEmpty) = true := by rwa [Bool.not_eq_true', List.isEmpty_eq_false_iff]
    exact (if_neg (by omega)).trans ((if_neg (not_not_eq_true hp)).trans (if_pos hsome))
  · intro k hr hcode hlt h3 h2 hp hnone hread hdesc
    refine (exec_vdcreate_eq pa s).trans (runCmd_done hr hcode ?_)
    have hfree : ¬ (s.vd? k).isSome = true := by rw [hnone]; exact Bool.false_ne_true
    refine (if_neg (by omega)).trans ((if_neg (not_not_eq_true hp)).trans ((if_neg hfree).trans ((if_neg (not_not_intro h2)).trans ?_)))
    rw [hread]
    exact if_pos hdesc
  · intro k t left hr hcode hlt honly hp hsome
    have hfound : ¬ (!partExists s (k / 16) || (s.vd? k).isNone) = true := by
      rw [hp, Bool.not_true, Bool.false_or, Option.isNone_iff_eq_none]; exact hsome
    have hrun : ∀ r, endVd (stoppedVd s k) k = r → exec (.vddestroy pa) s = .next (cmdEnds pa r) := fun r hend => by
      refine (exec_vddestroy_eq pa s).trans ((execVddestroy_endVd pa s).trans (runCmd_reads hr hcode ?_))
      exact (if_neg (by omega)).trans ((if_neg hfound).trans hend)
    exact ⟨fun hleft => hrun _ (if_pos hleft), fun hleft => ⟨erasedVd t k, hrun _ (if_neg (Bool.not_eq_true _ ▸ hleft)), erasedVd_gone t k⟩⟩
  · intro ids hr hcode hlt honly hv hstopped
    have hidle : ¬ ids.any (fun i => (s.ctx i).run != .stopped) = true := by
      rw [List.any_eq_true]; rintro ⟨i, hi, hne⟩; exact bne_iff_ne.mp hne (hstopped i hi)
    refine ⟨fun hbit => (exec_ctxassign_eq pa s).trans (runCmd_done hr hcode ((if_neg (by omega)).trans ?_)),
      fun hbit => (exec_ctxassign_eq pa s).trans (runCmd_done hr hcode ((if_neg (by omega)).trans ?_))⟩
    · rw [hv]
      exact (if_neg hidle).trans (if_neg (Bool.not_eq_true _ ▸ hbit))
    · rw [hv]
      exact (if_neg hidle).trans (if_pos hbit)
  · intro ids hcl hr hcode hlt honly hv hfree own
    subst hcl
    refine (exec_bankassign_eq pa s).trans (runCmd_done hr hcode ((if_neg (by omega)).trans ?_))
    rw [hv]
    have hret : ¬ ids.any (fun b => s.hub.retiredBanks.contains (16 * bits c.a1 0 6 + b)) = true := by
      rw [List.any_eq_true]; rintro ⟨b, hb, h⟩; exact absurd h (Bool.not_eq_true _ ▸ (hfree b hb).1)
    have hfed : ¬ ids.any (fun b => stagesIn s (bits c.a1 0 6) b || feedsAgen s (bits c.a1 0 6) b) = true := by
      rw [List.any_eq_true]; rintro ⟨b, hb, h⟩
      obtain ⟨-, hst, hag, -⟩ := hfree b hb
      rw [hst, hag] at h; exact Bool.false_ne_true h
    have huse : ¬ ids.any (bankInUse s (bits c.a1 0 6)) = true := by
      rw [List.any_eq_true]; rintro ⟨b, hb, h⟩; exact absurd h (Bool.not_eq_true _ ▸ (hfree b hb).2.2.2)
    exact (if_neg hret).trans ((if_neg hfed).trans (if_neg huse))
  · intro hr hcode hlt honly htile hpart hret hcmd
    have hthere : ¬ ((partOf s (tileGranule t)).isNone || s.hub.retiredTiles.contains t) = true := by
      rw [Bool.or_eq_true, Option.isNone_iff_eq_none, List.contains_iff_mem]; exact not_or.mpr ⟨hpart, hret⟩
    have hrun : ∀ on r, bits c.a1 20 2 = (if on then 0 else 2) → powered s pa t on = r →
        exec (.tpower pa) s = .next (cmdEnds pa r) := fun on r hmode hend => by
      have hdir : (bits c.a1 20 2 == 0) = on := by rw [hmode]; cases on <;> rfl
      have hmodes : ¬ (bits c.a1 20 2 ≠ 0 ∧ bits c.a1 20 2 ≠ 2) := by rw [hmode]; cases on <;> decide
      rw [← hdir] at hend
      refine (exec_tpower_eq pa s).trans (runCmd_reads hr hcode ((if_neg (by omega)).trans ?_))
      rw [htile]
      refine (if_neg hthere).trans ((if_neg hmodes).trans ((if_neg ?_).trans hend))
      rw [hcmd]
      exact nofun
    refine ⟨fun h0 hoff => hrun true _ h0 ?_, fun h0 hon => hrun true (wakeTile s t, .status 1) h0 ?_,
      fun h2 hpl => hrun false (s, .status 2) h2 ?_, fun h2 hpl hoff => hrun false (s, .status 1) h2 ?_,
      fun h2 hpl hon => hrun false _ h2 ?_⟩
    · unfold powered; rw [hoff]; rfl
    · obtain hon | hon := hon
      · unfold powered; rw [hon]; rfl
      · unfold powered; rw [hon]; rfl
    · have hsome : (!false && !(tilePlanes s t).isEmpty) = true := by
        rwa [Bool.not_false, Bool.true_and, Bool.not_eq_true', List.isEmpty_eq_false_iff]
      exact if_pos hsome
    · unfold powered; rw [hpl, hoff]; rfl
    · obtain hon | hon := hon
      · unfold powered; rw [hpl, hon]; rfl
      · unfold powered; rw [hpl, hon]; rfl
  · rw [exec_tpowerDone_eq, execTpowerDone, hup]
    have hcool : coolDown s = s := if_pos (by rw [hhot]; rfl)
    dsimp only
    rw [hcool, hhot]
    rfl
  · rw [exec_tpowerDone_eq, execTpowerDone, hdown]
    rfl
  · intro f hr hcode hlt h3 h2 hpart hread hf
    refine (exec_frameset_eq pa s).trans (runCmd_done hr hcode ?_)
    have hthere : ¬ (partOf s (clusterGranule (bits c.a1 0 6))).isNone = true := by rw [Option.isNone_iff_eq_none]; exact hpart
    refine (if_neg (by omega)).trans ((if_neg hthere).trans ((if_neg (not_not_intro h2)).trans ?_))
    rw [hread]
    refine if_neg ?_
    rw [List.any_eq_true]
    rintro ⟨e, he, h⟩
    exact bne_iff_ne.mp h (Nat.div_eq_of_lt (hf e he))
end Sys2Proof.Proofs
end

section
/-! Firmware services on KV pages, key slots, confidential memory, hallmarks and handlers (R374 to R377, R438, R485, R493, R506, R508). -/

namespace Sys2Proof.Proofs

open Sys2Proof Sys2Proof.Machine Sys2Proof.Claim

/-! ## The turns and the answer of a service (R245, R294, R483) -/

section Service
variable {s t u x : State} {r : FwReq} {num n vd st : Nat} {v : Vd} {l : Bytes} {i : Instr}
  {k : State → Nat → Nat → Vd → Word → State × Nat} {g : State → Bytes → State × Nat}

theorem withBytes_ok {cid va : Nat} (h : hread t cid vd va n = (u, .ok l)) : withBytes t cid vd va n g = g u l := by rw [withBytes, h]
theorem withBlock_ok {cid : Nat} {a : Word} (halign : a.toNat % 64 = 0) (h : hread t cid vd a.toNat n = (u, .ok l)) :
    withBlock t cid vd a n g = g u l := (if_neg (not_not_intro halign)).trans (withBytes_ok h)
theorem service_first (h : serves s num r t vd v) : service num s k = match k t r.cid vd v r.arg with
    | (t, st) => .next (if st = vMore then { t with hub := { t.hub with fwq := s.hub.fwq } }
        else if t.hub.svcPuts = [] then finishX { t with hub := { t.hub with svcPart := [] } } r.cid r.xd st
        else { t with hub := { t.hub with fwq := s.hub.fwq, svcPart := [], svcEnd := some st } }) := by
  obtain ⟨rest, hq, hsvc, rfl, rfl, hvd, hend, hputs⟩ := h
  unfold service
  rw [hq]
  refine (if_neg (not_not_intro hsvc)).trans ?_
  dsimp only
  split
  next hnone => exact absurd (hnone.symm.trans hvd) nofun
  next v' hsome =>
    obtain rfl := Option.some.inj (hsome.symm.trans hvd)
    split
    next h1 h2 => exact absurd (h1.symm.trans hend) nofun
    next h1 h2 => exact absurd (h1.symm.trans hend) nofun
    next => rfl
/-- A service whose block is read answers what its work on the block says. -/
theorem served_answers (hi : exec i s = service num s k) (hk : ∀ t, k t r.cid vd v r.arg = withBlock t r.cid vd r.arg n g)
    (h : served s num r n u vd v l) (hg : g u l = (x, st)) (hst : st < 16) : answers i s r (x, st) := by
  obtain ⟨t, hserves, halign, hread⟩ := h
  rw [answers, hi, service_first hserves, hk, withBlock_ok halign hread, hg]
  have hmore : st ≠ vMore := Nat.ne_of_lt (Nat.lt_trans hst (by decide))
  dsimp only
  rw [if_neg hmore]
  rfl
theorem service_turns (hi : exec i s = service num s k) (hk : ∀ t, k t r.cid vd v r.arg = withBlock t r.cid vd r.arg n g) :
    serviceTurns i s num n r t vd v := by
  refine ⟨fun u hserves halign hread => ?_, fun rest st hq hsvc hvd hend => ⟨fun hputs => ?_, fun a l hputs => ?_⟩⟩
  · have hblock : withBlock t r.cid vd r.arg n g = (u, vMore) := (if_neg (not_not_intro halign)).trans (by rw [withBytes, hread])
    rw [hi, service_first hserves, hk, hblock]
    exact congrArg _ (if_pos rfl)
  · rw [hi]
    unfold service
    rw [hq]
    refine (if_neg (not_not_intro hsvc)).trans ?_
    dsimp only
    split
    next hnone => exact absurd (hnone.symm.trans hvd) nofun
    next => rw [hend, hputs]; rfl
  · rw [hi]
    unfold service
    rw [hq]
    refine (if_neg (not_not_intro hsvc)).trans ?_
    dsimp only
    split
    next hnone => exact absurd (hnone.symm.trans hvd) nofun
    next => rw [hend, hputs]; rfl
end Service

/-! ## Units zeroed and locked (R438, R485) -/

theorem lockOf_setLocks_some (s : State) (us : List Nat) (w : BitVec 16) (k : Nat) :
    lockOf (setLocks s us (some w)) k = if k ∈ us then w.toNat else lockOf s k := by
  have hfold : ∀ (us : List Nat) (t : Tab (BitVec 16)),
      (tget (us.foldl (fun t u => tset t u w) t) k 0).toNat = if k ∈ us then w.toNat else (tget t k 0).toNat := by
    intro us
    induction us with
    | nil => exact fun t => (if_neg List.not_mem_nil).symm
    | cons u r ih =>
      intro t
      rw [List.foldl_cons, ih]
      by_cases hr : k ∈ r
      · rw [if_pos hr, if_pos (List.mem_cons_of_mem _ hr)]
      · rw [if_neg hr]
        by_cases hk : k = u
        · subst hk; rw [tget_tset_same, if_pos List.mem_cons_self]
        · rw [tget_tset_ne _ _ _ hk, if_neg (List.not_mem_cons_of_ne_of_not_mem hk hr)]
  exact hfold us s.hub.locks
theorem tfind_foldl_tdel {α : Type} (us : List Nat) (k : Nat) : ∀ t : Tab α,
    tfind (us.foldl (fun t u => tdel t u) t) k = if k ∈ us then none else tfind t k := by
  induction us with
  | nil => exact fun t => (if_neg List.not_mem_nil).symm
  | cons u r ih =>
    intro t
    rw [List.foldl_cons, ih]
    by_cases hr : k ∈ r
    · rw [if_pos hr, if_pos (List.mem_cons_of_mem _ hr)]
    · rw [if_neg hr, tdel, tfind_filter (· != u)]
      by_cases hk : k = u
      · rw [hk, bne_self_eq_false, if_neg Bool.false_ne_true, if_pos List.mem_cons_self]
      · rw [if_pos (bne_iff_ne.mpr hk), if_neg (List.not_mem_cons_of_ne_of_not_mem hk hr)]
theorem lockOf_setLocks_none (s : State) (us : List Nat) (k : Nat) : lockOf (setLocks s us none) k = if k ∈ us then 0 else lockOf s k := by
  have hfind : tfind (setLocks s us none).hub.locks k = if k ∈ us then none else tfind s.hub.locks k := tfind_foldl_tdel us k s.hub.locks
  rw [lockOf, tget, hfind]
  split
  · rfl
  · rfl
theorem lockOf_unlocked {s : State} {us : List Nat} {k : Nat} (hk : k ∈ us) : lockOf (setLocks s us none) k = 0 := by
  rw [lockOf_setLocks_none, if_pos hk]
/-- Filtering by address keeps the bytes whose address passes. -/
theorem mread_filter {p : Nat → Bool} {m : Memory} : ∀ {lo a : Nat}, Memory.wfFrom lo m = true → p a = true →
    mread (m.filter (fun e => p e.1)) a = mread m a := by
  induction m with
  | nil => exact fun _ _ => rfl
  | cons x r ih =>
    obtain ⟨b, v⟩ := x
    intro lo a h hp
    simp only [Memory.wfFrom, Bool.and_eq_true] at h
    rw [List.filter_cons]
    by_cases hb : p b = true
    · rw [if_pos hb, mread, mread, ih h.2 hp]
    · have hne : b ≠ a := fun hba => hb (hba ▸ hp)
      rw [if_neg hb, ih h.2 hp, mread, if_neg hne]
      split
      next hlt => exact mread_below h.2 (Nat.lt_succ_of_lt hlt)
      · rfl
theorem takeBackAll_hub (s : State) (hit : Nat → Bool) : (takeBackAll s hit).hub = s.hub := by
  refine foldl_frame (g := State.hub) (fun s o => ?_) _ s
  unfold takeBack
  split
  · rfl
  · rfl
/-- What zeroing units changes in the memory, and that the hub stays. -/
theorem zeroUnits_frame (s : State) (us : List Nat) : (zeroUnits s us).hub = s.hub ∧
    (zeroUnits s us).mem = us.foldl (fun m u => mzero m (u * unitBytes) ((u + 1) * unitBytes)) s.mem := by
  have hfold : ∀ (us : List Nat) (t : State), (us.foldl (fun (s : State) u =>
      { s with mem := mzero s.mem (u * unitBytes) ((u + 1) * unitBytes), bad := s.bad.filter (fun o => unitOf o != u), soft := s.soft.filter (fun o => unitOf o != u), tags := s.tags.filter (fun e => unitOf (512 * e.1) != u) }) t).hub = t.hub ∧
      (us.foldl (fun (s : State) u =>
      { s with mem := mzero s.mem (u * unitBytes) ((u + 1) * unitBytes), bad := s.bad.filter (fun o => unitOf o != u), soft := s.soft.filter (fun o => unitOf o != u), tags := s.tags.filter (fun e => unitOf (512 * e.1) != u) }) t).mem =
        us.foldl (fun m u => mzero m (u * unitBytes) ((u + 1) * unitBytes)) t.mem := by
    intro us
    induction us with
    | nil => exact fun _ => ⟨rfl, rfl⟩
    | cons u r ih => exact fun t => ih _
  unfold zeroUnits
  obtain ⟨hhub, hmem⟩ := hfold us _
  exact ⟨hhub.trans (takeBackAll_hub _ _), hmem.trans (congrArg (us.foldl _) (takeBackAll_frame _ _).2.2)⟩
theorem div_unitBytes {a u : Nat} : a / unitBytes = u ↔ u * unitBytes ≤ a ∧ a < (u + 1) * unitBytes := by
  unfold unitBytes; omega
/-- Zeroing units filters their bytes out. -/
theorem mzero_units (us : List Nat) : ∀ m : Memory, us.foldl (fun m u => mzero m (u * unitBytes) ((u + 1) * unitBytes)) m =
    m.filter (fun e => !us.contains (e.1 / unitBytes)) := by
  induction us with
  | nil => exact fun m => (List.filter_eq_self.mpr fun _ _ => rfl).symm
  | cons u r ih =>
    intro m
    rw [List.foldl_cons, ih, mzero, List.filter_filter]
    refine List.filter_congr fun e _ => ?_
    rw [List.contains_cons, Bool.not_or, Bool.and_comm]
    refine congrArg (· && _) ?_
    have h := @div_unitBytes e.1 u
    by_cases hu : e.1 / unitBytes = u
    · rw [hu, beq_self_eq_true, Bool.not_true, decide_eq_false_iff_not]; omega
    · rw [beq_eq_false_iff_ne.mpr hu, Bool.not_false, decide_eq_true_iff]; omega
theorem mread_zeroUnits_in {s : State} {us : List Nat} {a : Nat} (h : a / unitBytes ∈ us) : mread (zeroUnits s us).mem a = 0 := by
  rw [(zeroUnits_frame s us).2, mzero_units]
  refine mread_of_not_listed _ fun e he hea => ?_
  have hout := (List.mem_filter.mp he).2
  rw [hea, List.contains_iff_mem.mpr h] at hout
  exact Bool.false_ne_true hout
theorem mread_zeroUnits_out {s : State} {us : List Nat} {a : Nat} (hwf : s.mem.wf = true) (h : a / unitBytes ∉ us) :
    mread (zeroUnits s us).mem a = mread s.mem a := by
  rw [(zeroUnits_frame s us).2, mzero_units]
  refine mread_filter (p := fun a => !us.contains (a / unitBytes)) (lo := 0) hwf ?_
  rw [Bool.not_eq_true']
  exact Bool.eq_false_iff.mpr fun hin => h (List.contains_iff_mem.mp hin)

theorem setLocks_mem (s : State) (us : List Nat) (w : Option (BitVec 16)) : (setLocks s us w).mem = s.mem := rfl
theorem setLocks_slot (s : State) (us : List Nat) (w : Option (BitVec 16)) (j : Nat) : (setLocks s us w).slot j = s.slot j := rfl

/-- The state that CONFLOCK leaves. -/
def lockedUnits (u : State) (us : List Nat) (vd : Nat) : State := setLocks (zeroUnits u us) us (some (lockWord 1 vd))
theorem lockedUnits_spec (u : State) (us : List Nat) (vd : Nat) :
    (∀ k ∈ us, lockOf (lockedUnits u us vd) k = (lockWord 1 vd).toNat) ∧ (∀ k, k ∉ us → lockOf (lockedUnits u us vd) k = lockOf u k) ∧
    (∀ a, a / unitBytes ∈ us → mread (lockedUnits u us vd).mem a = 0) ∧
    (u.mem.wf = true → ∀ a, a / unitBytes ∉ us → mread (lockedUnits u us vd).mem a = mread u.mem a) := by
  rw [lockedUnits, setLocks_mem]
  refine ⟨fun k hk => ?_, fun k hk => ?_, fun a ha => mread_zeroUnits_in ha, fun hwf a ha => mread_zeroUnits_out hwf ha⟩
  · rw [lockOf_setLocks_some, if_pos hk]
  · rw [lockOf_setLocks_some, if_neg hk, lockOf, lockOf, (zeroUnits_frame u us).1]

/-- The state that CONFFREE leaves; k is the slot that it frees, 0 for none. -/
def freedUnits (u : State) (us : List Nat) (k : Nat) : State :=
  if k = 0 then setLocks (zeroUnits u us) us none else (setLocks (zeroUnits u us) us none).setSlot k {}
theorem freedUnits_spec (u : State) (us : List Nat) (k : Nat) :
    (∀ x ∈ us, lockOf (freedUnits u us k) x = 0) ∧ (∀ a, a / unitBytes ∈ us → mread (freedUnits u us k).mem a = 0) ∧
    (k ≠ 0 → ((freedUnits u us k).slot k).kind = .free) ∧ ∀ j, j ≠ k → (freedUnits u us k).slot j = u.slot j := by
  have hslot : ∀ j, (zeroUnits u us).slot j = u.slot j := fun j => by rw [State.slot, State.slot, (zeroUnits_frame u us).1]
  unfold freedUnits
  split
  next h0 =>
    exact ⟨fun x hx => lockOf_unlocked hx, fun a ha => (setLocks_mem _ us none).symm ▸ mread_zeroUnits_in ha, fun hne => absurd h0 hne,
      fun j _ => (setLocks_slot _ us none j).trans (hslot j)⟩
  next =>
    have hset : ∀ (t : State) x j, j ≠ k → (t.setSlot k x).slot j = t.slot j := fun t x j hj => tget_tset_ne _ _ _ hj
    exact ⟨fun x hx => lockOf_unlocked hx, fun a ha => (setLocks_mem _ us none).symm ▸ mread_zeroUnits_in ha,
      fun _ => congrArg KeySlot.kind (tget_tset_same ..), fun j hj => (hset _ _ j hj).trans ((setLocks_slot _ us none j).trans (hslot j))⟩

/-! ## KV pages (R374 to R377) -/

section Kv
variable {s u w x : State} {r : FwReq} {vd dev comp slot num st : Nat} {v : Vd} {l pg : Bytes} {ps : List (Nat × Nat)} {i : Instr}
  {k : State → Nat → Nat → Vd → Word → State × Nat} {g : State → Nat → Nat → Nat → State × Nat}

/-- A service on a KV page whose descriptor passes the checks up to KEY. -/
theorem served_kv (hi : exec i s = service num s k) (hk : ∀ t, k t r.cid vd v r.arg = withKv t r.cid vd v r.arg g)
    (h : served s num r 64 u vd v l) (hdev : numAt l 0 8 = dev) (hcomp : numAt l 8 8 = comp) (hsl : bits (numAt l 16 2) 0 12 = slot)
    (hdalign : dev % 32768 = 0) (hcalign : comp % 64 = 0) (hzero : numAt l 16 48 < 2 ^ 12) (hps : rawPages u v dev 32768 = some ps)
    (hrange : slotInRange v slot = true) (hkind : (u.slot slot).kind = .evict) (hvd : (u.slot slot).vd = vd)
    (hopo : ∀ p ∈ ps, eOpo p.2 = false) (hg : g u dev comp slot = (x, st)) (hst : st < 16) : answers i s r (x, st) := by
  subst hdev hcomp hsl
  refine served_answers hi hk h ?_ hst
  have hbad : ¬ (numAt l 16 48 / 2 ^ 12 ≠ 0 ∨ numAt l 0 8 % kvBytes ≠ 0 ∨ numAt l 8 8 % 64 ≠ 0) := by
    rw [Nat.div_eq_of_lt hzero, show numAt l 0 8 % kvBytes = 0 from hdalign, hcalign]; decide
  have hkey : ¬ (!(slotInRange v (bits (numAt l 16 2) 0 12) && (u.slot (bits (numAt l 16 2) 0 12)).kind == .evict &&
      (u.slot (bits (numAt l 16 2) 0 12)).vd == vd)) = true := by
    rw [hrange, hkind, hvd, beq_self_eq_true, beq_self_eq_true]; decide
  have hany : ¬ ps.any (fun p => eOpo p.2) = true := by
    rw [List.any_eq_true]; rintro ⟨p, hp, h⟩; exact Bool.false_ne_true ((hopo p hp).symm.trans h)
  refine (if_neg hbad).trans ?_
  rw [show rawPages u v (numAt l 0 8) kvBytes = some ps from hps]
  exact (if_neg hkey).trans ((if_neg hany).trans hg)

/-- The companion's copy of an evicted page: ciphertext, tag and trailer. -/
def evictBlob (vd slot : Nat) (x : KeySlot) (pg : Bytes) : Bytes :=
  let c := gcmCrypt x.key (evictNonce vd slot x.ctr) pg
  c ++ gcmTag x.key (evictNonce vd slot x.ctr) (evictAad vd slot x.ctr) c ++ evictAad vd slot x.ctr ++ zerosB 32
/-- The state that KVEVICT leaves. -/
def evictedPage (w : State) (vd slot comp : Nat) (pg : Bytes) : State :=
  let x := w.slot slot
  let t := (w.setSlot slot { x with ctr := x.ctr + 1 }).modVd vd (fun v => { v with evicted := v.evicted ++ [(slot, x.ctr)] })
  { t with cmem := mwriteBytes t.cmem comp (evictBlob vd slot x pg) }
theorem evictedPage_spec (w : State) (vd slot comp : Nat) (pg : Bytes) :
    (evictedPage w vd slot comp pg).cmem = mwriteBytes w.cmem comp (evictBlob vd slot (w.slot slot) pg) ∧
    (evictedPage w vd slot comp pg).mem = w.mem ∧
    (evictedPage w vd slot comp pg).slot slot = { w.slot slot with ctr := (w.slot slot).ctr + 1 } ∧
    ∀ y, w.vd? vd = some y → (evictedPage w vd slot comp pg).vd? vd = some { y with evicted := y.evicted ++ [(slot, (w.slot slot).ctr)] } := by
  unfold evictedPage
  dsimp only
  have hset : (w.setSlot slot { w.slot slot with ctr := (w.slot slot).ctr + 1 }).vd? vd = w.vd? vd := rfl
  refine ⟨?_, State.modVd_mem .., ?_, fun y hy => ?_⟩
  · rw [State.modVd_cmem]; rfl
  · unfold State.modVd
    split
    · exact tget_tset_same ..
    · exact tget_tset_same ..
  · unfold State.modVd
    rw [hset, hy]
    exact tfind_tset_same ..

theorem withOut_outputs {t : State} {va : Nat} {out : Bytes} {k : State → (State → State) → State × Nat} {y : State × Nat}
    (h : outputs t u r vd va out w) (hk : ∀ put : State → State, put u = w → k t put = y) : withOut t r.cid vd va out k = y := by
  obtain ⟨⟨x, a, hplan⟩, x', a', hplan', rfl⟩ := h
  unfold withOut
  dsimp only
  rw [hplan]
  exact hk _ (by rw [hplan'])
end Kv

/-! ## Settling O59 -/

/-- Settles O59. -/
theorem servicesOnKeys : Obligations.ServicesOnKeys := by
  intro s u w r vd v l pg img ps n drawn
  refine ⟨fun t => ⟨?_, ?_, ?_, ?_, ?_, ?_, ?_, ?_, ?_⟩, ?_, ?_, ?_, ?_, ?_, ?_, ?_⟩
  · exact service_turns (exec_vdkey_eq s) fun _ => rfl
  · exact service_turns (exec_evkey_eq s) fun _ => rfl
  · exact service_turns (exec_conflock_eq s) fun _ => rfl
  · exact service_turns (exec_conffree_eq s) fun _ => rfl
  · exact service_turns (exec_kvevict_eq s) fun _ => rfl
  · exact service_turns (exec_kvpromote_eq s) fun _ => rfl
  · exact service_turns (exec_hallmark_eq s) fun _ => rfl
  · exact service_turns (exec_usage_eq s) fun _ => rfl
  · exact service_turns (exec_hinstall_eq s) fun _ => rfl
  · intro h hconf
    refine ⟨fun hfree hpol => ⟨Config.freeBits 256 u.free, served_answers (exec_vdkey_eq s) (fun _ => rfl) h ?_ (by decide)⟩,
      fun hfree => served_answers (exec_vdkey_eq s) (fun _ => rfl) h ?_ (by decide)⟩
    · refine (if_neg (Nat.not_le.mpr hconf)).trans ((if_neg (not_not_eq_true hfree)).trans ((if_neg ?_).trans rfl))
      rintro ⟨h1, hv⟩
      exact Bool.noConfusion ((hpol h1).symm.trans hv)
    · exact (if_neg (Nat.not_le.mpr hconf)).trans (if_pos (Bool.not_eq_true' _ ▸ hfree))
  · intro h
    refine ⟨fun hfree => ⟨Config.freeBits 256 u.free, served_answers (exec_evkey_eq s) (fun _ => rfl) h ?_ (by decide)⟩,
      fun hfree => served_answers (exec_evkey_eq s) (fun _ => rfl) h ?_ (by decide)⟩
    · exact (if_neg (not_not_eq_true hfree)).trans rfl
    · exact if_pos (Bool.not_eq_true' _ ▸ hfree)
  · intro us h halign hin
    have hrun : ∀ x st, (if !us.all (unitOpen u) then (u, vInuse) else if wbTouches u vd v us then (u, vBusy)
        else (setLocks (zeroUnits u us) us (some (lockWord 1 vd)), vDone)) = (x, st) → st < 16 → answers .conflock s r (x, st) :=
      fun x st hend hst => served_answers (exec_conflock_eq s) (fun _ => rfl) h
        ((if_neg (not_not_intro halign)).trans ((if_neg (not_not_eq_true hin)).trans hend)) hst
    refine ⟨fun hopen hbusy => ⟨lockedUnits u us vd, hrun _ 0 ?_ (by decide), lockedUnits_spec u us vd⟩, fun hopen => hrun u 12 ?_ (by decide),
      fun hopen hbusy => hrun u 1 ?_ (by decide)⟩
    · exact (if_neg (not_not_eq_true hopen)).trans (if_neg (Bool.not_eq_true _ ▸ hbusy))
    · exact if_pos (Bool.not_eq_true' _ ▸ hopen)
    · exact (if_neg (not_not_eq_true hopen)).trans (if_pos hbusy)
  · intro us k h halign hin hlocks hk hbusy
    have hkey : ¬ (k ≠ 0 ∧ (slotInRange v k && (u.slot k).kind == .vdkey && (u.slot k).vd == vd) = false) := by
      rintro ⟨hne, hf⟩
      obtain h0 | ⟨hr, hkind, hvd⟩ := hk
      · exact hne h0
      · rw [hr, hkind, hvd, beq_self_eq_true, beq_self_eq_true] at hf
        exact Bool.noConfusion hf
    refine ⟨freedUnits u us k, served_answers (exec_conffree_eq s) (fun _ => rfl) h ?_ (by decide), freedUnits_spec u us k⟩
    exact (if_neg (not_not_intro halign)).trans ((if_neg (not_not_eq_true hin)).trans ((if_neg (not_not_eq_true hlocks)).trans
      ((if_neg hkey).trans (if_neg (Bool.not_eq_true _ ▸ hbusy)))))
  · intro dev comp slot x hdalign hcalign hzero hps hrange hkind hvd hopo
    refine ⟨fun h hmeet hroom hread => ?_, fun h hmeet => ?_, ?_⟩
    · intro nonce c aad
      refine ⟨evictedPage w vd slot comp pg, ?_, evictedPage_spec w vd slot comp pg⟩
      refine served_kv (exec_kvevict_eq s) (fun _ => rfl) h rfl rfl rfl hdalign hcalign hzero hps hrange hkind hvd hopo ?_ (by decide)
      refine (if_neg (Bool.not_eq_true _ ▸ hmeet)).trans ((if_neg (Nat.not_le.mpr hroom)).trans ?_)
      exact (withBytes_ok hread).trans rfl
    · refine served_kv (exec_kvevict_eq s) (fun _ => rfl) h rfl rfl rfl hdalign hcalign hzero hps hrange hkind hvd hopo ?_ (by decide)
      exact if_pos hmeet
    · intro blob ctr key nonce h hmeet hres1 hres2
      have hrun : ∀ x st, (if v.evicted.contains (slot, ctr) = false ∨ bits (numAt blob 32792 2) 12 4 ≠ vd % 16 then (u, vStale)
          else if gcmTag key nonce (byteSlice blob 32784 16) (blob.take 32768) ≠ byteSlice blob 32768 16 then (addLog u 7 0 0 0 0, vTagFail)
          else withOut u r.cid vd dev (gcmCrypt key nonce (blob.take 32768)) (fun s put =>
            ((put s).modVd vd (fun v => { v with evicted := v.evicted.erase (slot, ctr) }), vDone))) = (x, st) → st < 16 →
          answers .kvpromote s r (x, st) := fun x st hend hst => by
        refine served_kv (exec_kvpromote_eq s) (fun _ => rfl) h rfl rfl rfl hdalign hcalign hzero hps hrange hkind hvd hopo ?_ hst
        refine (if_neg (Bool.not_eq_true _ ▸ hmeet)).trans ((if_neg ?_).trans hend)
        exact not_or.mpr ⟨not_not_intro hres1, not_not_intro hres2⟩
      refine ⟨fun hout => hrun u 6 (if_pos (Or.inl ?_)) (by decide), fun hin hvd16 => ?_⟩
      · exact Bool.eq_false_iff.mpr fun hc => hout (List.contains_iff_mem.mp hc)
      · have hfresh : ¬ (v.evicted.contains (slot, ctr) = false ∨ bits (numAt blob 32792 2) 12 4 ≠ vd % 16) := by
          rw [List.contains_iff_mem.mpr hin]
          exact not_or.mpr ⟨nofun, not_not_intro hvd16⟩
        refine ⟨fun htag => hrun _ 5 ((if_neg hfresh).trans (if_pos htag)) (by decide), fun htag hout => hrun _ 0
          ((if_neg hfresh).trans ((if_neg (not_not_intro htag)).trans (withOut_outputs hout fun put hput => ?_))) (by decide)⟩
        rw [hput]; rfl
  · intro buf kind i hi hbuf body t
    refine ⟨bytesLE 32 (Config.freeBits 256 u.free).toNat, fun w hout => ?_⟩
    have hrun : ∀ num k, exec i s = service num s k → (∀ t, k t r.cid vd v r.arg = hallmark kind t r.cid vd v r.arg) →
        served s num r 40 u vd v l → answers i s r (w, 0) := fun num k hexec hk h => by
      refine served_answers hexec hk h ((if_neg (not_not_intro hbuf)).trans ?_) (by decide)
      exact withOut_outputs hout fun put hput => congrArg (·, 0) hput
    obtain ⟨rfl, h, rfl⟩ | ⟨rfl, h, rfl⟩ := hi
    · exact hrun _ _ (exec_hallmark_eq s) (fun _ => rfl) h
    · exact hrun _ _ (exec_usage_eq s) (fun _ => rfl) h
  · intro i nb key h hi hread
    have hrun : w.hub.fused = u.hub.fused → ∀ x st, (if !pssVerify u.hub.fused.handlerN (img.take nb) (numAt img nb 384) then (w, vAuth)
        else match tfind w.hub.handlers key with
          | some e => (w, if e = digest (img.take nb) then vDone else vInuse)
          | none => ({ w with hub := { w.hub with handlers := tset w.hub.handlers key (digest (img.take nb)) } }, vDone)) = (x, st) → st < 16 →
        answers .hinstall s r (x, st) := fun hfused x st hend hst => by
      rw [← hfused] at hend
      refine served_answers (exec_hinstall_eq s) (fun _ => rfl) h ((if_neg (Nat.not_le.mpr hi)).trans ?_) hst
      exact (withBytes_ok hread).trans hend
    refine ⟨fun hfused hver => ⟨fun hnone => ?_, fun hsame => ?_, fun e hother hne => ?_⟩, fun hfused hver => ?_⟩
    · refine hrun hfused _ 0 ((if_neg (not_not_eq_true hver)).trans ?_) (by decide)
      rw [hnone]; rfl
    · refine hrun hfused _ 0 ((if_neg (not_not_eq_true hver)).trans ?_) (by decide)
      rw [hsame]
      exact congrArg (w, ·) (if_pos rfl)
    · refine hrun hfused _ 12 ((if_neg (not_not_eq_true hver)).trans ?_) (by decide)
      rw [hother]
      exact congrArg (w, ·) (if_neg hne)
    · exact hrun hfused _ 9 (if_pos (Bool.not_eq_true' _ ▸ hver)) (by decide)
end Sys2Proof.Proofs
end

section
/-! Firmware services on libraries, models, sessions and adaptation contracts (R487 to R505). -/

namespace Sys2Proof.Proofs

open Sys2Proof Sys2Proof.Machine Sys2Proof.Claim

/-! ## Sealed key records (R489) -/

section Records
variable {s t u w : State} {r : FwReq} {vd va : Nat} {v : Vd} {pol : Bytes} {key : BitVec 256}

theorem contains_of_mem {α : Type} [BEq α] [LawfulBEq α] {l : List α} {a : α} (h : a ∈ l) : l.contains a = true := List.contains_iff_mem.mpr h

/-- A record that passes every check is given to the service with its key. -/
theorem withRecord_passes (h : recordPasses u r vd v va w pol key) (k : State → Bytes → BitVec 256 → State × Nat) :
    withRecord u r.cid vd v va k = k w pol key := by
  obtain ⟨l, halign, hread, rfl, hpol, he, hz, howner, hver, hfw, hconf, x, hkey, rfl⟩ := h
  refine (if_neg (not_not_intro halign)).trans ((withBytes_ok hread).trans ?_)
  have hform : ¬ (!policyOk (l.take 512) || numAt l 896 4 != 65537 || numAt l 900 124 != 0) = true := by rw [hpol, he, hz]; decide
  have hauth : ¬ (decide (digestAt (l.take 512) 16 ≠ digest (byteSlice l 512 384)) ||
      !pssVerify (numAt l 512 384) (l.take 1024) (numAt l 1024 384)) = true := by
    rw [hver, decide_eq_false (not_not_intro howner)]; decide
  have hfws : ¬ ((policyFws (l.take 512)).contains w.hub.fwm = false ∨ v.conf = false) := by
    rw [contains_of_mem hfw, hconf]; exact not_or.mpr ⟨nofun, nofun⟩
  refine (if_neg hform).trans ((if_neg ?_).trans ((if_neg hfws).trans ?_))
  · simpa using hauth
  · rw [hkey]
end Records

/-! ## Weights installed (R495) -/

/-- What R495 asks of weights to be installed: package, slot, pages and units. -/
structure Installs (t : State) (r : FwReq) (vd : Nat) (v : Vd) (x : Install) (pol pkg : Bytes) (key : BitVec 256) (libs : List (BitVec 256))
    (w : State) (ps : List (Nat × Nat)) (cs : List Bytes) : Prop where
  read : hread t r.cid vd x.pkg (65552 * x.n) = (w, .ok pkg)
  digest_eq : digest pkg = digestAt pol 464
  slot_free : slotFree w v x.slot = true
  pages : rawPages w v x.dest (65536 * x.n) = some ps
  page_ok : ∀ p ∈ ps, ownUnit w v p.1 = true ∧ eOpo p.2 = true ∧ eKslot p.2 = x.slot ∧ unitOpen w (unitOf p.1) = true
  untouched : wbTouches w vd v (ps.map (fun p => unitOf p.1)).eraseDups = false
  bound : ∀ e ∈ w.hub.slots, e.2.kind = .session → e.2.vd = vd → ∀ d ∈ libs, d ∈ policyLibs e.2.policy
  opens : openPackage key x.n pkg = some cs
/-- The units of a list of pages. -/
def unitsOf (ps : List (Nat × Nat)) : List Nat := (ps.map (fun p => unitOf p.1)).eraseDups
/-- The state with the weights in place, before the model's book is kept. -/
def installed (w : State) (vd slot : Nat) (pol : Bytes) (ps : List (Nat × Nat)) (cs : List Bytes) (k : BitVec 256) : State :=
  putPages slot ps ((setLocks (dropUnits { w with free := w.free + 1 } (unitsOf ps)) (unitsOf ps) (some (lockWord 2 vd))).setSlot slot
    { kind := .operand, key := k, vd := vd, policy := pol }) cs.flatten
theorem installWeights_ok {t w : State} {r : FwReq} {vd : Nat} {v : Vd} {x : Install} {pol pkg : Bytes} {key : BitVec 256}
    {libs : List (BitVec 256)} {ps : List (Nat × Nat)} {cs : List Bytes} (h : Installs t r vd v x pol pkg key libs w ps cs)
    (book : State → List Nat → State) : installWeights t r.cid vd v x pol key libs book =
      (book (installed w vd x.slot pol ps cs (Config.freeBits 256 w.free)) (unitsOf ps), vDone) := by
  have hown : ¬ (!ps.all (fun p => ownUnit w v p.1 && eOpo p.2 && eKslot p.2 == x.slot)) = true := not_not_eq_true (List.all_eq_true.mpr fun p hp => by
    obtain ⟨ho, he, hk, -⟩ := h.page_ok p hp
    rw [ho, he, hk, beq_self_eq_true]; rfl)
  have hopen : ¬ (!(unitsOf ps).all (unitOpen w)) = true := not_not_eq_true (List.all_eq_true.mpr fun k hk => by
    obtain ⟨p, hp, rfl⟩ := List.mem_map.mp (List.mem_eraseDups.mp hk)
    exact (h.page_ok p hp).2.2.2)
  have hbound : ¬ (w.hub.slots.filter (fun e => e.2.kind == .session && e.2.vd == vd)).any
      (fun e => libs.any (fun d => !(policyLibs e.2.policy).contains d)) = true := by
    rw [List.any_eq_true]
    rintro ⟨e, he, hany⟩
    obtain ⟨he, hsess⟩ := List.mem_filter.mp he
    obtain ⟨d, hd, hc⟩ := List.any_eq_true.mp hany
    obtain ⟨hkind, hvd⟩ := Bool.and_eq_true_iff.mp hsess
    rw [contains_of_mem (h.bound e he (beq_iff_eq.mp hkind) (beq_iff_eq.mp hvd) d hd)] at hc
    exact Bool.false_ne_true hc
  refine (withBytes_ok h.read).trans ((if_neg (not_not_intro h.digest_eq)).trans ((if_neg (not_not_eq_true h.slot_free)).trans ?_))
  rw [h.pages]
  refine (if_neg hown).trans ((if_neg hopen).trans ((if_neg (Bool.not_eq_true _ ▸ h.untouched)).trans ((if_neg hbound).trans ?_)))
  rw [h.opens]
  rfl

/-! ## Models freed (R496) -/

/-- What weights that are freed leave: slots only become free, and units only unlocked. -/
def onlyFrees (s t : State) : Prop :=
  (∀ k, (s.slot k).kind = .free → (t.slot k).kind = .free) ∧ ∀ k, lockOf s k = 0 → lockOf t k = 0
theorem freeWeights_spec (s : State) (slot : Nat) (us : List Nat) : onlyFrees s (freeWeights s slot us) ∧
    ((freeWeights s slot us).slot slot).kind = .free ∧ ∀ k ∈ us, lockOf (freeWeights s slot us) k = 0 := by
  have hset : ∀ k, (freeWeights s slot us).slot k = (s.setSlot slot {}).slot k := fun k => by
    rw [freeWeights, setLocks_slot, State.slot, (zeroUnits_frame (s.setSlot slot {}) us).1]; rfl
  have hself : ((freeWeights s slot us).slot slot).kind = .free := by
    rw [hset]; exact congrArg KeySlot.kind (tget_tset_same ..)
  refine ⟨⟨fun k hk => ?_, fun k hk => ?_⟩, hself, fun k hk => lockOf_unlocked hk⟩
  · by_cases h : k = slot
    · subst h; exact hself
    · rw [hset]
      exact (congrArg KeySlot.kind (tget_tset_ne _ _ _ h)).trans hk
  · rw [freeWeights, lockOf_setLocks_none, lockOf, (zeroUnits_frame (s.setSlot slot {}) us).1]
    split
    · rfl
    · exact hk
theorem onlyFrees.trans {s t u : State} (h : onlyFrees s t) (h' : onlyFrees t u) : onlyFrees s u :=
  ⟨fun k hk => h'.1 k (h.1 k hk), fun k hk => h'.2 k (h.2 k hk)⟩
theorem onlyFrees_foldl {α : Type} {f : State → α → State} (hf : ∀ s x, onlyFrees s (f s x)) (l : List α) (s : State) :
    onlyFrees s (l.foldl f s) := by
  induction l generalizing s with
  | nil => exact ⟨fun _ h => h, fun _ h => h⟩
  | cons x l ih => exact (hf s x).trans (ih _)
/-- A model's adaptations freed. -/
def freeAdapters (s : State) (l : Tab Adapter) : State := l.foldl (fun s e => freeWeights s e.2.slot e.2.units) s
/-- A model freed with its adaptations. -/
def freeModel (s : State) (m : Model) : State := freeWeights (freeAdapters s m.adapters) m.slot m.units
theorem freeModel_frees (s : State) (m : Model) : onlyFrees s (freeModel s m) := by
  have hadapters : onlyFrees s (freeAdapters s m.adapters) :=
    onlyFrees_foldl (f := fun (s : State) (e : Nat × Adapter) => freeWeights s e.2.slot e.2.units)
      (fun s e => (freeWeights_spec s e.2.slot e.2.units).1) m.adapters s
  exact hadapters.trans (freeWeights_spec _ m.slot m.units).1
theorem foldl_freeModel {l : List Model} {m : Model} (hm : m ∈ l) (s : State) :
    ((l.foldl freeModel s).slot m.slot).kind = .free ∧ ∀ k ∈ m.units, lockOf (l.foldl freeModel s) k = 0 := by
  induction l generalizing s with
  | nil => exact absurd hm List.not_mem_nil
  | cons x l ih =>
    rw [List.foldl_cons]
    obtain rfl | hm := List.mem_cons.mp hm
    · obtain ⟨hslot, hlock⟩ := onlyFrees_foldl freeModel_frees l (freeModel s m)
      obtain ⟨-, hfree, hunits⟩ := freeWeights_spec (freeAdapters s m.adapters) m.slot m.units
      exact ⟨hslot _ hfree, fun k hk => hlock k (hunits k hk)⟩
    · exact ih hm _
theorem freeBase_spec {v : Vd} {base : BitVec 256} {m : Model} (s : State) (vd : Nat) (h : modelOf v base = some m) :
    ((freeBase s vd v m.base).slot m.slot).kind = .free ∧ (∀ k ∈ m.units, lockOf (freeBase s vd v m.base) k = 0) ∧
    ∀ y, (freeBase s vd v m.base).vd? vd = some y → ∀ x ∈ y.models, x.base ≠ m.base := by
  have hmem : m ∈ modelsOf v m.base := List.mem_filter.mpr ⟨List.mem_of_find?_eq_some h, beq_self_eq_true _⟩
  obtain ⟨hslot, hlock⟩ := foldl_freeModel hmem s
  rw [show freeBase s vd v m.base = ((modelsOf v m.base).foldl freeModel s).modVd vd
    (fun v => { v with models := v.models.filter (fun x => x.base != m.base) }) from rfl]
  generalize (modelsOf v m.base).foldl freeModel s = t at *
  unfold State.modVd
  cases hv : t.vd? vd with
  | none => exact ⟨hslot, hlock, fun y hy => absurd (hv.symm.trans hy) nofun⟩
  | some z =>
    refine ⟨hslot, hlock, fun y hy => ?_⟩
    obtain rfl := Option.some.inj ((tfind_tset_same ..).symm.trans hy)
    exact fun x hx => bne_iff_ne.mp (List.mem_filter.mp hx).2

/-- An adapter slot released: it waits for the waybills that run now. -/
def releasedAdapter (u : State) (vd : Nat) (y : Adapter) : Adapter :=
  { y with entry := adapterEntry 2 y.expert y.slot, waits := (openWbs u vd).map (fun w => (w.cid, w.num)) }

/-! ## Settling O60 -/

/-- Settles O60. -/
theorem servicesOnModels : Obligations.ServicesOnModels := by
  intro s u u1 u2 w r vd v l pol l1 l2 key ps cs m y n done x install us placed
  refine ⟨fun t => ⟨?_, ?_, ?_, ?_, ?_, ?_, ?_, ?_, ?_, ?_⟩, ?_, ?_, ?_, ?_, ?_, ?_, ?_, ?_, ?_, ?_⟩
  · exact service_turns (exec_libload_eq s) fun _ => rfl
  · exact service_turns (exec_modelload_eq s) fun _ => rfl
  · exact service_turns (exec_modelfree_eq s) fun _ => rfl
  · exact service_turns (exec_adaptclaim_eq s) fun _ => rfl
  · exact service_turns (exec_adaptfree_eq s) fun _ => rfl
  · exact service_turns (exec_sessopen_eq s) fun _ => rfl
  · exact service_turns (exec_reqopen_eq s) fun _ => rfl
  · exact service_turns (exec_replyseal_eq s) fun _ => rfl
  · exact service_turns (exec_sessclose_eq s) fun _ => rfl
  · exact service_turns (exec_adptable_eq s) fun _ => rfl
  · intro h pages ms body sig hserved halign hhead hform hall hsform hsigner hver hms
    have hrun : ∀ x st, (if u2.hub.libs.any (fun e => e.2 == digest body) then (u2, vDone)
        else if 65536 < u2.hub.libs.length + h.npage then (u2, vFull)
        else withOut u2 r.cid vd (r.arg.toNat + 8) (digestBytes (digest body)) (fun s put =>
            (put { s with hub := { s.hub with libs := s.hub.libs ++ ms.map (fun m => (m, digest body)) } }, vDone))) = (x, st) → st < 16 →
        answers .libload s r (x, st) := fun x st hend hst => by
      refine served_answers (exec_libload_eq s) (fun _ => rfl) hserved ?_ hst
      refine (if_neg (not_not_intro halign)).trans ((withBytes_ok hhead).trans ((if_neg (not_not_eq_true hform)).trans
        ((withBytes_ok hall).trans ((if_neg (not_not_eq_true hsform)).trans ((if_neg ?_).trans ((if_neg (not_not_intro hms)).trans hend))))))
      rw [contains_of_mem hsigner, hver]
      decide
    refine ⟨fun hnew hroom hout => hrun w 0 ((if_neg ?_).trans ((if_neg (Nat.not_lt.mpr hroom)).trans
      (withOut_outputs hout fun put hput => congrArg (·, 0) hput))) (by decide), fun hold => hrun u2 0 (if_pos ?_) (by decide)⟩
    · rw [List.any_eq_true]
      rintro ⟨e, he, heq⟩
      exact hnew e he (beq_iff_eq.mp heq)
    · obtain ⟨e, he, heq⟩ := hold
      exact List.any_eq_true.mpr ⟨e, he, beq_iff_eq.mpr heq⟩
  · intro h hkind ⟨hrec, hdest, hread, hdig, hfree, hps, hpage, hwb, hbound, hopen⟩
    have hins : Installs u1 r vd v x pol l2 key (policyLibs pol) w ps cs := ⟨hread, hdig, hfree, hps, hpage, hwb, hbound, hopen⟩
    refine ⟨Config.freeBits 256 w.free, fun z hout => ?_⟩
    refine served_answers (exec_modelload_eq s) (fun _ => rfl) h ?_ (by decide)
    refine (if_neg (not_not_intro hdest)).trans ((withRecord_passes hrec _).trans ((if_neg (not_not_intro hkind)).trans ?_))
    refine withOut_outputs hout fun put hput => ?_
    rw [installWeights_ok hins]
    exact congrArg (·, 0) ((if_pos rfl).trans hput)
  · intro h hmod
    have hrun : ∀ x, retireBase u vd v m.base = x → done .modelfree x := fun x hx => by
      refine served_answers (exec_modelfree_eq s) (fun _ => rfl) h ?_ (by decide)
      rw [hmod]
      exact congrArg (·, 0) hx
    refine ⟨fun hkeep => hrun _ (if_pos hkeep), ?_⟩
    intro z hfree
    exact ⟨hrun _ (if_neg (Bool.not_eq_true _ ▸ hfree)), freeBase_spec u vd hmod⟩
  · intro slot rb rl h hrb hrl hlen hrec hkind hmod hret hadm hfree hframes hsid hout
    refine served_answers (exec_sessopen_eq s) (fun _ => rfl) h ?_ (by decide)
    have hany : ¬ (admission v).any (fun d => !(policyLibs pol).contains d) = true := by
      rw [List.any_eq_true]
      rintro ⟨d, hd, hc⟩
      rw [contains_of_mem (hadm d hd)] at hc
      exact Bool.false_ne_true hc
    refine (if_neg (by omega)).trans ((withRecord_passes hrec _).trans ?_)
    have hpol : ¬ (policyKind pol ≠ kSession ∨ (match modelOf v (digestAt pol 48) with | some m => !m.retiring | none => false) = false ∨
        (admission v).any (fun d => !(policyLibs pol).contains d) = true) := by
      rw [hmod]
      refine not_or.mpr ⟨not_not_intro hkind, not_or.mpr ⟨?_, hany⟩⟩
      dsimp only
      rw [hret]; decide
    exact (if_neg hpol).trans ((if_neg (not_not_eq_true hfree)).trans ((if_neg (not_not_eq_true hframes)).trans
      ((if_neg (Nat.not_le.mpr hsid)).trans (withOut_outputs hout fun put hput => congrArg (·, 0) hput))))
  · intro len k nonce h hlen hsess hf1 hf2 hread
    have hrun : ∀ x st, (if numAt l 32 8 ≠ k.ctr then (u, vStale) else
        if gcmTag k.key nonce (sessionAad nonce len) (l1.take len) ≠ l1.drop len then (u1, vTagFail)
        else withOut u1 r.cid vd (numAt l 24 8) (gcmCrypt k.key nonce (l1.take len)) (fun s put =>
          (addUsage ((put s).setSlot n { k with ctr := k.ctr + 1 }) vd 0 len, vDone))) = (x, st) → st < 16 → answers .reqopen s r (x, st) :=
      fun x st hend hst => by
      refine served_answers (exec_reqopen_eq s) (fun _ => rfl) h ?_ hst
      refine (if_neg (Nat.not_lt.mpr hlen)).trans ((if_neg (not_not_eq_true hsess)).trans ?_)
      rw [← hend]
      refine ite_eq_of_iff Iff.rfl rfl ?_
      refine (if_neg ?_).trans (withBytes_ok hread)
      rw [hf1, hf2]
      decide
    refine ⟨fun hne => hrun _ 6 (if_pos hne) (by decide), fun heq htag hout => ?_, fun heq htag => ?_⟩
    · refine hrun _ 0 ((if_neg (not_not_intro heq)).trans ((if_neg (not_not_intro htag)).trans (withOut_outputs hout fun put hput => ?_))) (by decide)
      rw [hput]; rfl
    · exact hrun _ 5 ((if_neg (not_not_intro heq)).trans (if_pos htag)) (by decide)
  · intro len k nonce h hlen hsess hroom
    have hrun : ∀ x st, (if sealsUnder u vd n then (u, vBusy)
        else withBytes u r.cid vd k.rbase len (fun s c =>
          withOut s r.cid vd (r.arg.toNat + 16) (gcmTag k.key nonce (sessionAad nonce len) c ++ bytesLE 8 k.rp) (fun s put =>
            (addUsage ((put s).setSlot n { k with rp := k.rp + 1 }) vd 1 len, vDone)))) = (x, st) → st < 16 → answers .replyseal s r (x, st) :=
      fun x st hend hst => by
      refine served_answers (exec_replyseal_eq s) (fun _ => rfl) h ?_ hst
      exact (if_neg (not_not_intro hlen)).trans ((if_neg (not_not_eq_true hsess)).trans ((if_neg (Nat.not_lt.mpr hroom)).trans hend))
    refine ⟨fun hseals => hrun _ 1 (if_pos hseals) (by decide), fun hseals hread hout => ?_⟩
    refine hrun _ 0 ((if_neg (Bool.not_eq_true _ ▸ hseals)).trans ((withBytes_ok hread).trans (withOut_outputs hout fun put hput => ?_))) (by decide)
    rw [hput]; rfl
  · intro base h hsess
    have hrun : ∀ x st, (if sealsUnder u vd n then (u, vBusy)
        else match modelOf v base with
          | some m => (if m.retiring && !sessionOn (u.setSlot n {}) vd base then freeBase (u.setSlot n {}) vd v base else u.setSlot n {}, vDone)
          | none => (u.setSlot n {}, vDone)) = (x, st) → st < 16 → answers .sessclose s r (x, st) := fun x st hend hst => by
      refine served_answers (exec_sessclose_eq s) (fun _ => rfl) h ?_ hst
      exact (if_neg (not_not_eq_true hsess)).trans hend
    refine ⟨fun hseals => hrun _ 1 (if_pos hseals) (by decide), fun hseals hlive => ?_, fun hseals hmod hret => ?_⟩
    · refine hrun _ 0 ((if_neg (Bool.not_eq_true _ ▸ hseals)).trans ?_) (by decide)
      obtain hnone | ⟨m, hmod, hret⟩ := hlive
      · rw [hnone]; rfl
      · rw [hmod]
        dsimp only
        rw [hret]; rfl
    · refine hrun _ 0 ((if_neg (Bool.not_eq_true _ ▸ hseals)).trans ?_) (by decide)
      rw [hmod]
      dsimp only
      rw [hret, Bool.true_and]
      cases sessionOn (u.setSlot n {}) vd base with
      | true => rfl
      | false => rfl
  · intro slot expert owner h hkind hmod hret hnone hexp ⟨hrec, hdest, hread, hdig, hfree, hps, hpage, hwb, hbound, hopen⟩
    have hins : Installs u1 r vd v x pol l2 key [] w ps cs := ⟨hread, hdig, hfree, hps, hpage, hwb, hbound, hopen⟩
    refine ⟨Config.freeBits 256 w.free, served_answers (exec_adaptclaim_eq s) (fun _ => rfl) h ?_ (by decide)⟩
    refine (if_neg (not_not_intro hdest)).trans ((withRecord_passes hrec _).trans ?_)
    have hfind : (if policyKind pol = kAdapt then modelOf v (digestAt pol 48) else none) = some m := (if_pos hkind).trans hmod
    dsimp only
    rw [hfind]
    refine (if_neg (Bool.not_eq_true _ ▸ hret)).trans ?_
    rw [hnone]
    refine (if_neg ?_).trans (installWeights_ok hins _)
    rintro ⟨hne, hany⟩
    obtain ⟨e, he, hc⟩ := List.any_eq_true.mp hany
    obtain ⟨hc, howner⟩ := Bool.and_eq_true_iff.mp hc
    obtain ⟨hst, hex⟩ := Bool.and_eq_true_iff.mp hc
    obtain hall | hall := hexp
    · exact hne hall
    · exact bne_iff_ne.mp howner (hall e he (beq_iff_eq.mp hst) (beq_iff_eq.mp hex))
  · intro slot h hslot hmod hy
    have hrun : ∀ x, (if y.st = 2 then (u, vDone) else
        (reapAdapters (u.modVd vd (fun v => setModel v (digestAt l 0) (fun m => { m with adapters := tset m.adapters slot (releasedAdapter u vd y) }))), vDone)) = (x, 0) →
        done .adaptfree x := fun x hend => by
      refine served_answers (exec_adaptfree_eq s) (fun _ => rfl) h ((if_neg (Nat.not_le.mpr hslot)).trans ?_) (by decide)
      rw [hmod]
      dsimp only
      rw [hy]
      exact hend
    exact ⟨fun hst => hrun _ (if_pos hst), fun hst => hrun _ (if_neg hst)⟩
  · intro buf h hbuf hmod hout
    refine served_answers (exec_adptable_eq s) (fun _ => rfl) h ((if_neg (not_not_intro hbuf)).trans ?_) (by decide)
    rw [hmod]
    exact withOut_outputs hout fun put hput => congrArg (·, 0) hput
end Sys2Proof.Proofs
end

section
/-! Commands that stop, start, migrate and checkpoint, and the destination side (R469 to R474, R486). -/

namespace Sys2Proof.Proofs

open Sys2Proof Sys2Proof.Machine Sys2Proof.Claim

/-! ## What writes of the device leave of the hub -/

theorem touchLine_hub (s : State) (o : Nat) : (touchLine s o).hub = s.hub := by
  unfold touchLine
  dsimp only
  split
  · rfl
  · split
    · rfl
    · rfl
theorem takeBack_hub (s : State) (o : Nat) : (takeBack s o).hub = s.hub := by
  unfold takeBack
  split
  · rfl
  · rfl
theorem homePut_hub (s : State) (off mask data kslot : Nat) : (homePut s off mask data kslot).hub = s.hub := by
  have hfire : (fireMonitors (touchLine (takeBack s off) off) (paOf (takeBack s off) off)).hub = s.hub :=
    (touchLine_hub (takeBack s off) off).trans (takeBack_hub s off)
  unfold homePut homeWrite
  dsimp only
  split
  · exact hfire
  · split
    · exact hfire
    · exact hfire
theorem devWrite_hub (s : State) (pa kslot : Nat) (l : Bytes) : (devWrite s pa kslot l).hub = s.hub := by
  unfold devWrite
  fun_induction devWriteAux (l.length / 32 + 2) s pa kslot l with
  | case1 => rfl
  | case2 => rfl
  | case3 n s pa kslot l _ lo m mask data t ih =>
    rw [ih]
    simp only [t]
    split
    · exact homePut_hub ..
    · cases s.linkUp.2
      · rfl
      · rfl
theorem writeTags_hub (s : State) (off kslot n : Nat) : (writeTags s off kslot n).hub = s.hub := by
  induction n with
  | zero => rfl
  | succ n ih => exact ih
theorem poisonSector_hub (s : State) (o : Nat) : (poisonSector s o).hub = s.hub := by
  unfold poisonSector
  dsimp only
  split
  · exact takeBack_hub s o
  · exact takeBack_hub s o
theorem takePage_hub (s : State) (v : Vd) (level va : Nat) (l : Bytes) (bad : List Nat) : (takePage s v level va l bad).hub = s.hub := by
  have hwrite : ∀ pa kslot, (writePage s pa kslot l bad).hub = s.hub := fun pa kslot => by
    unfold writePage
    refine (foldl_frame (g := State.hub) (fun t o => ?_) bad _).trans (devWrite_hub ..)
    split
    · exact poisonSector_hub ..
    · rfl
  unfold takePage
  split
  · dsimp only
    split
    · unfold tagLeaf
      split
      · exact (writeTags_hub ..).trans (hwrite ..)
      · exact hwrite ..
    · exact hwrite ..
  · rfl

/-! ## Commands on a virtual device that is known -/

section Known
variable {s : State} {pa : Nat} {c : Cmd} {x : Vd}

theorem cmdVd_known (h : vdKnown s (cmdVd c) = true) : ¬ (!vdKnown s (cmdVd c)) = true := not_not_eq_true h

theorem vdstop_runs {r : State × CmdEnd} (h : cmdReads s pa c) (hcode : c.code = 9) (hlt : c.a1 < 256) (hk : vdKnown s (cmdVd c) = true)
    (hr : stopVd s pa (cmdVd c) c.a2 c.a3 = r) : exec (.vdstop pa) s = .next (cmdEnds pa r) :=
  (exec_vdstop_eq pa s).trans (runCmd_reads h hcode ((if_neg (Nat.not_le.mpr hlt)).trans ((if_neg (not_not_eq_true hk)).trans hr)))

/-- How MIGFINAL ends for a virtual device with a destination. -/
def migFinal (s : State) (pa vd : Nat) (c : Cmd) (x : Vd) (d : Nat × Nat) : State × CmdEnd :=
  if s.hub.cmd = some pa ∧ x.stopped = true then finalStep s vd d
  else match stopVd s pa vd c.a2 c.a3 with
    | (s, .status n) => if n = cDone then finalStep s vd d else (s, .status n)
    | x => x
theorem migfinal_runs {d : Nat × Nat} {r : State × CmdEnd} (h : cmdReads s pa c) (hcode : c.code = 0x0D) (hlt : c.a1 < 256)
    (hk : vdKnown s (cmdVd c) = true) (hx : s.vd? (cmdVd c) = some x) (hd : x.migDest = some d) (hr : migFinal s pa (cmdVd c) c x d = r) :
    exec (.migfinal pa) s = .next (cmdEnds pa r) := by
  refine (exec_migfinal_eq pa s).trans (runCmd_reads h hcode ((if_neg (Nat.not_le.mpr hlt)).trans ((if_neg (not_not_eq_true hk)).trans ?_)))
  rw [hx, Option.bind_some, hd]
  exact hr
/-- The beginning of a migration. -/
def beginMig (s : State) (vd : Nat) (v : Vd) (dest : Nat × Nat) : State × CmdEnd :=
  let held := heldSlots s v
  let here := dest.1 == s.posN
  let (n, t) := s.draw
  let fwm := if here then s.hub.fwm else Config.freeBits 256 n
  let taken := if here then !held.isEmpty else Config.freePick n % 2 == 1
  let attested := here || Config.freePick (n + 1) % 2 == 0
  if here && !vdKnown s dest.2 then (s, .status cNotfound)
  else if !attested || held.any (fun e => !slotPasses s e.2 fwm) then (t, .status cAuth)
  else if taken && !held.isEmpty then (t, .status cInuse)
  else
    let t := sendSlots (Config.freeBits 3072 n).toNat v held t
    ((startLogging t vd v).modVd vd (fun x => { x with migDest := some dest }), .more)
end Known

/-! ## Checkpoints -/

theorem mread_mfree_outside (n : Nat) : ∀ (k : Nat) {m : Memory} {lo o : Nat}, m.wf = true → (o < lo ∨ lo + k ≤ o) →
    mread (mfree m n lo k) o = mread m o := by
  intro k
  induction k with
  | zero => exact fun _ _ => rfl
  | succ k ih =>
    intro m lo o hwf ho
    rw [mfree, ih (mwrite_wf _ _ hwf) (by omega), mread_mwrite_ne _ hwf (by omega)]
/-- An image depends on the memory, the key of slot 0 and the position only. -/
theorem ckptImage_congr {s t : State} (hkey : (s.slot 0).key = (t.slot 0).key) (hpos : s.posN = t.posN) (hmem : s.mem = t.mem) (a n : Nat) (m : Memory) :
    ckptImage s a n m = ckptImage t a n m := by
  induction n with
  | zero => rfl
  | succ n ih => rw [ckptImage, ckptImage, ih, hkey, hmem, paOf, paOf, hpos]

/-- The state that firmware copies: hub-reserved memory holds what it saves. -/
def reserved (s : State) : State := ckptReserve s.draw.2 s.free s.hub.ckpt.length
theorem reserved_mem_outside {s : State} {o : Nat} (hwf : s.mem.wf = true) (ho : o < s.hub.fused.rsvBase ∨
    (s.hub.fused.rsvBase + 8 ≤ o ∧ s.hub.fused.rsvBase + s.hub.fused.rsvBytes ≤ o)) : mread (reserved s).mem o = mread s.mem o := by
  rw [show (reserved s).mem = mwriteN (mfree s.mem s.free s.hub.fused.rsvBase s.hub.fused.rsvBytes) s.hub.fused.rsvBase 8 (s.hub.ckpt.length + 1) from rfl,
    mread_mwriteN_outside _ _ _ _ (mfree_wf _ _ _ hwf) (by omega), mread_mfree_outside _ _ hwf (by omega)]
/-- The record of a checkpoint. -/
def recordOf (s : State) (c : Cmd) : Checkpoint :=
  let h := s.hub
  { kind := ckptKind c, addr := c.a2, mem := s.mem, bad := s.bad, tags := s.tags, parts := h.parts, vds := h.vds, locks := h.locks, slots := h.slots,
    libs := h.libs, handlers := h.handlers, opSaves := h.opSaves, ctxs := s.ctxs, clusters := s.clusters,
    pqs := s.dies.flatMap (fun e => e.2.pq.map (fun q => (e.1, q))) }
/-- The state that CHKPT leaves. -/
def checkpointed (s : State) (c : Cmd) : State :=
  { ckptCopy (reserved s) (ckptKind c) c.a2 with hub := { (reserved s).hub with ckpt := (reserved s).hub.ckpt ++ [recordOf (reserved s) c] } }
theorem checkpointed_mem (s : State) (c : Cmd) : (checkpointed s c).mem = (reserved s).mem := by
  unfold checkpointed ckptCopy
  dsimp only
  split
  · rfl
  · rfl
theorem checkpointed_image (s : State) (c : Cmd) (a n : Nat) (m : Memory) : ckptImage (reserved s) a n m = ckptImage (checkpointed s c) a n m :=
  have hslots : (reserved s).hub.slots = (checkpointed s c).hub.slots := rfl
  have hpos : (reserved s).hub.pos = (checkpointed s c).hub.pos := rfl
  ckptImage_congr (by rw [State.slot, State.slot, hslots]) (by rw [State.posN, State.posN, hpos]) (checkpointed_mem s c).symm a n m

theorem checkpointed_cmem (s : State) (c : Cmd) : (checkpointed s c).cmem =
    if ckptKind c = 0 then ckptImage (reserved s) c.a2 hbmSectors (reserved s).cmem else (reserved s).cmem := by
  unfold checkpointed ckptCopy
  generalize hbmSectors = n
  dsimp only
  split
  · rfl
  · rfl
theorem checkpointed_out (s : State) (c : Cmd) (h : ckptKind c = 1) :
    (checkpointed s c).out = s.out ++ [.checkpoint c.a2 (ckptImage (reserved s) 0 hbmSectors [])] := by
  unfold checkpointed ckptCopy
  generalize hbmSectors = n
  rw [if_neg (by rw [h]; decide)]
  rfl

/-- What CHKLOAD makes of an image. -/
def imageLoaded (s : State) (x : Checkpoint) (mem : Memory) : State :=
  let s := takeBackAll s isHbm
  let cl := tmap (fun _ (y : Cluster) => { y with cache := [], frame := y.written }) x.clusters
  let dies := (List.range 4).foldl (fun t d =>
    let pq := (x.pqs.filter (fun e => e.1 == d)).map (·.2)
    tset t d { tget t d {} with pq := pq, pushes := (pq.map (fun e => e.order + 1)).foldl max (tget t d {}).pushes }) s.dies
  { s with
    mem := mem, bad := x.bad, soft := [], l2 := [], tags := x.tags, planes := [], net := [], ctxs := x.ctxs, clusters := cl, dies := dies
    hub := { s.hub with parts := x.parts, vds := x.vds, locks := x.locks, slots := x.slots, libs := x.libs, handlers := x.handlers,
                        opSaves := x.opSaves, tlb := [], tlbGone := [], fwq := [], svcPart := [], svcPuts := [], svcEnd := none } }

/-! ## A migration's state taken up (R472, R473) -/

/-- The state with the saves and the pages of a migration's state. -/
def pagesTaken (s : State) (v : Vd) (m : MigState) (k : Nat) : State :=
  let s := { s with hub := { s.hub with inbox := s.hub.inbox.eraseIdx k } }
  let s := { s with hub := { s.hub with
    opSaves := m.opSaves.foldl (fun t e => if (tfind t e.1).isSome then t else tset t e.1 e.2) s.hub.opSaves } }
  m.pages.foldl (fun s x => takePage s v x.1 x.2.1 x.2.2.1 x.2.2.2) s
/-- The state with its contexts, waybills and priority queues behind them. -/
def unitsTaken (s : State) (m : MigState) (vd : Nat) : State :=
  let s := (m.ctxs.filter (fun e => (s.ctx e.1).vd == some vd)).foldl (fun s e =>
    s.setCtx e.1 { e.2 with vd := some vd, seqs := [], seen := [], unack := [] }) s
  let s := m.waybills.foldl (fun s e => s.modCluster e.1 (fun c => { c with wbs := c.wbs ++ [{ e.2 with vd := vd, fid := none }] })) s
  m.pq.foldl (fun s e =>
    let d := s.die e.1
    s.setDie e.1 { d with pq := d.pq ++ [{ e.2 with vd := vd, order := d.pushes }], pushes := d.pushes + 1 }) s
/-- The state with the locks that its leaves want. -/
def stateTaken (s : State) (v : Vd) (m : MigState) (vd k : Nat) : State :=
  let s := unitsTaken (pagesTaken s v m k) m vd
  lockOpen (lockOpen s (leafUnits s v eOpo) 2 vd) (leafUnits s v eConf) 1 vd
theorem pagesTaken_inbox (s : State) (v : Vd) (m : MigState) (k : Nat) : (pagesTaken s v m k).hub.inbox = s.hub.inbox.eraseIdx k :=
  congrArg Hub.inbox (foldl_frame (g := State.hub) (f := fun s (x : Nat × Nat × Bytes × List Nat) => takePage s v x.1 x.2.1 x.2.2.1 x.2.2.2)
    (fun _ _ => takePage_hub ..) m.pages _)
theorem pagesTaken_mem {s : State} {m : MigState} (v : Vd) (k : Nat) (h : m.pages = []) : (pagesTaken s v m k).mem = s.mem := by
  unfold pagesTaken
  rw [h]
  rfl
theorem unitsTaken_frame (s : State) (m : MigState) (vd : Nat) : (unitsTaken s m vd).hub = s.hub ∧ (unitsTaken s m vd).mem = s.mem := by
  unfold unitsTaken
  dsimp only
  constructor
  · refine (foldl_frame (g := State.hub) (fun _ _ => ?_) m.pq _).trans ((foldl_frame (g := State.hub) (fun _ _ => ?_) m.waybills _).trans
      (foldl_frame (g := State.hub) (fun _ _ => ?_) _ s))
    · rfl
    · exact State.modCluster_hub ..
    · rfl
  · refine (foldl_frame (g := State.mem) (fun _ _ => ?_) m.pq _).trans ((foldl_frame (g := State.mem) (fun _ _ => ?_) m.waybills _).trans
      (foldl_frame (g := State.mem) (fun _ _ => ?_) _ s))
    · rfl
    · exact State.modCluster_mem ..
    · rfl
theorem lockOpen_frame (s : State) (us : List Nat) (n vd : Nat) : (lockOpen s us n vd).hub.inbox = s.hub.inbox ∧ (lockOpen s us n vd).mem = s.mem :=
  ⟨rfl, rfl⟩

theorem stateTaken_inbox (s : State) (v : Vd) (m : MigState) (vd k : Nat) : (stateTaken s v m vd k).hub.inbox = s.hub.inbox.eraseIdx k := by
  unfold stateTaken
  dsimp only
  rw [(lockOpen_frame _ _ _ _).1, (lockOpen_frame _ _ _ _).1, (unitsTaken_frame _ _ _).1, pagesTaken_inbox]
theorem stateTaken_mem {s : State} {m : MigState} (v : Vd) (vd k : Nat) (h : m.pages = []) : (stateTaken s v m vd k).mem = s.mem := by
  unfold stateTaken
  dsimp only
  rw [(lockOpen_frame _ _ _ _).2, (lockOpen_frame _ _ _ _).2, (unitsTaken_frame _ _ _).2, pagesTaken_mem v k h]
/-- The virtual device's own record set, behind a free value drawn. -/
def withVd (s : State) (vd : Nat) (y : Vd) : State := s.draw.2.setVd vd y
theorem withVd_spec (s : State) (vd : Nat) (y : Vd) :
    (withVd s vd y).vd? vd = some y ∧ (withVd s vd y).hub.inbox = s.hub.inbox ∧ (withVd s vd y).mem = s.mem :=
  ⟨tfind_tset_same .., rfl, rfl⟩

/-- The slot that a transfer record stands for. -/
def transferred (vd : Nat) (rc : Bytes) (kind : SlotKind) (key : Bytes) : KeySlot :=
  { kind := kind, key := BitVec.ofNat 256 (ofBytesLE key), vd := vd, conf := (numAt rc 3 1).testBit 0,
    policy := if kind = .operand ∨ kind = .session then byteSlice rc 64 512 else [],
    ctr := numAt rc 8 8, rp := numAt rc 16 8, sid := numAt rc 4 4, rbase := numAt rc 24 8, rlen := numAt rc 32 8 }

/-- Settles O57. -/
theorem migrationCommands : Obligations.MigrationCommands := by
  intro s s1 u pa c e x rs y vd k n base len rc m d maps key z a puts v only known fresh again
  refine ⟨?_, ?_, ?_, ?_, ?_, ?_, ?_, ?_, ?_, ?_, ?_, ?_, ?_⟩
  · intro h hcode ⟨hlt, hk, hx⟩ hfresh hstop halign hcheck hstep
    refine vdstop_runs h hcode hlt hk ?_
    unfold stopVd
    rw [hx]
    refine (if_neg hfresh).trans ((if_neg (by rw [hstop]; decide)).trans ((if_neg (not_not_intro halign)).trans ?_))
    rw [hcheck]
    exact hstep
  · intro hputs t
    unfold stopStep
    rw [hputs]
    rfl
  · intro h hcode ⟨hlt, hk, hx⟩ honly hstop hstopped hread
    refine (exec_vdstart_eq pa s).trans (runCmd_reads h hcode ((if_neg (by omega)).trans ((if_neg (not_not_eq_true hk)).trans ?_)))
    rw [show s.vd? (cmdVd c) = some x from hx]
    dsimp only
    rw [hstop, hstopped]
    dsimp only
    rw [show readArea (vreader (.cmd (vdCluster s (cmdVd c))) (cmdVd c)) s base len = (s1, .pause) from hread]
  · intro h hcode ⟨hlt, hk, hx⟩ honly hstop hstopped hread hown hrest
    have hany : ¬ rs.any (fun r => (s.ctx r.cid).vd != some v) = true := by
      rw [List.any_eq_true]; rintro ⟨r, hr, hne⟩; exact bne_iff_ne.mp hne (hown r hr)
    refine (exec_vdstart_eq pa s).trans (runCmd_done h hcode ((if_neg (by omega)).trans ((if_neg (not_not_eq_true hk)).trans ?_)))
    rw [show s.vd? (cmdVd c) = some x from hx]
    dsimp only
    rw [hstop, hstopped]
    dsimp only
    rw [show readArea (vreader (.cmd (vdCluster s (cmdVd c))) (cmdVd c)) s base len = (s1, .ok (some rs)) from hread]
    refine (if_neg hany).trans ?_
    rw [hrest]
    rfl
  · intro dest t h hcode ⟨hlt, hk, hx⟩ h2 h3
    have hrun : ∀ r, (if s.hub.cmd = some pa then
          (if ownShoots x then (s, .more) else ((leaves s x).foldl (fun t l => carryPage t v dest l) s, .status cDone))
        else beginMig s v x dest) = r → exec (.migbegin pa) s = .next (cmdEnds pa r) := fun r hr => by
      refine (exec_migbegin_eq pa s).trans (runCmd_reads h hcode ((if_neg (by omega)).trans ((if_neg (not_not_eq_true hk)).trans ?_)))
      rw [show s.vd? (cmdVd c) = some x from hx]
      exact hr
    refine ⟨fun hfresh hhere hdvd hheld => hrun _ ((if_neg hfresh).trans ?_), fun hagain hown => hrun _ ((if_pos hagain).trans (if_pos hown)),
      fun hagain hown => hrun _ ((if_pos hagain).trans (if_neg (Bool.not_eq_true _ ▸ hown)))⟩
    have hpos : (dest.1 == s.posN) = true := beq_iff_eq.mpr hhere
    have hgone : ¬ ((dest.1 == s.posN) && !vdKnown s dest.2) = true := by rw [hdvd, hpos]; decide
    unfold beginMig
    dsimp only [State.draw]
    rw [if_neg hgone, hheld, hpos]
    rfl
  · intro h hcode ⟨hlt, hk, hx⟩ honly hd
    have hrun : ∀ r, (if s.hub.cmd = some pa then (match passEnd s v x d with
            | some (s, n) => (s, .res cDone n)
            | none => (s, .more))
          else (passBegin s v x, .more)) = r → exec (.migpass pa) s = .next (cmdEnds pa r) := fun r hr => by
      refine (exec_migpass_eq pa s).trans (runCmd_reads h hcode ((if_neg (by omega)).trans ((if_neg (not_not_eq_true hk)).trans ?_)))
      rw [show s.vd? (cmdVd c) = some x from hx]
      dsimp only
      rw [hd]
      exact hr
    refine ⟨fun hfresh => hrun _ (if_neg hfresh), fun hagain hown => hrun _ ((if_pos hagain).trans ?_), fun hagain hend => hrun _ ((if_pos hagain).trans ?_)⟩
    · rw [passEnd, if_pos hown]
    · rw [hend]; rfl
  · intro h hcode ⟨hlt, hk, hx⟩ hd hnot hstop
    have hrun := fun r hr => migfinal_runs (r := r) h hcode hlt hk hx hd hr
    refine ⟨fun hne => hrun _ ((if_neg hnot).trans ?_), fun he => hrun _ ((if_neg hnot).trans ?_)⟩
    · rw [hstop]
      cases e with
      | status n => exact if_neg (hne n rfl)
      | res n v => rfl
      | more => rfl
    · rw [hstop, he]
      exact if_pos rfl
  · intro h hcode ⟨hlt, hk, hx⟩ hd hagain hstopped quiet t st
    have hrun := fun r hr => migfinal_runs (r := r) h hcode hlt hk hx hd ((if_pos ⟨hagain, hstopped⟩).trans hr)
    have hidle : quiet → (ctxsOf s v).all (fun c => (s.ctx c).unack.isEmpty) = true := fun hq =>
      List.all_eq_true.mpr fun i hi => by rw [hq i hi]; rfl
    have hfinal : ∀ r, x.migTodo ≠ none → quiet → (if !strandsDone t v then (t, .more)
        else match passEnd t v x d with
          | none => (t, .more)
          | some (s, k) => (if d.1 = s.posN then { s with hub := { s.hub with inbox := s.hub.inbox ++ [migState s v x] } }
            else s.emit (.migState (migState s v x)), .res cDone k)) = r → finalStep s v d = r := fun r htodo hq hr => by
      unfold finalStep
      rw [hx]
      dsimp only
      rw [if_neg (fun hn => htodo (Option.isNone_iff_eq_none.mp hn)), if_pos (hidle hq)]
      exact hr
    refine ⟨fun htodo => hrun _ ?_, fun htodo hq hdone => hrun _ (hfinal _ htodo hq (if_pos (Bool.not_eq_true' _ ▸ hdone))),
      fun htodo hq hdone hend => hrun _ (hfinal _ htodo hq ((if_neg (not_not_eq_true hdone)).trans ?_))⟩
    · unfold finalStep
      rw [hx]
      exact if_pos (Option.isNone_iff_eq_none.mpr htodo)
    · rw [hend]
      rfl
  · intro h hcode hform hstop hslots f
    have hall : allStopped s = true := List.all_eq_true.mpr hstop
    have hnone : ¬ s.hub.slots.any (fun e => (e.2.kind == .operand || e.2.kind == .session) && (e.2.policy.getD 5 0).getLsbD 1) = true := by
      rw [List.any_eq_true]
      rintro ⟨e, he, hbad⟩
      obtain ⟨hkind, hbit⟩ := Bool.and_eq_true_iff.mp hbad
      rw [Bool.or_eq_true, beq_iff_eq, beq_iff_eq] at hkind
      rw [hslots e he hkind] at hbit
      exact Bool.false_ne_true hbit
    refine ⟨checkpointed s c, recordOf (reserved s) c, ?_, rfl, rfl, rfl, (checkpointed_mem s c).symm, rfl, rfl, rfl, rfl, rfl,
      fun hwf o ho => ?_, ?_, fun h1 => ?_⟩
    · refine (exec_chkpt_eq pa s).trans (runCmd_done h hcode ((if_neg (not_not_eq_true hform)).trans ((if_neg (not_not_eq_true hall)).trans
        ((if_neg hnone).trans ?_))))
      change _ = (checkpointed s c, CmdEnd.status cDone)
      unfold checkpointed recordOf reserved
      dsimp only [State.draw]
    · rw [checkpointed_mem]
      exact reserved_mem_outside hwf ho
    · rw [← checkpointed_image, checkpointed_cmem]
      rfl
    · rw [checkpointed_out s c h1, checkpointed_image]
  · intro h hcode hform hstop image
    have hall : allStopped s = true := List.all_eq_true.mpr hstop
    have hrun : ∀ r, (match image with
        | (_, none) => (s, .status cAuth)
        | (s, some (x, mem)) => (imageLoaded s x mem, .status cDone)) = r → exec (.chkload pa) s = .next (cmdEnds pa r) := fun r hr => by
      refine (exec_chkload_eq pa s).trans (runCmd_reads h hcode ((if_neg (not_not_eq_true hform)).trans ((if_neg (not_not_eq_true hall)).trans ?_)))
      rw [← hr]
      change (match image with | (_, none) => _ | (s, some (x, mem)) => _) = _
      cases image with
      | mk s' o => cases o with
        | none => rfl
        | some p => rfl
    refine ⟨fun him => hrun (s, .status 6) (by rw [him]; rfl), fun him => ⟨imageLoaded s1 y z, hrun (imageLoaded s1 y z, .status 1) (by rw [him]; rfl), rfl, rfl, rfl, rfl, rfl, rfl, rfl, rfl⟩⟩
  · intro kind j hx hzero hlen hj hlo hhi
    have hall : ∀ r, transferSlot s vd x rc = r → transferAll vd x ((rc.length + 1023) / 1024) rc s =
        (match r with | .inl (k, y) => .inl (s.setSlot k y) | .inr e => .inr e) := fun r hr => by
      rw [hlen, show (1024 + 1023) / 1024 = 0 + 1 from rfl, transferAll, ← hlen, List.take_length, hr]
      rfl
    have hform : ¬ (rc.length ≠ 1024 ∨ transferZeros rc = false) := by
      rw [hzero]; exact not_or.mpr ⟨not_not_intro hlen, nofun⟩
    refine ⟨fun hused => ?_, fun hfree hkey => ?_⟩
    · have hslot : transferSlot s vd x rc = .inr 4 := (if_neg hform).trans (if_pos (Or.inr (Or.inr hused)))
      rw [exec_slotTransferRecord_eq, execSlotTransferRecord, hx]
      dsimp only
      rw [hall _ hslot]
      rfl
    · have hin : ¬ (numAt rc 0 2 = 0 ∨ ¬ (x.ksbase ≤ numAt rc 0 2 ∧ numAt rc 0 2 < x.ksbase + x.kscnt) ∨ (s.slot (numAt rc 0 2)).kind ≠ .free) :=
        not_or.mpr ⟨hj, not_or.mpr ⟨not_not_intro ⟨hlo, hhi⟩, not_not_intro hfree⟩⟩
      have hslot : transferSlot s vd x rc = .inl (j, transferred vd rc kind key) := by
        refine (if_neg hform).trans ((if_neg hin).trans ?_)
        rw [hkey]
        rfl
      refine ⟨transferred vd rc kind key, _, ?_, rfl, rfl, rfl, rfl, rfl, rfl⟩
      rw [exec_slotTransferRecord_eq, execSlotTransferRecord, hx]
      dsimp only
      rw [hall _ hslot]
      rfl
  · intro hx hall
    rw [exec_slotTransferRecord_eq, execSlotTransferRecord, hx]
    dsimp only
    rw [hall]
  · intro hx hm
    refine ⟨withVd (stateTaken s x m vd k) vd { x with
        evicted := m.evicted, models := m.models.map (modelHere (stateTaken s x m vd k) x), stop := m.stop, stopped := true },
      m.models.map (modelHere (stateTaken s x m vd k) x), ?_, (withVd_spec ..).1, ?_, (withVd_spec ..).2.1.trans (stateTaken_inbox s x m vd k),
      fun hp => (withVd_spec ..).2.2.trans (stateTaken_mem x vd k hp)⟩
    · rw [exec_migrationStateTransfer_eq, execMigrationStateTransfer, hx]
      dsimp only [nextState]
      rw [hm]
      rfl
    · rw [List.map_map]; rfl
end Sys2Proof.Proofs
end

section
/-! The control page of a virtual device, bring-up, companion, links, temperatures and management messages (R434, R435, R444 to R446,
R453 to R456, R459, R482, R509 to R518). -/

namespace Sys2Proof.Proofs

open Sys2Proof Sys2Proof.Machine Sys2Proof.Claim

/-- A field of a word is its extraction. -/
theorem bits_eq_extract {n : Nat} (w : BitVec n) (lo len : Nat) : bits w.toNat lo len = (w.extractLsb' lo len).toNat := by
  rw [BitVec.extractLsb'_toNat, Nat.shiftRight_eq_div_pow, bits]

/-! ## Context records (R445, R446) -/

section Records
variable {s u : State} {vd pa op : Nat} {l : Bytes} {k : State → Nat → Nat → Nat → State × Option Nat} {r : State × Option Nat}

/-- How a record's turn ends: with a status, or it waits. -/
def recordEnds (vd pa : Nat) : State × Option Nat → Ans
  | (s, some n) => .next (putStatus (leaveStart s vd pa) pa n)
  | (s, none) => .next s
/-- A record of an operation that may be acted on is handed on with its context. -/
theorem ctxRecord_reads (h : recordReads s vd pa u l) (hop : bits (numAt l 0 8) 0 2 = op) (hpc : op = 1 → numAt l 8 8 % 64 = 0)
    (hvd : (u.ctx (8 * bits (numAt l 0 8) 10 6 + bits (numAt l 0 8) 7 3)).vd = some vd)
    (hk : k u (8 * bits (numAt l 0 8) 10 6 + bits (numAt l 0 8) 7 3) (numAt l 8 8) (numAt l 16 8) = r) :
    ctxRecord op vd pa s k = recordEnds vd pa r := by
  obtain ⟨⟨v, hv, hplace, hturn⟩, hread, halign, hok⟩ := h
  have hfirst : ¬ (!v.cstarts.isEmpty && v.cstarts.head? != some pa) = true := by
    obtain h0 | h0 := hturn
    · rw [h0]; exact Bool.false_ne_true
    · rw [h0, bne_self_eq_false, Bool.and_false]; exact Bool.false_ne_true
  have hgood : ¬ (pa % 32 ≠ 0 ∨ recordOk (numAt l 0 8) = false ∨ (bits (numAt l 0 8) 0 2 = 1 ∧ numAt l 8 8 % 64 ≠ 0)) := by
    rw [hok]
    exact not_or.mpr ⟨not_not_intro halign, not_or.mpr ⟨nofun, fun ⟨h1, h2⟩ => h2 (hpc (hop.symm.trans h1))⟩⟩
  unfold ctxRecord
  rw [hv]
  refine (if_neg (not_not_eq_true hplace)).trans ((if_neg hfirst).trans ?_)
  rw [hread]
  refine (if_neg hgood).trans ((if_neg (not_not_intro hop)).trans ((if_neg (not_not_intro hvd)).trans ?_))
  subst hk
  unfold recordEnds
  rfl
end Records

/-- A context started: its registers are those of R446. -/
theorem startCtx_spec (u : State) (cid pc arg : Nat) : ((startCtx u cid pc arg).ctx cid).run = .running ∧
    ((startCtx u cid pc arg).ctx cid).pc = BitVec.ofNat 64 pc ∧ ((startCtx u cid pc arg).ctx cid).pl = super ∧
    ((startCtx u cid pc arg).ctx cid).getX 2 = BitVec.ofNat 64 arg ∧ ∀ r : XReg, r ≠ 2 → ((startCtx u cid pc arg).ctx cid).getX r = 0 := by
  have hctx : ∃ c : Ctx, (startCtx u cid pc arg).ctx cid = { ctxInit cid with
      vd := c.vd, run := .running, pc := BitVec.ofNat 64 pc, x := (Vector.replicate 32 0).set 2 (BitVec.ofNat 64 arg), bal := c.bal, secs := c.secs } :=
    ⟨_, State.ctx_modCtx ..⟩
  obtain ⟨c, hc⟩ := hctx
  rw [hc]
  refine ⟨rfl, rfl, rfl, rfl, fun r hr => ?_⟩
  unfold Ctx.getX
  split
  · rfl
  · have hne : 2 ≠ r.val := fun h => hr (Fin.ext h.symm)
    exact (Vector.getElem_set_ne (by decide) r.isLt hne).trans (Vector.getElem_replicate ..)

/-! ## Fault answers (R267, R456) -/

section Faults
variable {s : State} {vd fid : Nat} {v : Vd} {o : FidOwner}
theorem dropFid_ctx (s : State) (vd fid cid : Nat) : (dropFid s vd fid).ctx cid = s.ctx cid := by
  unfold dropFid State.ctx
  rw [State.modVd_ctxs]
theorem fid_owner (hv : s.vd? vd = some v) (ho : tfind v.fids fid = some o) : (s.vd? vd).bind (fun v => tfind v.fids fid) = some o := by
  rw [hv]; exact ho
/-- A context that a resolved fault had stalled goes on. -/
def unstalled (fid : Nat) (c : Ctx) : Ctx :=
  match c.wait with
  | .stall f _ _ => if f = fid then { c with wait := .none } else c
  | _ => c
end Faults

/-! ## Shoot-downs (R453) -/

theorem beginShoot_spec {s : State} {v : Vd} (vd lo hi : Nat) (own : Bool) (hv : s.vd? vd = some v) : ∃ y : Shoot, y.lo = lo ∧ y.hi = hi ∧
    (beginShoot s vd lo hi own).vd? vd = some { v with shoots := v.shoots ++ [y] } ∧
    (beginShoot s vd lo hi own).hub.tlb = s.hub.tlb.filter (fun t => !(t.vd == vd && tlbIn t lo hi)) := by
  unfold beginShoot State.modVd
  dsimp only
  rw [hv]
  exact ⟨_, rfl, rfl, tfind_tset_same .., rfl⟩

/-! ## Bring-up (R434, R482, R516) -/

/-- What bring-up after a cold reset leaves as the reset set it. -/
def bootState (s : State) := ((s.planes, s.ctxs, s.mem, s.power, s.net), (s.hub.parts, s.hub.vds, s.hub.pos, s.hub.hctr), s.hub.fwm, s.hub.svn, s.hub.booted)
theorem bootState_setLink (s : State) (i : Nat) (x : Link) : bootState (setLink s i x) = bootState s := by
  unfold setLink
  dsimp only
  split <;> rfl
theorem bootState_trainLink (s : State) (i : Nat) : bootState (trainLink s i) = bootState s := (bootState_setLink ..).trans rfl
theorem bootState_retest (passed : List Nat) (s : State) : bootState (retest passed s) = bootState s := by
  refine Eq.trans ?_ (foldl_frame (g := bootState) (f := fun s k => addLog s 4 0 (if k < 2048 then faY s (if k < 2048 then k else clusterTile ((k - 2048) / 16)) else 0)
    (if k < 2048 then faX s (if k < 2048 then k else clusterTile ((k - 2048) / 16)) else 0) 0) (fun _ _ => rfl) s.hub.retclear s)
  rfl
theorem bootState_openHub (s : State) : bootState (openHub s) = bootState s := by
  unfold openHub
  split <;> rfl
theorem imageAccepted_iff (s : State) (img : BootImage) : imageAccepted s img = true ↔
    digest (bytesLE 384 img.modulus) = s.hub.fused.fwKey ∧ pssVerify img.modulus img.bytes img.sig = true ∧ s.hub.fused.minSvn ≤ img.svn := by
  unfold imageAccepted
  dsimp only
  rw [Bool.and_eq_true, Bool.and_eq_true, beq_iff_eq, decide_eq_true_iff, and_assoc]
/-- A reset with its image: what it sets is kept by bring-up, and without an image the hub page stays closed. -/
theorem coldReset_ends (img : BootImage) (s : State) (ok : Bool) (hok : imageAccepted s img = ok) : ∃ r, exec (.coldReset img) s = .next r ∧
    bootState r = (([], [], [], [], []), ([], [], s.hub.posNext.getD 0, s.hub.hctr), (if ok then digest img.bytes else 0), (if ok then img.svn else 0), ok) ∧
    (ok = false → r.hub.up = false) := by
  have hdraw : imageAccepted { s with free := s.free + 1 } img = ok := hok
  rw [exec_coldReset_eq, execColdReset]
  dsimp only [State.draw]
  rw [hdraw]
  cases ok with
  | false => exact ⟨_, congrArg _ (if_neg Bool.false_ne_true), rfl, fun _ => rfl⟩
  | true =>
    refine ⟨_, congrArg _ (if_pos rfl), ?_, Bool.noConfusion⟩
    refine (bootState_openHub _).trans ((foldl_frame (g := bootState) bootState_trainLink _ _).trans ((bootState_retest ..).trans ?_))
    dsimp only [bootState]
    rfl

/-! ## Power tables -/

/-- An entry of a table filtered by its values passes the filter. -/
theorem tfind_filter_val {α : Type} {q : α → Bool} {t : Tab α} {k : Nat} {v : α} (h : tfind (t.filter (fun e => q e.2)) k = some v) : q v = true := by
  induction t with
  | nil => exact absurd h nofun
  | cons x r ih =>
    rw [List.filter_cons] at h
    split at h
    · next hq =>
      rw [tfind] at h
      split at h
      · cases h; exact hq
      · exact ih h
    · exact ih h

/-! ## Bytes of messages (R518) -/

theorem numAt_append_right (a b : Bytes) (o n : Nat) : numAt (a ++ b) (a.length + o) n = numAt b o n := by
  unfold numAt byteSlice
  rw [← List.drop_drop, List.drop_left]
theorem numAt_cons (c : Byte) (b : Bytes) (o n : Nat) : numAt (c :: b) (1 + o) n = numAt b o n := numAt_append_right [c] b o n
theorem numAt_bytesLE_append (n v : Nat) (b : Bytes) : numAt (bytesLE n v ++ b) 0 n = v % 256 ^ n := by
  unfold numAt byteSlice
  rw [List.drop_zero, List.take_left' (length_bytesLE n v), ofBytesLE_bytesLE]
/-- A word is read back from its bytes. -/
theorem word_of_bytes {k n : Nat} (h : 2 ^ k = 256 ^ n) (z : BitVec k) (b : Bytes) : BitVec.ofNat k (numAt (bytesLE n z.toNat ++ b) 0 n) = z := by
  rw [numAt_bytesLE_append, Nat.mod_eq_of_lt (h ▸ z.isLt), BitVec.ofNat_toNat, BitVec.setWidth_eq]
theorem word_of_own_bytes {k n : Nat} (h : 2 ^ k = 256 ^ n) (z : BitVec k) : BitVec.ofNat k (numAt (bytesLE n z.toNat) 0 n) = z := by
  rw [← List.append_nil (bytesLE n z.toNat), word_of_bytes h]
theorem length_flatMap_bytesLE (l : List (BitVec 256)) : (l.flatMap (fun d => bytesLE 32 d.toNat)).length = 32 * l.length := by
  induction l with
  | nil => rfl
  | cons d r ih => rw [List.flatMap_cons, List.length_append, length_bytesLE, ih, List.length_cons]; omega
/-- A list of digests is read back from its bytes. -/
theorem digests_of_bytes (l : List (BitVec 256)) :
    (List.range l.length).map (fun i => BitVec.ofNat 256 (numAt (l.flatMap (fun d => bytesLE 32 d.toNat)) (32 * i) 32)) = l := by
  induction l with
  | nil => rfl
  | cons d r ih =>
    rw [List.length_cons, List.range_succ_eq_map, List.map_cons, List.map_map, List.flatMap_cons]
    refine congr (congrArg List.cons ?_) (Eq.trans (List.map_congr_left fun i _ => ?_) ih)
    · exact word_of_bytes (by decide) d _
    · have hat := numAt_append_right (bytesLE 32 d.toNat) (r.flatMap (fun d => bytesLE 32 d.toNat)) (32 * i) 32
      rw [length_bytesLE] at hat
      have hnext : 32 * (i + 1) = 32 + 32 * i := by omega
      dsimp only [Function.comp_apply, Nat.succ_eq_add_one]
      rw [hnext, hat]

theorem messageInstr_lnktrain (d : Bytes) : messageInstr (3 :: d) = if d.length = 2 then some (.lnktrain (BitVec.ofNat 16 (numAt d 0 2))) else none := rfl
theorem messageInstr_evread (d : Bytes) : messageInstr (4 :: d) = if d.length = 4 then some (.evread (BitVec.ofNat 32 (numAt d 0 4))) else none := rfl
/-- A message with a policy of one to four digests is read as PODPOL of them. -/
theorem messageInstr_podpol (l : List (BitVec 256)) (h1 : 1 ≤ l.length) (h4 : l.length ≤ 4) :
    messageInstr (2 :: BitVec.ofNat 8 l.length :: l.flatMap (fun d => bytesLE 32 d.toNat)) = some (.podpol l) := by
  have hn : ((BitVec.ofNat 8 l.length :: l.flatMap (fun d => bytesLE 32 d.toNat)).getD 0 0).toNat = l.length :=
    (BitVec.toNat_ofNat ..).trans (Nat.mod_eq_of_lt (by omega))
  have hlen : (BitVec.ofNat 8 l.length :: l.flatMap (fun d => bytesLE 32 d.toNat)).length = 1 + 32 * l.length := by
    rw [List.length_cons, length_flatMap_bytesLE, Nat.add_comm]
  refine (if_pos ?_).trans (congrArg (fun l => some (Instr.podpol l)) ?_)
  · exact ⟨hn.symm ▸ h1, hn.symm ▸ h4, hn.symm ▸ hlen⟩
  · rw [hn]
    refine Eq.trans (List.map_congr_left fun i _ => ?_) (digests_of_bytes l)
    rw [numAt_cons]
/-- A message of RETCLEAR is read as it was written. -/
theorem messageInstr_retclear (k : Bool) (x y b : BitVec 16) :
    messageInstr (5 :: BitVec.ofNat 8 k.toNat :: (bytesLE 2 x.toNat ++ bytesLE 2 y.toNat ++ bytesLE 2 b.toNat)) = some (.retclear k x y b) := by
  have hword : ∀ (z : BitVec 16) (r : Bytes), BitVec.ofNat 16 (numAt (bytesLE 2 z.toNat ++ r) 0 2) = z := word_of_bytes (by decide)
  have hx := hword x (bytesLE 2 y.toNat ++ bytesLE 2 b.toNat)
  have hy := hword y (bytesLE 2 b.toNat)
  have hb := hword b []
  have hk : numAt (BitVec.ofNat 8 k.toNat :: (bytesLE 2 x.toNat ++ bytesLE 2 y.toNat ++ bytesLE 2 b.toNat)) 0 1 = k.toNat := by
    refine (numAt_bytesLE_append 1 k.toNat _).trans (Nat.mod_eq_of_lt ?_)
    cases k <;> decide
  have hle : k.toNat ≤ 1 := Bool.toNat_le k
  have hbeq : (k.toNat == 1) = k := by cases k <;> rfl
  rw [← numAt_append_right (bytesLE 2 x.toNat), length_bytesLE] at hy
  rw [List.append_nil, ← numAt_append_right (bytesLE 2 y.toNat), length_bytesLE, ← numAt_append_right (bytesLE 2 x.toNat), length_bytesLE] at hb
  rw [← numAt_cons (BitVec.ofNat 8 k.toNat)] at hx hy hb
  rw [List.append_assoc] at hk ⊢
  have hlen : (BitVec.ofNat 8 k.toNat :: (bytesLE 2 x.toNat ++ (bytesLE 2 y.toNat ++ bytesLE 2 b.toNat))).length = 7 := by
    rw [List.length_cons, List.length_append, List.length_append, length_bytesLE, length_bytesLE, length_bytesLE]
  refine (if_pos ⟨hlen, hk.symm ▸ hle⟩).trans ?_
  rw [hk, hbeq]
  exact congrArg some (congr (congr (congrArg (Instr.retclear k) hx) hy) hb)
/-- No other command is read. -/
theorem messageInstr_unknown (c : Byte) (d : Bytes) (hc : c = 0 ∨ 6 < c.toNat) : messageInstr (c :: d) = none := by
  have hno : c.toNat = 0 ∨ 6 < c.toNat := hc.imp_left (congrArg BitVec.toNat)
  unfold messageInstr
  dsimp only
  split
  case h_7 => rfl
  all_goals omega

/-! ## The companion (R435, R438) -/

/-- The line of a sector the companion reads, corrected and kept track of. -/
def companionLine (s : State) (off : Nat) : State :=
  let t := correct (touchLine s (off / 32 * 32)) (off / 32 * 32)
  { t with dir := (t.dir ++ [off / 128]).eraseDups }
/-- The bytes the companion reads of an unlocked unit. -/
def companionBytes (s : State) (off k : Nat) : Bytes :=
  if s.bad.contains (off / 32 * 32) then (List.range k).map (fun i => Config.freeByte s.free (off + i)) else mreadBytes s.mem off k
theorem length_mreadBytes (m : Memory) (n : Nat) : ∀ a, (mreadBytes m a n).length = n := by
  induction n with
  | zero => exact fun _ => rfl
  | succ n ih => exact fun a => congrArg (· + 1) (ih _)
theorem length_companionBytes (s : State) (off k : Nat) : (companionBytes s off k).length = k := by
  unfold companionBytes
  split
  · rw [List.length_map, List.length_range]
  · exact length_mreadBytes ..
/-- A piece of a companion read. -/
theorem companionRead_turn {s t : State} {d : Bytes} {off len : Nat} (hup : axanoUp s = true) (hin : off + len ≤ hbmBytes)
    (h : (if unitLocked s off = true then (s.draw.2, List.replicate (pieceLen off len) 0xFF)
      else (companionLine s.draw.2 off, companionBytes s off (pieceLen off len))) = (t, d)) :
    exec (.companionRead off len) s = .next (thenRest (len - pieceLen off len) (.companionRead (off + pieceLen off len) (len - pieceLen off len))
      ((logLocked t off (pieceLen off len) len).emit (.companionData d))) := by
  rw [exec_companionRead_eq, execCompanionRead, if_neg (not_not_eq_true hup), if_neg (Nat.not_lt.mpr hin)]
  have hlock : unitLocked s.draw.2 off = unitLocked s off := rfl
  dsimp only
  rw [hlock]
  by_cases hl : unitLocked s off = true
  · rw [if_pos hl] at h ⊢
    cases h
    rfl
  · rw [if_neg hl] at h ⊢
    cases h
    rfl

/-- Settles O58. -/
theorem controlAndWorld : Obligations.ControlAndWorld := by
  intro s u vd pa fid cid pl l v x xs rc recs w va xd st off len link peer img die temp data req pos fwms mask ctr tx ty b t cl num
    w0 at_ done lk draws acted
  refine ⟨?_, ?_, ?_, ?_, ?_, ?_, ?_, ?_, ?_, ?_, ?_, ?_, ?_, ?_, ?_, ?_, ?_, ?_, ?_, ?_, ?_, ?_, ?_, ?_, ?_, ?_, ?_, ?_, ?_, ?_, ?_⟩
  · intro h hop hpc hvd
    have hrun := fun k (r : State × Option Nat) hk => ctxRecord_reads (k := k) (r := r) h hop (fun _ => hpc) hvd hk
    refine ⟨fun hbusy => (exec_contextStart_eq vd pa s).trans ?_, fun hstop hdone => (exec_contextStart_eq vd pa s).trans ?_, startCtx_spec ..⟩
    · exact hrun _ (u, some 2) (if_pos hbusy)
    · exact hrun _ (startCtx u at_ (numAt l 8 8) (numAt l 16 8), some 1) ((if_neg (not_not_intro hstop)).trans (if_pos hdone))
  · intro h hop hvd
    have hrun := fun k (r : State × Option Nat) hk => ctxRecord_reads (k := k) (r := r) h hop (fun h1 => absurd h1 (by decide)) hvd hk
    refine ⟨fun hstop => (exec_contextKill_eq vd pa s).trans ?_, fun hstop => (exec_contextKill_eq vd pa s).trans ?_⟩
    · exact hrun _ (killCtx u at_, some 5) (if_pos hstop)
    · exact hrun _ (u, none) (if_neg (Bool.not_eq_true _ ▸ hstop))
  · intro hv ho hwait
    have howner := fid_owner hv ho
    have hwait' : ((dropFid s vd fid).ctx cid).wait = .stall fid va none := (congrArg Ctx.wait (dropFid_ctx s vd fid cid)).trans hwait
    refine ⟨⟨(dropFid s vd fid).modCtx cid (unstalled fid), ?_, ?_⟩, ?_⟩
    · rw [exec_faultResolve_eq, execFaultResolve, howner]
      rfl
    · rw [State.ctx_modCtx, dropFid_ctx, unstalled, hwait]
      exact if_pos rfl
    · rw [exec_faultFail_eq, execFaultFail, howner]
      dsimp only
      rw [hwait', dropFid_ctx]
      exact congrArg _ (if_neg (not_not_intro rfl))
  · intro hv ho hwait
    have hwait' : ((dropFid s vd fid).ctx cid).wait = .stall fid va (some (xd, st)) := (congrArg Ctx.wait (dropFid_ctx s vd fid cid)).trans hwait
    rw [exec_faultFail_eq, execFaultFail, fid_owner hv ho]
    dsimp only
    rw [hwait']
    exact congrArg _ (if_neg (not_not_intro rfl))
  · intro hv ho
    refine ⟨?_, ?_⟩
    · rw [exec_faultResolve_eq, execFaultResolve, fid_owner hv ho]
    · rw [exec_faultFail_eq, execFaultFail, fid_owner hv ho]
  · intro hv ho
    refine ⟨?_, ?_⟩
    · rw [exec_faultResolve_eq, execFaultResolve, fid_owner hv ho]
    · rw [exec_faultFail_eq, execFaultFail, fid_owner hv ho]
  · intro hv ho
    refine ⟨?_, ?_⟩
    · rw [exec_faultResolve_eq, execFaultResolve, fid_owner hv ho]
    · rw [exec_faultFail_eq, execFaultFail, fid_owner hv ho]
  · intro sz lo hi hv h0 hsz
    obtain ⟨y, hlo, hhi, hvd, htlb⟩ := beginShoot_spec (s := s.modVd vd (fun v => { v with sdReq := v.sdReq + 1 })) (v := { v with sdReq := v.sdReq + 1 })
      vd lo hi false (by unfold State.modVd; rw [hv]; exact tfind_tset_same ..)
    refine ⟨_, y, ?_, hlo, hhi, hvd, htlb.trans ?_⟩
    · rw [exec_shootdownRequest_eq, execShootdownRequest, hv]
      exact if_neg (not_or.mpr ⟨not_not_intro h0, not_not_intro hsz⟩)
    · unfold State.modVd; rw [hv]; rfl
  · intro hv hshoots hplanes hstreams hpkts hmaps hctxs hputs
    have hstream : s.planes.any (fun e => e.2.vd == vd && streamIn x.frames e.2) = false := by
      rw [List.any_eq_false]
      intro e he h
      obtain ⟨hvd, hs⟩ := Bool.and_eq_true_iff.mp h
      obtain ⟨hre, hany⟩ := Bool.and_eq_true_iff.mp hs
      obtain ⟨a, ha, hin⟩ := List.any_eq_true.mp hany
      exact Bool.false_ne_true ((hstreams e he (beq_iff_eq.mp hvd) (Bool.not_eq_true' _ ▸ hre) a ha).symm.trans hin)
    have hall : x.pkts.all (fun k => !(sentFx s vd x.frames).contains k) = true := List.all_eq_true.mpr fun k hk => by
      rw [Bool.not_eq_true']
      exact Bool.eq_false_iff.mpr fun h => hpkts k hk (List.contains_iff_mem.mp h)
    have hctx : s.ctxs.any (fun e => e.2.vd == some vd && (cutUses x.lo x.hi e.2 || e.2.puts.any (fun a => inFrames x.frames a.sector))) = false := by
      rw [List.any_eq_false]
      intro e he h
      obtain ⟨hvd, hs⟩ := Bool.and_eq_true_iff.mp h
      obtain ⟨hcut, hput⟩ := hctxs e he (beq_iff_eq.mp hvd)
      rw [hcut, Bool.false_or] at hs
      obtain ⟨a, ha, hin⟩ := List.any_eq_true.mp hs
      exact Bool.false_ne_true ((hput a ha).symm.trans hin)
    have hput : (s.hub.cmdPuts ++ s.hub.svcPuts).any (fun a => inFrames x.frames a.sector) = false := by
      rw [List.any_eq_false]
      exact fun a ha h => Bool.false_ne_true ((hputs a ha).symm.trans h)
    have hdone : shootDone s vd x = true := by
      unfold shootDone
      dsimp only
      rw [hplanes, hstream, hall, hctx, hput, hv]
      dsimp only
      rw [hmaps]
      rfl
    rw [exec_shootdownComplete_eq, execShootdownComplete, hv]
    dsimp only
    rw [hshoots]
    exact congrArg _ (if_pos hdone)
  · intro hv hheld hroom
    rw [exec_faultRecordHeldWrite_eq, execFaultRecordHeldWrite, hv]
    dsimp only
    rw [hheld]
    exact congrArg _ (if_pos hroom)
  · have hiff := imageAccepted_iff s img
    obtain ⟨r, hr, hkept, hup⟩ := coldReset_ends img s _ rfl
    simp only [bootState, Prod.mk.injEq] at hkept
    obtain ⟨⟨hpl, hcx, hmem, hpow, hnet⟩, ⟨hparts, hvds, hpos, hhctr⟩, hfwm, hsvn, hbooted⟩ := hkept
    refine ⟨r, hr, hpl, hcx, hmem, hpow, hnet, hparts, hvds, hpos, hhctr, ?_, ?_⟩
    · intro hok
      have hacc := hiff.mpr hok
      exact ⟨hfwm.trans (if_pos hacc), hsvn.trans (if_pos hacc), hbooted.trans hacc⟩
    · intro hok
      have hacc : imageAccepted s img = false := Bool.eq_false_iff.mpr fun h => hok (hiff.mp h)
      exact ⟨hfwm.trans (if_neg (Bool.not_eq_true _ ▸ hacc)), hup hacc, hbooted.trans hacc⟩
  · intro hboot
    have hno : ∀ a, firmwareDoes s a = .next s := fun a => if_neg (Bool.not_eq_true _ ▸ hboot)
    simp only [List.forall_mem_cons, List.not_mem_nil, false_implies, implies_true, and_true]
    exact ⟨(exec_linkTrained_eq ..).trans (hno _), (exec_linkAuthDone_eq ..).trans (hno _), (exec_thermalAlarm_eq ..).trans (hno _),
      (exec_posset_eq ..).trans (hno _), (exec_podpol_eq ..).trans (hno _), (exec_lnktrain_eq ..).trans (hno _), (exec_evread_eq ..).trans (hno _),
      (exec_retclear_eq ..).trans (hno _), (exec_retclear_eq ..).trans (hno _), (exec_temprd_eq ..).trans (hno _),
      (exec_spdmAttestation_eq ..).trans (hno _)⟩
  · intro hboot hst
    rw [exec_linkTrained_eq, execLinkTrained]
    exact (if_pos hboot).trans (congrArg _ (if_pos hst))
  · intro hboot hst
    have hok : (peer.chainOk && lk.policy.contains peer.fwm && peer.pos == expectedPeer s.hub.pos link.val) = true ↔
        peer.chainOk = true ∧ peer.fwm ∈ lk.policy ∧ peer.pos = expectedPeer s.hub.pos link.val := by
      rw [Bool.and_eq_true, Bool.and_eq_true, beq_iff_eq, List.contains_iff_mem, and_assoc]
    rw [exec_linkAuthDone_eq, execLinkAuthDone]
    exact (if_pos hboot).trans (congrArg _ ((if_pos hst).trans (congrArg (fun x => openHub (setLink s link.val x)) (ite_eq_of_iff hok rfl rfl))))
  · intro hst
    rw [exec_linkDown_eq, execLinkDown]
    exact congrArg _ (if_pos hst)
  · intro hst
    refine ⟨if Config.freePick s.free % 2 = 0 then lk.fails + 1 else 1, ?_, ?_⟩
    · split
      · exact .inl rfl
      · exact .inr rfl
    · exact (exec_linkTagFail_eq link s).trans (if_neg (not_not_intro hst))
  · intro hboot htemp
    rw [exec_thermalAlarm_eq, execThermalAlarm]
    exact (if_pos hboot).trans (congrArg _ (if_pos htemp))
  · intro htemp
    refine ⟨_, (exec_thermalTrip_eq die temp s).trans (if_neg (Nat.not_lt.mpr htemp)), fun t a => ?_, List.mem_eraseDups.mpr List.mem_cons_self⟩
    dsimp only
    unfold State.powerOf tget
    cases hp : tfind (List.filter _ _) t with
    | none => exact ⟨nofun, nofun, nofun⟩
    | some p =>
      have hdown := tfind_filter_val (q := fun x => match x with | Power.down _ => true | _ => false) hp
      refine ⟨?_, ?_, ?_⟩
      all_goals rintro rfl; exact Bool.false_ne_true hdown
  · intro hup hin k o t t'
    have hrun := fun t d => companionRead_turn (t := t) (d := d) hup hin
    by_cases hlock : unitLocked s off = true
    · have ht : t' = draws := if_pos hlock
      rw [if_pos hlock] at hrun
      rw [ht]
      exact ⟨_, hrun _ _ rfl, List.length_replicate, fun _ => rfl, fun h => absurd (hlock.symm.trans h) Bool.noConfusion⟩
    · have ht : t' = companionLine draws off := if_neg hlock
      rw [if_neg hlock] at hrun
      rw [ht]
      refine ⟨_, hrun _ _ rfl, ?_, fun h => absurd h hlock, fun _ hgood => if_neg fun h => hgood (List.contains_iff_mem.mp h)⟩
      exact length_companionBytes ..
  · intro hup hin k t
    have hskip : (unitLocked s off || k == 0) = true ↔ unitLocked s off = true ∨ k = 0 := by rw [Bool.or_eq_true, beq_iff_eq]
    refine (exec_companionWrite_eq off data s).trans ((if_neg (not_not_eq_true hup)).trans ((if_neg (Nat.not_lt.mpr hin)).trans ?_))
    exact congrArg (fun t => Host.Outcome.next (thenRest (data.length - k) (.companionWrite (off + k) (data.drop k)) (logLocked t off k data.length)))
      (ite_eq_of_iff hskip rfl rfl)
  · intro hup hout
    rw [exec_companionRead_eq, execCompanionRead]
    exact (if_neg (not_not_eq_true hup)).trans (if_pos hout)
  · intro hboot
    exact ⟨_, (exec_posset_eq pos s).trans (if_pos hboot), rfl, rfl⟩
  · intro hboot hne hlen
    exact ⟨_, (exec_podpol_eq fwms s).trans ((if_pos hboot).trans (if_neg (not_or.mpr ⟨hne, Nat.not_lt.mpr hlen⟩))), rfl⟩
  · intro hboot
    exact (exec_lnktrain_eq mask s).trans (if_pos hboot)
  · intro hboot
    refine (exec_evread_eq ctr s).trans ((if_pos hboot).trans ?_)
    have hfilter : s.hub.log.filter (fun e => decide (ctr.toNat ≤ bits e.toNat 64 32)) =
        s.hub.log.filter (fun e => decide (ctr.toNat ≤ (e.extractLsb' 64 32).toNat)) := List.filter_congr fun e _ => by
      rw [bits_eq_extract]
    rw [hfilter]
    rfl
  · intro hboot htile hret
    rw [exec_retclear_eq, execRetclear, htile]
    exact ⟨_, (if_pos hboot).trans (if_pos (contains_of_mem hret)), List.mem_eraseDups.mpr (List.mem_append_right _ List.mem_cons_self)⟩
  · intro hboot htile hb hret
    rw [exec_retclear_eq, execRetclear, htile]
    refine ⟨_, (if_pos hboot).trans (if_pos ?_), List.mem_eraseDups.mpr (List.mem_append_right _ List.mem_cons_self)⟩
    exact Bool.and_eq_true_iff.mpr ⟨decide_eq_true hb, contains_of_mem hret⟩
  · intro hboot
    exact ⟨_, by rw [List.length_map, List.length_range], (exec_temprd_eq s).trans (if_pos hboot)⟩
  · intro hboot
    exact ⟨_, (exec_spdmAttestation_eq req s).trans (if_pos hboot)⟩
  · intro hboot
    have hheard : ¬ (!s.hub.booted) = true := not_not_eq_true hboot
    refine ⟨(if_neg hheard).trans (if_pos rfl), fun y h5 h127 => (if_neg hheard).trans ((if_neg h5).trans (if_pos h127)), ?_⟩
    have hrun : hearMessage s 127 req = if Config.freePick s.free % 2 = 1 then .ended (draws.emit (.mgmt (BitVec.ofNat 8 mBusy) []))
        else match messageInstr req with
          | some i => .run draws i
          | none => .ended (draws.emit (.mgmt (BitVec.ofNat 8 mMalformed) [])) := by
      unfold hearMessage
      exact (if_neg hheard).trans ((if_neg (by decide)).trans (if_neg (by decide)))
    by_cases hbusy : Config.freePick s.free % 2 = 1
    · exact .inl (hrun.trans (if_pos hbusy))
    · rw [if_neg hbusy] at hrun
      cases hm : messageInstr req with
      | none => rw [hm] at hrun; exact .inr (.inl ⟨rfl, hrun⟩)
      | some i => rw [hm] at hrun; exact .inr (.inr ⟨i, rfl, hrun⟩)
  · refine ⟨rfl, ?_, ?_, rfl, ?_, ?_, ?_⟩
    · rw [messageInstr_lnktrain, if_pos (length_bytesLE ..), word_of_own_bytes (by decide)]
    · rw [messageInstr_evread, if_pos (length_bytesLE ..), word_of_own_bytes (by decide)]
    · exact messageInstr_podpol fwms
    · intro k
      exact messageInstr_retclear k tx ty b
    · exact messageInstr_unknown
end Sys2Proof.Proofs
end

section
/-! Waybills, frame tables and cluster copies (R224, R297, R461, R522). -/

namespace Sys2Proof.Proofs

open Sys2Proof Sys2Proof.Machine Sys2Proof.Claim

section Dispatcher
variable {s u : State} {cl k : Nat} {w : Waybill}

/-- A waybill that may start does what its phase and kind say. -/
theorem waybillStart_ready (hw : (s.cluster cl).wbs[k]? = some w) (hlive : wbLive s w = true) (hdeps : depsRetired (s.cluster cl) k w = true) :
    exec (.waybillStart cl k) s = match w.phase with
      | .waiting =>
        if !w.task then .next (setWb (invalidate s cl) cl k (fun w => { w with phase := .copying, todo := [(0, 0, ((w.exts.head?).map (fun e => e.len / 32)).getD 0)] }))
        else if hasStageIn w then .next (setWb (invalidate s cl) cl k (fun w => { w with phase := .stageIn, todo := w.stages false }))
        else .next (startTask s cl k w)
      | .stageIn => .next (if w.copied then startTask s cl k w else s)
      | _ => .next s := by
  rw [exec_waybillStart_eq, execWaybillStart]
  rw [hw]
  have hmay : ¬ (!wbLive s w || !depsRetired (s.cluster cl) k w) = true := by
    rw [hlive, hdeps]; exact Bool.false_ne_true
  exact if_neg hmay
theorem modify_congr_at {α : Type} {l : List α} {k : Nat} {x : α} {f g : α → α} (h : l[k]? = some x) (hfg : f x = g x) : l.modify k f = l.modify k g := by
  refine List.ext_getElem? fun i => ?_
  rw [List.getElem?_modify, List.getElem?_modify]
  by_cases hik : k = i
  · subst hik
    simp only [h, if_true]
    exact congrArg some hfg
  · simp only [if_neg hik]
/-- What a waybill is changed to counts at the waybill itself only. -/
theorem setWb_congr {f g : Waybill → Waybill} (hw : (s.cluster cl).wbs[k]? = some w) (hfg : f w = g w) :
    setWb (invalidate s cl) cl k f = setWb (invalidate s cl) cl k g := by
  unfold setWb State.modCluster invalidate State.modCluster
  rw [State.cluster_setCluster]
  dsimp only
  rw [modify_congr_at hw hfg]
theorem chooseSector_failed (s : State) (w : Waybill) : (chooseSector s w).2.failed = w.failed := by
  unfold chooseSector
  dsimp only
  split
  · rfl
  · split <;> rfl
/-- A task starts once its stages are done or it has none. -/
theorem waybillStart_task (hw : (s.cluster cl).wbs[k]? = some w) (hlive : wbLive s w = true) (hdeps : depsRetired (s.cluster cl) k w = true)
    (htask : w.task = true) (h : (w.phase = .waiting ∧ hasStageIn w = false) ∨ (w.phase = .stageIn ∧ w.todo = [] ∧ w.cur = none)) :
    exec (.waybillStart cl k) s = .next (startTask s cl k w) := by
  rw [waybillStart_ready hw hlive hdeps]
  obtain ⟨hp, hst⟩ | ⟨hp, htodo, hcur⟩ := h
  · rw [hp]
    exact (if_neg (not_not_eq_true htask)).trans (if_neg (Bool.not_eq_true _ ▸ hst))
  · rw [hp]
    refine congrArg _ (if_pos ?_)
    rw [Waybill.copied, htodo, hcur]
    rfl
end Dispatcher

/-- Settles O55. -/
theorem dispatcherAndFrames : Obligations.DispatcherAndFrames := by
  intro s u cl k sec w src dst c ready live at_ sectors
  refine ⟨?_, ?_, ?_, ?_, ?_, ?_, ?_, ?_⟩
  · rintro ⟨hw, hlive, hdeps⟩ hp htask
    rw [waybillStart_ready hw hlive hdeps, hp]
    refine (if_pos (Bool.not_eq_true' _ ▸ htask)).trans (congrArg Host.Outcome.next (setWb_congr hw ?_))
    have hsec : ((w.exts.head?).map (fun e => e.len / 32)).getD 0 = sectors := by
      cases hx : w.exts with
      | nil => simp only [sectors, hx]; rfl
      | cons e r => simp only [sectors, hx]; rfl
    rw [hsec]
  · rintro ⟨hw, hlive, hdeps⟩ hp htask hst
    rw [waybillStart_ready hw hlive hdeps, hp]
    refine (if_neg (not_not_eq_true htask)).trans ((if_pos hst).trans (congrArg Host.Outcome.next (setWb_congr hw rfl)))
  · rintro ⟨hw, hlive, hdeps⟩ htask h
    have hrun := waybillStart_task hw hlive hdeps htask h
    refine ⟨fun hmay hown => hrun.trans ?_, fun hmay => hrun.trans ?_⟩
    · exact congrArg _ ((if_pos hmay).trans (if_neg (Bool.not_eq_true _ ▸ hown)))
    · exact congrArg _ (if_neg (Bool.not_eq_true _ ▸ hmay))
  · rintro y ⟨hw, hlive⟩ hfid hfailed hnext hcopy
    rw [exec_copySector_eq, execCopySector]
    have hmay : ¬ (!wbLive s w || w.fid.isSome) = true := by
      rw [hlive, hfid]; exact Bool.false_ne_true
    have hgo : ¬ y.2.failed = true := by
      rw [chooseSector_failed, hfailed]; exact Bool.false_ne_true
    rw [hw]
    refine (if_neg hmay).trans ?_
    change (match nextCopy cl y.2 with
      | none => Host.Outcome.next y.1
      | some (src, dst) => if y.2.failed then .next (setWb y.1 cl k (fun _ => copyFailed y.2)) else match copySector y.1 cl k y.2 src dst with
          | some s => .next s
          | none => .next (setWb y.1 cl k (fun _ => y.2))) = _
    rw [hnext]
    refine (if_neg hgo).trans ?_
    rw [hcopy]
  · rintro ⟨hw, hlive⟩ hp htodo hcur hfid w2 t t'
    rw [exec_waybillRetire_eq, execWaybillRetire]
    dsimp only
    rw [hw]
    dsimp only
    have hne : w.phase ≠ .finished := by
      obtain h | h := hp
      · rw [h]; nofun
      · rw [h]; nofun
    have hdue : wbDue w = true := by
      rw [wbDue, Waybill.copied, htodo, hcur]
      obtain h | h := hp
      · rw [h]; rfl
      · rw [h]; rfl
    have hstay : ¬ (!wbDue w || w.fid.isSome) = true := by
      rw [hdue, hfid]; exact Bool.false_ne_true
    exact (if_neg (not_not_eq_true hlive)).trans ((if_neg hne).trans (if_neg hstay))
  · rintro ⟨hw, hlive⟩ hp
    rw [exec_waybillRetire_eq, execWaybillRetire]
    dsimp only
    rw [hw]
    dsimp only
    rw [hlive, if_pos hp]
    rfl
  · intro hcl hdue
    refine ⟨?_, fun j hj => ?_, fun hj => ?_⟩
    · rw [exec_frameEntryAdvance_eq, execFrameEntryAdvance, if_pos ⟨hcl, hdue⟩]
      rfl
    · unfold frameNext
      rw [hj]
      exact ⟨rfl, rfl, bits_eq_extract ..⟩
    · unfold frameNext
      rw [hj]
      dsimp only
      split <;> rfl
  · refine ⟨_, exec_clusterCacheEviction_eq cl sec s, ?_, fun a ha => ?_, rfl⟩
    · rw [State.modCluster, State.cluster_setCluster]
      exact tfind_tdel ..
    · rw [State.modCluster, State.cluster_setCluster]
      dsimp only
      rw [tdel, tfind_filter (· != sec), if_pos (bne_iff_ne.mpr ha)]
end Sys2Proof.Proofs
end

section
/-! Strand packets at a clasp and at their sender (R86, R304 to R309). -/

namespace Sys2Proof.Proofs

open Sys2Proof Sys2Proof.Machine Sys2Proof.Claim

section Clasps
variable {s s1 : State} {k six seq die : Nat} {x : Packet} {c : ClaspCtx} {fx : Fx} {st : Strand} {opn : Bool}

/-- A packet dropped from the mesh changes no clasp and no address. -/
theorem claspGet_dropPacket (s : State) (k d key : Nat) : claspGet (s.dropPacket k) d key = claspGet s d key := rfl
theorem strandKey_dropPacket (s : State) (k six : Nat) (a : Agent) : strandKey (s.dropPacket k) a six = strandKey s a six := rfl

theorem claspOpen_arrives (hx : arriving s k = some x) (hb : x.body = .strandOpen six seq) :
    exec (.claspOpen k) s = match strandLow s x.src six x.die with
      | none => .next (s.dropPacket k)
      | some m =>
        if m = seq then
          match takeClasp (s.dropPacket k) (x.die % 4) (strandKey s x.src six) seq with
          | (s, true) => .next s
          | (s, false) => .next (claspAnswer s x (.retry six x.die seq true))
        else if (seq + 65536 - m) % 65536 < 32768 then .next s
        else .next (s.dropPacket k) := by
  rw [exec_claspOpen_eq, execClaspOpen, hx]
  dsimp only
  rw [hb] <;> rfl
theorem claspPacket_arrives (hx : arriving s k = some x) (hb : x.body = .fx fx (some st)) :
    exec (.claspPacket k) s = match claspGet s (x.die % 4) (strandKey s x.src st.six) with
      | none => .next (claspAnswer (s.dropPacket k) x (.retry st.six st.die st.seq false))
      | some c =>
        if (st.seq + 65536 - c.e) % 65536 = 0 then
          if !mayPerform s k x then .next s
          else match performFx (s.dropPacket k) x fx with
            | none => .next s
            | some s1 => .next (commitHeld (x.die % 4) (strandKey s x.src st.six) (c.held.length + 1)
                (afterCommit s1 x st (x.die % 4) (strandKey s x.src st.six)))
        else if (st.seq + 65536 - c.e) % 65536 < 32768 then
          if (tfind c.held st.seq).isSome then .next (s.dropPacket k)
          else if claspHeld s (x.die % 4) < 8192 then
            .next (claspSet (s.dropPacket k) (x.die % 4) (strandKey s x.src st.six) { c with held := tset c.held st.seq x })
          else .next (claspAnswer (s.dropPacket k) x (.retry st.six st.die st.seq false))
        else .next (claspAnswer (s.dropPacket k) x (.ack st.six st.die ((c.e + 65535) % 65536))) := by
  have hst : x.strand? = some st := by rw [Packet.strand?, hb]
  rw [exec_claspPacket_eq, execClaspPacket, hx]
  dsimp only
  rw [hb, hst] <;> rfl
theorem claspRelease_arrives (hx : arriving s k = some x) (hb : x.body = .release six seq) :
    exec (.claspRelease k) s = match claspGet s (x.die % 4) (strandKey s x.src six) with
      | none => .next (s.dropPacket k)
      | some c => if c.e = seq % 65536 then .next (freeClasp (s.dropPacket k) (x.die % 4) (strandKey s x.src six)) else .next s := by
  rw [exec_claspRelease_eq, execClaspRelease, hx]
  dsimp only
  rw [hb] <;> rfl
/-- A RETRY sends what waits again, after an OPEN where one is needed. -/
theorem strandRetry_arrives (hx : arriving s k = some x) (hb : x.body = .retry six die seq opn) {u : State}
    (hu : (match strandLow (s.dropPacket k) x.src six die with
      | some n => reopen (s.dropPacket k) x six die n
      | none => s.dropPacket k) = u) :
    exec (.strandRetry k) s =
      .next ((strandWaits (s.dropPacket k) x.src six die).foldl (fun s y => if s.net.contains y then s else toNet s y) u) := by
  subst hu
  rw [exec_strandRetry_eq, execStrandRetry, hx]
  dsimp only
  rw [hb] <;> rfl
end Clasps

/-- Settles O54. -/
theorem clasps : Obligations.Clasps := by
  intro s s1 k six seq die x c fx st opn link flit d q key gap
  refine ⟨?_, ?_, ?_, ?_, ?_, ?_⟩
  · intro hx hb r low
    have hrun := claspOpen_arrives hx hb
    refine ⟨fun hlow => ?_, fun hlow => ?_, fun m hlow hne => ?_⟩
    · rw [hrun, show strandLow s x.src six x.die = some seq from hlow]
      refine (if_pos rfl).trans ?_
      rw [show takeClasp (s.dropPacket k) (x.die % 4) (strandKey s x.src six) seq = r from rfl]
      obtain ⟨u, b⟩ := r
      cases b <;> rfl
    · rw [hrun, show strandLow s x.src six x.die = none from hlow]
    · rw [hrun, show strandLow s x.src six x.die = some m from hlow]
      exact (if_neg hne).trans (apply_ite Host.Outcome.next ..).symm
  · intro hx hb
    have hrun := claspPacket_arrives hx hb
    refine ⟨fun hc => hrun.trans ?_, fun hc h0 hmay hfx => hrun.trans ?_, fun hc hpos hlt hfree hroom => hrun.trans ?_,
      fun hc hpos hlt hheld => hrun.trans ?_, fun hc hge => hrun.trans ?_⟩
    · rw [show claspGet s (x.die % 4) (strandKey s x.src st.six) = none from hc]
    · rw [show claspGet s (x.die % 4) (strandKey s x.src st.six) = some c from hc]
      refine (if_pos h0).trans ((if_neg (not_not_eq_true hmay)).trans ?_)
      rw [show performFx (s.dropPacket k) x fx = some s1 from hfx] <;> rfl
    · rw [show claspGet s (x.die % 4) (strandKey s x.src st.six) = some c from hc]
      have hnone : ¬ (tfind c.held st.seq).isSome = true := by
        rw [hfree]; exact Bool.false_ne_true
      exact (if_neg (Nat.ne_of_gt hpos)).trans ((if_pos hlt).trans ((if_neg hnone).trans (if_pos hroom)))
    · rw [show claspGet s (x.die % 4) (strandKey s x.src st.six) = some c from hc]
      exact (if_neg (Nat.ne_of_gt hpos)).trans ((if_pos hlt).trans (if_pos (Option.isSome_iff_ne_none.mpr hheld)))
    · rw [show claspGet s (x.die % 4) (strandKey s x.src st.six) = some c from hc]
      have hgap : 32768 ≤ (st.seq + 65536 - c.e) % 65536 := hge
      exact (if_neg (by omega)).trans (if_neg (by omega))
  · intro hx hb
    have hrun := claspRelease_arrives hx hb
    refine ⟨fun hc => hrun.trans ?_, fun hc he => hrun.trans ?_⟩
    · rw [show claspGet s (x.die % 4) (strandKey s x.src six) = none from hc]
    · rw [show claspGet s (x.die % 4) (strandKey s x.src six) = some c from hc]
      exact if_pos he
  · intro hx hb t
    rw [exec_strandAck_eq, execStrandAck, hx]
    dsimp only
    rw [hb] <;> rfl
  · intro hx hb mine coming held due again
    have hrun := fun u hu => strandRetry_arrives (u := u) hx hb hu
    refine ⟨fun hlow => hrun d ?_, fun n hlow h => hrun d ?_, fun n hlow hheld hcoming => hrun _ ?_⟩
    · rw [show strandLow (s.dropPacket k) x.src six die = none from hlow]
    · rw [show strandLow (s.dropPacket k) x.src six die = some n from hlow]
      refine if_pos (Bool.or_eq_true_iff.mpr ?_)
      exact h.imp_left Option.isSome_iff_ne_none.mpr
    · rw [show strandLow (s.dropPacket k) x.src six die = some n from hlow]
      refine if_neg fun h => ?_
      obtain h | h := Bool.or_eq_true_iff.mp h
      · exact Option.isSome_iff_ne_none.mp h hheld
      · exact Bool.false_ne_true (hcoming.symm.trans h)
  · intro cls hcls
    refine ⟨_, (exec_badPacketDiscard_eq link flit s).trans (if_pos ?_), rfl, rfl⟩
    rw [bits_eq_extract, bits_eq_extract]
    exact hcls
end Sys2Proof.Proofs
end

section
/-! Results, sums and accumulator operations that fall due (R36, R183, R186, R190, R191, R476). -/

namespace Sys2Proof.Proofs

open Sys2Proof Sys2Proof.Machine Sys2Proof.Claim

/-! ## Filling reserved places -/

section Fill
variable {β : Type} {g : Plane → β}
theorem fillAll_frame {t : Token} {vis : Nat} (h : ∀ p k id, g (p.fillPlace k id t vis) = g p) (l : List (Nat × Nat)) (p : Plane) :
    g (fillAll p t vis l) = g p := by
  induction l generalizing p with
  | nil => rfl
  | cons a r ih =>
    obtain ⟨k, id⟩ := a
    exact (ih _).trans (h p k id)
end Fill
theorem fillPlace_kept (p : Plane) (k id : Nat) (t : Token) (vis : Nat) :
    (p.fillPlace k id t vis).elems = p.elems ∧ (p.fillPlace k id t vis).rows = p.rows := by
  unfold Plane.fillPlace
  dsimp only
  split
  · exact ⟨rfl, rfl⟩
  · split <;> exact ⟨rfl, rfl⟩
theorem fillAll_elems (p : Plane) (t : Token) (vis : Nat) (l : List (Nat × Nat)) : (fillAll p t vis l).elems = p.elems :=
  fillAll_frame (g := Plane.elems) (fun p k id => (fillPlace_kept p k id t vis).1) l p
theorem fillAll_rows (p : Plane) (t : Token) (vis : Nat) (l : List (Nat × Nat)) : (fillAll p t vis l).rows = p.rows :=
  fillAll_frame (g := Plane.rows) (fun p k id => (fillPlace_kept p k id t vis).2) l p

/-! ## Rows -/

theorem row_writeRow (p : Plane) (late : Bool) (r : Nat) (x : AccRow) : (p.writeRow late r x).row r = x := by
  unfold Plane.writeRow Plane.row
  exact tget_tset_same ..
theorem row_writeRow_ne (p : Plane) (late : Bool) {r d : Nat} (x : AccRow) (h : d ≠ r) : (p.writeRow late r x).row d = p.row d := by
  unfold Plane.writeRow Plane.row
  dsimp only
  split
  · exact tget_tset_ne _ _ _ h
  · exact tget_tset_ne _ _ _ h
theorem writeRow_aq (p : Plane) (late : Bool) (r : Nat) (x : AccRow) : (p.writeRow late r x).aq = p.aq := by
  unfold Plane.writeRow
  dsimp only
  split <;> rfl
theorem poison_fields (r : AccRow) (org : Word) : (r.poison org).psn = true ∧ (r.poison org).ue = false ∧ (r.poison org).oix = r.oix := ⟨rfl, rfl, rfl⟩
theorem plane_countMac (s : State) (p : Plane) (pl : Nat) : (countMac s p).plane? pl = s.plane? pl := by
  unfold countMac State.plane?
  dsimp only
  rw [State.modVd_planes]

section Due
variable {s : State} {pl k : Nat} {p q : Plane} {w : Pend}

theorem dueWork_of_dueNow (h : dueNow s pl k p w) : dueWork s pl k w.work.isAcc = some (p, w) := by
  obtain ⟨hp, hw, hdone, hdue⟩ := h
  unfold dueWork
  rw [hp]
  dsimp only
  rw [hw]
  exact if_pos ⟨hdone, hdue, rfl⟩
theorem npKind_null_iff (kind : Kind) (nan : Bool) : (npKind s p pl w.elem w.slot kind nan).isNull = kind.isNull := by
  unfold npKind
  cases kind with
  | data => exact (apply_ite Kind.isNull ..).trans (ite_self _)
  | null => rfl
  | poison o => rfl
theorem isNull_iff (kind : Kind) : kind.isNull = true ↔ kind = .null := by
  cases kind with
  | data => exact ⟨nofun, nofun⟩
  | null => exact ⟨fun _ => rfl, fun _ => rfl⟩
  | poison o => exact ⟨nofun, nofun⟩

/-- A pass of a plane's row by MMA .TOR or ACCA (R191). -/
def passRow (late : Bool) (q : Plane) (row qtr : Nat) (kind : Kind) (v : Lanes) : Plane :=
  if kind.isNull || (q.row row).psn || decide (q.aq ≤ row) then q else q.writeRow late row ((q.row row).pass qtr kind v)
theorem row_passRow (late : Bool) (q : Plane) (row qtr : Nat) (kind : Kind) (v : Lanes) : (passRow late q row qtr kind v).row row =
    if kind = .null ∨ (q.row row).psn = true ∨ q.aq ≤ row then q.row row else (q.row row).pass qtr kind v := by
  unfold passRow
  have hiff : (kind.isNull || (q.row row).psn || decide (q.aq ≤ row)) = true ↔ kind = .null ∨ (q.row row).psn = true ∨ q.aq ≤ row := by
    rw [Bool.or_eq_true, Bool.or_eq_true, isNull_iff, decide_eq_true_iff, or_assoc]
  by_cases h : kind = .null ∨ (q.row row).psn = true ∨ q.aq ≤ row
  · rw [if_pos h, if_pos (hiff.mpr h)]
  · rw [if_neg h, if_neg (mt hiff.mp h), row_writeRow]
theorem row_passRow_ne (late : Bool) (q : Plane) {row d : Nat} (qtr : Nat) (kind : Kind) (v : Lanes) (h : d ≠ row) :
    (passRow late q row qtr kind v).row d = q.row d := by
  unfold passRow
  split
  · rfl
  · exact row_writeRow_ne _ _ _ h
/-- A poisoned row stays so. -/
theorem row_passRow_poisoned (late : Bool) (q : Plane) (row qtr : Nat) (kind : Kind) (v : Lanes) (h : (q.row row).psn = true) :
    (passRow late q row qtr kind v).row row = q.row row := by
  rw [row_passRow, if_pos (.inr (.inl h))]
/-- An operation whose row stands without an error reads it as it is. -/
theorem poisonRead_of_good (h : ∀ r, w.work.rowRead = some r → (p.row r).ue = false) : poisonRead s pl w (markDone p k) = markDone p k := by
  unfold poisonRead
  cases hr : w.work.rowRead with
  | none => rfl
  | some r =>
    have hgood : ((markDone p k).row r).ue = false := h r hr
    dsimp only
    rw [hgood]
    rfl
/-- An operation that reads a row with an error finds it poisoned. -/
theorem poisonRead_of_bad {r : Nat} (hr : w.work.rowRead = some r) (hue : (p.row r).ue = true) (haq : r < p.aq) :
    poisonRead s pl w (markDone p k) = (markDone p k).writeRow w.late r ((p.row r).poison (newOrigin s (planeTile pl) w.elem w.slot causeMemue 0xFFFF)) := by
  unfold poisonRead
  rw [hr]
  exact if_pos (Bool.and_eq_true_iff.mpr ⟨hue, decide_eq_true haq⟩)
/-- The element of a plane after its result: the destination register only changes. -/
theorem get_written {e : Nat} (kind : Kind) (dst : Option (Fin 32)) (v : Lanes) (hq : q.elems = p.elems) (he : e < p.elems.length) (g : Fin 32) :
    ((if kind.isData then q.setElem e (setG (q.elem e) dst v) else q).elem e).g.get g = if kind = .data ∧ dst = some g then v else (p.elem e).g.get g := by
  have hsame : q.elem e = p.elem e := by rw [Plane.elem, hq, Plane.elem]
  by_cases hk : kind = .data
  · rw [if_pos ((isData_iff kind).mpr hk), elem_setElem _ (hq ▸ he), get_setG, hsame]
    exact ite_eq_of_iff ⟨fun h => ⟨hk, h⟩, And.right⟩ rfl rfl
  · rw [if_neg (fun h => hk ((isData_iff kind).mp h)), if_neg (fun h => hk h.1), hsame]
/-- A plane with a result in its element's destination register. -/
def landed (q : Plane) (e n : Nat) (kind : Kind) (dst : Option (Fin 32)) (v : Lanes) : Plane :=
  (if kind.isData then q.setElem e (setG (q.elem e) dst v) else q).touch n
theorem landed_kept (q : Plane) (e n : Nat) (kind : Kind) (dst : Option (Fin 32)) (v : Lanes) :
    (landed q e n kind dst v).chans = q.chans ∧ (landed q e n kind dst v).held = q.held ∧ (landed q e n kind dst v).rows = q.rows := by
  unfold landed
  split <;> exact ⟨rfl, rfl, rfl⟩

theorem rowRead_row {kind : Kind} {row r : Nat} (h : (if kind.isData then some row else none) = some r) : row = r := by
  split at h
  · exact Option.some.inj h
  · exact absurd h nofun

/-- What an accumulator operation does to its plane q, which has it marked done and its row read. -/
def accDone (s : State) (pl : Nat) (p : Plane) (w : Pend) (q : Plane) : State :=
  let sums := fun (kind : Kind) job z => if kind = .data then mxSums p.page.mxcfg job z else (0, false)
  let named := fun (kind : Kind) (nan : Bool) => npKind s p pl w.elem w.slot kind nan
  match w.work with
  | .mmaRow kind job row qtr =>
    let v := sums kind job (some ((q.row row).quarter qtr))
    countMac (s.setPlane pl (passRow w.late q row qtr (named kind v.2) v.1)) p
  | .acca kind t row qtr v =>
    let v := if kind = .data then accAdd t ((q.row row).quarter qtr) v else (0, false)
    s.setPlane pl (passRow w.late q row qtr (named kind v.2) v.1)
  | .accd kind t row qtr dst otag places =>
    let r := q.row row
    let k1 : Kind := if kind = .data ∧ r.psn = true then .poison (r.data.setWidth 64) else kind
    let v := if k1 = .data then accRead t (r.quarter qtr) else (0, false)
    s.setPlane pl (landed (fillAll q (resultTok (named k1 v.2) v.1 otag) (s.planeAc pl + 1) places) w.elem (s.planeAc pl) (named k1 v.2) dst v.1)
  | .accz row oix => s.setPlane pl (q.writeRow w.late row { data := 0, psn := false, oix := oix })
  | .accs row d => s.setPlane pl (if row = d then q else q.writeRow w.late d (q.row row))
  | _ => s.setPlane pl q
theorem accOperation_due (hdue : dueNow s pl k p w) (hacc : w.work.isAcc = true)
    (hfirst : ∀ x ∈ p.pend, x.done = false → x.work.isAcc = true → w.due ≤ x.due ∧ (x.due = w.due → w.elem ≤ x.elem)) :
    exec (.accOperation pl k) s = .next (accDone s pl p w (poisonRead s pl w (markDone p k))) := by
  have hwork := dueWork_of_dueNow hdue
  rw [hacc] at hwork
  have hlater : ¬ p.pend.any (fun x => !x.done && x.work.isAcc && decide (x.due < w.due ∨ (x.due = w.due ∧ x.elem < w.elem))) = true := by
    intro h
    obtain ⟨x, hx, hlt⟩ := List.any_eq_true.mp h
    rw [Bool.and_eq_true, Bool.and_eq_true, Bool.not_eq_true', decide_eq_true_iff] at hlt
    obtain ⟨⟨hdone, hacc⟩, hlt⟩ := hlt
    have := hfirst x hx hdone hacc
    omega
  rw [exec_accOperation_eq, execAccOperation, hwork]
  refine (if_neg hlater).trans ?_
  generalize poisonRead s pl w (markDone p k) = q
  unfold accDone
  cases w.work with
  | result dst kind val tag places => rfl
  | mmaSouth kind job otag places => rfl
  | mmaRow kind job row qtr => cases kind <;> rfl
  | acca kind t row qtr v => cases kind <;> rfl
  | accd kind t row qtr dst otag places =>
    cases kind with
    | data => cases hpsn : (q.row row).psn <;> simp only [hpsn, Kind.isData] <;> rfl
    | null => rfl
    | poison o => rfl
  | accz row oix => rfl
  | accs row d => rfl
  | accNone => rfl
theorem plane_set (s : State) (pl : Nat) (q : Plane) : (s.setPlane pl q).plane? pl = some q := State.plane_setPlane ..
theorem plane_counted (s : State) (pl : Nat) (p q : Plane) : (countMac (s.setPlane pl q) p).plane? pl = some q := (plane_countMac ..).trans (plane_set ..)
/-- The operation that reads a poisoned row leaves it as it is. -/
theorem accDone_poisoned {r : Nat} (hr : w.work.rowRead = some r) (hpsn : (q.row r).psn = true) :
    ∃ q2, (accDone s pl p w q).plane? pl = some q2 ∧ q2.row r = q.row r := by
  unfold accDone
  cases hw : w.work with
  | result | mmaSouth | accz | accNone => exact absurd (hw ▸ hr) nofun
  | mmaRow kind job row qtr =>
    have hrow : row = r := rowRead_row (hw ▸ hr)
    subst hrow
    exact ⟨_, plane_counted .., row_passRow_poisoned _ _ _ _ _ _ hpsn⟩
  | acca kind t row qtr v =>
    have hrow : row = r := rowRead_row (hw ▸ hr)
    subst hrow
    exact ⟨_, plane_set .., row_passRow_poisoned _ _ _ _ _ _ hpsn⟩
  | accd kind t row qtr dst otag places =>
    refine ⟨_, plane_set .., ?_⟩
    rw [Plane.row, (landed_kept ..).2.2, fillAll_rows, Plane.row]
  | accs row d =>
    rw [hw] at hr
    have hrow : row = r := Option.some.inj hr
    subst hrow
    refine ⟨_, plane_set .., ?_⟩
    split
    · rfl
    · next h => exact row_writeRow_ne _ _ _ h
end Due

/-- Settles O46. -/
theorem resultsDue : Obligations.ResultsDue := by
  intro s pl k p w hdue helem n m first tokens wrote sums named
  have hnamed : ∀ kind nan, named kind nan = .null ↔ kind = .null := fun kind nan => by
    rw [← isNull_iff, ← isNull_iff, npKind_null_iff]
  refine ⟨?_, ?_⟩
  · intro r hr hue haq hfirst
    have hacc : w.work.isAcc = true := by
      cases hw : w.work with
      | result | mmaSouth => exact absurd (hw ▸ hr) nofun
      | mmaRow | acca | accd | accz | accs | accNone => rfl
    have hrun := accOperation_due hdue hacc hfirst
    rw [poisonRead_of_bad hr hue haq] at hrun
    have hrow := row_writeRow (markDone p k) w.late r ((p.row r).poison (newOrigin s (planeTile pl) w.elem w.slot causeMemue 0xFFFF))
    obtain ⟨q, hq, hsame⟩ := accDone_poisoned (s := s) (pl := pl) (p := p) hr ((congrArg AccRow.psn hrow).trans (poison_fields ..).1)
    refine ⟨_, q, hrun, hq, ?_⟩
    rw [hsame, hrow]
    obtain ⟨hpsn, hue, hoix⟩ := poison_fields (p.row r) (newOrigin s (planeTile pl) w.elem w.slot causeMemue 0xFFFF)
    exact ⟨hpsn, hue, hoix, rfl⟩
  · intro hgood passed
    have hread := poisonRead_of_good (s := s) (pl := pl) (k := k) hgood
    have hrun := fun hacc hfirst => hread ▸ accOperation_due hdue hacc hfirst
    have hpass : ∀ kind row qtr v, (∃ t, exec (.accOperation pl k) s = .next t ∧ t.plane? pl = some (passRow w.late m row qtr (named kind v.2) v.1)) →
        passed kind row qtr v := by
      rintro kind row qtr v ⟨t, hrun, ht⟩
      refine ⟨t, _, hrun, ht, fun d hd => row_passRow_ne _ _ _ _ _ hd, ?_⟩
      rw [row_passRow]
      exact ite_eq_of_iff (or_congr (hnamed ..) Iff.rfl) rfl rfl
    cases hw : w.work with
    | result dst kind val tag places =>
      have hwork := dueWork_of_dueNow hdue
      refine ⟨landed (fillAll m { data := (kindTok kind val false 0).data, tag := tag } (n + 1) places) w.elem n kind dst val, ?_,
        get_written kind dst val (fillAll_elems ..) helem, ⟨(landed_kept ..).1, (landed_kept ..).2.1⟩, (landed_kept ..).2.2.trans (fillAll_rows ..)⟩
      rw [hw] at hwork
      rw [exec_pipelinedResult_eq, execPipelinedResult, show dueWork s pl k false = _ from hwork]
      dsimp only
      rw [hw] <;> rfl
    | mmaSouth kind job otag places =>
      have hwork := dueWork_of_dueNow hdue
      refine ⟨countMac (s.setPlane pl ((fillAll m (resultTok (named kind (sums kind job none).2) (sums kind job none).1 otag) (n + 1) places).touch n)) p,
        (fillAll m (resultTok (named kind (sums kind job none).2) (sums kind job none).1 otag) (n + 1) places).touch n, ?_, plane_counted ..,
        fillAll_rows .., rfl, rfl⟩
      rw [hw] at hwork
      rw [exec_pipelinedResult_eq, execPipelinedResult, show dueWork s pl k false = _ from hwork]
      dsimp only
      rw [hw]
      cases kind <;> rfl
    | mmaRow kind job row qtr =>
      intro hfirst
      have hrun := hrun (hw ▸ rfl) hfirst
      unfold accDone at hrun
      rw [hw] at hrun
      exact hpass _ _ _ _ ⟨_, hrun, plane_counted ..⟩
    | acca kind t row qtr v =>
      intro hfirst
      have hrun := hrun (hw ▸ rfl) hfirst
      unfold accDone at hrun
      rw [hw] at hrun
      exact hpass _ _ _ _ ⟨_, hrun, plane_set ..⟩
    | accd kind t row qtr dst otag places =>
      intro hfirst r k1 v
      have hrun := hrun (hw ▸ rfl) hfirst
      unfold accDone at hrun
      rw [hw] at hrun
      exact ⟨_, hrun, get_written _ dst _ (fillAll_elems ..) helem, ⟨(landed_kept ..).1, (landed_kept ..).2.1⟩,
        (landed_kept ..).2.2.trans (fillAll_rows ..)⟩
    | accz row oix =>
      intro hfirst
      have hrun := hrun (hw ▸ rfl) hfirst
      unfold accDone at hrun
      rw [hw] at hrun
      exact ⟨_, hrun, row_writeRow .., fun d hd => row_writeRow_ne _ _ _ hd⟩
    | accs row d =>
      intro hfirst
      have hrun := hrun (hw ▸ rfl) hfirst
      unfold accDone at hrun
      rw [hw] at hrun
      refine ⟨_, hrun, ?_, fun r hr => ?_⟩
      · split
        · next h => rw [← h]; rfl
        · exact row_writeRow ..
      · split
        · rfl
        · exact row_writeRow_ne _ _ _ hr
    | accNone =>
      intro hfirst
      have hrun := hrun (hw ▸ rfl) hfirst
      unfold accDone at hrun
      rw [hw] at hrun
      exact hrun
end Sys2Proof.Proofs
end

section
/-! Arrivals of tokens, results and credits, wake-ups, markers and idle reports (R42, R56, R59 to R66, R164, R475). -/

namespace Sys2Proof.Proofs

open Sys2Proof Sys2Proof.Machine Sys2Proof.Claim

theorem modPlane_of_plane {s : State} {pl : Nat} {p : Plane} (h : s.plane? pl = some p) (f : Plane → Plane) : s.modPlane pl f = s.setPlane pl (f p) := by
  rw [State.modPlane, h]

section Arrivals
variable {s : State} {k pl chan fp port place : Nat} {x : Packet} {p : Plane} {t : Token} {otag : BitVec 4} {val : Word} {null ue : Bool}
  {psn : Option Word} {ra : Nat}

/-- What arrives for a tile that does not hold it is delivered. -/
theorem tokenArrive_delivers (hx : arriving s k = some x) {tile : Nat} (ht : x.toTile = some tile) (hold : ¬ tileHolds s tile = true) :
    exec (.tokenArrive k) s = .next (deliver s k) := by
  rw [exec_tokenArrive_eq, execTokenArrive, hx]
  dsimp only
  rw [ht]
  exact if_neg hold
/-- A token that nothing of its route precedes. -/
theorem deliver_token (hx : arriving s k = some x) (hb : x.body = .token pl chan fp port t)
    (hroute : ∀ y ∈ s.net.take k, ∀ t', y.body ≠ .token pl chan fp port t') : deliver s k =
      match misrouteCase s pl chan fp port with
        | some c => misroute s k x c pl (chan / 8) (chan % 8) (tileFa s (planeTile fp)) (if t.mrk then none else some (fp, port))
        | none =>
          (s.dropPacket k).modPlane pl (fun p =>
            let n := s.planeAc pl
            let q : Place := { id := p.nextId, tok := some (routed s (planeTile pl) t), vis := n + 1 }
            let c := p.chan chan
            let c := if t.mrk then { c with q := c.q ++ [q] } else c.put q
            let p := { p.setChan chan c with nextId := p.nextId + 1 }
            if t.mrk then p else (p.addBal 1).touch n) := by
  have hfirst : (s.net.take k).all (fun y => match y.body with
        | .token d c f q _ => !(d == pl && c == chan && f == fp && q == port)
        | _ => true) = true := by
    rw [List.all_eq_true]
    intro y hy
    have hne := hroute y hy
    cases hyb : y.body
    case token d c f q t' =>
      dsimp only
      rw [Bool.not_eq_true', ← Bool.not_eq_true, Bool.and_eq_true, Bool.and_eq_true, Bool.and_eq_true, beq_iff_eq, beq_iff_eq, beq_iff_eq, beq_iff_eq]
      rintro ⟨⟨⟨rfl, rfl⟩, rfl⟩, rfl⟩
      exact hne t' hyb
    all_goals rfl
  rw [deliver, hx]
  dsimp only
  rw [hb]
  dsimp only
  rw [deliverToken, hx]
  dsimp only
  rw [hb]
  exact if_neg (not_not_eq_true hfirst)
theorem deliver_result (hx : arriving s k = some x) (hb : x.body = .result (.chan pl chan place otag) val null psn ue ra) : deliver s k =
      match replyCase s pl (fun p => p.placeOpen chan place) with
       | some case => misroute s k x case pl (chan / 8) (chan % 8) (x.srcFa s) none
       | none => fillResult (s.dropPacket k) pl chan place otag val null psn ue := by
  rw [deliver, hx]
  dsimp only
  rw [hb]
  dsimp only
  rw [deliverResult, hx]
  dsimp only
  rw [hb] <;> rfl
end Arrivals

/-- A clock-gated tile that is woken is on. -/
theorem wakeTile_on {s : State} {tile : Nat} (h : s.powerOf tile = .clockGated) : (wakeTile s tile).powerOf tile = .on := by
  unfold wakeTile
  rw [if_pos h]
  have hfold := foldl_frame (g := State.power) (f := fun s pl => s.modPlane pl (fun p => p.touch (s.planeAc pl))) (fun _ _ => State.modPlane_power ..)
    (tilePlanes s tile) (s.setPower tile .on)
  rw [State.powerOf, hfold]
  exact tget_tset_same ..

/-- A balance is counted in 32 bits. -/
theorem addBal_eq (d : Int) : (fun c : Ctx => c.addBal d) = fun c => { c with bal := (BitVec.ofInt 32 (c.bal + d)).toInt } := by
  funext c
  rw [Ctx.addBal, show wrap 32 (c.bal + d) = (BitVec.ofInt 32 (c.bal + d)).toNat from (BitVec.toNat_ofInt ..).symm, sgn_toNat]
theorem isStuck_iff (s : State) (cid : Nat) :
    isStuck s cid = true ↔ (∃ e ∈ s.planes, e.2.cid = cid ∧ e.2.armed = true) ∧ allIdle s cid = true ∧ (s.ctx cid).bal ≠ 0 := by
  rw [isStuck, Bool.and_eq_true, Bool.and_eq_true, List.any_eq_true, bne_iff_ne, and_assoc]
  simp only [Bool.and_eq_true, beq_iff_eq]
/-- An idle report: the balance counted, STUCK judged, the tile clock-gated where every plane there is idle. -/
theorem idleReport_runs {s : State} {pl : Nat} {p : Plane} (hp : s.plane? pl = some p) (hsent : p.idleSent = false) (hidle : 4096 ≤ p.idle) :
    exec (.idleReport pl) s = .next (gateIdle (reportStuck (idleReported s pl p) p.cid) (planeTile pl)) := by
  have hdue : ¬ (p.idleSent || decide (p.idle < 4096)) = true := by
    rw [hsent, decide_eq_false (Nat.not_lt.mpr hidle)]
    exact Bool.false_ne_true
  rw [exec_idleReport_eq, execIdleReport, hp]
  refine (if_neg hdue).trans ?_
  rw [addBal_eq, gateIdle]
  exact (apply_ite Host.Outcome.next ..).symm

/-- Settles O47. -/
theorem tokenMoves : Obligations.TokenMoves := by
  intro s k pl chan fp port place tile unit ch dpl dch x p t otag val null ue psn ra cs o n route held asked u r stuck rc vd sends
  refine ⟨?_, ?_, ?_, ?_, ?_, ?_, ?_⟩
  · intro hx hb hheld hroute
    have hrun := (tokenArrive_delivers hx (tile := planeTile pl) (by rw [Packet.toTile, hb]) hheld).trans (congrArg _ (deliver_token hx hb hroute))
    refine ⟨fun hcase hmrk hp => ?_, fun hcase => ?_⟩
    · rw [hcase] at hrun
      dsimp only at hrun
      rw [modPlane_of_plane (s := s.dropPacket k) hp, hmrk] at hrun
      exact ⟨_, hrun, rfl, rfl⟩
    · rw [hcase] at hrun
      exact hrun
  · intro hx hb hheld
    have hrun := (tokenArrive_delivers hx (tile := planeTile pl) (by rw [Packet.toTile, hb]) hheld).trans (congrArg _ (deliver_result hx hb))
    refine ⟨fun hcase => ?_, fun hcase => ?_⟩
    · rw [show replyCase s pl (fun p => p.placeOpen chan place) = none from hcase] at hrun
      exact hrun
    · rw [show replyCase s pl (fun p => p.placeOpen chan place) = some cs from hcase] at hrun
      exact hrun
  · intro hx ht hheld
    rw [exec_tokenArrive_eq, execTokenArrive, hx]
    dsimp only
    rw [ht]
    exact if_pos hheld
  · intro hpow hhold hnext
    refine ⟨wakeTile_on hpow, ?_⟩
    rw [exec_tileWake_eq, execTileWake]
    exact if_pos ⟨hpow, hhold, hnext⟩
  · intro hx hb hp ho
    have hrun : ∀ q : Plane, (if o.leadsTo dpl dch then { p with outs := tset p.outs port { o with credit := o.credit + 1 } } else p) = q →
        exec (.creditReturn k) s = .next (sends ((s.dropPacket k).setPlane pl q)) := by
      rintro q rfl
      rw [exec_creditReturn_eq, execCreditReturn, hx]
      dsimp only
      rw [hb]
      dsimp only
      rw [modPlane_of_plane (s := s.dropPacket k) hp, ho]
      rfl
    exact ⟨fun h => hrun _ (if_pos h), fun h => hrun _ (if_neg (Bool.not_eq_true _ ▸ h))⟩
  · intro hp hsent hidle
    have hrun := idleReport_runs hp hsent hidle
    refine ⟨fun hno => hrun.trans ?_, fun hst hraise => hrun.trans ?_, fun hst hraise => hrun.trans ?_⟩
    · have hnot : (!isStuck r p.cid) = true := by
        rw [Bool.not_eq_true', ← Bool.not_eq_true, isStuck_iff]; exact hno
      exact congrArg (fun u => Host.Outcome.next (gateIdle u (planeTile pl))) (if_pos hnot)
    all_goals have hyes : ¬ (!isStuck r p.cid) = true := not_not_eq_true ((isStuck_iff ..).mpr hst)
    · exact congrArg (fun u => Host.Outcome.next (gateIdle u (planeTile pl))) ((if_neg hyes).trans (if_pos hraise))
    · exact congrArg (fun u => Host.Outcome.next (gateIdle u (planeTile pl))) ((if_neg hyes).trans (if_neg (Bool.not_eq_true _ ▸ hraise)))
  · intro hp hch hnew hassay hmark
    obtain ⟨y, hy, hplain, hvis⟩ := hmark
    have hany : (p.chan (8 * unit + ch)).q.any (fun x => !x.plain && decide (x.vis ≤ n)) = true :=
      List.any_eq_true.mpr ⟨y, hy, Bool.and_eq_true_iff.mpr ⟨Bool.not_eq_true' _ ▸ hplain, decide_eq_true hvis⟩⟩
    rw [exec_markerArrival_eq, execMarkerArrival, hp]
    refine (if_neg ?_).trans ?_
    · rintro (h | h | h | h)
      · exact absurd hch (Nat.not_lt.mpr h)
      · exact hnew (List.contains_iff_mem.mp h)
      · exact Bool.false_ne_true (hassay.symm.trans h)
      · exact Bool.false_ne_true (h.symm.trans hany)
    · rw [modPlane_of_plane hp]
end Sys2Proof.Proofs
end

section
/-! Knots taken, discarded, committed and injected (R44, R46, R48). -/

namespace Sys2Proof.Proofs

open Sys2Proof Sys2Proof.Machine Sys2Proof.Claim

/-! ## Parts of the planes -/

section View
variable {β : Type} {g : Plane → β} {s t : State} {pl : Nat} {p q : Plane}

/-- A part g of every placed plane. -/
def planesView (g : Plane → β) (s : State) (d : Nat) : Option β := (s.plane? d).map g
theorem view_setPlane (hp : s.plane? pl = some p) (h : g q = g p) : planesView g (s.setPlane pl q) = planesView g s := by
  funext d
  unfold planesView
  by_cases hd : d = pl
  · rw [hd, State.plane_setPlane, hp]
    exact congrArg some h
  · rw [State.plane_setPlane_ne s q hd]
theorem view_modPlane {f : Plane → Plane} (h : ∀ p, g (f p) = g p) (s : State) (pl : Nat) : planesView g (s.modPlane pl f) = planesView g s := by
  cases hp : s.plane? pl with
  | none => rw [State.modPlane, hp]
  | some p =>
    rw [modPlane_of_plane hp]
    exact view_setPlane hp (h p)
theorem plane_of_view (h : planesView g t = planesView g s) (hp : s.plane? pl = some p) : ∃ q, t.plane? pl = some q ∧ g q = g p :=
  Option.map_eq_some_iff.mp ((congrFun h pl).trans (congrArg (Option.map g) hp))
theorem view_dequeue (h : ∀ p k c n, g (((Plane.setChan p k c).addBal (-1)).touch n) = g p) (s : State) (pl k : Nat) :
    planesView g (dequeue s pl k) = planesView g s := by
  unfold dequeue
  cases hp : s.plane? pl with
  | none => rfl
  | some p =>
    dsimp only
    have hset := view_setPlane hp (h p k ((p.chan k).pop (s.planeAc pl)) (s.planeAc pl))
    split
    · rfl
    · split
      · split <;> exact hset
      · exact hset
theorem view_dequeueAll (h : ∀ p k c n, g (((Plane.setChan p k c).addBal (-1)).touch n) = g p) (pl : Nat) (l : List Nat) :
    ∀ s : State, planesView g (dequeueAll s pl l) = planesView g s := by
  induction l with
  | nil => exact fun _ => rfl
  | cons k r ih => exact fun s => (ih _).trans (view_dequeue h s pl k)
theorem view_grantAll (h : ∀ p o, g { p with outs := o } = g p) (s : State) (p : Plane) : planesView g (grantAll s p) = planesView g s := by
  refine foldl_frame (g := planesView g) (fun s k => ?_) (p.inputs 19) s
  split
  · refine view_modPlane (fun q => ?_) ..
    split
    · exact h ..
    · rfl
  · rfl
theorem view_takeEntry (h : ∀ p o, g { p with outs := o } = g p) (s : State) (c : Chan) : planesView g (takeEntry s c) = planesView g s := by
  unfold takeEntry
  cases hf : feedOf s c with
  | none => rfl
  | some x =>
    obtain ⟨fp, p, port, o⟩ := x
    have hp : s.plane? fp = some p := by
      unfold feedOf at hf
      split at hf
      · exact absurd hf nofun
      · split at hf
        · exact absurd hf nofun
        · next hplane =>
          obtain ⟨o', _, heq⟩ := Option.map_eq_some_iff.mp hf
          cases heq
          exact hplane
    exact view_setPlane hp (h ..)
end View

/-- Steps that each keep a part of what they act on keep it together. -/
theorem foldl_kept {σ α β : Type} {g : σ → β} {f : σ → α → σ} (h : ∀ x a, g (f x a) = g x) (l : List α) (x : σ) : g (l.foldl f x) = g x := by
  induction l generalizing x with
  | nil => rfl
  | cons a r ih => exact (ih _).trans (h x a)

/-! ## Taking a knot (R44) -/

theorem enqueue_kElems (p : Plane) (k : Nat) (tok : Option Token) (vis : Nat) (late : Bool) : (p.enqueue k tok vis late).kElems = p.kElems := by
  unfold Plane.enqueue
  dsimp only
  cases tok
  all_goals
    split
    · rfl
    · split <;> rfl
theorem enqueueKnots_kElems (drain : Bool) (n : Nat) (l : List Nat) : ∀ p : Plane, (takeKnot.enqueueKnots drain p n l).kElems = p.kElems := by
  induction l with
  | nil => exact fun _ => rfl
  | cons k r ih => exact fun p => (ih _).trans (enqueue_kElems ..)
theorem resetKiv_elems (p : Plane) (u : Nat) : (resetKiv p u).elems = p.elems := by
  unfold resetKiv
  split <;> rfl
/-- A unit that takes a knot has taken it, and its state is recorded. -/
theorem takeKnot_plane {s : State} {pl : Nat} {p : Plane} (u : Nat) (drain : Bool) (hp : s.plane? pl = some p) :
    ∃ q, (takeKnot s pl u drain).plane? pl = some q ∧ afterKnot q u = true ∧ (u < 8 → tfind q.kElems u = some (p.elem u)) := by
  have hview : planesView Plane.elems (dequeueAll (if u = 19 then grantAll s p else s) pl ((p.fwdInputs u).filter (headKnot p (s.planeAc pl)))) =
      planesView Plane.elems s := by
    refine (view_dequeueAll (fun _ _ _ _ => rfl) ..).trans ?_
    split
    · exact view_grantAll (fun _ _ => rfl) s p
    · rfl
  obtain ⟨p1, hp1, helems⟩ := plane_of_view hview hp
  unfold takeKnot
  rw [hp]
  dsimp only
  rw [modPlane_of_plane hp1]
  refine ⟨_, State.plane_setPlane .., contains_of_mem (List.mem_append_right _ List.mem_cons_self), fun hu => ?_⟩
  have h19 : ¬ u = 19 := by omega
  have hback : ∀ (l : List Nat) (q : Plane), (l.foldl (fun p k => if (p.chan k).entry then
      p.setChan k { p.chan k with replay := (p.chan k).replay ++ [knotTok drain] } else p) q).kElems = q.kElems :=
    fun l q => foldl_kept (g := Plane.kElems) (fun p k => by dsimp only; split <;> rfl) l q
  refine (congrArg (tfind · u) ((hback ..).trans (enqueueKnots_kElems ..))).trans ?_
  rw [if_pos hu]
  refine (tfind_tset_same ..).trans (congrArg some ?_)
  rw [if_neg h19]
  have hold : (resetKiv p1 u).elem u = p.elem u := by rw [Plane.elem, resetKiv_elems, helems, Plane.elem]
  exact hold

/-! ## Injected knots (R48) -/

/-- What the knots that the device injects leave of a plane, its balance aside. -/
def injectKept (p : Plane) := (p.held, p.elems)
theorem inject_frame (n : Nat) (l : List (Nat × Chan)) : ∀ p : Plane,
    let q := l.foldl (fun p e => (p.setChan e.1 (e.2.put { id := 0, tok := some (knotTok false), vis := n + 1 })).addBal 1) p
    injectKept q = injectKept p ∧ q.bal = p.bal + (l.length : Nat) := by
  induction l with
  | nil => exact fun p => ⟨rfl, (Int.add_zero _).symm⟩
  | cons e r ih =>
    intro p
    obtain ⟨hkept, hbal⟩ := ih ((p.setChan e.1 (e.2.put { id := 0, tok := some (knotTok false), vis := n + 1 })).addBal 1)
    refine ⟨hkept, hbal.trans ?_⟩
    have hone : ((p.setChan e.1 (e.2.put { id := 0, tok := some (knotTok false), vis := n + 1 })).addBal 1).bal = p.bal + 1 := rfl
    rw [hone, List.length_cons]
    omega
theorem takeEntry_kept (s : State) (c : Chan) : ((takeEntry s c).mem, (takeEntry s c).ctxs) = (s.mem, s.ctxs) := by
  unfold takeEntry
  split <;> rfl

/-- Settles O48. -/
theorem knots : Obligations.Knots := by
  intro s pl unit ch p n
  refine ⟨?_, ?_, ?_, ?_⟩
  · rintro ⟨hp, hact, hunit⟩ hready hknot
    obtain ⟨q, hq, hafter, hrec⟩ := takeKnot_plane unit false hp
    refine ⟨q, ?_, hq, hafter, hrec⟩
    have htake : ((inputsKnot p unit (s.planeAc pl) && !inputsDrain p unit (s.planeAc pl)) || joinsKnot p unit) = true := by
      rw [Bool.or_eq_true, Bool.and_eq_true, Bool.not_eq_true']
      exact hknot
    rw [exec_knotTake_eq, execKnotTake, hp]
    refine if_pos ?_
    rw [hact, contains_of_mem hunit, show knotReady p unit (s.planeAc pl) = true from hready, htake]
    rfl
  · intro hp hact hback hstop hknot
    rw [exec_backEdgeKnotDiscard_eq, execBackEdgeKnotDiscard, hp]
    refine if_pos ?_
    rw [hact, contains_of_mem hback, show headKnot p (s.planeAc pl) (8 * unit + ch) = true from hknot, Bool.and_true, Bool.true_and, Bool.true_and, Bool.not_eq_true']
    exact Bool.eq_false_iff.mpr fun h => hstop (List.contains_iff_mem.mp h)
  · intro hp hcomplete hcut hassay
    rw [exec_knotCommit_eq, execKnotCommit, hp]
    refine if_pos ?_
    rw [show knotComplete p (s.planeAc pl) = true from hcomplete, hcut, hassay]
    rfl
  · intro hp hknot hdue harmed hret hstop hassay hroom
    have hmay : (p.knot.isNone && implicitDue p && p.armed && !p.retiring && p.stopped.isEmpty && !p.assay &&
        p.entries.all (fun e => entryRoom s e.2 n)) = true := by
      rw [hknot, hdue, harmed, hret, hstop, hassay, List.all_eq_true.mpr hroom]
      rfl
    have hview := foldl_frame (g := planesView (fun p => (p.chans, p.held, p.elems, p.bal))) (f := fun s (e : Nat × Chan) => takeEntry s e.2)
      (fun s e => view_takeEntry (fun _ _ => rfl) s e.2) p.entries s
    have hkeep := foldl_frame (g := fun s => (s.mem, s.ctxs)) (f := fun s (e : Nat × Chan) => takeEntry s e.2)
      (fun s e => takeEntry_kept s e.2) p.entries s
    obtain ⟨p1, hp1, hsame⟩ := plane_of_view hview hp
    simp only [Prod.mk.injEq] at hsame hkeep
    obtain ⟨hchans, hheld, helems, hbal⟩ := hsame
    have hentries : p1.entries = p.entries := by rw [Plane.entries, hchans, Plane.entries]
    obtain ⟨hkept, hmore⟩ := inject_frame n p1.entries p1
    simp only [injectKept, Prod.mk.injEq] at hkept
    rw [exec_implicitKnot_eq, execImplicitKnot, hp]
    refine ⟨_, _, if_pos hmay, (congrArg (State.plane? · pl) (modPlane_of_plane hp1 _)).trans (State.plane_setPlane ..), rfl, ?_, ?_, ?_, ?_, ?_⟩
    · exact hkept.1.trans hheld
    · exact hkept.2.trans helems
    · exact (State.modPlane_mem ..).trans hkeep.1
    · exact (State.modPlane_ctxs ..).trans hkeep.2
    · refine hmore.trans ?_
      rw [hbal, hentries]
      rfl
end Sys2Proof.Proofs
end

section
/-! Drains, late tokens, open sources and roll-back (R49, R50, R52, R67). -/

namespace Sys2Proof.Proofs

open Sys2Proof Sys2Proof.Machine Sys2Proof.Claim

section Drains
variable {s : State} {pl unit : Nat} {p : Plane}

theorem noPlain_of (h : noPlainKnot p) : (match p.knot with | some k => k.drain | none => true) = true := by
  cases hk : p.knot with
  | none => rfl
  | some k => exact h k hk
theorem byInput_iff (p : Plane) (unit n : Nat) :
    (inputsKnot p unit n && inputsDrain p unit n) = true ↔ inputsKnot p unit n = true ∧ inputsDrain p unit n = true := Bool.and_eq_true_iff
/-- A unit that may take a drain takes it from its inputs, with the surplus of open sources dropped, or after its pattern. -/
theorem drainTake_runs (h : unitActs s pl unit p) (hready : knotReady p unit (s.planeAc pl) = true) :
    exec (.drainTake pl unit) s =
      if inputsKnot p unit (s.planeAc pl) && inputsDrain p unit (s.planeAc pl) then .next (takeKnot s pl unit true)
      else if p.draining && surplusDrain s p unit (s.planeAc pl) then
        .next (takeKnot ((p.fwdInputs unit).foldl (fun s k => dropSurplus pl k (p.chan k).q.length s) s) pl unit true)
      else if p.draining && closedSource p unit && patternDone p unit && (match p.knot with | some k => k.drain | none => true) &&
        !kivDue p unit then .next (takeKnot s pl unit true)
      else .next s := by
  obtain ⟨hp, hact, hunit⟩ := h
  have hmay : ¬ (!(isActive s pl && p.units.contains unit && knotReady p unit (s.planeAc pl))) = true := by
    rw [hact, contains_of_mem hunit, hready]
    exact Bool.false_ne_true
  rw [exec_drainTake_eq, execDrainTake, hp]
  exact if_neg hmay
end Drains

theorem both {a b : Bool} (ha : a = true) (hb : b = true) : (a && b) = true := Bool.and_eq_true_iff.mpr ⟨ha, hb⟩
theorem restoreRows_mx (p : Plane) : (restoreRows p).mx = p.mx := by
  have hback : ∀ (late : Bool) (l : List Held) (p : Plane), (l.foldl (fun p h => match h.fx with
      | .pre r old => if h.late == late then { p with rows := tset p.rows r old } else p
      | _ => p) p).mx = p.mx := fun late l p => foldl_kept (g := Plane.mx) (fun p h => by
    split
    · split <;> rfl
    · rfl) l p
  exact (hback ..).trans (hback ..)

/-- Settles O49. -/
theorem drainsAndRollback : Obligations.DrainsAndRollback := by
  intro s pl unit ch p q n key byInput src late u room
  refine ⟨?_, ?_, ?_, ?_, ?_⟩
  · intro hacts hready
    have hrun := drainTake_runs hacts hready
    have hin := byInput_iff p unit n
    refine ⟨fun h => hrun.trans (if_pos (hin.mpr h)), fun h hdr hsur => hrun.trans ((if_neg (mt hin.mp h)).trans (if_pos ?_)),
      fun h hsur hdr hclosed hpat hplain hkiv => hrun.trans ((if_neg (mt hin.mp h)).trans ((if_neg ?_).trans (if_pos ?_)))⟩
    · rw [hdr, show surplusDrain s p unit (s.planeAc pl) = true from hsur]
      rfl
    · rw [show surplusDrain s p unit (s.planeAc pl) = false from hsur, Bool.and_false]
      exact Bool.false_ne_true
    · rw [hdr, hclosed, hpat, noPlain_of hplain, hkiv]
      rfl
  · intro hp hdrained hkey hdata hraise
    rw [exec_lateTokenDiscard_eq, execLateTokenDiscard, hp]
    refine if_pos ?_
    rw [contains_of_mem hdrained, contains_of_mem hkey, show headData p (s.planeAc pl) (8 * unit + ch) = true from hdata]
    exact hraise
  · intro hp hact hopen hdr hend hclosed hplain htargets hroom hready
    have hdone : (secOf s p).planes.all (fun q => match s.plane? q with
      | some x => x.units.all (fun u => !closedSource x u || x.drained.contains u)
      | none => true) = true := by
      rw [List.all_eq_true]
      intro a ha
      cases hx : s.plane? a with
      | none => rfl
      | some x =>
        refine List.all_eq_true.mpr fun v hv => ?_
        cases hc : closedSource x v with
        | false => rfl
        | true => exact contains_of_mem (hclosed a ha x hx v hv hc)
    have hend' : ((secOf s p).closed || p.drainNamed) = true := Bool.or_eq_true_iff.mpr hend
    rw [exec_openSourceDrain_eq, execOpenSourceDrain, hp]
    refine (if_pos ?_).trans ?_
    · exact both (both (both (both (both (both hact hopen) hdr) hend') hdone) (noPlain_of hplain)) htargets
    · have hac : (if s.powerOf (planeTile pl) = .clockGated then s.setPower (planeTile pl) .on else s).planeAc pl = s.planeAc pl := by
        split <;> rfl
      dsimp only
      rw [hac, show (makeRoom (if s.powerOf (planeTile pl) = .clockGated then s.setPower (planeTile pl) .on else s) pl p unit).plane? pl = some q from hroom]
      exact if_pos hready
  · intro hp harmed hassay
    have hmay : ¬ (!p.armed || p.assay) = true := by
      rw [harmed, hassay]
      exact Bool.false_ne_true
    rw [exec_regionRollback_eq, execRegionRollback, hp]
    exact if_neg hmay
  · intro hp
    unfold rollbackPlane
    rw [hp]
    refine ⟨_, State.plane_setPlane .., rfl, rfl, ?_, ?_, rfl, rfl, rfl, rfl, rfl, rfl, ?_⟩
    · intro h
      rw [keptReqs, h]
      rfl
    · exact fun r hr => (List.mem_filter.mp hr).1
    · exact restoreRows_mx p
end Sys2Proof.Proofs
end

section
/-! Steps of STEER, MERGE, SCALE, BFLY, CONV and RED (R253, R272, R273, R276, R278, R280 to R283). -/

namespace Sys2Proof.Proofs

open Sys2Proof Sys2Proof.Machine Sys2Proof.Claim

section Steps
variable {s t : State} {pl u : Nat} {p q : Plane} {a b : Token} {l : List Token}

/-- An operator that may act does its step, which is counted. -/
theorem runOp_steps {k : Plane → Nat → Option State} (h : opMay s pl u p) (hk : k p (s.planeAc pl) = some t) :
    runOp pl u s k = .next (opDone t pl u (s.planeAc pl)) := by
  obtain ⟨⟨hp, hact, hunit⟩, hfree, hkiv, hjoin⟩ := h
  have hmay : (isActive s pl && p.units.contains u && unitFree p u (s.planeAc pl) && !kivDue p u && !mustJoin p u) = true := by
    rw [hact, contains_of_mem hunit, hfree, hkiv, hjoin]
    rfl
  unfold runOp
  rw [hp]
  refine (if_pos hmay).trans ?_
  rw [hk]
  rfl
/-- What MERGE does with the token it has chosen, if any. -/
def mergeDone (s : State) (pl n : Nat) : Option Token → State
  | none => dequeueAll s pl [96, 97]
  | some t => (dequeueAll s pl [96, 97]).modPlane pl (fun p => sendOp p 12 0 n 1 t)
theorem mergeStep_runs {o : Option Token} (h : opMay s pl 12 p) (ha : opHead p 12 0 (s.planeAc pl) = some a) (hb : opHead p 12 1 (s.planeAc pl) = some b)
    (hroom : opRoom p 12 0 (s.planeAc pl) = true) (ho : (if a.nul && b.nul then (if fbit p 12 1 then none else some (nullTok false a.utag))
        else if a.nul then some b else some a) = o) (hu : mergeDone s pl (s.planeAc pl) o = t) :
    exec (.mergeStep pl) s = .next (opDone t pl 12 (s.planeAc pl)) := by
  refine (exec_mergeStep_eq pl s).trans (runOp_steps h ?_)
  dsimp only
  rw [ha, hb]
  dsimp only
  rw [ho]
  subst hu
  cases o with
  | none => rfl
  | some t => exact if_pos hroom
/-- SCALE with the token of its scale input, or any where the exponent is fixed. -/
theorem scaleStep_runs (h : opMay s pl 13 p) (ha : opHead p 13 0 (s.planeAc pl) = some a)
    (hb : (if fbit p 13 12 then opHead p 13 1 (s.planeAc pl) else some (nullTok false 0)) = some b) (hroom : opRoom p 13 0 (s.planeAc pl) = true)
    {e : Nat} (he : (if fbit p 13 12 then bits b.data.toNat (8 * (p.ops.scale / (fld p 13 24 8 + 1))) 8 else fld p 13 32 8) = e)
    (hl : (if fbit p 13 12 then [a, b] else [a]) = l) :
    exec (.scaleStep pl) s = .next (opDone ((dequeueAll s pl (104 :: (if fbit p 13 12 && decide (p.ops.scale + 1 = 32 * (fld p 13 24 8 + 1)) then [105] else []))).modPlane pl
      (fun x => let x := sendOp x 13 0 (s.planeAc pl) 2 (kindTokS (kindOfToks l) (scaleVal x e a.data) (if fld p 13 14 2 = 0 then a.scl else decide (fld p 13 14 2 = 2)) a.utag)
        { x with ops := { x.ops with scale := if p.ops.scale + 1 = 32 * (fld p 13 24 8 + 1) then 0 else p.ops.scale + 1 } })) pl 13 (s.planeAc pl)) := by
  refine (exec_scaleStep_eq pl s).trans (runOp_steps h ?_)
  dsimp only
  rw [ha, hb]
  refine (if_neg (not_not_eq_true hroom)).trans ?_
  subst he hl
  rfl
/-- CONV's state with the values of token a taken; b: the random token under .RSR. -/
theorem convTaken_eq (p : Plane) (a b : Token) : ({ p.ops.conv with
      vals := p.ops.conv.vals ++ (List.range (256 / (convSty p).width)).map (fun j =>
        let x := valAt (convSty p).width a.data.toNat j
        let rnd := if convRsr p then rndField (convSty p).width b.data j else 0
        if fbit p 15 18 then x + 2 ^ 64 * rnd else conv (convDty p) (convSty p) (rndAt (fld p 15 21 3)) (fbit p 15 20) rnd x),
      pos := if p.ops.conv.pos + 256 / (convSty p).width == 32 * fld p 15 32 16 then 0 else p.ops.conv.pos + 256 / (convSty p).width,
      kind := if p.ops.conv.vals.isEmpty then kindOfToks [a] else p.ops.conv.kind.join (kindOfToks [a]),
      scl := if p.ops.conv.vals.isEmpty then a.scl else p.ops.conv.scl || a.scl,
      utag := if p.ops.conv.vals.isEmpty then a.utag else p.ops.conv.utag } : ConvSt) = convTaken p a (if convRsr p then some b else none) := by
  unfold convTaken
  simp only [beq_iff_eq, List.isEmpty_iff]
  cases convRsr p <;> rfl
/-- CONV takes a source token, and what that completes leaves. -/
theorem convStep_runs {r' : Plane} (h : opMay s pl 15 p) (ha : opHead p 15 0 (s.planeAc pl) = some a)
    (hb : (if convRsr p then opHead p 15 1 (s.planeAc pl) else some (nullTok false 0)) = some b)
    (ht : dequeueAll s pl (120 :: (if convRsr p then [121] else [])) = t) (hq : t.plane? pl = some q)
    (hr : (if fbit p 15 18 then quantEmit t pl (s.planeAc pl) { q with ops := { q.ops with conv := convTaken p a (if convRsr p then some b else none) } }
          (decide (p.ops.conv.pos + 256 / (convSty p).width = 32 * fld p 15 32 16))
        else convEmit t pl (s.planeAc pl) 32 { q with ops := { q.ops with conv := convTaken p a (if convRsr p then some b else none) } }) = some r') :
    exec (.convStep pl) s = .next (opDone (t.setPlane pl (if p.ops.conv.pos + 256 / (convSty p).width = 32 * fld p 15 32 16
      then { r' with ops := { r'.ops with conv := { r'.ops.conv with row := p.ops.conv.row + 1 } } } else r')) pl 15 (s.planeAc pl)) := by
  refine (exec_convStep_eq pl s).trans (runOp_steps h ?_)
  dsimp only
  rw [ha, hb]
  dsimp only
  rw [ht, hq]
  dsimp only
  rw [convTaken_eq]
  refine (congrArg (Option.map _) hr).trans (congrArg some ?_)
  exact congrArg _ (ite_eq_of_iff beq_iff_eq rfl rfl)
end Steps

/-- Settles O50. -/
theorem valueOperators : Obligations.ValueOperators := by
  intro s pl p q a b t l n goes
  refine ⟨?_, ?_, ?_, ?_, ?_, ?_⟩
  · intro hmay ha hb hroom left cond o
    refine (exec_steerStep_eq pl s).trans (runOp_steps hmay ?_)
    dsimp only
    rw [show opHead p 11 0 (s.planeAc pl) = some a from ha, show opHead p 11 1 (s.planeAc pl) = some b from hb]
    exact if_neg (not_not_eq_true hroom)
  · intro hmay ha hb hroom
    have hrun := fun o ho u hu => mergeStep_runs (o := o) (t := u) hmay ha hb hroom ho hu
    refine ⟨fun hna hnb hbit => hrun none ?_ _ rfl, fun hna hnb hbit => hrun (some (nullTok false a.utag)) ?_ _ rfl, fun hna => hrun (some a) ?_ _ rfl,
      fun hna hnb => hrun (some b) ?_ _ rfl⟩
    · rw [hna, hnb, hbit]; rfl
    · rw [hna, hnb, hbit]; rfl
    · rw [hna]; rfl
    · rw [hna, hnb]; rfl
  · intro hmay ha hroom per at_ last scl upd
    refine ⟨fun hsrc => ?_, fun hsrc hb => ?_⟩
    · have hrun := scaleStep_runs hmay ha (if_neg (Bool.not_eq_true _ ▸ hsrc)) hroom rfl rfl
      rw [hsrc] at hrun
      exact hrun
    · have hrun := scaleStep_runs hmay ha ((if_pos hsrc).trans hb) hroom rfl rfl
      rw [hsrc] at hrun
      simp only [Bool.true_and, decide_eq_true_iff] at hrun
      exact hrun
  · intro hmay stg w need
    refine ⟨?_, ?_, ?_⟩
    · intro hout ha hlen
      refine (exec_bflyStep_eq pl s).trans (runOp_steps hmay ?_)
      dsimp only
      rw [hout, show opHead p 14 0 (s.planeAc pl) = some a from ha]
      refine (if_pos ?_)
      rw [List.length_append]
      exact hlen
    · intro hout ha hlen hroom os
      refine (exec_bflyStep_eq pl s).trans (runOp_steps hmay ?_)
      dsimp only
      rw [hout, show opHead p 14 0 (s.planeAc pl) = some a from ha]
      refine (if_neg ?_).trans (if_pos ⟨rfl, rfl, hroom⟩)
      rw [List.length_append]
      exact Nat.not_lt.mpr hlen
    · intro hout hroom q q' hnone
      refine (exec_bflyStep_eq pl s).trans (runOp_steps hmay ?_)
      dsimp only
      rw [hout]
      refine (if_neg (not_not_eq_true hroom)).trans ?_
      rw [show opHead q' 14 0 (s.planeAc pl) = none from hnone]
      rfl
  · intro hmay ha rnd u closes hrnd hu r r' hr
    cases hrsr : convRsr p with
    | false =>
      have hrun := convStep_runs (b := nullTok false 0) (t := u) (r' := r') hmay ha (if_neg (Bool.not_eq_true _ ▸ hrsr)) rfl hu
      rw [hrsr] at hrun
      refine hrun ?_
      have hnone : rnd = none := if_neg (Bool.not_eq_true _ ▸ hrsr)
      rw [← hr]
      simp only [r, hnone]
      rfl
    | true =>
      obtain ⟨b, hb⟩ := Option.ne_none_iff_exists'.mp (hrnd hrsr)
      have hrun := convStep_runs (b := b) (t := u) (r' := r') hmay ha ((if_pos hrsr).trans ((if_pos hrsr).symm.trans hb)) rfl hu
      rw [hrsr] at hrun
      refine hrun ?_
      rw [← hr]
      simp only [r, hb]
      rfl
  · intro hmay g total i all
    refine ⟨fun ha hlen => (exec_redStep_eq pl s).trans (runOp_steps hmay ?_), fun ha hlen hroom => (exec_redStep_eq pl s).trans (runOp_steps hmay ?_)⟩
    · dsimp only
      rw [show opHead p 16 (p.ops.red.length / (fld p 16 24 8 + 1)) (s.planeAc pl) = some a from ha]
      exact if_pos hlen
    · dsimp only
      rw [show opHead p 16 (p.ops.red.length / (fld p 16 24 8 + 1)) (s.planeAc pl) = some a from ha]
      exact (if_neg (Nat.not_lt.mpr hlen)).trans (if_neg (not_not_eq_true hroom))
end Sys2Proof.Proofs
end

section
/-! Steps of AGEN, WPORT, MASK, RNG and CHECK (R256 to R259, R270, R285, R288, R290, R291). -/

namespace Sys2Proof.Proofs

open Sys2Proof Sys2Proof.Machine Sys2Proof.Claim

section Sources
variable {s u v : State} {pl n : Nat} {p q : Plane} {a b t : Token} {o : Option Token}

/-! ## AGEN -/

/-- The item that AGEN forms in its turn, where no fault of it stands. -/
def agenItem (s : State) (pl n : Nat) (p : Plane) : Option State :=
  let a := p.ops.agen
  match agenMode p with
  | 0 => agenGive s pl n p (affStep s pl p a)
  | 2 => agenGive s pl n p (gathStep s pl p a)
  | _ =>
    if !(trigKind a).isData then agenGive s pl n p { addrs := [], kind := trigKind a, n := 1, st := a, done := true }
    else if a.busy && decide (a.row < a.ntok) then (agenGive s pl n p (linkRow p a)).map (fun s => linkAhead s pl n)
    else linkPage s pl n p a
/-- A plane whose input loses its head keeps its page. -/
theorem dequeue_page (hp : s.plane? pl = some p) (k : Nat) : ∃ q, (dequeue s pl k).plane? pl = some q ∧ q.page = p.page :=
  plane_of_view (view_dequeue (g := Plane.page) (fun _ _ _ _ => rfl) s pl k) hp
theorem blockOf_of_page (h : q.page = p.page) (u : Nat) : blockOf q u = blockOf p u := by
  unfold blockOf
  rw [h]
/-- AGEN's step, with the trigger taken where one is due. -/
theorem agenStep_runs (h : opMay s pl 8 p) (hfin : p.ops.agen.fin = false) (hroom : agenRoom p (s.planeAc pl) = true) (hfault : p.fault = none)
    (ho : agenTakes p (s.planeAc pl) o) (hu : agenItem (agenTurn s pl p o).1 pl (s.planeAc pl) (agenTurn s pl p o).2 = some u) :
    exec (.agenStep pl) s = .next (opDone u pl 8 (s.planeAc pl)) := by
  refine (exec_agenStep_eq pl s).trans (runOp_steps h ?_)
  have hp := h.1.1
  refine (if_neg ?_).trans ?_
  · rw [hfin, hroom, hfault]
    decide
  obtain ⟨rfl, hno⟩ | ⟨hsome, htrig, hnone, hhead⟩ := ho
  · have hstart : (agenTrig p && p.ops.agen.trig.isNone) = false := by
      obtain h0 | h0 := hno
      · rw [h0]; rfl
      · rw [Option.isNone_eq_false_iff.mpr (Option.isSome_iff_ne_none.mpr h0), Bool.and_false]
    have hsame : ({ p with fault := none, ops := { p.ops with agen := p.ops.agen } } : Plane) = p := by rw [← hfault]
    simp only [hfault, hstart, hp, Bool.or_self, Bool.false_eq_true, if_false]
    exact (congrArg (fun q => agenItem (s.setPlane pl q) pl (s.planeAc pl) q) hsame).trans hu
  · obtain ⟨t, rfl⟩ := Option.ne_none_iff_exists'.mp hsome
    obtain ⟨q, hq, hpage⟩ := dequeue_page hp 64
    have hstart : (agenTrig p && p.ops.agen.trig.isNone) = true := by rw [htrig, hnone]; rfl
    have hmode : agenMode q = agenMode p := congrArg (bits · 1 2) (blockOf_of_page hpage 8)
    simp only [agenTurn, hq, Option.getD_some] at hu
    simp only [hfault, hstart, hhead, hq, hmode, Bool.or_self, Bool.false_eq_true, if_false, if_true]
    exact hu

/-! ## WPORT -/

/-- The token that WPORT makes of what it has read. -/
def wportTok (q : Plane) (x : Lanes) : Token :=
  { data := x, tag := (mkTag false false false (BitVec.ofNat 4 (fld q 10 36 4))) ||| 0x80, stream := some (q.ops.wport.s, q.ops.wport.p, (wpPorts q).getD q.ops.wport.o 0) }
/-- WPORT's turn on a plane q ends in state u: a set that is null or poisoned gives its token, another what is read. -/
def wportEnds (s : State) (pl n : Nat) (sel : Bool) (q : Plane) (u : State) : Prop :=
  (q.ops.wport.kind ≠ .data ∧ wportGive pl n (kindTok q.ops.wport.kind 0 false (BitVec.ofNat 4 (fld q 10 36 4))) s = u) ∨
  (q.ops.wport.kind = .data ∧ (sel = true → q.ops.wport.s < fld q 10 352 32) ∧
    ∃ t x, wportRead s pl q (wpAddr q q.ops.wport.s q.ops.wport.p ((wpPorts q).getD q.ops.wport.o 0)) = (t, .ok x) ∧ wportGive pl n (wportTok q x) t = u)
/-- WPORT's position where its turn begins. -/
def wportBegins (p : Plane) (tk : Token) : WportSt :=
  if !(!p.ops.wport.busy) then p.ops.wport
  else if wportSel p then { p.ops.wport with busy := true, s := bits tk.data.toNat 0 32, p := 0, o := 0, kind := kindOfToks [tk] }
  else { p.ops.wport with busy := true, kind := .data }
theorem wportToken_runs {tk : Token} (h : opMay s pl 10 p) (hfin : p.ops.wport.fin = false) (hfault : p.wfault = none)
    (hroom : p.outReady (80 + (wpPorts p).getD p.ops.wport.o 0) (s.planeAc pl) = true)
    (htok : (if wportSel p && !p.ops.wport.busy then opHead p 10 0 (s.planeAc pl) else some (nullTok false 0)) = some tk)
    (hv : (if wportSel p && !p.ops.wport.busy then dequeue s pl 80 else s) = v) (hq : v.plane? pl = some q)
    (hu : wportEnds (v.setPlane pl { q with ops := { q.ops with wport := wportBegins p tk } }) pl (s.planeAc pl) (wportSel p)
      { q with ops := { q.ops with wport := wportBegins p tk } } u) :
    exec (.wportToken pl) s = .next (opDone u pl 10 (s.planeAc pl)) := by
  refine (exec_wportToken_eq pl s).trans (runOp_steps h ?_)
  refine (if_neg ?_).trans ?_
  · rw [hfin, hroom, hfault]
    decide
  dsimp only
  rw [htok, hv]
  dsimp only
  rw [hq]
  dsimp only
  simp only [hfault]
  obtain ⟨hkind, hu⟩ | ⟨hkind, hsel, t, x, hread, hu⟩ := hu
  · have hno : (!(wportBegins p tk).kind.isData) = true := by
      rw [Bool.not_eq_true', ← Bool.not_eq_true, isData_iff]; exact hkind
    exact (if_pos hno).trans (congrArg some hu)
  · have hdata : ¬ (!(wportBegins p tk).kind.isData) = true := not_not_eq_true ((isData_iff _).mpr hkind)
    refine (if_neg hdata).trans ((if_neg ?_).trans ((if_neg Bool.false_ne_true).trans ?_))
    · rintro hend
      obtain ⟨h1, h2⟩ := Bool.and_eq_true_iff.mp hend
      exact absurd (hsel h1) (Nat.not_lt.mpr (of_decide_eq_true h2))
    · unfold wportBegins at hread
      dsimp only at hread ⊢
      rw [hread]
      exact congrArg some hu
/-- WPORT's turn with the selector taken where a set begins. -/
theorem wportToken_turn (h : opMay s pl 10 p) (hfin : p.ops.wport.fin = false) (hfault : p.wfault = none)
    (hroom : p.outReady (80 + (wpPorts p).getD p.ops.wport.o 0) (s.planeAc pl) = true) (ho : wportTakes p (s.planeAc pl) o)
    (hu : wportEnds (wportTurn s pl p o).1 pl (s.planeAc pl) (wportSel p) (wportTurn s pl p o).2 u) :
    exec (.wportToken pl) s = .next (opDone u pl 10 (s.planeAc pl)) := by
  have hp := h.1.1
  obtain ⟨rfl, hno⟩ | ⟨hsome, hsel, hbusy, hhead⟩ := ho
  · have hstart : ¬ (wportSel p && !p.ops.wport.busy) = true := by
      obtain h0 | h0 := hno
      · rw [h0]; exact Bool.false_ne_true
      · rw [h0, Bool.not_true, Bool.and_false]; exact Bool.false_ne_true
    have hbegin : (if p.ops.wport.busy then p.ops.wport else { p.ops.wport with busy := true, kind := .data }) = wportBegins p (nullTok false 0) := by
      unfold wportBegins
      obtain h0 | h0 := hno
      · rw [h0, Bool.not_not, if_neg Bool.false_ne_true]
      · rw [h0]; rfl
    simp only [wportTurn, hp, Option.getD_some] at hu
    rw [hbegin] at hu
    exact wportToken_runs h hfin hfault hroom (if_neg hstart) (if_neg hstart) hp hu
  · obtain ⟨t, rfl⟩ := Option.ne_none_iff_exists'.mp hsome
    obtain ⟨q, hq, -⟩ := dequeue_page hp 80
    have hstart : (wportSel p && !p.ops.wport.busy) = true := by rw [hsel, hbusy]; rfl
    have hbegin : (if p.ops.wport.busy then p.ops.wport else { p.ops.wport with busy := true, s := bits t.data.toNat 0 32, p := 0, o := 0, kind := kindOfToks [t] }) =
        wportBegins p t := by
      unfold wportBegins
      rw [hbusy, hsel]
      rfl
    simp only [wportTurn, hq, Option.getD_some] at hu
    rw [hbegin] at hu
    exact wportToken_runs h hfin hfault hroom ((if_pos hstart).trans hhead) (if_pos hstart) hq hu
/-- A pair of checked tokens at the heads: passed on where they match, else recorded and rolled back. -/
theorem checkPair_runs {pair : Nat} (hp : s.plane? pl = some p) (hact : isActive s pl = true) (hunit : 19 ∈ p.units)
    (hfree : unitFree p 19 (s.planeAc pl) = true) (hpair : pair ≤ fld p 19 4 2) (ha : opHead p 19 pair (s.planeAc pl) = some a)
    (hb : opHead p 19 (pair + 4) (s.planeAc pl) = some b) :
    exec (.checkPair pl pair) s =
      let at_ := tget p.ops.checkPos pair 0
      let rc := checkRecord s pl p a b pair at_ (p.ops.check != 0)
      let w := (rollbackLinked (raise s p.vd rc) pl).modPlane pl (fun q => { q with ops := { q.ops with check := p.ops.check + 1 } })
      if checkMatch a b then
        if opRoom p 19 pair (s.planeAc pl) then
          .next ((dequeueAll s pl [152 + pair, 156 + pair]).modPlane pl (fun p =>
            let p := sendOp p 19 pair (s.planeAc pl) 1 a
            { p.touch (s.planeAc pl) with firedAt := tset p.firedAt 19 (s.planeAc pl + 1), ops := { p.ops with checkPos := tset p.ops.checkPos pair (at_ + 1) } }))
        else .next s
      else if canRaise s p.vd rc then
        .next (if p.ops.check != 0 then (linkedPlanes w pl).foldl (fun s q => startAssay s (planeTile q) q 0) w else w)
      else .next s := by
  have hmay : ¬ (!(isActive s pl && p.units.contains 19 && unitFree p 19 (s.planeAc pl) && decide (pair ≤ fld p 19 4 2))) = true := by
    rw [hact, contains_of_mem hunit, hfree, decide_eq_true hpair]
    exact Bool.false_ne_true
  rw [exec_checkPair_eq, execCheckPair, hp]
  refine (if_neg hmay).trans ?_
  rw [ha, hb]
/-- The origin that MASK keeps while its table comes in. -/
theorem maskPsn_eq (b : Token) (o : Option Word) : (if b.nul then o else if b.psn then (match o with | some x => some x | none => some b.origin) else o) =
    if b.nul = false ∧ b.psn = true ∧ o = none then some b.origin else o := by
  cases b.nul <;> cases b.psn <;> cases o <;> rfl
/-- RNG's tokens sent, the counter moved on for data. -/
theorem rngSent_eq (n : Nat) (otag : BitVec 4) (kind : Kind) (c : BitVec 128) (echo : Bool) (p : Plane) :
    (let p := sendOp p 18 0 n 3 (kindTok kind (rngLanes p c) false otag)
     let p := if echo then sendOp p 18 1 n 3 (kindTok kind (c.setWidth 256) false otag) else p
     if kind.isData then { p with ops := { p.ops with rngC := c + 2, rngN := p.ops.rngN + 1, rngK := p.ops.rngK + 1 } } else p) =
      rngSent n otag kind c echo p := by
  unfold rngSent
  exact ite_eq_of_iff (isData_iff kind) rfl rfl
end Sources

/-- Settles O51. -/
theorem sourceOperators : Obligations.SourceOperators := by
  intro s pl pair p a b t u v n goes
  refine ⟨?_, ?_, ?_, ?_, ?_⟩
  · intro hmay hfin hroom hfault ht r x give
    have hrun := fun {w} hw => agenStep_runs (u := w) hmay hfin hroom hfault ht hw
    refine ⟨fun hmode hg => hrun ?_, fun hmode hg => hrun ?_, fun hmode hk hg => hrun ?_, fun hmode hk hbusy hrow hg => hrun ?_,
      fun hmode hk hend hg => hrun ?_⟩
    all_goals unfold agenItem; rw [show agenMode (agenTurn s pl p t).2 = _ from hmode]
    · exact hg
    · exact hg
    · exact (if_pos (by rw [Bool.not_eq_true', ← Bool.not_eq_true, isData_iff]; exact hk)).trans hg
    · exact (if_neg (not_not_eq_true ((isData_iff _).mpr hk))).trans ((if_pos (both hbusy (decide_eq_true hrow))).trans (congrArg (Option.map _) hg))
    · refine (if_neg (not_not_eq_true ((isData_iff _).mpr hk))).trans ((if_neg ?_).trans hg)
      intro h
      obtain ⟨h1, h2⟩ := Bool.and_eq_true_iff.mp h
      obtain h0 | h0 := hend
      · exact Bool.false_ne_true (h0.symm.trans h1)
      · exact absurd (of_decide_eq_true h2) (Nat.not_lt.mpr h0)
  · intro hmay hfin hfault hroom ht r w otag va
    have hrun := fun {u} hu => wportToken_turn (u := u) hmay hfin hfault hroom ht hu
    refine ⟨fun hk => hrun (.inl ⟨hk, rfl⟩), fun hk hsel hread => hrun (.inr ⟨hk, hsel, _, _, hread, rfl⟩)⟩
  · intro hmay left first
    refine ⟨?_, ?_⟩
    · intro ha hb hask hleft tab psn psn'
      refine (exec_maskReload_eq pl s).trans (runOp_steps hmay ?_)
      dsimp only
      rw [show opHead p 17 1 (s.planeAc pl) = some a from ha, show opHead p 17 0 (s.planeAc pl) = some b from hb]
      have hgo : ¬ (!asksReload a || decide (p.ops.maskLeft.getD 32 = 0)) = true := by
        rw [hask, decide_eq_false hleft]; exact Bool.false_ne_true
      refine (if_neg hgo).trans ?_
      exact congrArg (fun x => some ((dequeue s pl 136).modPlane pl (fun p =>
        { p with ops := { p.ops with maskT := tab, maskPsn := x, maskLeft := some (left - 1) } }))) (maskPsn_eq b psn)
    · intro ha hask hroom kind m
      refine (exec_maskQuery_eq pl s).trans (runOp_steps hmay ?_)
      dsimp only
      rw [show opHead p 17 1 (s.planeAc pl) = some a from ha]
      have hgo : ¬ ((asksReload a && p.ops.maskLeft != some 0) || !opRoom p 17 0 (s.planeAc pl)) = true := by
        rw [show opRoom p 17 0 (s.planeAc pl) = true from hroom]
        cases hr : asksReload a with
        | false => exact Bool.false_ne_true
        | true => rw [hask hr]; decide
      exact if_neg hgo
  · intro hmay hroom
    refine ⟨?_, ?_⟩
    · intro hreq hleft
      refine (exec_rngToken_eq pl s).trans (runOp_steps hmay ?_)
      have hmore : ¬ (rngNtok p != 0 && decide (rngNtok p ≤ p.ops.rngN)) = true := by
        intro h
        obtain ⟨h1, h2⟩ := Bool.and_eq_true_iff.mp h
        have := bne_iff_ne.mp h1
        have := of_decide_eq_true h2
        omega
      refine (if_neg (not_not_eq_true hroom)).trans ((if_pos (Bool.not_eq_true' _ ▸ hreq)).trans (if_neg hmore))
    · intro hreq ha hroom2 c
      refine (exec_rngToken_eq pl s).trans (runOp_steps hmay ?_)
      refine (if_neg (not_not_eq_true hroom)).trans ((if_neg (not_not_eq_true hreq)).trans ?_)
      have hgo : ¬ ((tfind p.outs 145).isSome && !opRoom2 p 18 0 1 (s.planeAc pl)) = true := by
        intro h
        obtain ⟨h1, h2⟩ := Bool.and_eq_true_iff.mp h
        exact not_not_eq_true (hroom2 h1) h2
      dsimp only
      rw [show opHead p 18 0 (s.planeAc pl) = some a from ha]
      refine (if_neg hgo).trans (congrArg (fun f => some ((dequeue s pl 144).modPlane pl f)) ?_)
      funext q
      exact rngSent_eq ..
  · rintro ⟨hp, hact, hunit⟩ hfree hpair ha hb at_ rc w
    have hrun := checkPair_runs hp hact hunit hfree hpair ha hb
    refine ⟨fun hm hroom => hrun.trans ((if_pos hm).trans (if_pos hroom)), fun hm hraise hfirst => ?_, fun hm hraise hagain => ?_⟩
    all_goals refine hrun.trans ((if_neg (Bool.not_eq_true _ ▸ hm)).trans ((if_pos hraise).trans (congrArg Host.Outcome.next ?_)))
    · exact if_neg (fun h => bne_iff_ne.mp h hfirst)
    · exact if_pos (bne_iff_ne.mpr hagain)
end Sys2Proof.Proofs
end

section
/-! The memory interface: requests, streams, replies, weights read again, and the end of an assay (R56, R66, R155, R161, R163, R193,
R263 to R268, R479, R480). -/

namespace Sys2Proof.Proofs

open Sys2Proof Sys2Proof.Machine Sys2Proof.Claim

/-! ## Requests (R161, R163, R263) -/

section Requests
variable {s s1 u : State} {pl : Nat} {p : Plane} {r : Req} {rest : List Req}

/-- Whether a group of AGEN's queue had been stopped by the fault, so that it goes first. -/
def groupFirst (p : Plane) : Bool := match p.fault with | some f => f.src == 1 | none => false
/-- A request of a null or poisoned element that makes an access all the same: an AMO with a result, poisoned (R163). -/
def amoPoisoned (r : Req) : Bool := match r.op, r.kind, r.port with
  | .amo _, .poison _, some _ => true
  | _, _, _ => false
theorem amoPoisoned_iff (r : Req) : amoPoisoned r = true ↔ ∃ h org, r.op = .amo h ∧ r.kind = .poison org ∧ r.port ≠ none := by
  unfold amoPoisoned
  constructor
  · intro h
    split at h
    · next hop hkind hport => exact ⟨_, _, hop, hkind, hport ▸ Option.some_ne_none _⟩
    · exact absurd h Bool.false_ne_true
  · rintro ⟨h, org, hop, hkind, hport⟩
    obtain ⟨k, hk⟩ := Option.ne_none_iff_exists'.mp hport
    rw [hop, hkind, hk]
theorem groupFirst_eq_false (h : ∀ f, p.fault = some f → f.src ≠ 1) : groupFirst p = false := by
  unfold groupFirst
  cases hf : p.fault with
  | none => rfl
  | some f => exact beq_eq_false_iff_ne.mpr (h f hf)
/-- What the MIF takes: the first request that is due, or else a group. -/
def mifTakes (s : State) (pl : Nat) (p : Plane) : Option State :=
  let stream := match p.agq with
    | .group addrs kind ord :: _ => if mifSdir p = 0 then none else takeGroup s pl (s.planeAc pl) p addrs kind ord
    | _ => none
  match p.reqs with
  | r :: _ => if r.ac < s.planeAc pl ∧ groupFirst p = false then takeRequest s pl p r else stream
  | [] => stream
def takeEnds (s : State) : Option State → Ans
  | some t => .next t
  | none => .next s
/-- The MIF takes the first request of its plane, or a group, where it may act. -/
theorem mifRequestTake_runs (hp : s.plane? pl = some p) (hact : isActive s pl = true) (hfree : mifFree p (s.planeAc pl) = true) (hstream : p.stream = [])
    (hu : mifTakes s pl p = some u) :
    exec (.mifRequestTake pl) s = .next u := by
  have hmay : ¬ (!(isActive s pl && mifFree p (s.planeAc pl) && p.stream.isEmpty)) = true := by
    rw [hact, hfree, hstream]
    decide
  rw [exec_mifRequestTake_eq, execMifRequestTake, hp]
  refine (if_neg hmay).trans ?_
  dsimp only
  exact congrArg (takeEnds s) hu
theorem mifRequestTake_request (hp : s.plane? pl = some p) (hact : isActive s pl = true) (hfree : mifFree p (s.planeAc pl) = true)
    (hstream : p.stream = []) (hreqs : p.reqs = r :: rest) (hac : r.ac < s.planeAc pl) (hsrc : ∀ f, p.fault = some f → f.src ≠ 1)
    (hu : takeRequest s pl p r = some u) : exec (.mifRequestTake pl) s = .next u := by
  refine mifRequestTake_runs hp hact hfree hstream ?_
  unfold mifTakes
  rw [hreqs]
  exact (if_pos ⟨hac, groupFirst_eq_false hsrc⟩).trans hu
theorem amoPoisoned_of_data (h : r.kind = .data) : ¬ amoPoisoned r = true := by
  rw [amoPoisoned_iff]
  rintro ⟨_, _, -, hkind, -⟩
  exact Kind.noConfusion (h.symm.trans hkind)
theorem takeRequest_amo (h : amoPoisoned r = true) :
    takeRequest s pl p r = match translateAll (tlbTile (planeTile pl)) p.vd false false r.addrs [] s with
      | (s, .inl l) => performReq s pl p { r with lsix := none } l
      | (s, .inr _) => some (plainReq pl r s) := if_pos h
theorem takeRequest_plain (h : ¬ amoPoisoned r = true) (hkind : r.kind ≠ .data) : takeRequest s pl p r = some (plainReq pl r s) :=
  (if_neg h).trans (if_pos (by rw [Bool.not_eq_true', ← Bool.not_eq_true, isData_iff]; exact hkind))
/-- A request refused: its reply is poisoned at once. -/
def refusedReq (pl : Nat) (r : Req) (s : State) : State := reqDone pl 1 (replyNow pl r (poisonTok (opOrigin s pl 9 causeXfault 0xFFFF) r.otag) s)
/-- Whether the plane's fault was answered FAIL. -/
def faultFailed (p : Plane) : Bool := match p.fault with | some f => f.failed | none => false
theorem takeRequest_data (hkind : r.kind = .data) :
    takeRequest s pl p r = if faultFailed p then some (refusedReq pl r s)
      else match translateAll (tlbTile (planeTile pl)) p.vd r.write r.blk (r.addrs.drop (gotOf p).length) (gotOf p) s with
        | (s, .inl l) => performReq s pl p r l
        | (s, .inr (_, va, e, got)) =>
          match raisePlaneFault s pl va 0 e r.acc 0 r.slot r.elem got with
          | none => none
          | some s => if stalls e then some s else some (refusedReq pl r s) :=
  (if_neg (amoPoisoned_of_data hkind)).trans (if_neg (not_not_eq_true ((isData_iff _).mpr hkind)))
theorem faultFailed_eq_false (h : ∀ f, p.fault = some f → f.failed = false) : ¬ faultFailed p = true := by
  unfold faultFailed
  cases hf : p.fault with
  | none => exact Bool.false_ne_true
  | some f => exact Bool.not_eq_true _ ▸ h f hf
/-- A step of the group in progress: the MIF may make an access. -/
theorem mifStream_may {n : Nat} (hact : isActive s pl = true) (harmed : p.armed = true) (hassay : p.assay = false) (hstop : 9 ∉ p.stopped)
    (hmark : markerDue p 9 n = false) (hfired : tget p.firedAt 9 0 ≤ n) :
    ¬ (!(isActive s pl && p.armed && !p.assay && !p.stopped.contains 9 && !markerDue p 9 n && decide (tget p.firedAt 9 0 ≤ n))) = true := by
  have hnot : p.stopped.contains 9 = false := Bool.eq_false_iff.mpr fun h => hstop (List.contains_iff_mem.mp h)
  rw [hact, harmed, hassay, hnot, hmark, decide_eq_true hfired]
  decide
end Requests

/-! ## Records leave the package where it stands -/

theorem pos_modVd (s : State) (k : Nat) (f : Vd → Vd) : (s.modVd k f).hub.pos = s.hub.pos := by
  unfold State.modVd
  split <;> rfl
theorem hub_writeSlots (n : Nat) : ∀ (s : State) (v : Vd) (i : Nat) (l : Bytes), (writeSlots n s v i l).hub = s.hub := by
  induction n with
  | zero => exact fun _ _ _ _ => rfl
  | succ n ih => exact fun s v i l => (ih ..).trans (devWrite_hub ..)
theorem pos_fqNotify (s : State) (k : Nat) (v : Vd) : (fqNotify s k v).hub.pos = s.hub.pos := by
  unfold fqNotify
  split
  · exact pos_modVd ..
  · rfl
theorem hub_devReadF (s : State) (pa kslot n : Nat) : (devReadF s pa kslot n).1.hub = s.hub := by
  unfold devReadF
  split <;> rfl
theorem pos_raise (s : State) (k : Nat) (rc : Bytes) : (raise s k rc).hub.pos = s.hub.pos := by
  unfold raise
  split
  · rfl
  · split
    · rw [hub_devReadF, fqWrite, pos_fqNotify, devWrite_hub, State.setVd]
      exact (congrArg Hub.pos (hub_writeSlots (recSlots rc) s _ _ rc) : _)
    · dsimp only
      rw [devWrite_hub, hub_devReadF]
      rfl
/-- The records and events of an assay leave the package where it stands. -/
theorem pos_assay (s : State) (vds : List (Nat × Nat)) (rc : Nat × Nat → Bytes) :
    (vds.foldl (fun s y => setEvent (raise s y.1 (rc y)) y.2 4) s).hub.pos = s.hub.pos :=
  foldl_frame (g := fun s => s.hub.pos) (fun _ _ => (congrArg Hub.pos (State.modCtx_hub ..)).trans (pos_raise ..)) vds s

theorem faX_assay (s : State) (vds : List (Nat × Nat)) (rc : Nat × Nat → Bytes) (tile : Nat) :
    faX (vds.foldl (fun s y => setEvent (raise s y.1 (rc y)) y.2 4) s) tile = faX s tile := by
  rw [faX, State.px, pos_assay, faX, State.px]
theorem faY_assay (s : State) (vds : List (Nat × Nat)) (rc : Nat × Nat → Bytes) (tile : Nat) :
    faY (vds.foldl (fun s y => setEvent (raise s y.1 (rc y)) y.2 4) s) tile = faY s tile := by
  rw [faY, State.py, pos_assay, faY, State.py]

/-- Settles O52. -/
theorem memoryInterface : Obligations.MemoryInterface := by
  intro s s1 u pl k id sec elem tile p r rest l addrs kind ord items x v ue nul a lsix st kslot cp w res j va e moved
    n free mine noReq noFail poisoned refused plain may again todo asRead
  have hamo := amoPoisoned_iff r
  have htake : free → mine → ∀ {u}, takeRequest s pl p r = some u → exec (.mifRequestTake pl) s = .next u := by
    rintro ⟨hp, hact, hfree, hstream⟩ ⟨hreqs, hac, hsrc⟩ u hu
    exact mifRequestTake_request hp hact hfree hstream hreqs hac hsrc hu
  refine ⟨?_, ?_, ?_, ?_, ?_, ?_, ?_, ?_, ?_, ?_, ?_, ?_, ?_⟩
  · intro hfree hmine hkind hno htodo hperf
    refine htake hfree hmine ?_
    rw [takeRequest_data hkind, if_neg (faultFailed_eq_false hno)]
    rw [show translateAll (tlbTile (planeTile pl)) p.vd r.write r.blk (r.addrs.drop (gotOf p).length) (gotOf p) s = _ from htodo]
    exact hperf
  · intro hfree hmine hkind hno htodo hraise
    refine htake hfree hmine ?_
    rw [takeRequest_data hkind, if_neg (faultFailed_eq_false hno)]
    rw [show translateAll (tlbTile (planeTile pl)) p.vd r.write r.blk (r.addrs.drop (gotOf p).length) (gotOf p) s = _ from htodo]
    dsimp only
    rw [hraise]
    exact (apply_ite some ..).symm
  · rintro hfree hmine hkind ⟨f, hf, hfail⟩
    refine htake hfree hmine ?_
    have hfailed : faultFailed p = true := by rw [faultFailed, hf]; exact hfail
    exact (takeRequest_data hkind).trans (if_pos hfailed)
  · intro hfree hmine hpoi hread hperf
    refine htake hfree hmine ?_
    rw [takeRequest_amo (hamo.mpr hpoi)]
    rw [show translateAll (tlbTile (planeTile pl)) p.vd false false r.addrs [] s = _ from hread]
    exact hperf
  · intro hfree hmine hpoi hread
    refine htake hfree hmine ?_
    rw [takeRequest_amo (hamo.mpr hpoi)]
    rw [show translateAll (tlbTile (planeTile pl)) p.vd false false r.addrs [] s = _ from hread]
    rfl
  · intro hfree hmine hkind hpoi
    refine htake hfree hmine ?_
    exact takeRequest_plain (mt hamo.mp hpoi) hkind
  · rintro ⟨hp, hact, hfree, hstream⟩ hno hagq hdir hgroup
    refine mifRequestTake_runs hp hact hfree hstream ?_
    have hstream' : (match p.agq with
        | .group addrs kind ord :: _ => if mifSdir p = 0 then none else takeGroup s pl (s.planeAc pl) p addrs kind ord
        | _ => none) = some u := by
      rw [hagq]
      exact (if_neg hdir).trans hgroup
    unfold mifTakes
    dsimp only
    obtain hreqs | ⟨f, hf, hsrc⟩ | ⟨hreqs, hac⟩ := hno
    · rw [hreqs]
      exact hstream'
    · have hfirst : groupFirst p = true := by rw [groupFirst, hf]; exact beq_iff_eq.mpr hsrc
      cases p.reqs with
      | nil => exact hstream'
      | cons r l => exact (if_neg (fun h => Bool.false_ne_true (h.2.symm.trans hfirst))).trans hstream'
    · rw [hreqs]
      exact (if_neg (fun h => absurd h.1 (Nat.not_lt.mpr hac))).trans hstream'
  · rintro ⟨hp, hact, harmed, hassay, hstop, hmark, hfired⟩ hre hfault hset hmoved
    rw [exec_mifStreamAccess_eq, execMifStreamAccess, hp]
    refine (if_neg (mifStream_may hact harmed hassay hstop hmark hfired)).trans ((if_pos hre).trans (congrArg Host.Outcome.next ?_))
    rw [restream, hfault]
    dsimp only
    rw [restream.again, hset, show translateStream (tlbTile (planeTile pl)) p p.stream [] s = _ from hmoved]
  · rintro ⟨hp, hact, harmed, hassay, hstop, hmark, hfired⟩ hre hstream
    rw [exec_mifStreamAccess_eq, execMifStreamAccess, hp]
    refine (if_neg (mifStream_may hact harmed hassay hstop hmark hfired)).trans ((if_neg (Bool.not_eq_true _ ▸ hre)).trans ?_)
    rw [hstream]
  · rintro ⟨hp, hact, harmed, hassay, hstop, hmark, hfired⟩ hre hstream hroom
    rw [exec_mifStreamAccess_eq, execMifStreamAccess, hp]
    refine (if_neg (mifStream_may hact harmed hassay hstop hmark hfired)).trans ((if_neg (Bool.not_eq_true _ ▸ hre)).trans ?_)
    rw [hstream]
    exact if_pos hroom
  · intro hx hb asked
    have hrun : exec (.memoryReply k) s = if tileHolds s (planeTile pl) then .next s
        else match replyCase s pl (fun p => p.loads.any (fun l => l.id == id && l.waiting.contains sec)) with
          | some case => .next (misroute s k x case pl 9 0 (x.srcFa s) none)
          | none => .next (takeSector (s.dropPacket k) pl id sec v ue nul) := by
      rw [exec_memoryReply_eq, execMemoryReply, hx]
      dsimp only
      rw [hb] <;> rfl
    refine ⟨fun hhold => hrun.trans (if_pos hhold), fun hhold hasked => hrun.trans ((if_neg (Bool.not_eq_true _ ▸ hhold)).trans ?_),
      fun hhold hasked => hrun.trans ((if_neg (Bool.not_eq_true _ ▸ hhold)).trans ?_)⟩
    all_goals rw [show replyCase s pl (fun p => p.loads.any (fun l => l.id == id && l.waiting.contains sec)) = _ from hasked]
  · intro hp hact helem hwf y r1 r2 r3 r4 r5 w m f rc
    have hmay : ¬ (!(p.refill.contains elem && isActive s pl)) = true := by
      rw [contains_of_mem helem, hact]
      decide
    refine ⟨fun hstall => ?_, fun hstall hfault hraise => ?_⟩
    all_goals
      rw [exec_weightRefill_eq, execWeightRefill, hp]
      refine (if_neg hmay).trans ?_
      rw [hwf]
      dsimp only
      rw [hstall]
    · rfl
    · exact if_pos (both hraise (hfault ▸ rfl))
  · intro on pls vds rc t secs w hpls hraise
    have hgo : ¬ (pls.isEmpty || vds.any (fun y => !canRaise s y.1 (rc y))) = true := by
      rw [Bool.or_eq_true]
      rintro (h | h)
      · exact hpls (List.isEmpty_iff.mp h)
      · obtain ⟨y, hy, hno⟩ := List.any_eq_true.mp h
        exact not_not_eq_true (hraise y hy) hno
    refine ⟨fun hlast => ?_, fun hlast hbank => ?_, fun hlast hbank => ?_⟩
    all_goals
      rw [exec_assayComplete_eq, execAssayComplete]
      refine (if_neg hgo).trans ?_
      dsimp only
      rw [faX_assay, faY_assay]
    · exact if_pos (Bool.not_eq_true' _ ▸ hlast)
    · exact (if_neg (not_not_eq_true hlast)).trans (if_pos (beq_iff_eq.mpr hbank))
    · exact (if_neg (not_not_eq_true hlast)).trans (if_neg (fun h => hbank (beq_iff_eq.mp h)))
end Sys2Proof.Proofs
end

section
/-! Rounding of a value to a format and the conversions (R90, R95 to R97, R100 to R102). -/

namespace Sys2Proof.Proofs

open Sys2Proof Sys2Proof.Machine Sys2Proof.Claim

/-! ## The formats of R90 -/

/-- What the proofs about rounding use of a format: its constants in the model's words and in the claim's. -/
structure Regular (f : Fmt) : Prop where
  mb_pos : 0 < f.mb
  nan_eq : f.nan = quietNan f
  inf_eq : ∀ neg, f.infCode neg = infinity f neg
  max_eq : f.maxCode = topCode f
  qmin_le : f.qmin ≤ f.maxQ
  top_eq : topCode f = (f.maxQ - f.qmin).toNat * 2 ^ f.mb + f.maxM
  le_maxM : 2 ^ f.mb ≤ f.maxM
  maxM_lt : f.maxM < 2 ^ (f.mb + 1)
  width_eq : f.w - 1 = f.mb + f.eb
  width_pos : 0 < f.w
  top_of_inf : f.e4m3 = false → topCode f + 1 = (2 ^ f.eb - 1) * 2 ^ f.mb
  inf_mag : f.e4m3 = false → 2 ^ (f.w - 1) - 2 ^ f.mb = (2 ^ f.eb - 1) * 2 ^ f.mb
  top_of_e4m3 : f.e4m3 = true → f = fmtE4M3
  exp_small : f.qmin + 2 ^ f.eb ≤ 4096

theorem regular_of_mem {f : Fmt} (h : f ∈ formats) : Regular f := by
  simp only [formats, List.mem_cons, List.not_mem_nil, or_false] at h
  obtain rfl | rfl | rfl | rfl | rfl | rfl := h <;>
    exact ⟨by decide, by decide, by decide, by decide, by decide, by decide, by decide, by decide, by decide, by decide, by decide,
      by decide, by decide, by decide⟩

theorem signed_eq (f : Fmt) (neg : Bool) (c : Nat) : f.signBit neg + c = signed f neg c := rfl

/-! ## Powers of two and scaled numbers -/

theorem two_zpow_pos (q : Int) : (0 : Rat) < 2 ^ q := Rat.zpow_pos (by decide)
theorem two_zpow_add (p q : Int) : (2 : Rat) ^ (p + q) = 2 ^ p * 2 ^ q := Rat.zpow_add (by decide) p q
theorem two_zpow_nat_add (k : Nat) (q : Int) : (2 : Rat) ^ ((k : Int) + q) = ((2 ^ k : Nat) : Rat) * 2 ^ q := by
  rw [two_zpow_add, Rat.zpow_natCast, Rat.natCast_pow, Rat.natCast_ofNat]
theorem two_zpow_half (q : Int) : (2 : Rat) ^ (q - 1) = 2 ^ q / 2 := by
  have h := two_zpow_nat_add 1 (q - 1)
  rw [show ((1 : Nat) : Int) + (q - 1) = q by omega, Nat.pow_one, Rat.natCast_ofNat] at h
  grind
/-- A power of two as a natural power above a lower one. -/
theorem two_zpow_split {e q : Int} (h : e ≤ q) : (2 : Rat) ^ q = ((2 ^ (q - e).toNat : Nat) : Rat) * 2 ^ e := by
  rw [← two_zpow_nat_add, Int.toNat_of_nonneg (Int.sub_nonneg_of_le h), Int.sub_add_cancel]
theorem nat_mul_zpow_split (c : Nat) {e q : Int} (h : e ≤ q) : (c : Rat) * 2 ^ q = ((c * 2 ^ (q - e).toNat : Nat) : Rat) * 2 ^ e := by
  rw [two_zpow_split h, ← Rat.mul_assoc, ← Rat.natCast_mul]

section Scale
variable {w : Rat} (hw : 0 < w)
include hw
theorem scale_lt_iff {a b : Rat} : a * w < b * w ↔ a < b := Rat.mul_lt_mul_right hw
theorem scale_le_iff {a b : Rat} : a * w ≤ b * w ↔ a ≤ b := by
  rw [← Rat.not_lt, ← Rat.not_lt, scale_lt_iff hw]
theorem scale_nat_lt_iff {a b : Nat} : (a : Rat) * w < b * w ↔ a < b := by rw [scale_lt_iff hw, Rat.natCast_lt_natCast]
theorem scale_nat_le_iff {a b : Nat} : (a : Rat) * w ≤ b * w ↔ a ≤ b := by rw [scale_le_iff hw, Rat.natCast_le_natCast]
end Scale

theorem nat_mul_zpow_nonneg (m : Nat) (q : Int) : (0 : Rat) ≤ m * 2 ^ q :=
  Rat.mul_nonneg Rat.natCast_nonneg (Rat.le_of_lt (two_zpow_pos q))
theorem two_zpow_lt {p q : Int} (h : p < q) : (2 : Rat) ^ p < 2 ^ q := by
  have hone : 1 < 2 ^ (q - p).toNat := Nat.one_lt_two_pow (by omega)
  rw [two_zpow_split (Int.le_of_lt h)]
  calc (2 : Rat) ^ p = ((1 : Nat) : Rat) * 2 ^ p := by rw [Rat.natCast_ofNat, Rat.one_mul]
    _ < _ := (scale_nat_lt_iff (two_zpow_pos p)).2 hone
theorem two_zpow_lt_iff {p q : Int} : (2 : Rat) ^ p < 2 ^ q ↔ p < q := by
  refine ⟨fun h => ?_, two_zpow_lt⟩
  by_cases hlt : p < q
  · exact hlt
  · obtain heq | hgt := Int.le_iff_eq_or_lt.1 (Int.not_lt.1 hlt)
    · exact absurd (heq ▸ h) Rat.lt_irrefl
    · exact absurd (two_zpow_lt hgt) (Rat.not_lt.2 (Rat.le_of_lt h))

/-! ## Codes as a mantissa and a step of the exponent -/

theorem two_pow_succ_eq (k : Nat) : 2 ^ (k + 1) = 2 ^ k + 2 ^ k := by rw [Nat.pow_succ, Nat.mul_two]

/-- A code without sign as k steps of the exponent above the least one and a mantissa. -/
def codeExp (f : Fmt) (x : Nat) : Nat := x / 2 ^ f.mb - 1
def codeSig (f : Fmt) (x : Nat) : Nat := x - codeExp f x * 2 ^ f.mb

section Codes
variable (f : Fmt) (x : Nat)

theorem code_split : codeExp f x * 2 ^ f.mb + codeSig f x = x :=
  Nat.add_sub_cancel' (Nat.le_trans (Nat.mul_le_mul_right _ (Nat.sub_le _ 1)) (Nat.div_mul_le_self x _))

/-- The mantissa of a code whose exponent field is not zero has the leading one. -/
theorem codeSig_of_normal (h : x / 2 ^ f.mb ≠ 0) : codeSig f x = 2 ^ f.mb + x % 2 ^ f.mb := by
  obtain ⟨k, hk⟩ := Nat.exists_eq_succ_of_ne_zero h
  have hx := Nat.div_add_mod x (2 ^ f.mb)
  simp only [codeSig, codeExp, hk, Nat.succ_eq_add_one, Nat.add_sub_cancel] at *
  rw [Nat.mul_succ, Nat.mul_comm] at hx
  omega

theorem codeSig_of_subnormal (h : x / 2 ^ f.mb = 0) : codeSig f x = x := by simp [codeSig, codeExp, h]

theorem codeSig_lt : codeSig f x < 2 ^ (f.mb + 1) := by
  have hpow := two_pow_succ_eq f.mb
  by_cases h : x / 2 ^ f.mb = 0
  · rw [codeSig_of_subnormal f x h]
    have := (Nat.div_eq_zero_iff_lt (Nat.two_pow_pos f.mb)).1 h
    omega
  · rw [codeSig_of_normal f x h]
    have := Nat.mod_lt x (Nat.two_pow_pos f.mb)
    omega

/-- A mantissa below the leading one stands at the least exponent. -/
theorem codeExp_eq_zero_or : codeExp f x = 0 ∨ 2 ^ f.mb ≤ codeSig f x := by
  by_cases h : x / 2 ^ f.mb = 0
  · exact .inl (by simp [codeExp, h])
  · exact .inr (codeSig_of_normal f x h ▸ Nat.le_add_right _ _)

theorem codeMag_eq : codeMag f x = (codeSig f x : Rat) * 2 ^ (f.qmin + codeExp f x) := by
  by_cases h : x / 2 ^ f.mb = 0
  · rw [codeMag, if_pos h, codeSig_of_subnormal f x h]
    simp [codeExp, h, Fmt.qmin]
  · rw [codeMag, if_neg h, codeSig_of_normal f x h]
    congr 2
    simp only [codeExp, Fmt.qmin]
    generalize x / 2 ^ f.mb = k at h
    omega

theorem spacing_eq : spacing f x = (2 : Rat) ^ (f.qmin + codeExp f x) := by
  rw [spacing]
  congr 1
  simp only [codeExp, Fmt.qmin]
  generalize x / 2 ^ f.mb = k
  omega

theorem spacing_pos : 0 < spacing f x := by
  rw [spacing_eq]
  exact two_zpow_pos _

theorem codeMag_nonneg : 0 ≤ codeMag f x := by
  rw [codeMag_eq]
  exact nat_mul_zpow_nonneg _ _

/-- The value after the one of a code is one spacing above it. -/
theorem codeMag_succ : codeMag f (x + 1) = codeMag f x + spacing f x := by
  have hlt := codeSig_lt f x
  have hx := code_split f x
  have hx1 := code_split f (x + 1)
  have hlt1 := codeSig_lt f (x + 1)
  have hpos := Nat.two_pow_pos f.mb
  have hpow := two_pow_succ_eq f.mb
  have hdiv := Nat.succ_div (a := x) (b := 2 ^ f.mb)
  have hexp : codeExp f (x + 1) = codeExp f x ∨ codeExp f (x + 1) = codeExp f x + 1 := by
    simp only [codeExp]
    split at hdiv <;> omega
  rw [codeMag_eq, codeMag_eq, spacing_eq]
  obtain he | he := hexp
  · have hs : codeSig f (x + 1) = codeSig f x + 1 := by rw [he] at hx1; omega
    rw [he, hs, Rat.natCast_add, Rat.natCast_ofNat, Rat.add_mul, Rat.one_mul]
  · rw [he, Nat.succ_mul] at hx1
    have hle : 2 ^ f.mb ≤ codeSig f (x + 1) := (codeExp_eq_zero_or f (x + 1)).resolve_left (by omega)
    have hs1 : codeSig f (x + 1) = 2 ^ f.mb := by omega
    have hs : codeSig f x + 1 = 2 ^ f.mb + 2 ^ f.mb := by omega
    have hc : (codeSig f x : Rat) + 1 = ((2 ^ f.mb : Nat) : Rat) + (2 ^ f.mb : Nat) := by
      rw [← Rat.natCast_add, ← hs, Rat.natCast_add, Rat.natCast_ofNat]
    have hstep := two_zpow_nat_add 1 (f.qmin + codeExp f x)
    rw [he, hs1, show f.qmin + ((codeExp f x + 1 : Nat) : Int) = ((1 : Nat) : Int) + (f.qmin + codeExp f x) by omega, hstep, Nat.pow_one,
      Rat.natCast_ofNat]
    grind

/-- The value after the one of a code, as a number of its spacings. -/
theorem codeMag_next : codeMag f x + spacing f x = ((codeSig f x + 1 : Nat) : Rat) * 2 ^ (f.qmin + codeExp f x) := by
  rw [codeMag_eq, spacing_eq, Rat.natCast_add, Rat.natCast_ofNat, Rat.add_mul, Rat.one_mul]
theorem codeMag_lt {x y : Nat} (h : x < y) : codeMag f x < codeMag f y := by
  induction h with
  | refl =>
    have hpos := spacing_pos f x
    rw [Nat.succ_eq_add_one, codeMag_succ]
    grind
  | @step k _ ih =>
    have hpos := spacing_pos f k
    rw [codeMag_succ]
    grind
theorem codeMag_inj {x y : Nat} (h : codeMag f x = codeMag f y) : x = y := by
  obtain hlt | heq | hgt := Nat.lt_trichotomy x y
  · exact absurd (h ▸ codeMag_lt f hlt) Rat.lt_irrefl
  · exact heq
  · exact absurd (h ▸ codeMag_lt f hgt) Rat.lt_irrefl

end Codes

/-! ## Cutting off and moving away from zero (R95, R96) -/

/-- The test of a mode on what is left, in the model's numbers and as the claim states it of the values. -/
theorem movesUp_iff (mode : Rnd) (neg : Bool) {t c r s : Nat} (a : Rat) {w : Rat} (rnd n : Nat) (hw : 0 < w) (hpar : t % 2 = c % 2) :
    movesUp mode neg t a (((2 ^ s : Nat) : Rat) * w) (.rat (a + r * w)) rnd n ↔ roundUp mode neg c r s rnd n = true := by
  have htwice : ∀ k : Nat, ((2 * k : Nat) : Rat) = 2 * k := fun k => by rw [Rat.natCast_mul, Rat.natCast_ofNat]
  have hhalf : a + ((2 ^ s : Nat) : Rat) * w / 2 < a + r * w ↔ 2 ^ s < 2 * r := by
    rw [← scale_nat_lt_iff hw (a := 2 ^ s), htwice]
    constructor <;> intro h <;> grind
  have hhalf' : a + r * w < a + ((2 ^ s : Nat) : Rat) * w / 2 ↔ 2 * r < 2 ^ s := by
    rw [← scale_nat_lt_iff hw (b := 2 ^ s), htwice]
    constructor <;> intro h <;> grind
  have hzero : a < a + r * w ↔ 0 < r := by
    rw [← scale_nat_lt_iff hw (a := 0), Rat.natCast_ofNat, Rat.zero_mul]
    constructor <;> intro h <;> grind
  cases mode with
  | rne =>
    simp only [movesUp, roundUp, Cut.rat, decide_eq_true_eq, Rat.not_le, hpar]
    rw [hhalf, ← Rat.not_lt (a := a + r * w), ← Rat.not_lt (b := a + r * w), hhalf, hhalf']
    omega
  | rtz => simp [movesUp, roundUp]
  | rup =>
    simp only [movesUp, roundUp, Cut.rat, Rat.not_le, hzero]
    cases neg <;> simp [Nat.pos_iff_ne_zero]
  | rdn =>
    simp only [movesUp, roundUp, Cut.rat, Rat.not_le, hzero]
    cases neg <;> simp [Nat.pos_iff_ne_zero]
  | rsr =>
    have hn : (0 : Rat) < (2 ^ n : Nat) := Rat.natCast_pos.2 (Nat.two_pow_pos n)
    have hmod := Nat.mod_lt rnd (Nat.two_pow_pos n)
    have key : a + ((2 ^ s : Nat) : Rat) * w * (((2 ^ n - rnd % 2 ^ n : Nat) : Rat) / ((2 ^ n : Nat) : Rat)) ≤ a + r * w ↔
        (2 ^ n - rnd % 2 ^ n) * 2 ^ s ≤ r * 2 ^ n := by
      rw [Rat.add_le_add_left, ← scale_le_iff hn, ← scale_nat_le_iff hw, Rat.natCast_mul, Rat.natCast_mul]
      have hcancel := Rat.div_mul_cancel (a := ((2 ^ n - rnd % 2 ^ n : Nat) : Rat)) (Rat.ne_of_gt hn)
      generalize ((2 ^ n - rnd % 2 ^ n : Nat) : Rat) / ((2 ^ n : Nat) : Rat) = d at hcancel ⊢
      rw [← hcancel]
      constructor <;> intro h <;> grind
    simp only [movesUp, roundUp, Cut.rat, decide_eq_true_eq]
    rw [key, ← Nat.le_div_iff_mul_le (Nat.two_pow_pos s)]
    omega

theorem roundUp_zero (mode : Rnd) (neg : Bool) (t rnd n : Nat) : roundUp mode neg t 0 0 rnd n = false := by
  have hmod := Nat.mod_lt rnd (Nat.two_pow_pos n)
  cases mode <;> simp [roundUp, hmod]

section RoundAt
variable (mode : Rnd) (neg : Bool) {m c : Nat} {e q : Int} (rnd n : Nat)

/-- Rounding m * 2^e to a multiple of 2^q that the value is at or above, and less than one step above: the mode decides. -/
theorem roundAt_cut {t : Nat} (hpar : t % 2 = c % 2) (hlo : (c : Rat) * 2 ^ q ≤ m * 2 ^ e)
    (hhi : (m : Rat) * 2 ^ e < ((c + 1 : Nat) : Rat) * 2 ^ q) :
    (movesUp mode neg t (c * 2 ^ q) (2 ^ q) (.rat (m * 2 ^ e)) rnd n → roundAt mode neg m e q rnd n = c + 1) ∧
    (¬ movesUp mode neg t (c * 2 ^ q) (2 ^ q) (.rat (m * 2 ^ e)) rnd n → roundAt mode neg m e q rnd n = c) := by
  by_cases hqe : q ≤ e
  · have hv := nat_mul_zpow_split m hqe
    rw [hv, scale_nat_le_iff (two_zpow_pos q)] at hlo
    rw [hv, scale_nat_lt_iff (two_zpow_pos q)] at hhi
    have hc : m * 2 ^ (e - q).toNat = c := by omega
    have hup := movesUp_iff mode neg (r := 0) (s := 0) ((c : Rat) * 2 ^ q) rnd n (two_zpow_pos q) hpar
    rw [roundUp_zero, Nat.pow_zero, Rat.natCast_ofNat, Rat.natCast_ofNat, Rat.one_mul, Rat.zero_mul, Rat.add_zero] at hup
    rw [hv, hc, roundAt, if_pos hqe, hc]
    exact ⟨fun h => absurd (hup.1 h) Bool.false_ne_true, fun _ => rfl⟩
  · have hle : e ≤ q := Int.le_of_lt (Int.not_le.1 hqe)
    have hpe := two_zpow_pos e
    rw [nat_mul_zpow_split c hle, scale_nat_le_iff hpe] at hlo
    rw [nat_mul_zpow_split (c + 1) hle, scale_nat_lt_iff hpe] at hhi
    have hdiv : m / 2 ^ (q - e).toNat = c := Nat.div_eq_of_lt_le hlo hhi
    have hm : (m : Rat) * 2 ^ e = (c : Rat) * 2 ^ q + (m % 2 ^ (q - e).toNat : Nat) * 2 ^ e := by
      have h := Nat.div_add_mod m (2 ^ (q - e).toNat)
      rw [hdiv, Nat.mul_comm] at h
      rw [nat_mul_zpow_split c hle, ← Rat.add_mul, ← Rat.natCast_add, h]
    have hup := movesUp_iff mode neg (r := m % 2 ^ (q - e).toNat) (s := (q - e).toNat) ((c : Rat) * 2 ^ q) rnd n hpe hpar
    rw [← hm, ← two_zpow_split hle] at hup
    rw [roundAt, if_neg hqe, hup]
    dsimp only
    rw [hdiv]
    exact ⟨fun h => if_pos h, fun h => if_neg h⟩

/-- Rounding goes no lower than a multiple that the value is not below. -/
theorem le_roundAt (h : (c : Rat) * 2 ^ q ≤ m * 2 ^ e) : c ≤ roundAt mode neg m e q rnd n := by
  rw [roundAt]
  split
  case isTrue hqe =>
    rw [nat_mul_zpow_split m hqe, scale_nat_le_iff (two_zpow_pos q)] at h
    exact h
  case isFalse hqe =>
    rw [nat_mul_zpow_split c (Int.le_of_lt (Int.not_le.1 hqe)), scale_nat_le_iff (two_zpow_pos e)] at h
    have hc := (Nat.le_div_iff_mul_le (Nat.two_pow_pos _)).2 h
    dsimp only
    split
    · exact Nat.le_trans hc (Nat.le_succ _)
    · exact hc

end RoundAt

/-! ## Rounding to a format (R95, R97) -/

section Round
variable {f : Fmt} (hf : Regular f) {m : Nat} {e : Int} (mode : Rnd) (sat neg : Bool) (rnd n : Nat)

/-- The step to which a value is rounded: its own for a full mantissa, and no lower than the format's least. -/
def roundExp (f : Fmt) (m : Nat) (e : Int) : Int := max (e + (Nat.log2 m : Int) - (f.mb : Int)) f.qmin

theorem round_fin (hm : 0 < m) : round f mode sat rnd n (.fin neg m e) =
    if f.maxQ ≤ roundExp f m e ∧ f.maxM < roundAt mode neg m e (roundExp f m e) rnd n * 2 ^ (roundExp f m e - f.maxQ).toNat then
      overflow f mode sat neg
    else f.signBit neg + (roundExp f m e - f.qmin).toNat * 2 ^ f.mb + roundAt mode neg m e (roundExp f m e) rnd n :=
  if_neg (Nat.ne_of_gt hm)

/-- The leading one of a value. -/
theorem two_zpow_log2_le (hm : 0 < m) (e : Int) : (2 : Rat) ^ (e + (Nat.log2 m : Int)) ≤ m * 2 ^ e := by
  rw [Int.add_comm, two_zpow_nat_add, scale_nat_le_iff (two_zpow_pos e)]
  exact Nat.log2_self_le (Nat.ne_of_gt hm)

theorem lt_two_zpow_log2 (m : Nat) (e : Int) : (m : Rat) * 2 ^ e < 2 ^ (e + (Nat.log2 m : Int) + 1) := by
  rw [show e + (Nat.log2 m : Int) + 1 = ((Nat.log2 m + 1 : Nat) : Int) + e by omega, two_zpow_nat_add, scale_nat_lt_iff (two_zpow_pos e)]
  exact Nat.lt_log2_self

theorem zpow_le_of_full {c : Nat} (q : Int) (hc : 2 ^ f.mb ≤ c) : (2 : Rat) ^ ((f.mb : Int) + q) ≤ c * 2 ^ q := by
  rw [two_zpow_nat_add, scale_nat_le_iff (two_zpow_pos q)]
  exact hc

/-- A value with a full mantissa at a step is rounded at that step or above. -/
theorem le_roundExp_of_full {c : Nat} {q : Int} (hc : 2 ^ f.mb ≤ c) (h : (c : Rat) * 2 ^ q ≤ m * 2 ^ e) : q ≤ roundExp f m e := by
  have hlt := two_zpow_lt_iff.1 (Std.lt_of_le_of_lt (Rat.le_trans (zpow_le_of_full q hc) h) (lt_two_zpow_log2 m e))
  simp only [roundExp]
  omega

/-- The step of the code that a value is cut off to is the one at which it is rounded. -/
theorem roundExp_of_code {t : Nat} (hm : 0 < m) (hlo : codeMag f t ≤ m * 2 ^ e) (hhi : (m : Rat) * 2 ^ e < codeMag f t + spacing f t) :
    roundExp f m e = f.qmin + codeExp f t := by
  rw [codeMag_next] at hhi
  rw [codeMag_eq] at hlo
  have hup : (m : Rat) * 2 ^ e < 2 ^ (((f.mb + 1 : Nat) : Int) + (f.qmin + codeExp f t)) := by
    rw [two_zpow_nat_add]
    exact Std.lt_of_lt_of_le hhi ((scale_nat_le_iff (two_zpow_pos _)).2 (codeSig_lt f t))
  have hlog := two_zpow_lt_iff.1 (Std.lt_of_le_of_lt (two_zpow_log2_le hm e) hup)
  obtain h0 | hfull := codeExp_eq_zero_or f t
  · simp only [roundExp, h0] at hlog ⊢
    omega
  · have hge := le_roundExp_of_full hfull hlo
    simp only [roundExp] at hge ⊢
    omega

include hf in
/-- A mantissa at a step, whose code is at most one above the greatest, overflows exactly if its code is above the greatest. -/
theorem overflows_iff {k c c' : Nat} (hk : k = 0 ∨ 2 ^ f.mb ≤ c) (hlt : c < 2 ^ (f.mb + 1)) (hcc : c' = c ∨ c' = c + 1)
    (htop : k * 2 ^ f.mb + c ≤ topCode f) :
    (f.maxQ ≤ f.qmin + k ∧ f.maxM < c' * 2 ^ (f.qmin + k - f.maxQ).toNat) ↔ topCode f < k * 2 ^ f.mb + c' := by
  have hpow := two_pow_succ_eq f.mb
  have hlo := hf.le_maxM
  have hhi := hf.maxM_lt
  obtain ⟨K, hK⟩ := Int.eq_ofNat_of_zero_le (Int.sub_nonneg.2 hf.qmin_le)
  have htopK : topCode f = K * 2 ^ f.mb + f.maxM := by rw [hf.top_eq, hK]; rfl
  rw [htopK] at htop ⊢
  obtain hlt' | heq | hgt := Nat.lt_trichotomy k K
  · have hmul : (k + 1) * 2 ^ f.mb ≤ K * 2 ^ f.mb := Nat.mul_le_mul_right _ hlt'
    rw [Nat.succ_mul] at hmul
    exact iff_of_false (fun h => by omega) (by omega)
  · subst heq
    have h0 : (f.qmin + (k : Int) - f.maxQ).toNat = 0 := by omega
    rw [h0, Nat.pow_zero, Nat.mul_one, Nat.add_lt_add_iff_left]
    exact and_iff_right (by omega)
  · have hmul : (K + 1) * 2 ^ f.mb ≤ k * 2 ^ f.mb := Nat.mul_le_mul_right _ hgt
    rw [Nat.succ_mul] at hmul
    have := hk.resolve_left (by omega)
    omega

include hf in
theorem overflow_eq : overflow f mode sat neg = overflowed f mode sat neg := by
  cases sat <;> cases mode <;> cases neg <;> simp [overflow, overflowed, hf.max_eq, hf.inf_eq, signed_eq]

include hf in
/-- The result of a value that lies between a code and the next one, by the mantissa that the mode gives. -/
theorem round_of_code {t c' : Nat} (hm : 0 < m) (ht : t ≤ topCode f) (hlo : codeMag f t ≤ m * 2 ^ e)
    (hhi : (m : Rat) * 2 ^ e < codeMag f t + spacing f t) (hcc : c' = codeSig f t ∨ c' = codeSig f t + 1)
    (hc : roundAt mode neg m e (f.qmin + codeExp f t) rnd n = c') :
    round f mode sat rnd n (.fin neg m e) = if topCode f < codeExp f t * 2 ^ f.mb + c' then overflowed f mode sat neg
      else signed f neg (codeExp f t * 2 ^ f.mb + c') := by
  rw [round_fin mode sat neg rnd n hm, roundExp_of_code hm hlo hhi, hc, overflow_eq hf]
  refine ite_eq_of_iff (overflows_iff hf (codeExp_eq_zero_or f t) (codeSig_lt f t) hcc (Nat.le_trans (Nat.le_of_eq (code_split f t)) ht)) rfl ?_
  rw [show (f.qmin + (codeExp f t : Int) - f.qmin).toNat = codeExp f t by omega, Nat.add_assoc, signed_eq]

include hf in
/-- A value at or above the one that would follow the greatest overflows. -/
theorem round_of_beyond (hm : 0 < m) (hv : codeMag f (topCode f) + spacing f (topCode f) ≤ m * 2 ^ e) :
    round f mode sat rnd n (.fin neg m e) = overflowed f mode sat neg := by
  have hexp : codeExp f (topCode f) = (f.maxQ - f.qmin).toNat ∧ codeSig f (topCode f) = f.maxM := by
    have hpow := two_pow_succ_eq f.mb
    have hlo := hf.le_maxM
    have hhi := hf.maxM_lt
    have hdiv : topCode f / 2 ^ f.mb = (f.maxQ - f.qmin).toNat + 1 := by
      rw [hf.top_eq]
      refine Nat.div_eq_of_lt_le ?_ ?_ <;> simp only [Nat.succ_mul] <;> omega
    have hE : codeExp f (topCode f) = (f.maxQ - f.qmin).toNat := by simp [codeExp, hdiv]
    have hsplit := code_split f (topCode f)
    rw [hE] at hsplit
    exact ⟨hE, by have := hf.top_eq; omega⟩
  have hq : f.qmin + ((f.maxQ - f.qmin).toNat : Int) = f.maxQ := by have := hf.qmin_le; omega
  rw [codeMag_next, hexp.1, hexp.2, hq] at hv
  have hge := le_roundExp_of_full (Nat.le_trans hf.le_maxM (Nat.le_succ _)) hv
  rw [round_fin mode sat neg rnd n hm, overflow_eq hf]
  refine if_pos ⟨hge, ?_⟩
  obtain heq | hgt := Int.le_iff_eq_or_lt.1 hge
  · rw [← heq, Int.sub_self, Int.toNat_zero, Nat.pow_zero, Nat.mul_one]
    exact le_roundAt mode neg rnd n hv
  · have hlog : roundExp f m e = e + (Nat.log2 m : Int) - f.mb := by
      have := hf.qmin_le
      simp only [roundExp] at hgt ⊢
      omega
    have hfull : ((2 ^ f.mb : Nat) : Rat) * 2 ^ roundExp f m e ≤ m * 2 ^ e := by
      rw [← two_zpow_nat_add, hlog, show (f.mb : Int) + (e + (Nat.log2 m : Int) - f.mb) = e + Nat.log2 m by omega]
      exact two_zpow_log2_le hm e
    have hmant := le_roundAt mode neg rnd n hfull
    obtain ⟨s, hs⟩ : ∃ s, (roundExp f m e - f.maxQ).toNat = s + 1 := ⟨(roundExp f m e - f.maxQ).toNat - 1, by omega⟩
    rw [hs]
    calc f.maxM < 2 ^ (f.mb + 1) := hf.maxM_lt
      _ ≤ 2 ^ f.mb * 2 ^ (s + 1) := by
        rw [← Nat.pow_add]
        exact Nat.pow_le_pow_right (by decide) (by omega)
      _ ≤ _ := Nat.mul_le_mul_right _ hmant

include hf in
/-- The rounding of a nonzero value is the one of R95 to R97. -/
theorem round_rounded (hm : 0 < m) : rounded f mode sat rnd n neg (.rat ((m : Rat) * 2 ^ e)) (round f mode sat rnd n (.fin neg m e)) := by
  intro t ht hle hmax
  dsimp only
  have hlo : codeMag f t ≤ m * 2 ^ e := hle
  have hsplit := code_split f t
  refine ⟨fun hbig => ?_, fun hsmall hup => ?_, fun hsmall hdown => ?_⟩
  · have htop : t = topCode f := by
      refine Classical.byContradiction fun hne => ?_
      have := hmax (t + 1) (by omega) (show codeMag f (t + 1) ≤ _ from codeMag_succ f t ▸ hbig)
      omega
    exact round_of_beyond hf mode sat neg rnd n hm (htop ▸ hbig)
  all_goals
    have hhi : (m : Rat) * 2 ^ e < codeMag f t + spacing f t := Rat.not_le.1 hsmall
    have hpar : t % 2 = codeSig f t % 2 := by
      have h2 : codeExp f t * 2 ^ f.mb % 2 = 0 := by
        obtain ⟨b, hb⟩ := Nat.exists_eq_succ_of_ne_zero (Nat.ne_of_gt hf.mb_pos)
        rw [hb, Nat.pow_succ, ← Nat.mul_assoc, Nat.mul_mod_left]
      omega
    have hcut := roundAt_cut mode neg rnd n hpar (codeMag_eq f t ▸ hlo)
      (codeMag_next f t ▸ hhi)
    rw [← codeMag_eq, ← spacing_eq] at hcut
  · rw [round_of_code hf mode sat neg rnd n hm ht hlo hhi (.inr rfl) (hcut.1 hup), ← Nat.add_assoc, hsplit]
    exact ite_eq_of_iff (by omega) rfl rfl
  · rw [round_of_code hf mode sat neg rnd n hm ht hlo hhi (.inl rfl) (hcut.2 hdown), hsplit, if_neg (by omega)]

end Round

/-! ## The value of an encoding (R90) -/

section Decode
variable {f : Fmt} (hf : Regular f) {x : Nat} (hx : x < 2 ^ f.w)

include hf hx in
theorem sign_of_code : f.sign x = decide (2 ^ (f.w - 1) ≤ x) := by
  have hpos := Nat.two_pow_pos (f.w - 1)
  have hw : 2 ^ f.w = 2 ^ (f.w - 1) * 2 := by rw [← Nat.pow_succ, Nat.succ_eq_add_one, Nat.sub_add_cancel hf.width_pos]
  have hlt : x / 2 ^ (f.w - 1) < 2 := Nat.div_lt_of_lt_mul (hw ▸ hx)
  have hone := Nat.le_div_iff_mul_le (x := 1) (y := x) hpos
  rw [Nat.one_mul] at hone
  rw [Fmt.sign, bits, Nat.pow_one, Nat.mod_eq_of_lt hlt, Bool.eq_iff_iff, beq_iff_eq, decide_eq_true_iff, ← hone]
  omega

include hf in
theorem exponent_of_code : bits x f.mb f.eb = x % 2 ^ (f.w - 1) / 2 ^ f.mb := by
  rw [bits, hf.width_eq, Nat.pow_add, Nat.mod_mul_right_div_self]

include hf in
theorem fraction_of_code : bits x 0 f.mb = x % 2 ^ (f.w - 1) % 2 ^ f.mb := by
  rw [bits, Nat.pow_zero, Nat.div_one, hf.width_eq, Nat.pow_add, Nat.mod_mul_right_mod]

/-- The two kinds of encodings that stand for no finite value. -/
theorem decode_eq (f : Fmt) (x : Nat) : f.decode x =
    if bits x f.mb f.eb = 2 ^ f.eb - 1 ∧ f.e4m3 = false then (if bits x 0 f.mb = 0 then .inf (f.sign x) else .nan)
    else if f.e4m3 = true ∧ bits x f.mb f.eb = 15 ∧ bits x 0 f.mb = 7 then .nan
    else if bits x f.mb f.eb = 0 then .fin (f.sign x) (bits x 0 f.mb) f.qmin
    else .fin (f.sign x) (2 ^ f.mb + bits x 0 f.mb) (f.qmin + bits x f.mb f.eb - 1) := rfl

include hf in
/-- An infinity or a NaN of a format with infinities has an exponent field of ones. -/
theorem exponent_full_iff (he : f.e4m3 = false) : bits x f.mb f.eb = 2 ^ f.eb - 1 ↔ topCode f < x % 2 ^ (f.w - 1) := by
  have htop := hf.top_of_inf he
  have hlt : bits x f.mb f.eb < 2 ^ f.eb := Nat.mod_lt _ (Nat.two_pow_pos _)
  rw [← Nat.succ_le_iff, Nat.succ_eq_add_one, htop, ← Nat.le_div_iff_mul_le (Nat.two_pow_pos f.mb), ← exponent_of_code hf]
  omega

include hf in
theorem e4m3_nan_iff (he : f.e4m3 = true) :
    (bits x f.mb f.eb = 15 ∧ bits x 0 f.mb = 7) ↔ topCode f < x % 2 ^ (f.w - 1) := by
  rw [exponent_of_code hf, fraction_of_code hf, hf.top_of_e4m3 he]
  have : x % 128 < 128 := Nat.mod_lt _ (by decide)
  show (x % 128 / 8 = 15 ∧ x % 128 % 8 = 7) ↔ 0x7E < x % 128
  omega

include hf in
/-- A code up to the greatest stands for its mantissa at its step. -/
theorem decode_finite (h : x % 2 ^ (f.w - 1) ≤ topCode f) : f.decode x =
    .fin (f.sign x) (codeSig f (x % 2 ^ (f.w - 1))) (f.qmin + codeExp f (x % 2 ^ (f.w - 1))) := by
  have h1 : ¬ (bits x f.mb f.eb = 2 ^ f.eb - 1 ∧ f.e4m3 = false) := fun ⟨ha, hb⟩ =>
    absurd ((exponent_full_iff hf hb).1 ha) (Nat.not_lt.2 h)
  have h2 : ¬ (f.e4m3 = true ∧ bits x f.mb f.eb = 15 ∧ bits x 0 f.mb = 7) := fun ⟨hb, ha⟩ =>
    absurd ((e4m3_nan_iff hf hb).1 ha) (Nat.not_lt.2 h)
  rw [decode_eq, if_neg h1, if_neg h2, exponent_of_code hf, fraction_of_code hf]
  generalize x % 2 ^ (f.w - 1) = y
  split
  case isTrue h0 =>
    rw [codeSig_of_subnormal f y h0, Nat.mod_eq_of_lt ((Nat.div_eq_zero_iff_lt (Nat.two_pow_pos f.mb)).1 h0)]
    simp [codeExp, h0]
  case isFalse h0 =>
    rw [codeSig_of_normal f y h0]
    congr 1
    simp only [codeExp]
    generalize y / 2 ^ f.mb = k at h0
    omega

include hf in
theorem decode_inf (he : f.e4m3 = false) (h : x % 2 ^ (f.w - 1) = 2 ^ (f.w - 1) - 2 ^ f.mb) : f.decode x = .inf (f.sign x) := by
  have hmag := h.trans (hf.inf_mag he)
  have htop := hf.top_of_inf he
  rw [decode_eq, if_pos ⟨(exponent_full_iff hf he).2 (by omega), he⟩, fraction_of_code hf, hmag, Nat.mul_mod_left]
  exact if_pos rfl

include hf in
theorem decode_nan (h : topCode f < x % 2 ^ (f.w - 1)) (hne : f.e4m3 = true ∨ x % 2 ^ (f.w - 1) ≠ 2 ^ (f.w - 1) - 2 ^ f.mb) :
    f.decode x = .nan := by
  rw [decode_eq]
  cases he : f.e4m3 with
  | true => rw [if_neg (by simp), if_pos ⟨rfl, (e4m3_nan_iff hf he).2 h⟩]
  | false =>
    have hmag := hne.resolve_left (by simp [he])
    rw [hf.inf_mag he] at hmag
    have hexp := (exponent_full_iff hf he).2 h
    have hfrac : bits x 0 f.mb ≠ 0 := fun h0 => hmag (by
      have hdm := Nat.div_add_mod (x % 2 ^ (f.w - 1)) (2 ^ f.mb)
      rw [← exponent_of_code hf, hexp, ← fraction_of_code hf, h0, Nat.add_zero, Nat.mul_comm] at hdm
      exact hdm.symm)
    rw [if_pos ⟨hexp, rfl⟩, if_neg hfrac]

include hf in
theorem exponent_small {neg : Bool} {m : Nat} {e : Int} (h : f.decode x = .fin neg m e) : e ≤ 4096 := by
  have hs := hf.exp_small
  have hlt : bits x f.mb f.eb < 2 ^ f.eb := Nat.mod_lt _ (Nat.two_pow_pos _)
  have hcast : ((bits x f.mb f.eb : Nat) : Int) < 2 ^ f.eb := by exact_mod_cast hlt
  rw [decode_eq] at h
  split at h
  · split at h <;> simp at h
  · split at h
    · simp at h
    · split at h <;> simp only [FVal.fin.injEq] at h <;> omega

end Decode

/-! ## Conversions (R100 to R102) -/

section Conv
variable (td ts : Ty)

theorem intLow_eq : td.lo = intLow td := by simp [Ty.lo, intLow]
theorem intHigh_eq : td.hi = intHigh td := by simp [Ty.hi, intHigh]
theorem toBits_eq (k : Int) : wrap td.width k = toBits td k := by simp [wrap, toBits]

/-- The reading of a code of an integer type. -/
theorem intValue_eq {x : Nat} (hx : x < 2 ^ ts.width) :
    (if ts.signed then sgn ts.width x else ((x % 2 ^ ts.width : Nat) : Int)) = intValue ts x := by
  rw [sgn, Nat.mod_eq_of_lt hx, intValue]
  cases ts.signed with
  | false => simp
  | true =>
    simp only [if_true, true_and, ← Nat.not_lt, ite_not]

theorem intLow_le_intHigh : intLow td ≤ intHigh td := by cases td <;> decide

/-- A value held between the bounds of a type. -/
theorem clamp_eq (k : Int) : clamp td.lo td.hi k = max (intLow td) (min (intHigh td) k) := by
  have := intLow_le_intHigh td
  rw [clamp, intLow_eq, intHigh_eq]
  split
  · omega
  · split <;> omega

theorem clamp_outside {k : Int} (h : ¬ (intLow td ≤ k ∧ k ≤ intHigh td)) :
    clamp td.lo td.hi k = if k < intLow td then intLow td else intHigh td := by
  rw [clamp, intLow_eq, intHigh_eq]
  split
  · rfl
  · exact if_pos (by omega)

/-- A floating value to an integer type: rounded to an integer, then taken, clamped or refused (R101). -/
theorem toIntTy_eq (mode : Rnd) (sat neg : Bool) (rnd n m : Nat) {e k : Int} (he : e ≤ 4096)
    (hk : k = (if neg then -1 else 1) * (roundAt mode neg m e 0 rnd n : Int)) : toIntTy td mode sat rnd n (.fin neg m e) =
      if intLow td ≤ k ∧ k ≤ intHigh td then toBits td k
      else if sat then toBits td (if k < intLow td then intLow td else intHigh td) else indefinite td := by
  simp only [toIntTy, Int.min_eq_left he, ← hk, toBits_eq]
  by_cases h : intLow td ≤ k ∧ k ≤ intHigh td
  · rw [if_pos h, intLow_eq, intHigh_eq, if_pos h]
  · rw [if_neg h, clamp_outside td h, intLow_eq, intHigh_eq, if_neg h]
    rfl

/-- A value rounded to an integer: its floor, or the next integer where the mode moves it. -/
theorem roundAt_integer (mode : Rnd) (neg : Bool) (rnd n m : Nat) (e : Int) :
    let v : Rat := (m : Rat) * 2 ^ e
    let up := movesUp mode neg v.floor.toNat ((v.floor : Int) : Rat) 1 (.rat v) rnd n
    (up → (roundAt mode neg m e 0 rnd n : Int) = v.floor + 1) ∧ (¬ up → (roundAt mode neg m e 0 rnd n : Int) = v.floor) := by
  intro v
  have hv : ((0 : Int) : Rat) ≤ v := nat_mul_zpow_nonneg m e
  obtain ⟨c, hc⟩ := Int.eq_ofNat_of_zero_le (Rat.le_floor_iff.2 hv)
  have hlo := Rat.floor_le v
  have hhi := Rat.lt_floor_add_one v
  rw [hc] at hlo hhi ⊢
  have hcut := roundAt_cut mode neg rnd n (m := m) (e := e) (q := 0) (t := c) (c := c) rfl
    (by rw [Rat.zpow_zero, Rat.mul_one]; exact hlo) (by rw [Rat.zpow_zero, Rat.mul_one]; exact hhi)
  rw [Rat.zpow_zero, Rat.mul_one] at hcut
  exact ⟨fun h => by rw [hcut.1 h]; rfl, fun h => by rw [hcut.2 h]⟩

end Conv

/-- A value of an integer type as a sign and a magnitude. -/
theorem int_sign_magnitude (k : Int) : k = if decide (k < 0) then -(k.natAbs : Int) else k.natAbs := by
  by_cases h : k < 0 <;> simp only [h, decide_true, decide_false, if_true, Bool.false_eq_true, if_false] <;> omega

theorem rsrBits_eq (w : Nat) : rsrBits w = min 32 w := by
  rw [rsrBits]
  split <;> omega

/-- Settles O2: a value is rounded at the step of the code that it is cut off to, and a conversion reads its source first. -/
theorem rounding : Obligations.Rounding := by
  refine ⟨fun f h mode sat neg rnd n m e => ?_, fun f h x hx => ?_, fun td ts mode sat rnd x => ?_⟩
  · have hf := regular_of_mem h
    refine ⟨fun hm => round_rounded hf mode sat neg rnd n hm, rfl, hf.nan_eq, ?_⟩
    rw [round, hf.max_eq, hf.inf_eq, signed_eq]
  · have hf := regular_of_mem h
    rw [← sign_of_code hf hx]
    exact ⟨fun hm => ⟨_, _, decode_finite hf hm, (codeMag_eq f _).symm⟩, fun _ he hm => decode_inf hf he hm,
      fun hm hne => decode_nan hf hm hne⟩
  · dsimp only
    rw [← rsrBits_eq]
    refine ⟨fun f g hd hs => ?_, fun f hd hs hx => ?_, fun g neg m e hd hs hg hx hdec => ?_, fun g hd hs => ?_, fun hd hs hx => ?_⟩
    · simp only [conv, hd, Ty.decode, hs]
    · refine ⟨decide (intValue ts x < 0), (intValue ts x).natAbs, int_sign_magnitude _, fun h => ?_, ?_⟩
      · rw [Int.natAbs_eq_zero.1 h]; rfl
      · simp only [conv, hd, Ty.decode, hs, intValue_eq ts hx]
    · intro k hup hdown
      have hround := roundAt_integer mode neg rnd (rsrBits ts.width) m e
      simp only [conv, hd, hs, hdec]
      refine toIntTy_eq td mode sat neg rnd _ m (exponent_small (regular_of_mem hg) hdec) ?_
      by_cases h : movesUp mode neg ((m : Rat) * 2 ^ e).floor.toNat ((((m : Rat) * 2 ^ e).floor : Int) : Rat) 1
          (.rat ((m : Rat) * 2 ^ e)) rnd (rsrBits ts.width)
      · rw [hup h, hround.1 h]
      · rw [hdown h, hround.2 h]
    · simp only [conv, hd, hs]
      refine ⟨fun h => ?_, fun neg h => ?_⟩
      · rw [h]; rfl
      · simp only [h, toIntTy, toBits_eq, intLow_eq, intHigh_eq]
        rfl
    · simp only [conv, hd, hs, intValue_eq ts hx, toBits_eq, clamp_eq]


end Sys2Proof.Proofs
end

section
/-! Exact sums and products rounded once (R98, R99, R111, R148). -/

namespace Sys2Proof.Proofs

open Sys2Proof Sys2Proof.Machine Sys2Proof.Claim

/-! ## Values and the rationals that they are -/

theorem magnitude_of_nonneg {v : Rat} (h : 0 ≤ v) : magnitude v = v := if_neg (Rat.not_lt.2 h)
theorem magnitude_neg {v : Rat} (h : 0 ≤ v) : magnitude (-v) = v := by
  rw [magnitude]
  split <;> grind

theorem neg_eq_opposite (v : FVal) : v.neg = opposite v := by cases v <;> rfl

section Finite
variable (s : Bool) (m : Nat) (e : Int)

theorem rational_fin : rational (.fin s m e) = (if s then -1 else 1) * ((m : Rat) * 2 ^ e) := Rat.mul_assoc _ _ _
theorem rational_pos : rational (.fin false m e) = (m : Rat) * 2 ^ e := (rational_fin false m e).trans (Rat.one_mul _)
theorem rational_neg : rational (.fin true m e) = -((m : Rat) * 2 ^ e) := by
  rw [rational_fin, if_pos rfl, Rat.neg_mul, Rat.one_mul]

theorem magnitude_rational : magnitude (rational (.fin s m e)) = (m : Rat) * 2 ^ e := by
  cases s with
  | false => rw [rational_pos, magnitude_of_nonneg (nat_mul_zpow_nonneg m e)]
  | true => rw [rational_neg, magnitude_neg (nat_mul_zpow_nonneg m e)]

theorem scaled_eq_zero_iff : (m : Rat) * 2 ^ e = 0 ↔ m = 0 := by
  rw [Rat.mul_eq_zero, Rat.natCast_eq_zero_iff]
  exact or_iff_left (Rat.ne_of_gt (two_zpow_pos e))

theorem rational_fin_eq_zero : rational (.fin s m e) = 0 ↔ m = 0 := by
  rw [← scaled_eq_zero_iff m e]
  cases s with
  | false => rw [rational_pos]
  | true =>
    rw [rational_neg]
    constructor <;> intro h <;> grind

theorem rational_fin_neg_iff : rational (.fin s m e) < 0 ↔ s = true ∧ m ≠ 0 := by
  have h := nat_mul_zpow_nonneg m e
  rw [Ne, ← scaled_eq_zero_iff m e]
  cases s with
  | false =>
    rw [rational_pos]
    exact iff_of_false (Rat.not_lt.2 h) fun h => Bool.false_ne_true h.1
  | true =>
    rw [rational_neg]
    constructor
    · exact fun hlt => ⟨rfl, fun h0 => by grind⟩
    · exact fun ⟨_, hne⟩ => by grind

end Finite

theorem finiteV_fin (s : Bool) (m : Nat) (e : Int) : finiteV (.fin s m e) := ⟨s, m, e, rfl⟩
theorem zeroV_fin_iff (s : Bool) (m : Nat) (e : Int) : zeroV (.fin s m e) ↔ m = 0 :=
  (and_iff_right (finiteV_fin s m e)).trans (rational_fin_eq_zero s m e)
theorem not_zeroV_nan : ¬ zeroV .nan := fun ⟨⟨_, _, _, h⟩, _⟩ => by cases h
theorem not_zeroV_inf (s : Bool) : ¬ zeroV (.inf s) := fun ⟨⟨_, _, _, h⟩, _⟩ => by cases h
theorem isNegZero_iff (v : FVal) : v.isNegZero = true ↔ negZero v := by
  constructor
  · intro h
    match v, h with
    | .fin true 0 e, _ => exact ⟨e, rfl⟩
  · rintro ⟨e, rfl⟩
    rfl
theorem isNan_iff (v : FVal) : v.isNan = true ↔ v = .nan := by cases v <;> simp [FVal.isNan]
theorem isInf_iff (s : Bool) (v : FVal) : v.isInf s = true ↔ v = .inf s := by
  cases v <;> simp only [FVal.isInf, FVal.inf.injEq, Bool.false_eq_true, reduceCtorEq, beq_iff_eq]
  exact eq_comm

/-! ## Exact sums (R98) -/

/-- A finite value is its signed mantissa at an exponent that is not above its own. -/
theorem at_mul_zpow {v : FVal} {e0 : Int} (hv : finiteV v) (h : ∀ e, v.expo = some e → e0 ≤ e) : (v.at e0 : Rat) * 2 ^ e0 = rational v := by
  obtain ⟨s, m, e, rfl⟩ := hv
  by_cases hm : m = 0
  · simp [FVal.at, rational, hm]
  · have hle := h e (by simp [FVal.expo, hm])
    rw [rational_fin, nat_mul_zpow_split m hle, FVal.at, if_neg hm, Rat.intCast_mul, Rat.intCast_natCast, Rat.mul_assoc]
    cases s <;> rfl

theorem minExp_cons (v : FVal) (l : List FVal) : minExp (v :: l) = match v.expo, minExp l with
    | none, o => o
    | some e, none => some e
    | some e, some g => some (min e g) := rfl

/-- The least exponent of a list is not above that of any of its nonzero terms. -/
theorem minExp_le {l : List FVal} {v : FVal} {e : Int} (hv : v ∈ l) (he : v.expo = some e) : ∃ g, minExp l = some g ∧ g ≤ e := by
  induction l with
  | nil => cases hv
  | cons u r ih =>
    rw [minExp_cons]
    obtain rfl | hr := List.mem_cons.1 hv
    · rw [he]
      cases hm : minExp r with
      | none => exact ⟨e, rfl, Int.le_refl e⟩
      | some g => exact ⟨_, rfl, Int.min_le_left _ _⟩
    · obtain ⟨g, hg, hle⟩ := ih hr
      rw [hg]
      cases hu : u.expo with
      | none => exact ⟨g, rfl, hle⟩
      | some d => exact ⟨_, rfl, Int.le_trans (Int.min_le_right _ _) hle⟩

theorem minExp_getD_le {l : List FVal} {v : FVal} (hv : v ∈ l) (e : Int) (he : v.expo = some e) : (minExp l).getD 0 ≤ e := by
  obtain ⟨g, hg, hle⟩ := minExp_le hv he
  rw [hg]
  exact hle

/-- The exact sum of finite terms, over the least exponent among them. -/
def sumAt (e0 : Int) (l : List FVal) : Int := l.foldl (fun acc v => acc + v.at e0) 0

theorem sumAt_from (e0 : Int) (l : List FVal) : ∀ k : Int, l.foldl (fun acc v => acc + v.at e0) k = k + sumAt e0 l := by
  induction l with
  | nil => exact fun k => (Int.add_zero k).symm
  | cons v r ih =>
    intro k
    have hzero : sumAt e0 (v :: r) = v.at e0 + sumAt e0 r := (congrArg (List.foldl _ · r) (Int.zero_add _)).trans (ih _)
    rw [hzero, List.foldl_cons, ih, Int.add_assoc]

theorem sumAt_mul_zpow {e0 : Int} (l : List FVal) (h : ∀ v ∈ l, (v.at e0 : Rat) * 2 ^ e0 = rational v) :
    (sumAt e0 l : Rat) * 2 ^ e0 = (l.map rational).foldr (fun x y => x + y) 0 := by
  induction l with
  | nil => exact Rat.zero_mul _
  | cons v r ih =>
    have hcons : sumAt e0 (v :: r) = v.at e0 + sumAt e0 r := (congrArg (List.foldl _ · r) (Int.zero_add _)).trans (sumAt_from e0 r _)
    rw [hcons, Rat.intCast_add, Rat.add_mul, h v List.mem_cons_self,
      ih fun u hu => h u (List.mem_cons_of_mem v hu)]
    rfl

theorem sumV_finite (down : Bool) {l : List FVal} (h : ∀ v ∈ l, finiteV v) : sumV down l =
    if sumAt ((minExp l).getD 0) l = 0 then .fin (if l.all FVal.isNegZero then true else down) 0 0
    else .fin (decide (sumAt ((minExp l).getD 0) l < 0)) (sumAt ((minExp l).getD 0) l).natAbs ((minExp l).getD 0) := by
  have hnone : ∀ {p : FVal → Bool} {u : FVal}, (∀ v, p v = true → v = u) → ¬ finiteV u → ¬ l.any p = true := fun hp hu hany => by
    obtain ⟨v, hv, hpv⟩ := List.any_eq_true.1 hany
    exact hu (hp v hpv ▸ h v hv)
  have hnan := hnone (fun v => (isNan_iff v).1) (fun ⟨_, _, _, h⟩ => by cases h)
  have hinf := fun s => hnone (fun v => (isInf_iff s v).1) (fun ⟨_, _, _, h⟩ => by cases h)
  simp only [sumV, Bool.or_eq_true, Bool.and_eq_true, hnan, hinf]
  rfl

theorem sumV_of_nan (down : Bool) {l : List FVal} (h : .nan ∈ l ∨ (.inf true ∈ l ∧ .inf false ∈ l)) : sumV down l = .nan := by
  refine if_pos ?_
  rw [Bool.or_eq_true, Bool.and_eq_true, List.any_eq_true, List.any_eq_true, List.any_eq_true]
  exact h.imp (fun h => ⟨_, h, rfl⟩) fun ⟨ht, hf⟩ => ⟨⟨_, ht, rfl⟩, ⟨_, hf, rfl⟩⟩

theorem sumV_of_inf (down : Bool) {l : List FVal} {s : Bool} (hn : .nan ∉ l) (hs : .inf s ∈ l) (ho : .inf (!s) ∉ l) :
    sumV down l = .inf s := by
  have hnan : ¬ l.any FVal.isNan = true := fun h => by
    obtain ⟨v, hv, hp⟩ := List.any_eq_true.1 h
    exact hn ((isNan_iff v).1 hp ▸ hv)
  have hpos : l.any (FVal.isInf s) = true := List.any_eq_true.2 ⟨_, hs, (isInf_iff s _).2 rfl⟩
  have hneg : ¬ l.any (FVal.isInf (!s)) = true := fun h => by
    obtain ⟨v, hv, hp⟩ := List.any_eq_true.1 h
    exact ho ((isInf_iff _ v).1 hp ▸ hv)
  rw [Bool.not_eq_true] at hnan hneg
  cases s <;> simp only [Bool.not_true, Bool.not_false] at hneg <;> simp [sumV, hnan, hpos, hneg]

theorem int_mul_zpow_eq_zero (k e : Int) : (k : Rat) * 2 ^ e = 0 ↔ k = 0 := by
  rw [Rat.mul_eq_zero, Rat.intCast_eq_zero_iff]
  exact or_iff_left (Rat.ne_of_gt (two_zpow_pos e))
theorem magnitude_int (k e : Int) : magnitude ((k : Rat) * 2 ^ e) = (k.natAbs : Rat) * 2 ^ e := by
  have h := nat_mul_zpow_nonneg k.natAbs e
  obtain hk | hk := Int.natAbs_eq k
  · conv => lhs; rw [hk, Rat.intCast_natCast, magnitude_of_nonneg h]
  · conv => lhs; rw [hk, Rat.intCast_neg, Rat.intCast_natCast, Rat.neg_mul, magnitude_neg h]

section SumRounded
variable {f : Fmt} (hf : Regular f) (mode : Rnd) (rnd n : Nat)
include hf

/-- A nonzero value given by its sign and magnitude, rounded once. -/
theorem round_rounded_of_eq {neg : Bool} {m : Nat} {e : Int} {V : Rat} (hm : m ≠ 0) (hV : (m : Rat) * 2 ^ e = V) :
    rounded f mode false rnd n neg (.rat V) (round f mode false rnd n (.fin neg m e)) :=
  hV ▸ round_rounded hf mode false neg rnd n (Nat.pos_of_ne_zero hm)

theorem sumV_rounded (l : List FVal) : sumRounded f mode rnd n l (round f mode false rnd n (sumV (isDown mode) l)) := by
  refine ⟨fun h => ?_, fun s hn hs ho => ?_, fun hfin hne => ?_⟩
  · rw [sumV_of_nan _ h]
    exact hf.nan_eq
  · rw [sumV_of_inf _ hn hs ho]
    exact hf.inf_eq s
  · have hsum : (l.map rational).foldr (fun x y => x + y) 0 = (sumAt ((minExp l).getD 0) l : Rat) * 2 ^ (minExp l).getD 0 :=
      (sumAt_mul_zpow l fun v hv => at_mul_zpow (hfin v hv) (minExp_getD_le hv)).symm
    rw [sumV_finite _ hfin]
    dsimp only
    rw [hsum]
    generalize sumAt ((minExp l).getD 0) l = k
    have hp := two_zpow_pos ((minExp l).getD 0)
    have hzero := int_mul_zpow_eq_zero k ((minExp l).getD 0)
    have hneg : (k : Rat) * 2 ^ (minExp l).getD 0 < 0 ↔ k < 0 := (Rat.mul_neg_iff_of_pos_right hp).trans Rat.intCast_neg_iff
    refine ⟨fun h => ?_, fun h hall => ?_, fun h hall => ?_⟩
    · have hk : k ≠ 0 := fun h0 => h (hzero.2 h0)
      rw [if_neg hk, decide_eq_decide.2 hneg]
      refine round_rounded_of_eq hf mode rnd n (Int.natAbs_ne_zero.2 hk) ?_
      exact (magnitude_int k _).symm
    · have hneg0 : l.all FVal.isNegZero = true := List.all_eq_true.2 fun v hv => (isNegZero_iff v).2 (hall v hv)
      rw [if_pos (hzero.1 h), hneg0]
      rfl
    · have hneg0 : ¬ l.all FVal.isNegZero = true := fun ha => hall fun v hv => (isNegZero_iff v).1 (List.all_eq_true.1 ha v hv)
      rw [if_pos (hzero.1 h), if_neg hneg0]
      rfl

end SumRounded

/-! ## Products (R98, R99) -/

theorem mulV_nan {a b : FVal} (h : a = .nan ∨ b = .nan) : mulV a b = .nan := by
  obtain rfl | rfl := h
  · rfl
  · cases a <;> rfl

theorem mulV_inf_zero {a b : FVal} (h : (infV a ∧ zeroV b) ∨ (zeroV a ∧ infV b)) : mulV a b = .nan := by
  obtain ⟨⟨s, rfl⟩, ⟨t, k, g, rfl⟩, h0⟩ | ⟨⟨⟨t, k, g, rfl⟩, h0⟩, s, rfl⟩ := h <;>
    exact if_pos ((rational_fin_eq_zero t k g).1 h0)

theorem mulV_fin (s t : Bool) (m k : Nat) (e g : Int) : mulV (.fin s m e) (.fin t k g) = .fin (s != t) (m * k) (e + g) := rfl

theorem rational_mul (s t : Bool) (m k : Nat) (e g : Int) :
    rational (.fin (s != t) (m * k) (e + g)) = rational (.fin s m e) * rational (.fin t k g) := by
  rw [rational_fin, rational_fin, rational_fin, two_zpow_add, Rat.natCast_mul]
  cases s <;> cases t <;> simp only [bne_self_eq_false, Bool.true_bne, Bool.false_bne, Bool.not_false, if_true,
    Bool.false_eq_true, if_false] <;> grind

end Sys2Proof.Proofs
end

section
/-! Quotients and square roots, kept to a few bits more than the format and a bit that says whether anything is left (R99, R151). -/

namespace Sys2Proof.Proofs

open Sys2Proof Sys2Proof.Machine Sys2Proof.Claim

/-! ## A magnitude that rounds as a rational does -/

/-- The magnitude v compares as V does with every number of the form c * 2^E, c up to C: with every number that rounding to a format
of a few bits asks about. -/
def comparesAs (v : Cut) (V : Rat) (C : Nat) : Prop :=
  ∀ (c : Nat) (E : Int), c ≤ C → (v.le ((c : Rat) * 2 ^ E) ↔ (c : Rat) * 2 ^ E ≤ V) ∧ (v.ge ((c : Rat) * 2 ^ E) ↔ V ≤ (c : Rat) * 2 ^ E)

section Compare
variable {f : Fmt} {v : Cut} {V : Rat} (h : comparesAs v V (2 ^ (f.mb + 2)))

include h in
theorem comparesAs_code (x : Nat) : (v.le (codeMag f x) ↔ codeMag f x ≤ V) ∧ (v.ge (codeMag f x) ↔ V ≤ codeMag f x) := by
  have hpow : 2 ^ (f.mb + 2) = 2 ^ (f.mb + 1) + 2 ^ (f.mb + 1) := two_pow_succ_eq (f.mb + 1)
  rw [codeMag_eq]
  exact h _ _ (by have := codeSig_lt f x; omega)

include h in
theorem comparesAs_half (x : Nat) : (v.le (codeMag f x + spacing f x / 2) ↔ codeMag f x + spacing f x / 2 ≤ V) ∧
    (v.ge (codeMag f x + spacing f x / 2) ↔ V ≤ codeMag f x + spacing f x / 2) := by
  have hpow : 2 ^ (f.mb + 2) = 2 ^ (f.mb + 1) + 2 ^ (f.mb + 1) := two_pow_succ_eq (f.mb + 1)
  have heq : codeMag f x + spacing f x / 2 = ((2 * codeSig f x + 1 : Nat) : Rat) * 2 ^ (f.qmin + codeExp f x - 1) := by
    rw [codeMag_eq, spacing_eq, two_zpow_half, Rat.natCast_add, Rat.natCast_mul, Rat.natCast_ofNat, Rat.natCast_ofNat]
    grind
  rw [heq]
  exact h _ _ (by have := codeSig_lt f x; omega)

include h in
/-- What compares as a rational does is rounded as it is; no random bits are given. -/
theorem rounded_of_comparesAs (mode : Rnd) (sat neg : Bool) (rnd : Nat) {r : Nat} (hr : rounded f mode sat rnd 0 neg (.rat V) r) :
    rounded f mode sat rnd 0 neg v r := by
  intro t ht hle hmax
  have hcode := comparesAs_code h
  obtain ⟨hbig, hup, hdown⟩ := hr t ht ((hcode t).1.1 hle) fun z hz hzle => hmax z hz ((hcode z).1.2 hzle)
  have hnext : v.le (codeMag f t + spacing f t) ↔ codeMag f t + spacing f t ≤ V := codeMag_succ f t ▸ (hcode (t + 1)).1
  have hmoves : movesUp mode neg t (codeMag f t) (spacing f t) v rnd 0 ↔
      movesUp mode neg t (codeMag f t) (spacing f t) (.rat V) rnd 0 := by
    obtain ⟨hhle, hhge⟩ := comparesAs_half h t
    cases mode with
    | rne => simp only [movesUp, hhle, hhge, Cut.rat]
    | rtz => exact Iff.rfl
    | rup => simp only [movesUp, (hcode t).2, Cut.rat]
    | rdn => simp only [movesUp, (hcode t).2, Cut.rat]
    | rsr => 
      have hall : codeMag f t + spacing f t * (((2 ^ 0 - rnd % 2 ^ 0 : Nat) : Rat) / ((2 ^ 0 : Nat) : Rat)) = codeMag f t + spacing f t := by
        rw [Nat.pow_zero, Nat.mod_one, Nat.sub_zero, Rat.natCast_ofNat]
        grind
      simp only [movesUp, hall]
      exact hnext
  dsimp only
  rw [hnext, hmoves]
  exact ⟨hbig, hup, hdown⟩

end Compare

/-- A number of few bits does not lie between two neighbouring multiples of 2^q that have more. -/
theorem short_not_between {c t : Nat} (E q : Int) (hc : c ≤ t) :
    (c : Rat) * 2 ^ E ≤ t * 2 ^ q ∨ ((t + 1 : Nat) : Rat) * 2 ^ q ≤ c * 2 ^ E := by
  have hp := two_zpow_pos E
  have hq := two_zpow_pos q
  by_cases hEq : E ≤ q
  · refine .inl ?_
    rw [nat_mul_zpow_split t hEq, scale_nat_le_iff hp]
    exact Nat.le_trans hc (Nat.le_mul_of_pos_right t (Nat.two_pow_pos _))
  · rw [nat_mul_zpow_split c (Int.le_of_lt (Int.not_le.1 hEq)), scale_nat_le_iff hq, scale_nat_le_iff hq]
    omega

/-- A magnitude strictly between two neighbouring multiples of 2^q compares as their middle does. -/
theorem comparesAs_middle {v : Cut} {C t : Nat} {q : Int} (hC : C ≤ t)
    (hlow : ∀ x : Rat, 0 ≤ x → x ≤ t * 2 ^ q → v.le x ∧ ¬ v.ge x)
    (hhigh : ∀ x : Rat, ((t + 1 : Nat) : Rat) * 2 ^ q ≤ x → ¬ v.le x ∧ v.ge x) :
    comparesAs v (((2 * t + 1 : Nat) : Rat) * 2 ^ (q - 1)) C := by
  intro c E hc
  have hmid : ((2 * t + 1 : Nat) : Rat) * 2 ^ (q - 1) = t * 2 ^ q + 2 ^ q / 2 := by
    rw [two_zpow_half, Rat.natCast_add, Rat.natCast_mul, Rat.natCast_ofNat, Rat.natCast_ofNat]
    grind
  have hpos := two_zpow_pos q
  have hc0 := nat_mul_zpow_nonneg c E
  obtain hle | hge := short_not_between E q (Nat.le_trans hc hC)
  · obtain ⟨h1, h2⟩ := hlow _ hc0 hle
    exact ⟨iff_of_true h1 (by grind), iff_of_false h2 (by grind)⟩
  · obtain ⟨h1, h2⟩ := hhigh _ hge
    rw [Rat.natCast_add, Rat.natCast_ofNat] at hge
    exact ⟨iff_of_false h1 (by grind), iff_of_true h2 (by grind)⟩

/-! ## Quotients -/

section Div
variable {f : Fmt} (hf : Regular f) (mode : Rnd) (neg : Bool) {m k : Nat} (e : Int) (hm : 0 < m) (hk : 0 < k)

theorem divV_eq (p : Nat) : divV neg m k e p = .fin neg
    (2 * (m * 2 ^ (p + Nat.log2 k + 2) / k) + (if m * 2 ^ (p + Nat.log2 k + 2) % k = 0 then 0 else 1))
    (e - ((p + Nat.log2 k + 2 : Nat) : Int) - 1) := rfl

include hm hk in
theorem two_pow_le_quotient (p : Nat) : 2 ^ p ≤ m * 2 ^ (p + Nat.log2 k + 2) / k := by
  rw [Nat.le_div_iff_mul_le hk]
  have hlog : k ≤ 2 ^ (Nat.log2 k + 1) := Nat.le_of_lt Nat.lt_log2_self
  calc 2 ^ p * k ≤ 2 ^ p * 2 ^ (Nat.log2 k + 1) := Nat.mul_le_mul_left _ hlog
    _ = 2 ^ (p + Nat.log2 k + 1) := by rw [← Nat.pow_add, Nat.add_assoc]
    _ ≤ 2 ^ (p + Nat.log2 k + 2) := Nat.pow_le_pow_right (by decide) (by omega)
    _ ≤ _ := Nat.le_mul_of_pos_left _ hm

include hm hk in
/-- What the quotient keeps compares with numbers of few bits as the exact quotient does. -/
theorem comparesAs_div (p : Nat) : ∃ M E, divV neg m k e p = .fin neg M E ∧ 0 < M ∧
    comparesAs (.rat ((m : Rat) / k * 2 ^ e)) (M * 2 ^ E) (2 ^ p) := by
  refine ⟨_, _, divV_eq neg e p, ?_, ?_⟩ <;> have hC := two_pow_le_quotient hm hk p
  · have := Nat.two_pow_pos p
    omega
  generalize p + Nat.log2 k + 2 = s at hC ⊢
  have hk' : (0 : Rat) < k := Rat.natCast_pos.2 hk
  have hp := two_zpow_pos (e - s)
  have hV : (m : Rat) / k * 2 ^ e = ((m * 2 ^ s : Nat) : Rat) / k * 2 ^ (e - (s : Int)) := by
    have hsplit := nat_mul_zpow_split m (show e - (s : Int) ≤ e by omega)
    rw [Int.sub_sub_self, Int.toNat_natCast] at hsplit
    rw [Rat.div_def, Rat.div_def]
    grind
  have hdm := Nat.div_add_mod (m * 2 ^ s) k
  have hmod := Nat.mod_lt (m * 2 ^ s) hk
  generalize m * 2 ^ s = N at hC hV hdm hmod ⊢
  rw [hV]
  split
  case isTrue h0 =>
    have hN : (N : Rat) / k = (N / k : Nat) := by
      have hexact : (N : Rat) = ((N / k : Nat) : Rat) * k := by
        rw [← Rat.natCast_mul, Nat.mul_comm, show k * (N / k) = N by omega]
      conv => lhs; rw [hexact]
      exact Rat.mul_div_cancel (Rat.ne_of_gt hk')
    have heq : (N : Rat) / k * 2 ^ (e - (s : Int)) = ((2 * (N / k) + 0 : Nat) : Rat) * 2 ^ (e - (s : Int) - 1) := by
      rw [two_zpow_half, Nat.add_zero, Rat.natCast_mul, hN, Rat.natCast_ofNat]
      grind
    rw [heq]
    exact fun _ _ _ => ⟨Iff.rfl, Iff.rfl⟩
  case isFalse h0 =>
    have hlo : ((N / k : Nat) : Rat) < N / k := by
      rw [Rat.lt_div_iff hk', ← Rat.natCast_mul, Rat.natCast_lt_natCast, Nat.mul_comm]
      omega
    have hhi : (N : Rat) / k < ((N / k + 1 : Nat) : Rat) := by
      rw [Rat.div_lt_iff hk', ← Rat.natCast_mul, Rat.natCast_lt_natCast, Nat.succ_mul, Nat.mul_comm]
      omega
    rw [← scale_lt_iff hp] at hlo hhi
    refine comparesAs_middle hC (fun x _ hx => ?_) fun x hx => ?_
    · have hlt := Std.lt_of_le_of_lt hx hlo
      exact ⟨Rat.le_of_lt hlt, Rat.not_le.2 hlt⟩
    · have hlt := Std.lt_of_lt_of_le hhi hx
      exact ⟨Rat.not_le.2 hlt, Rat.le_of_lt hlt⟩

include hf hm hk in
theorem divV_rounded : rounded f mode false 0 0 neg (.rat ((m : Rat) / k * 2 ^ e)) (round f mode false 0 0 (divV neg m k e (f.mb + 4))) := by
  obtain ⟨M, E, hdiv, hM, hcmp⟩ := comparesAs_div neg e hm hk (f.mb + 4)
  rw [hdiv]
  exact rounded_of_comparesAs (fun c F hc => hcmp c F (Nat.le_trans hc (Nat.pow_le_pow_right (by decide) (by omega)))) mode false neg 0
    (round_rounded hf mode false neg 0 0 hM)

end Div

/-! ## Square roots -/

/-- The integer square root r of n. -/
def isRoot (n r : Nat) : Prop := r * r ≤ n ∧ n < (r + 1) * (r + 1)

theorem exists_isRoot (n : Nat) : ∃ r, isRoot n r := by
  induction n with
  | zero => exact ⟨0, by decide, by decide⟩
  | succ n ih =>
    obtain ⟨r, hle, hlt⟩ := ih
    by_cases h : n + 1 < (r + 1) * (r + 1)
    · exact ⟨r, Nat.le_succ_of_le hle, h⟩
    · refine ⟨r + 1, Nat.not_lt.1 h, Nat.lt_of_le_of_lt (Nat.succ_le_of_lt hlt) ?_⟩
      exact Nat.mul_lt_mul_of_lt_of_lt (Nat.lt_succ_self _) (Nat.lt_succ_self _)

/-- One of Newton's steps does not go below the root: the mean of two numbers is not below the root of their product. -/
theorem root_le_mean {n r x d : Nat} (hr : r * r ≤ n) (h : n < x * (d + 1)) : r ≤ (x + d) / 2 := by
  refine (Nat.le_div_iff_mul_le (by decide)).2 (Classical.byContradiction fun hlt => ?_)
  have hsum : x + (d + 1) ≤ 2 * r := by omega
  generalize d + 1 = y at *
  have hmul := Nat.mul_le_mul hsum hsum
  have hsq : 4 * (x * y) ≤ (x + y) * (x + y) := by
    obtain hle | hle := Nat.le_total x y
    · obtain ⟨k, rfl⟩ := Nat.exists_eq_add_of_le hle
      grind
    · obtain ⟨k, rfl⟩ := Nat.exists_eq_add_of_le hle
      grind
  have hfour : 2 * r * (2 * r) = 4 * (r * r) := by grind
  omega

/-- Newton's steps from above reach the integer square root once the fuel bounds the distance. -/
theorem isqrtAux_eq {n r : Nat} (hroot : isRoot n r) (hr : 0 < r) : ∀ k x, r ≤ x → x < r + 2 ^ k → isqrtAux n k x = r := by
  obtain ⟨hle, hlt⟩ := hroot
  intro k
  induction k with
  | zero =>
    intro x hlo hhi
    show x = _
    omega
  | succ k ih =>
    intro x hlo hhi
    have hpow := two_pow_succ_eq k
    have hxd : n < x * (n / x + 1) := Nat.lt_mul_div_succ n (by omega)
    have hyge : r ≤ (x + n / x) / 2 := root_le_mean hle hxd
    simp only [isqrtAux]
    by_cases hx : x = r
    · subst hx
      exact if_neg (by omega)
    · have hd : n / x ≤ r :=
        Nat.le_of_lt_succ ((Nat.div_lt_iff_lt_mul (by omega)).2 (Nat.lt_of_lt_of_le hlt (Nat.mul_le_mul_left _ (by omega))))
      rw [if_pos (by omega)]
      exact ih _ hyge (by omega)

theorem isqrt_isRoot (n : Nat) : isRoot n (isqrt n) := by
  rw [isqrt]
  split
  case isTrue h => subst h; exact ⟨by decide, by decide⟩
  case isFalse h =>
    obtain ⟨r, hroot⟩ := exists_isRoot n
    have hr : 0 < r := Nat.pos_of_ne_zero fun h0 => by
      have hlt := hroot.2
      rw [h0] at hlt
      omega
    have hlog := Nat.lt_log2_self (n := n)
    have hpow : n < 2 ^ (Nat.log2 n / 2 + 1) * 2 ^ (Nat.log2 n / 2 + 1) := by
      rw [← Nat.pow_add]
      exact Nat.lt_of_lt_of_le hlog (Nat.pow_le_pow_right (by decide) (by omega))
    have hstart : r ≤ 2 ^ (Nat.log2 n / 2 + 1) := Nat.le_of_lt (Nat.mul_self_lt_mul_self_iff.1 (Nat.lt_of_le_of_lt hroot.1 hpow))
    have hfuel : 2 ^ (Nat.log2 n / 2 + 1) ≤ 2 ^ (2 * Nat.log2 n + 8) := Nat.pow_le_pow_right (by decide) (by omega)
    rw [isqrtAux_eq hroot hr _ _ hstart (by omega)]
    exact hroot

section Sqrt
variable {f : Fmt} (hf : Regular f) (mode : Rnd) {m : Nat} (e : Int) (hm : 0 < m)

/-- The shift of a root's radicand: enough bits, and an even exponent left. -/
def rootShift (e : Int) (p : Nat) : Nat := if (e - ((2 * (p + 2) : Nat) : Int)) % 2 = 0 then 2 * (p + 2) else 2 * (p + 2) + 1

theorem le_rootShift (e : Int) (p : Nat) : 2 * p ≤ rootShift e p := by
  rw [rootShift]
  split <;> omega

theorem rootShift_even (e : Int) (p : Nat) : ∃ h : Int, e - (rootShift e p : Int) = 2 * h := by
  refine ⟨(e - (rootShift e p : Int)) / 2, ?_⟩
  rw [rootShift]
  split <;> omega

theorem sqrtV_eq (p : Nat) : sqrtV m 1 e p = .fin false
    (2 * isqrt (m * 2 ^ rootShift e p) + (if isqrt (m * 2 ^ rootShift e p) * isqrt (m * 2 ^ rootShift e p) = m * 2 ^ rootShift e p then 0 else 1))
    ((e - (rootShift e p : Int)) / 2 - 1) := by
  have h : Nat.log2 1 = 0 := by decide
  simp only [sqrtV, h, Nat.add_zero, Nat.div_one, Nat.mul_one, rootShift] <;> rfl

/-- Squares of numbers that are not negative have their order. -/
theorem square_le_iff {a b : Rat} (ha : 0 ≤ a) (hb : 0 ≤ b) : a * a ≤ b * b ↔ a ≤ b := by
  constructor
  · intro h
    refine Rat.not_lt.1 fun hlt => Rat.not_le.2 ?_ h
    exact Std.lt_of_le_of_lt (Rat.mul_le_mul_of_nonneg_left (Rat.le_of_lt hlt) hb) (Rat.mul_lt_mul_of_pos_right hlt (Std.lt_of_le_of_lt hb hlt))
  · exact fun h => Rat.le_trans (Rat.mul_le_mul_of_nonneg_left h ha) (Rat.mul_le_mul_of_nonneg_right h hb)

include hm in
/-- What the root keeps compares with numbers of few bits as the exact root does. -/
theorem comparesAs_sqrt (p : Nat) : ∃ M E, sqrtV m 1 e p = .fin false M E ∧ 0 < M ∧
    comparesAs (.sqrt ((m : Rat) * 2 ^ e)) (M * 2 ^ E) (2 ^ p) := by
  obtain ⟨h, hh⟩ := rootShift_even e p
  have hC : 2 ^ p ≤ isqrt (m * 2 ^ rootShift e p) := by
    refine Nat.le_of_lt_succ (Nat.mul_self_lt_mul_self_iff.1 (Nat.lt_of_le_of_lt ?_ (isqrt_isRoot _).2))
    rw [← Nat.pow_add]
    exact Nat.le_trans (Nat.pow_le_pow_right (by decide) (by have := le_rootShift e p; omega)) (Nat.le_mul_of_pos_left _ hm)
  have hV : (m : Rat) * 2 ^ e = ((m * 2 ^ rootShift e p : Nat) : Rat) * (2 ^ h * 2 ^ h) := by
    have hsplit := nat_mul_zpow_split m (show e - (rootShift e p : Int) ≤ e by omega)
    rw [Int.sub_sub_self, Int.toNat_natCast] at hsplit
    rw [hsplit, hh, Int.two_mul, two_zpow_add]
  refine ⟨_, _, sqrtV_eq e p, ?_, ?_⟩
  · have := Nat.two_pow_pos p
    omega
  rw [hh, Int.mul_ediv_cancel_left h (by decide), hV]
  obtain ⟨hle, hlt⟩ := isqrt_isRoot (m * 2 ^ rootShift e p)
  generalize m * 2 ^ rootShift e p = N at *
  generalize isqrt N = t at *
  have hp := two_zpow_pos h
  have hpp := Rat.mul_pos hp hp
  have hmid : ((2 * t : Nat) : Rat) * 2 ^ (h - 1) = t * 2 ^ h := by
    rw [two_zpow_half, Rat.natCast_mul, Rat.natCast_ofNat]
    grind
  have hsq : ∀ k : Nat, ((k : Rat) * 2 ^ h) * (k * 2 ^ h) = ((k * k : Nat) : Rat) * (2 ^ h * 2 ^ h) := fun k => by
    rw [Rat.natCast_mul]
    grind
  split
  case isTrue heq =>
    rw [← heq, ← hsq, Nat.add_zero, hmid]
    have hT := nat_mul_zpow_nonneg t h
    intro c E _
    have hx := nat_mul_zpow_nonneg c E
    exact ⟨square_le_iff hx hT, square_le_iff hT hx⟩
  case isFalse hne =>
    have hlo : (t * 2 ^ h : Rat) * (t * 2 ^ h) < N * (2 ^ h * 2 ^ h) := by
      rw [hsq, scale_nat_lt_iff hpp]
      omega
    have hhi : (N : Rat) * (2 ^ h * 2 ^ h) < (((t + 1 : Nat) : Rat) * 2 ^ h) * (((t + 1 : Nat) : Rat) * 2 ^ h) := by
      rw [hsq, scale_nat_lt_iff hpp]
      exact hlt
    refine comparesAs_middle hC (fun x hx hle => ?_) fun x hge => ?_
    · have hlt := Std.lt_of_le_of_lt ((square_le_iff hx (nat_mul_zpow_nonneg t h)).2 hle) hlo
      exact ⟨Rat.le_of_lt hlt, Rat.not_le.2 hlt⟩
    · have h0 := nat_mul_zpow_nonneg (t + 1) h
      have hlt := Std.lt_of_lt_of_le hhi ((square_le_iff h0 (Rat.le_trans h0 hge)).2 hge)
      exact ⟨Rat.not_le.2 hlt, Rat.le_of_lt hlt⟩

include hf hm in
theorem sqrtV_rounded : rounded f mode false 0 0 false (.sqrt ((m : Rat) * 2 ^ e)) (round f mode false 0 0 (sqrtV m 1 e (f.mb + 4))) := by
  obtain ⟨M, E, hroot, hM, hcmp⟩ := comparesAs_sqrt e hm (f.mb + 4)
  rw [hroot]
  exact rounded_of_comparesAs (fun c F hc => hcmp c F (Nat.le_trans hc (Nat.pow_le_pow_right (by decide) (by omega)))) mode false false 0
    (round_rounded hf mode false false 0 0 hM)

end Sqrt

end Sys2Proof.Proofs
end

section
/-! Order of values, minimum and maximum, and the arithmetic of the formats (R98, R99, R109, R111, R133, R148, R151, R188). -/

namespace Sys2Proof.Proofs

open Sys2Proof Sys2Proof.Machine Sys2Proof.Claim

/-! ## The value of a code by its sign and its magnitude -/

theorem standard_of_flt (t : FltTy) : Regular t.fmt ∧ t.fmt.e4m3 = false ∧ t.fmt ∈ formats := by
  have hm : t.fmt ∈ formats := by cases t <;> decide
  exact ⟨regular_of_mem hm, by cases t <;> rfl, hm⟩

section Signs
variable (f : Fmt) {x : Nat}

theorem sign_of_decode_inf {s : Bool} (h : f.decode x = .inf s) : s = f.sign x := by
  rw [decode_eq] at h
  split at h
  · split at h
    · exact (FVal.inf.inj h).symm
    · cases h
  · split at h
    · cases h
    · split at h <;> cases h

theorem sign_of_decode_fin {s : Bool} {m : Nat} {e : Int} (h : f.decode x = .fin s m e) : s = f.sign x := by
  rw [decode_eq] at h
  split at h
  · split at h <;> cases h
  · split at h
    · cases h
    · split at h <;> exact (FVal.fin.inj h).1.symm

end Signs

section Codes
variable {f : Fmt} (hf : Regular f) {x y : Nat} (hx : x < 2 ^ f.w) (hy : y < 2 ^ f.w)

include hf hx in
theorem code_eq_signed : x = signed f (f.sign x) (x % 2 ^ (f.w - 1)) := by
  have hpos := Nat.two_pow_pos (f.w - 1)
  have hw : 2 ^ f.w = 2 ^ (f.w - 1) * 2 := by rw [← Nat.pow_succ, Nat.succ_eq_add_one, Nat.sub_add_cancel hf.width_pos]
  rw [sign_of_code hf hx, signed]
  by_cases h : 2 ^ (f.w - 1) ≤ x
  · rw [decide_eq_true h, if_pos rfl, Nat.mod_eq_sub_mod h, Nat.mod_eq_of_lt (by omega)]
    omega
  · rw [decide_eq_false h, if_neg Bool.false_ne_true, Nat.mod_eq_of_lt (by omega), Nat.zero_add]

include hf in
/-- A finite value belongs to a code up to the greatest. -/
theorem mag_le_of_finite (h : finiteV (f.decode x)) : x % 2 ^ (f.w - 1) ≤ topCode f := by
  refine Classical.byContradiction fun hgt => ?_
  obtain ⟨s, m, e, hd⟩ := h
  by_cases hc : f.e4m3 = true ∨ x % 2 ^ (f.w - 1) ≠ 2 ^ (f.w - 1) - 2 ^ f.mb
  · rw [decode_nan hf (Nat.lt_of_not_le hgt) hc] at hd
    cases hd
  · rw [not_or, Bool.not_eq_true, Classical.not_not] at hc
    rw [decode_inf hf hc.1 hc.2] at hd
    cases hd

include hf in
theorem mag_of_inf {s : Bool} (h : f.decode x = .inf s) : x % 2 ^ (f.w - 1) = 2 ^ (f.w - 1) - 2 ^ f.mb := by
  refine Classical.byContradiction fun hne => ?_
  by_cases hle : x % 2 ^ (f.w - 1) ≤ topCode f
  · rw [decode_finite hf hle] at h
    cases h
  · rw [decode_nan hf (Nat.lt_of_not_le hle) (.inr hne)] at h
    cases h

include hf in
theorem rational_decode (h : finiteV (f.decode x)) :
    rational (f.decode x) = (if f.sign x then -1 else 1) * codeMag f (x % 2 ^ (f.w - 1)) := by
  rw [decode_finite hf (mag_le_of_finite hf h), rational_fin, ← codeMag_eq]

include hf in
/-- Zero has the code of magnitude zero. -/
theorem mag_of_zero (h : zeroV (f.decode x)) : x % 2 ^ (f.w - 1) = 0 := by
  obtain ⟨hfin, h0⟩ := h
  rw [rational_decode hf hfin] at h0
  have hmag : codeMag f (x % 2 ^ (f.w - 1)) = 0 := by
    obtain hsign | hmag := Rat.mul_eq_zero.1 h0
    · split at hsign <;> exact absurd hsign (by decide)
    · exact hmag
  refine codeMag_inj f (hmag.trans ?_)
  rw [codeMag, if_pos (Nat.zero_div _), Rat.natCast_ofNat, Rat.zero_mul]

include hf hx in
theorem code_of_zero (h : zeroV (f.decode x)) : x = signed f (f.sign x) 0 := by
  conv => lhs; rw [code_eq_signed hf hx, mag_of_zero hf h]

end Codes

/-! ## Order (R99) -/

section Order

/-- The model compares two finite values over one exponent, where they are integers. -/
theorem cmpV_fin (s t : Bool) (m k : Nat) (e g : Int) : ∃ i j q : Int, cmpV (.fin s m e) (.fin t k g) = some (compare i j) ∧
    (i : Rat) * 2 ^ q = rational (.fin s m e) ∧ (j : Rat) * 2 ^ q = rational (.fin t k g) := by
  refine ⟨_, _, _, rfl, at_mul_zpow (finiteV_fin ..) (minExp_getD_le List.mem_cons_self), at_mul_zpow (finiteV_fin ..) (minExp_getD_le ?_)⟩
  exact List.mem_cons_of_mem _ List.mem_cons_self

theorem before_fin (s t : Bool) (m k : Nat) (e g : Int) :
    before (.fin s m e) (.fin t k g) ↔ rational (.fin s m e) < rational (.fin t k g) := Iff.rfl

/-- The model's comparison of two values that are no NaN is the claim's order. -/
theorem cmpV_cases {a b : FVal} (ha : a ≠ .nan) (hb : b ≠ .nan) :
    (cmpV a b = some .lt ∧ before a b ∧ ¬ before b a) ∨ (cmpV a b = some .gt ∧ before b a ∧ ¬ before a b) ∨
    (cmpV a b = some .eq ∧ ¬ before a b ∧ ¬ before b a) := by
  match a, b, ha, hb with
  | .inf s, .inf t, _, _ => cases s <;> cases t <;> simp [cmpV, before]
  | .inf s, .fin t k g, _, _ => cases s <;> simp [cmpV, before]
  | .fin s m e, .inf t, _, _ => cases t <;> simp [cmpV, before]
  | .fin s m e, .fin t k g, _, _ =>
    obtain ⟨i, j, q, hc, hi, hj⟩ := cmpV_fin s t m k e g
    have hij : ∀ a b : Int, (a : Rat) * 2 ^ q < b * 2 ^ q ↔ a < b := fun a b => by
      rw [scale_lt_iff (two_zpow_pos q), Rat.intCast_lt_intCast]
    rw [hc, before_fin, before_fin, ← hi, ← hj, hij, hij]
    obtain h | h | h := Int.lt_trichotomy i j
    · exact .inl ⟨congrArg some (Int.compare_eq_lt.2 h), h, Int.not_lt.2 (Int.le_of_lt h)⟩
    · exact .inr (.inr ⟨congrArg some (Int.compare_eq_eq.2 h), by omega, by omega⟩)
    · exact .inr (.inl ⟨congrArg some (Int.compare_eq_gt.2 h), h, Int.not_lt.2 (Int.le_of_lt h)⟩)

theorem cmpV_nan {a b : FVal} (h : a = .nan ∨ b = .nan) : cmpV a b = none := by
  obtain rfl | rfl := h
  · rfl
  · cases a <;> rfl

theorem before_not_nan {a b : FVal} (h : before a b) : a ≠ .nan ∧ b ≠ .nan := by
  cases a <;> cases b <;> simp_all [before]

theorem cmpV_of_before {a b : FVal} (h : before a b) : cmpV a b = some .lt ∧ cmpV b a = some .gt := by
  obtain ⟨ha, hb⟩ := before_not_nan h
  refine ⟨?_, ?_⟩
  · obtain ⟨hc, _⟩ | ⟨_, _, hn⟩ | ⟨_, hn, _⟩ := cmpV_cases ha hb
    · exact hc
    · exact absurd h hn
    · exact absurd h hn
  · obtain ⟨_, _, hn⟩ | ⟨hc, _⟩ | ⟨_, _, hn⟩ := cmpV_cases hb ha
    · exact absurd h hn
    · exact hc
    · exact absurd h hn

theorem not_before_zero {a b : FVal} (ha : zeroV a) (hb : zeroV b) : ¬ before a b := by
  obtain ⟨⟨s, m, e, rfl⟩, ha⟩ := ha
  obtain ⟨⟨t, k, g, rfl⟩, hb⟩ := hb
  rw [before_fin, ha, hb]
  exact Rat.lt_irrefl

end Order

/-! ## Minimum, maximum and the conditions -/

section MinMax
variable {f : Fmt} (hf : Regular f) {x y : Nat} (mx : Bool)

theorem isNan_false {f : Fmt} {x : Nat} (h : f.decode x ≠ .nan) : ¬ f.isNan x = true := fun h' => h ((isNan_iff _).1 h')
theorem isNan_true {f : Fmt} {x : Nat} (h : f.decode x = .nan) : f.isNan x = true := (isNan_iff _).2 h

theorem fminmax_right_nan (ha : f.decode x ≠ .nan) (hb : f.decode y = .nan) : fminmax f mx x y = x :=
  (if_neg (isNan_false ha)).trans (if_pos (isNan_true hb))
theorem fminmax_left_nan (ha : f.decode x = .nan) (hb : f.decode y ≠ .nan) : fminmax f mx x y = y :=
  (if_pos (isNan_true ha)).trans (if_neg (isNan_false hb))
theorem fminmax_both_nan (ha : f.decode x = .nan) (hb : f.decode y = .nan) : fminmax f mx x y = f.nan :=
  (if_pos (isNan_true ha)).trans (if_pos (isNan_true hb))

theorem fminmax_numbers (ha : f.decode x ≠ .nan) (hb : f.decode y ≠ .nan) : fminmax f mx x y =
    match cmpV (f.decode x) (f.decode y) with
    | some .lt => if mx then y else x
    | some .gt => if mx then x else y
    | _ => if f.sign x = mx then y else x :=
  (if_neg (isNan_false ha)).trans (if_neg (isNan_false hb))

theorem fminmax_lt (h : before (f.decode x) (f.decode y)) : fminmax f mx x y = if mx then y else x := by
  obtain ⟨ha, hb⟩ := before_not_nan h
  rw [fminmax_numbers mx ha hb, (cmpV_of_before h).1]

theorem fminmax_gt (h : before (f.decode y) (f.decode x)) : fminmax f mx x y = if mx then x else y := by
  obtain ⟨hb, ha⟩ := before_not_nan h
  rw [fminmax_numbers mx ha hb, (cmpV_of_before h).2]

theorem fminmax_eq (ha : f.decode x ≠ .nan) (hb : f.decode y ≠ .nan) (hxy : ¬ before (f.decode x) (f.decode y))
    (hyx : ¬ before (f.decode y) (f.decode x)) : fminmax f mx x y = if f.sign x = mx then y else x := by
  obtain ⟨_, h, _⟩ | ⟨_, h, _⟩ | ⟨hc, _⟩ := cmpV_cases ha hb
  · exact absurd h hxy
  · exact absurd h hyx
  · rw [fminmax_numbers mx ha hb, hc]

theorem zeroV_not_nan {v : FVal} (h : zeroV v) : v ≠ .nan := fun h' => not_zeroV_nan (h' ▸ h)

variable (hx : x < 2 ^ f.w) (hy : y < 2 ^ f.w)
include hf hx hy

/-- Of two zeros the negative one is the less. -/
theorem fminmax_zero (ha : zeroV (f.decode x)) (hb : zeroV (f.decode y)) :
    fminmax f mx x y = signed f (if mx then f.sign x && f.sign y else f.sign x || f.sign y) 0 := by
  rw [fminmax_eq mx (zeroV_not_nan ha) (zeroV_not_nan hb) (not_before_zero ha hb) (not_before_zero hb ha)]
  have hxc := code_of_zero hf hx ha
  have hyc := code_of_zero hf hy hb
  cases mx <;> cases hs : f.sign x <;> rw [hs] at hxc <;> simp [← hxc, ← hyc]

/-- Two codes of one value are the same, but for the zeros. -/
theorem eq_or_zero (ha : f.decode x ≠ .nan) (hb : f.decode y ≠ .nan) (hxy : ¬ before (f.decode x) (f.decode y))
    (hyx : ¬ before (f.decode y) (f.decode x)) : x = y ∨ (zeroV (f.decode x) ∧ zeroV (f.decode y)) := by
  have hcode : f.sign x = f.sign y → x % 2 ^ (f.w - 1) = y % 2 ^ (f.w - 1) → x = y := fun hs hm => by
    rw [code_eq_signed hf hx, code_eq_signed hf hy, hs, hm]
  cases hdx : f.decode x with
  | nan => exact absurd hdx ha
  | inf s =>
    cases hdy : f.decode y with
    | nan => exact absurd hdy hb
    | inf t =>
      rw [hdx, hdy] at hxy hyx
      have hst : s = t := by cases s <;> cases t <;> simp_all [before]
      exact .inl (hcode (by rw [← sign_of_decode_inf f hdx, ← sign_of_decode_inf f hdy, hst]) ((mag_of_inf hf hdx).trans (mag_of_inf hf hdy).symm))
    | fin t k g =>
      rw [hdx, hdy] at hxy hyx
      cases s <;> simp [before] at hxy hyx
  | fin s m e =>
    cases hdy : f.decode y with
    | nan => exact absurd hdy hb
    | inf t =>
      rw [hdx, hdy] at hxy hyx
      cases t <;> simp [before] at hxy hyx
    | fin t k g =>
      have hfx : finiteV (f.decode x) := ⟨s, m, e, hdx⟩
      have hfy : finiteV (f.decode y) := ⟨t, k, g, hdy⟩
      rw [hdx, hdy, before_fin, Rat.not_lt] at hxy hyx
      have heq := Rat.le_antisymm hyx hxy
      rw [← hdx, ← hdy] at heq ⊢
      by_cases h0 : rational (f.decode x) = 0
      · exact .inr ⟨⟨hfx, h0⟩, ⟨hfy, heq ▸ h0⟩⟩
      · refine .inl ?_
        have hmx := codeMag_nonneg f (x % 2 ^ (f.w - 1))
        have hmy := codeMag_nonneg f (y % 2 ^ (f.w - 1))
        rw [rational_decode hf hfx] at h0 heq
        rw [rational_decode hf hfy] at heq
        have hboth : f.sign x = f.sign y ∧ codeMag f (x % 2 ^ (f.w - 1)) = codeMag f (y % 2 ^ (f.w - 1)) := by
          generalize codeMag f (x % 2 ^ (f.w - 1)) = p at *
          generalize codeMag f (y % 2 ^ (f.w - 1)) = q at *
          cases hsx : f.sign x <;> cases hsy : f.sign y <;> rw [hsx] at h0 heq <;> rw [hsy] at heq <;>
            simp only [if_true, Bool.false_eq_true, if_false, Rat.one_mul, Rat.neg_mul, true_and, false_and, reduceCtorEq] at heq h0 ⊢ <;> grind
        exact hcode hboth.1 (codeMag_inj f hboth.2)

theorem fminmax_comm : fminmax f mx x y = fminmax f mx y x := by
  by_cases ha : f.decode x = .nan
  · by_cases hb : f.decode y = .nan
    · rw [fminmax_both_nan mx ha hb, fminmax_both_nan mx hb ha]
    · rw [fminmax_left_nan mx ha hb, fminmax_right_nan mx hb ha]
  · by_cases hb : f.decode y = .nan
    · rw [fminmax_right_nan mx ha hb, fminmax_left_nan mx hb ha]
    · obtain ⟨_, h, _⟩ | ⟨_, h, _⟩ | ⟨_, hxy, hyx⟩ := cmpV_cases ha hb
      · rw [fminmax_lt mx h, fminmax_gt mx h]
      · rw [fminmax_gt mx h, fminmax_lt mx h]
      · obtain rfl | ⟨hzx, hzy⟩ := eq_or_zero hf hx hy ha hb hxy hyx
        · rfl
        · rw [fminmax_zero hf mx hx hy hzx hzy, fminmax_zero hf mx hy hx hzy hzx, Bool.and_comm, Bool.or_comm]

end MinMax

section Conditions
variable (f : Fmt) (c : FCond) {x y : Nat}

theorem fcond_nan (h : f.decode x = .nan ∨ f.decode y = .nan) : fcond f c x y = decide (c = .ne ∨ c = .un) := by
  cases c <;> simp [fcond, cmpV_nan h]

theorem fcond_numbers (ha : f.decode x ≠ .nan) (hb : f.decode y ≠ .nan) : fcond f c x y = true ↔ match c with
    | .eq => ¬ before (f.decode x) (f.decode y) ∧ ¬ before (f.decode y) (f.decode x)
    | .ne => before (f.decode x) (f.decode y) ∨ before (f.decode y) (f.decode x)
    | .lt => before (f.decode x) (f.decode y) | .le => ¬ before (f.decode y) (f.decode x)
    | .gt => before (f.decode y) (f.decode x) | .ge => ¬ before (f.decode x) (f.decode y) | .un => False | .ord => True := by
  obtain ⟨h, h1, h2⟩ | ⟨h, h1, h2⟩ | ⟨h, h1, h2⟩ := cmpV_cases ha hb <;> cases c <;> simp [fcond, h, h1, h2]

end Conditions

end Sys2Proof.Proofs
end

section
/-! The arithmetic of the formats in the claim's words: products, quotients, roots, columns and accumulators (R98, R99, R103, R109,
R111, R133, R148, R151, R188). -/

namespace Sys2Proof.Proofs

open Sys2Proof Sys2Proof.Machine Sys2Proof.Claim

/-! ## Products, quotients and roots of encodings -/

section Ops
variable {f : Fmt} (hf : Regular f) (mode : Rnd) (rnd : Nat) {x y : Nat}

/-- Whether the product or quotient of two codes is negative. -/
def signXor (f : Fmt) (x y : Nat) : Bool := f.sign x != f.sign y

theorem mulV_decode_inf (h : (infV (f.decode x) ∧ f.decode y ≠ .nan ∧ ¬ zeroV (f.decode y)) ∨
    (infV (f.decode y) ∧ f.decode x ≠ .nan ∧ ¬ zeroV (f.decode x))) : mulV (f.decode x) (f.decode y) = .inf (signXor f x y) := by
  obtain ⟨⟨s, hs⟩, hn, hz⟩ | ⟨⟨t, ht⟩, hn, hz⟩ := h
  · rw [signXor, ← sign_of_decode_inf f hs, hs]
    cases hy : f.decode y with
    | nan => exact absurd hy hn
    | inf t => rw [← sign_of_decode_inf f hy]; rfl
    | fin t k g =>
      rw [hy, zeroV_fin_iff] at hz
      rw [← sign_of_decode_fin f hy]
      exact if_neg hz
  · rw [signXor, ← sign_of_decode_inf f ht, ht]
    cases hx : f.decode x with
    | nan => exact absurd hx hn
    | inf s => rw [← sign_of_decode_inf f hx]; rfl
    | fin s m e =>
      rw [hx, zeroV_fin_iff] at hz
      rw [← sign_of_decode_fin f hx]
      exact if_neg hz

include hf in
/-- The exact product of two finite values, rounded once; a zero has the sign of the product. -/
theorem fmul_finite (hx : finiteV (f.decode x)) (hy : finiteV (f.decode y)) :
    finiteV (mulV (f.decode x) (f.decode y)) ∧
    rational (mulV (f.decode x) (f.decode y)) = rational (f.decode x) * rational (f.decode y) ∧
    (rational (f.decode x) * rational (f.decode y) = 0 → fmul f mode rnd x y = signed f (signXor f x y) 0 ∧
      (negZero (mulV (f.decode x) (f.decode y)) ↔ signXor f x y = true)) ∧
    (rational (f.decode x) * rational (f.decode y) ≠ 0 → rounded f mode false rnd (rsrBits f.w) (signXor f x y)
      (.rat (magnitude (rational (f.decode x) * rational (f.decode y)))) (fmul f mode rnd x y)) := by
  obtain ⟨s, m, e, hx⟩ := hx
  obtain ⟨t, k, g, hy⟩ := hy
  rw [signXor, ← sign_of_decode_fin f hx, ← sign_of_decode_fin f hy, fmul, hx, hy, ← rational_mul, mulV_fin, magnitude_rational,
    Ne, rational_fin_eq_zero]
  refine ⟨finiteV_fin .., rfl, fun h0 => ?_, fun h0 => round_rounded_of_eq hf mode rnd _ h0 rfl⟩
  rw [h0]
  refine ⟨rfl, fun ⟨g, hg⟩ => (FVal.fin.inj hg).1, fun hs => ⟨_, by rw [hs]⟩⟩

include hf in
theorem fdiv_nan (h : (f.decode x = .nan ∨ f.decode y = .nan) ∨ (infV (f.decode x) ∧ infV (f.decode y)) ∨
    (zeroV (f.decode x) ∧ zeroV (f.decode y))) : fdiv f mode x y = quietNan f := by
  have hv : fdivV (f.mb + 4) (f.decode x) (f.decode y) = .nan := by
    obtain (h | h) | ⟨⟨s, hs⟩, ⟨t, ht⟩⟩ | ⟨⟨⟨s, m, e, hs⟩, h0⟩, ⟨⟨t, k, g, ht⟩, h0'⟩⟩ := h
    · rw [h]; rfl
    · rw [h]
      cases f.decode x <;> rfl
    · rw [hs, ht]; rfl
    · rw [hs, rational_fin_eq_zero] at h0
      rw [ht, rational_fin_eq_zero] at h0'
      rw [hs, ht, h0, h0']
      rfl
  rw [fdiv, hv]
  exact hf.nan_eq

include hf in
theorem fdiv_inf (h : (infV (f.decode x) ∧ finiteV (f.decode y)) ∨ (finiteV (f.decode x) ∧ ¬ zeroV (f.decode x) ∧ zeroV (f.decode y))) :
    fdiv f mode x y = infinity f (signXor f x y) := by
  have hv : fdivV (f.mb + 4) (f.decode x) (f.decode y) = .inf (signXor f x y) := by
    obtain ⟨⟨s, hs⟩, ⟨t, k, g, ht⟩⟩ | ⟨⟨s, m, e, hs⟩, hz, ⟨⟨t, k, g, ht⟩, h0⟩⟩ := h
    · rw [signXor, ← sign_of_decode_inf f hs, ← sign_of_decode_fin f ht, hs, ht]
      rfl
    · rw [hs, zeroV_fin_iff] at hz
      rw [ht, rational_fin_eq_zero] at h0
      rw [signXor, ← sign_of_decode_fin f hs, ← sign_of_decode_fin f ht, hs, ht, h0]
      simp only [fdivV, if_true, if_neg hz]
  rw [fdiv, hv]
  exact hf.inf_eq _

theorem fdiv_zero (h : (zeroV (f.decode x) ∧ finiteV (f.decode y) ∧ ¬ zeroV (f.decode y)) ∨ (finiteV (f.decode x) ∧ infV (f.decode y))) :
    fdiv f mode x y = signed f (signXor f x y) 0 := by
  have hv : fdivV (f.mb + 4) (f.decode x) (f.decode y) = .fin (signXor f x y) 0 0 := by
    obtain ⟨⟨⟨s, m, e, hs⟩, h0⟩, ⟨t, k, g, ht⟩, hz⟩ | ⟨⟨s, m, e, hs⟩, ⟨t, ht⟩⟩ := h
    · rw [hs, rational_fin_eq_zero] at h0
      rw [ht, zeroV_fin_iff] at hz
      rw [signXor, ← sign_of_decode_fin f hs, ← sign_of_decode_fin f ht, hs, ht, h0]
      exact (if_neg hz).trans (if_pos rfl)
    · rw [signXor, ← sign_of_decode_fin f hs, ← sign_of_decode_inf f ht, hs, ht]
      rfl
  rw [fdiv, hv]
  rfl

theorem magnitude_quotient (s t : Bool) (m : Nat) {k : Nat} (e g : Int) (hk : k ≠ 0) :
    magnitude (rational (.fin s m e) / rational (.fin t k g)) = (m : Rat) / k * 2 ^ (e - g) := by
  have hk' : (k : Rat) ≠ 0 := mt Rat.natCast_eq_zero_iff.1 hk
  have hg := two_zpow_pos g
  have hpow : (2 : Rat) ^ e = 2 ^ (e - g) * 2 ^ g := by rw [← two_zpow_add, Int.sub_add_cancel]
  have hnonneg : (0 : Rat) ≤ (m : Rat) / k * 2 ^ (e - g) :=
    Rat.mul_nonneg (Rat.mul_nonneg Rat.natCast_nonneg (Rat.le_of_lt (Rat.inv_pos.2 (Rat.natCast_pos.2 (Nat.pos_of_ne_zero hk)))))
      (Rat.le_of_lt (two_zpow_pos _))
  have hden : rational (.fin t k g) ≠ 0 := mt (rational_fin_eq_zero t k g).1 hk
  have hquot : ∀ c : Rat, rational (.fin s m e) = c * rational (.fin t k g) → rational (.fin s m e) / rational (.fin t k g) = c := fun c hc => by
    rw [hc, Rat.mul_div_cancel hden]
  have hcancel := Rat.div_mul_cancel (a := (m : Rat)) hk'
  generalize (m : Rat) / k = d at hcancel hnonneg ⊢
  have hplain : (m : Rat) * 2 ^ e = d * 2 ^ (e - g) * (k * 2 ^ g) := by
    rw [hpow, ← hcancel]
    grind
  by_cases hst : s = t
  · rw [hquot (d * 2 ^ (e - g)) ?_, magnitude_of_nonneg hnonneg]
    rw [hst, rational_fin, rational_fin, hplain]
    grind
  · rw [hquot (-(d * 2 ^ (e - g))) ?_, magnitude_neg hnonneg]
    rw [rational_fin, rational_fin, hplain]
    cases s <;> cases t <;> simp only [not_true_eq_false, reduceCtorEq] at hst <;>
      simp only [if_true, Bool.false_eq_true, if_false] <;> grind

include hf in
theorem fdiv_finite (hx : finiteV (f.decode x)) (hy : finiteV (f.decode y)) (hzx : ¬ zeroV (f.decode x)) (hzy : ¬ zeroV (f.decode y)) :
    rounded f mode false 0 0 (signXor f x y) (.rat (magnitude (rational (f.decode x) / rational (f.decode y)))) (fdiv f mode x y) := by
  obtain ⟨s, m, e, hx⟩ := hx
  obtain ⟨t, k, g, hy⟩ := hy
  rw [hx, zeroV_fin_iff] at hzx
  rw [hy, zeroV_fin_iff] at hzy
  have hV : magnitude (rational (.fin s m e) / rational (.fin t k g)) = (m : Rat) / k * 2 ^ (e - g) := by
    exact magnitude_quotient s t m e g hzy
  have hdiv : fdivV (f.mb + 4) (.fin s m e) (.fin t k g) = divV (s != t) m k (e - g) (f.mb + 4) := (if_neg hzy).trans (if_neg hzx)
  rw [signXor, ← sign_of_decode_fin f hx, ← sign_of_decode_fin f hy, fdiv, hx, hy, hV, hdiv]
  exact divV_rounded hf mode _ _ (Nat.pos_of_ne_zero hzx) (Nat.pos_of_ne_zero hzy)

include hf in
theorem fsqrt_nan (h : f.decode x = .nan ∨ f.decode x = .inf true ∨ (finiteV (f.decode x) ∧ rational (f.decode x) < 0)) :
    fsqrt f mode x = quietNan f := by
  have hv : fsqrtV (f.mb + 4) (f.decode x) = .nan := by
    obtain h | h | ⟨⟨s, m, e, hs⟩, h⟩ := h
    · rw [h]; rfl
    · rw [h]; rfl
    · rw [hs, rational_fin_neg_iff] at h
      rw [hs, h.1]
      exact (if_neg h.2).trans (if_pos rfl)
  rw [fsqrt, hv]
  exact hf.nan_eq

include hf in
theorem fsqrt_inf (h : f.decode x = .inf false) : fsqrt f mode x = infinity f false := by
  rw [fsqrt, h]
  exact hf.inf_eq false

include hf in
theorem fsqrt_zero (hx : x < 2 ^ f.w) (h : zeroV (f.decode x)) : fsqrt f mode x = x := by
  conv => rhs; rw [code_of_zero hf hx h]
  obtain ⟨⟨s, m, e, hs⟩, h0⟩ := h
  rw [hs, rational_fin_eq_zero] at h0
  rw [← sign_of_decode_fin f hs, fsqrt, hs, h0]
  rfl

include hf in
theorem fsqrt_positive (h : finiteV (f.decode x)) (hpos : 0 < rational (f.decode x)) :
    rounded f mode false 0 0 false (.sqrt (rational (f.decode x))) (fsqrt f mode x) := by
  obtain ⟨s, m, e, hs⟩ := h
  rw [hs] at hpos
  have hm : m ≠ 0 := fun h0 => Rat.ne_of_gt hpos ((rational_fin_eq_zero s m e).2 h0)
  have hsign : s = false := by
    refine eq_false_of_ne_true fun ht => Rat.not_lt.2 (Rat.le_of_lt hpos) ?_
    exact (rational_fin_neg_iff s m e).2 ⟨ht, hm⟩
  have hroot : fsqrtV (f.mb + 4) (.fin false m e) = sqrtV m 1 e (f.mb + 4) := (if_neg hm).trans (if_neg Bool.false_ne_true)
  have hV := rational_pos m e
  rw [hsign] at hs
  rw [fsqrt, hs, hroot, hV]
  exact sqrtV_rounded hf mode e (Nat.pos_of_ne_zero hm)

end Ops

/-! ## Results fit their format -/

section Fits
variable {f : Fmt} (hf : Regular f)

/-- A code with its sign fits the format. -/
theorem signed_lt (hw : 0 < f.w) (neg : Bool) {c : Nat} (hc : c < 2 ^ (f.w - 1)) : signed f neg c < 2 ^ f.w := by
  have hpow : 2 ^ f.w = 2 ^ (f.w - 1) + 2 ^ (f.w - 1) := by
    rw [← two_pow_succ_eq, Nat.sub_add_cancel hw]
  cases neg <;> simp only [signed, if_true, Bool.false_eq_true, if_false] <;> omega

theorem constants_lt {f : Fmt} (h : f ∈ formats) : topCode f < 2 ^ (f.w - 1) ∧ quietNan f < 2 ^ f.w ∧ ∀ neg, infinity f neg < 2 ^ f.w := by
  simp only [formats, List.mem_cons, List.not_mem_nil, or_false] at h
  obtain rfl | rfl | rfl | rfl | rfl | rfl := h <;> decide

/-- Among the codes up to one there is a greatest whose magnitude is not above a value. -/
theorem exists_greatest_code (f : Fmt) {V : Rat} (hV : 0 ≤ V) (top : Nat) :
    ∃ t, t ≤ top ∧ codeMag f t ≤ V ∧ ∀ z, z ≤ top → codeMag f z ≤ V → z ≤ t := by
  induction top with
  | zero =>
    refine ⟨0, Nat.le_refl 0, ?_, fun z hz _ => hz⟩
    rw [codeMag, if_pos (Nat.zero_div _), Rat.natCast_ofNat, Rat.zero_mul]
    exact hV
  | succ k ih =>
    by_cases h : codeMag f (k + 1) ≤ V
    · exact ⟨k + 1, Nat.le_refl _, h, fun z hz _ => hz⟩
    · obtain ⟨t, ht, hle, hmax⟩ := ih
      refine ⟨t, Nat.le_succ_of_le ht, hle, fun z hz hzle => hmax z ?_ hzle⟩
      exact Nat.le_of_lt_succ (Nat.lt_of_le_of_ne hz (by rintro rfl; exact h hzle))

/-- A value rounded to a format is one of the format's codes. -/
theorem rounded_lt {f : Fmt} (h : f ∈ formats) {mode : Rnd} {sat neg : Bool} {rnd n r : Nat} {V : Rat} (hV : 0 ≤ V)
    (hr : rounded f mode sat rnd n neg (.rat V) r) : r < 2 ^ f.w := by
  have hf := regular_of_mem h
  obtain ⟨htop, _, hinf⟩ := constants_lt h
  have hover : overflowed f mode sat neg < 2 ^ f.w := by
    rw [overflowed]
    split
    · exact signed_lt hf.width_pos neg htop
    · exact hinf neg
  obtain ⟨t, ht, hle, hmax⟩ := exists_greatest_code f hV (topCode f)
  obtain ⟨hbig, hup, hdown⟩ := hr t ht hle hmax
  by_cases hb : (Cut.rat V).le (codeMag f t + spacing f t)
  · exact hbig hb ▸ hover
  by_cases hm : movesUp mode neg t (codeMag f t) (spacing f t) (.rat V) rnd n
  · rw [hup hb hm]
    split
    · exact hover
    · exact signed_lt hf.width_pos neg (by omega)
  · exact hdown hb hm ▸ signed_lt hf.width_pos neg (by omega)

theorem roundN_lt {f : Fmt} (h : f ∈ formats) (v : FVal) : roundN f v < 2 ^ f.w := by
  have hf := regular_of_mem h
  obtain ⟨htop, hnan, hinf⟩ := constants_lt h
  cases v with
  | nan => exact Nat.lt_of_le_of_lt (Nat.le_of_eq hf.nan_eq) hnan
  | inf s => exact Nat.lt_of_le_of_lt (Nat.le_of_eq (hf.inf_eq s)) (hinf s)
  | fin s m e =>
    by_cases hm : m = 0
    · rw [hm]
      exact signed_lt hf.width_pos s (Nat.two_pow_pos _)
    · exact rounded_lt h (nat_mul_zpow_nonneg m e) (round_rounded hf .rne false s 0 0 (Nat.pos_of_ne_zero hm))

end Fits

/-! ## Columns of a matrix and rows of an accumulator -/

/-- The terms of a column: its products, and what comes from the north and from its row. -/
def columnTerms (cfg : Word) (job : MmaJob) (row : Option Lanes) (j : Nat) : List FVal :=
  let f := if mxFmt cfg = 6 then fmtF64 else fmtF32
  let cell := fun (o : Option Lanes) => match o with | some v => [f.decode (valAt f.w v.toNat j)] | none => []
  (List.range (mxGeom cfg).2.1).map (fun k => mxTerm cfg job k j) ++ cell job.north ++ cell row

theorem mxSums_fst (cfg : Word) (job : MmaJob) (row : Option Lanes) : (mxSums cfg job row).1 =
    ofVals (mxAcc cfg).w ((List.range (mxGeom cfg).2.2).map fun j => roundN (mxAcc cfg) (sumV false (columnTerms cfg job row j))) := rfl

theorem mxAcc_mem (cfg : Word) : mxAcc cfg ∈ formats := by
  rw [mxAcc]
  split <;> decide

theorem mxSums_rounded (cfg : Word) (job : MmaJob) (row : Option Lanes) {j : Nat} (hj : j < (mxGeom cfg).2.2)
    (hin : (j + 1) * (mxAcc cfg).w ≤ 256) :
    sumRounded (mxAcc cfg) .rne 0 0 (columnTerms cfg job row j) (valAt (mxAcc cfg).w (mxSums cfg job row).1.toNat j) := by
  rw [mxSums_fst, valAt_ofVals hin, getD_map_range hj, Nat.mod_eq_of_lt (roundN_lt (mxAcc_mem cfg) _)]
  exact sumV_rounded (regular_of_mem (mxAcc_mem cfg)) .rne 0 0 _

theorem accRead_value (t : Ty) (q : Lanes) (j : Nat) (ts : Ty) (hts : ts = if t = .f64 then .f64 else .f32)
    (hs : (j + 1) * ts.width ≤ 256) (ht : (j + 1) * t.width ≤ 256) :
    valAt t.width (accRead t q).1.toNat j = conv t ts .rne true 0 (valAt ts.width q.toNat j) % 2 ^ t.width := by
  have hlt : j < 256 / ts.width := lt_of_succ_mul_le (by cases ts <;> decide) hs
  have hread : (accRead t q).1 = ofVals t.width ((vals ts.width q).map (conv t ts .rne true 0)) := by rw [hts]; rfl
  rw [hread, valAt_ofVals ht, vals, List.map_map, getD_map_range hlt]
  rfl

/-- Settles O9: sums and products are exact before the one rounding of O2, a quotient or root is kept to enough bits to round as the
exact one does, and the comparison is the order of the rationals. -/
theorem arithmeticValues : Obligations.ArithmeticValues := by
  refine ⟨fun t mode rnd x y z => ?_, fun t f x y h => ?_, fun cfg job row j => mxSums_rounded cfg job row, fun q v t j => ?_⟩
  · obtain ⟨hf, he, hmem⟩ := standard_of_flt t
    generalize t.fmt = f at hf he hmem
    intro f' n a b c neg hx hy hz
    have hn : n = rsrBits f.w := (rsrBits_eq f.w).symm
    rw [hn]
    have hxor : neg = signXor f x y := rfl
    rw [hxor]
    refine ⟨sumV_rounded hf mode rnd _ _, ?_, sumV_rounded hf mode 0 0 _, fun h => ⟨mulV_nan h, ?_, fdiv_nan hf mode (.inl h)⟩,
      fun h => ⟨mulV_inf_zero h, ?_⟩, fun h => ⟨mulV_decode_inf h, ?_⟩, fmul_finite hf mode rnd, fun h => fdiv_nan hf mode (.inr h),
      fdiv_inf hf mode, fdiv_zero mode, fdiv_finite hf mode, fsqrt_nan hf mode, fsqrt_inf hf mode, fsqrt_zero hf mode hx,
      fsqrt_positive hf mode, fun mx => ⟨fminmax_right_nan mx, fminmax_left_nan mx, fun ha hb => ?_, fminmax_lt mx, fminmax_gt mx,
        fminmax_zero hf mx hx hy, fminmax_comm hf mx hx hy⟩, fun h cd => fcond_nan f cd h, fun ha hb cd => fcond_numbers f cd ha hb⟩
    · rw [← neg_eq_opposite]
      exact sumV_rounded hf mode rnd _ _
    · show round f mode false rnd (rsrBits f.w) (mulV (f.decode x) (f.decode y)) = _
      rw [mulV_nan h]
      exact hf.nan_eq
    · show round f mode false rnd (rsrBits f.w) (mulV (f.decode x) (f.decode y)) = _
      rw [mulV_inf_zero h]
      exact hf.nan_eq
    · show round f mode false rnd (rsrBits f.w) (mulV (f.decode x) (f.decode y)) = _
      rw [mulV_decode_inf h]
      exact hf.inf_eq _
    · exact (fminmax_both_nan mx ha hb).trans hf.nan_eq
  · simp only [combine, h, and_self]
  · refine ⟨fun hj => ⟨valAt_map2 (by decide) hj _ q v, ?_⟩, fun hj => valAt_map2 (by decide) hj _ q v, fun hs ht => accRead_value t q j _ rfl hs ht⟩
    exact (valAt_map2 (by decide) hj _ q v).trans (Nat.mod_mod _ _)

end Sys2Proof.Proofs
end
